-- ==== Sys2Proof/Word.lean ====
section
/-!
DEFINITION. Word types of the Plynvel 1100, the sparse table used wherever the spec gives a large array that is
mostly at its reset value, and the fields of the two 64-bit instruction words (00 R13, 02 R37, R54).
-/

namespace Sys2Proof

/-- A control-core register value, a constant, a payload word (05 R110). -/
abbrev Word := BitVec 64
/-- A byte of memory (00 R13). -/
abbrev Byte := BitVec 8
/-- A control-core register number, x0 to x31 (02 R44). -/
abbrev Reg := BitVec 5
/-- A token payload, or one 64-byte unit of memory (00 R13, 03 R73). -/
abbrev Unit64 := BitVec 512

/-- The fields of a rule word other than its opcode (01 R37): guard, operand codes, predicate update, dequeues and
emitted tag. `ca` and `cb` are the two 7-bit channel conditions `use, channel, tag-care, tag`. -/
structure Rule where
  pm : BitVec 8
  pv : BitVec 8
  ca : BitVec 7
  cb : BitVec 7
  dst : BitVec 6
  srcA : BitVec 6
  srcB : BitVec 6
  pu : BitVec 5
  dqa : BitVec 1
  dqb : BitVec 1
  et : BitVec 2
  deriving DecidableEq, Repr

/-- The fields of a memory-tile port word other than its operation (02 R54). -/
structure PortWord where
  port : BitVec 2
  ops : BitVec 56
  deriving DecidableEq, Repr

/-- A table by number, listed in rising order of its keys; a number that is not listed holds the default that the
reader names. -/
abbrev Tbl (α : Type) := List (Nat × α)

/-- What a table holds at a number. -/
def Tbl.get {α : Type} (d : α) : Tbl α → Nat → α
  | [], _ => d
  | (k, v) :: t, n => if n = k then v else Tbl.get d t n

/-- Write a table at a number. -/
def Tbl.set {α : Type} : Tbl α → Nat → α → Tbl α
  | [], n, x => [(n, x)]
  | (k, v) :: t, n, x =>
    if n = k then (n, x) :: t
    else if n < k then (n, x) :: (k, v) :: t
    else (k, v) :: Tbl.set t n x

/-- Write a table through a function of what it held. -/
def Tbl.upd {α : Type} (d : α) (m : Tbl α) (n : Nat) (f : α → α) : Tbl α := m.set n (f (m.get d n))

/-- The numbers listed. -/
def Tbl.keys {α : Type} (m : Tbl α) : List Nat := m.map (·.1)

/-- Element `n` of a fixed array; past its end, the default. -/
def vget {α : Type} {k : Nat} (d : α) (v : Vector α k) (n : Nat) : α := v.getD n d

/-- Write element `n` of a fixed array; past its end, no change. -/
def vset {α : Type} {k : Nat} (v : Vector α k) (n : Nat) (x : α) : Vector α k := v.setIfInBounds n x

/-- Bits `[lo + w - 1 : lo]` of a value (00 R13). -/
def bits {n : Nat} (x : BitVec n) (lo w : Nat) : BitVec w := x.extractLsb' lo w

/-- The same bits as a number. -/
def bitsN {n : Nat} (x : BitVec n) (lo w : Nat) : Nat := (x.extractLsb' lo w).toNat

/-- Bit `i` of a value. -/
def bitB {n : Nat} (x : BitVec n) (i : Nat) : Bool := x.getLsbD i

end Sys2Proof
end

