-- ==== Sys2Proof/Syntax.lean ====
section
/-!
DEFINITION. The instructions: one constructor for each row of the opcode table. Rows 0 to 55 are control-core words
(02 R44 to R47) with their operand fields; a rule word carries its fields (01 R37) and a port word its operands
(02 R54), and each belongs to the tile that State.focus names; an event names the unit, message or register it
concerns by number.
-/

namespace Sys2Proof

/-- The instructions and steps of the part, in the order of the opcode table, but for seven without operands, which stand
last. -/
inductive Instr where
  /-- ADD, R118. Control core adds two registers modulo 2^64 into xd. -/
  | add (d : BitVec 5) (a : BitVec 5) (b : BitVec 5)
  /-- SUB, R118. Control core subtracts xb from xa modulo 2^64 into xd. -/
  | sub (d : BitVec 5) (a : BitVec 5) (b : BitVec 5)
  /-- AND, R118. Control core bitwise AND of two registers. -/
  | and (d : BitVec 5) (a : BitVec 5) (b : BitVec 5)
  /-- OR, R118. Control core bitwise OR of two registers. -/
  | or (d : BitVec 5) (a : BitVec 5) (b : BitVec 5)
  /-- XOR, R118. Control core bitwise XOR of two registers. -/
  | xor (d : BitVec 5) (a : BitVec 5) (b : BitVec 5)
  /-- SLL, R118. Control core shifts xa left by xb[5:0]. -/
  | sll (d : BitVec 5) (a : BitVec 5) (b : BitVec 5)
  /-- SRL, R118. Control core shifts xa logically right by xb[5:0]. -/
  | srl (d : BitVec 5) (a : BitVec 5) (b : BitVec 5)
  /-- SRA, R118. Control core shifts xa arithmetically right by xb[5:0]. -/
  | sra (d : BitVec 5) (a : BitVec 5) (b : BitVec 5)
  /-- MUL, R118. Control core writes bits [63:0] of the product. -/
  | mul (d : BitVec 5) (a : BitVec 5) (b : BitVec 5)
  /-- MULH, R118. Control core writes bits [127:64] of the signed product. -/
  | mulh (d : BitVec 5) (a : BitVec 5) (b : BitVec 5)
  /-- DIVU, R118. Control core unsigned division, all ones on divide by zero. -/
  | divu (d : BitVec 5) (a : BitVec 5) (b : BitVec 5)
  /-- REMU, R118. Control core unsigned remainder, xa on divide by zero. -/
  | remu (d : BitVec 5) (a : BitVec 5) (b : BitVec 5)
  /-- SLT, R118. Control core signed set-less-than. -/
  | slt (d : BitVec 5) (a : BitVec 5) (b : BitVec 5)
  /-- SLTU, R118. Control core unsigned set-less-than. -/
  | sltu (d : BitVec 5) (a : BitVec 5) (b : BitVec 5)
  /-- MIN, R118. Control core signed minimum of two registers. -/
  | min (d : BitVec 5) (a : BitVec 5) (b : BitVec 5)
  /-- MAX, R118. Control core signed maximum of two registers. -/
  | max (d : BitVec 5) (a : BitVec 5) (b : BitVec 5)
  /-- ADDI, R118. Control core adds a sign-extended immediate. -/
  | addi (d : BitVec 5) (a : BitVec 5) (i : BitVec 16)
  /-- ANDI, R118. Control core ANDs a zero-extended immediate. -/
  | andi (d : BitVec 5) (a : BitVec 5) (i : BitVec 16)
  /-- ORI, R118. Control core ORs a zero-extended immediate. -/
  | ori (d : BitVec 5) (a : BitVec 5) (i : BitVec 16)
  /-- XORI, R118. Control core XORs a zero-extended immediate. -/
  | xori (d : BitVec 5) (a : BitVec 5) (i : BitVec 16)
  /-- SLLI, R118. Control core shifts left by an immediate amount. -/
  | slli (d : BitVec 5) (a : BitVec 5) (s : BitVec 6)
  /-- SRLI, R118. Control core shifts logically right by an immediate amount. -/
  | srli (d : BitVec 5) (a : BitVec 5) (s : BitVec 6)
  /-- SRAI, R118. Control core shifts arithmetically right by an immediate amount. -/
  | srai (d : BitVec 5) (a : BitVec 5) (s : BitVec 6)
  /-- LUI, R118. Control core loads imm16 × 0x1_0000 sign-extended from bit 31. -/
  | lui (d : BitVec 5) (i : BitVec 16)
  /-- LD, R120. Relaxed 64-bit load from the job's device-virtual space. -/
  | ld (d : BitVec 5) (a : BitVec 5) (i : BitVec 16)
  /-- ST, R120. Relaxed 64-bit store to the job's device-virtual space. -/
  | st (d : BitVec 5) (a : BitVec 5) (i : BitVec 16)
  /-- LDAQ, R120. 64-bit load that is an acquire at system scope. -/
  | ldaq (d : BitVec 5) (a : BitVec 5) (i : BitVec 16)
  /-- STRL, R120. 64-bit store that is a release at system scope. -/
  | strl (d : BitVec 5) (a : BitVec 5) (i : BitVec 16)
  /-- AMO, R121. Indivisible read-modify-write of a 64-bit word at a given scope, returning the old value. -/
  | amo (d : BitVec 5) (a : BitVec 5) (b : BitVec 5) (s : BitVec 3) (o : BitVec 4)
  /-- BEQ, R119. Branch if equal. -/
  | beq (a : BitVec 5) (b : BitVec 5) (o : BitVec 16)
  /-- BNE, R119. Branch if not equal. -/
  | bne (a : BitVec 5) (b : BitVec 5) (o : BitVec 16)
  /-- BLT, R119. Branch if less, signed. -/
  | blt (a : BitVec 5) (b : BitVec 5) (o : BitVec 16)
  /-- BGE, R119. Branch if greater or equal, signed. -/
  | bge (a : BitVec 5) (b : BitVec 5) (o : BitVec 16)
  /-- BLTU, R119. Branch if less, unsigned. -/
  | bltu (a : BitVec 5) (b : BitVec 5) (o : BitVec 16)
  /-- BGEU, R119. Branch if greater or equal, unsigned. -/
  | bgeu (a : BitVec 5) (b : BitVec 5) (o : BitVec 16)
  /-- JAL, R119. Jump with link into x31. -/
  | jal (o : BitVec 26)
  /-- JALR, R119. Jump to register plus offset, linking into xd. -/
  | jalr (d : BitVec 5) (a : BitVec 5) (i : BitVec 16)
  /-- CFGLD, R123. Brings a Tlaino image into the configuration caches of a rectangle and returns a configuration handle or a refusal. -/
  | cfgld (h : BitVec 5) (b : BitVec 5) (y : BitVec 4) (x : BitVec 5)
  /-- CFGSW, R126. Swaps a shadowed reach and a running reach on one rectangle through the ebb marker. -/
  | cfgsw (h : BitVec 5) (b : BitVec 5)
  /-- LAUNCH, R124. Submits a launch token as a device-side launch and returns a reach handle. -/
  | launch (h : BitVec 5) (b : BitVec 5) (a : BitVec 1) (s : BitVec 1)
  /-- SEED, R125. Sends one i32 seed token to a seed port of a reach. -/
  | seed (h : BitVec 5) (b : BitVec 5) (t : BitVec 2) (p : BitVec 3)
  /-- WAITC, R131. Blocks until a 64-bit signal satisfies a condition, completing with an acquire at job scope. -/
  | waitc (h : BitVec 5) (b : BitVec 5) (c : BitVec 2)
  /-- WAITA, R132. Arms a monitor entry on a line and optionally blocks until an entry of the context fires. -/
  | waita (h : BitVec 5) (b : BitVec 5) (f : BitVec 1)
  /-- FENCE, R122. Orders earlier accesses of the context before later ones at a scope. -/
  | fence (s : BitVec 3)
  /-- PUBLISH, R130. Releases at system scope, copies a publication window's region into its back image, swaps and writes the version word. -/
  | publish (h : BitVec 5) (b : BitVec 5) (w : BitVec 6)
  /-- GANG, R127. Releases an armed reach to start at a global tick. -/
  | gang (h : BitVec 5) (b : BitVec 5)
  /-- COLL_ENABLE, R128. Enables a collective node and sets its slot limit. -/
  | collEnable (h : BitVec 5) (b : BitVec 5) (n : BitVec 8)
  /-- COLL_QUERY, R128. Reads a collective node's state and count into cc.coll. -/
  | collQuery (h : BitVec 5) (b : BitVec 5) (n : BitVec 8)
  /-- COLL_ABORT, R128. Stops a collective node and reports cause 0x0E to its peers. -/
  | collAbort (h : BitVec 5) (b : BitVec 5) (n : BitVec 8)
  /-- PROGRD, R129. Returns the latest progress record of a progress counter. -/
  | progrd (h : BitVec 5) (b : BitVec 5) (c : BitVec 3) (y : BitVec 4) (x : BitVec 5)
  /-- PROGWR, R129. Sets or adds to a progress counter, landing between two rounds. -/
  | progwr (h : BitVec 5) (b : BitVec 5) (m : BitVec 1) (c : BitVec 3) (y : BitVec 4) (x : BitVec 5)
  /-- CSRRD, R134. Reads a control and status register into xd. -/
  | csrrd (d : BitVec 5) (i : BitVec 16)
  /-- CSRWR, R134. Writes a control and status register under its access codes. -/
  | csrwr (a : BitVec 5) (i : BitVec 16)
  /-- TRAP, R135. Takes a synchronous trap with cause 0x00 and the immediate in tp0. -/
  | trap (i : BitVec 16)
  /-- RETT, R114. Returns from a trap handler to cc.epc and clears INTR. -/
  | rett
  /-- IDLE, R133. Stops the context issuing until an asynchronous trap or a host restart. -/
  | idle
  /-- ILLEGAL_INSTRUCTION, R39. A fetched word that is not an instruction takes the illegal-instruction trap, cause 0x01. -/
  | illegalInstruction (w : BitVec 32)
  /-- INSTRUCTION_FETCH, R110. A context reads the 64-byte unit holding pc into its fetch buffer. -/
  | instructionFetch (c : Nat)
  /-- MEMORY_ACCESS_COMPLETE, R115. A blocked control-core load, store or atomic completes and the context becomes ready. -/
  | memoryAccessComplete (c n : Nat)
  /-- ASYNC_TRAP, R112. An event selected by the event-trap mask traps the bound context between instructions. -/
  | asyncTrap (c : Nat)
  /-- CONTEXT_RESTART, R110. The host restarts an idle or halted context at a start address. -/
  | contextRestart (c : Nat) (pc : Word)
  /-- WAITC_RECHECK, R131. The core re-reads a WAITC signal when its line is written or after 1,024 cycles. -/
  | waitcRecheck (c : Nat)
  /-- MONITOR_FIRE, R132. A write to an armed line fires its monitor entry and wakes a blocked WAITA. -/
  | monitorFire (core n : Nat)
  /-- LAUNCH_ACCEPT, R124. The launch sequencer accepts a device-side launch token and LAUNCH completes. -/
  | launchAccept (c : Nat)
  /-- SEED_DELIVER, R314. A blocked SEED enters its channel once the flood wave has crossed and a slot is free. -/
  | seedDeliver (c : Nat)
  /-- PROGWR_LAND, R129. A PROGWR write lands between two rounds of the counter's tile. -/
  | progwrLand (c : Nat)
  /-- GANG_START, R127. An armed reach fires its first round at the first cycle whose global tick reaches the GANG tick. -/
  | gangStart (reach : Nat)
  /-- RULE_NOP, R209. Compute-tile rule with no effect beyond its dequeues and predicate update. -/
  | ruleNop (r : Rule)
  /-- RULE_ADD, R183. Scalar add modulo 2^64. -/
  | ruleAdd (r : Rule)
  /-- RULE_SUB, R183. Scalar subtract modulo 2^64. -/
  | ruleSub (r : Rule)
  /-- RULE_MUL, R183. Scalar multiply, low 64 bits. -/
  | ruleMul (r : Rule)
  /-- RULE_AND, R183. Scalar bitwise AND. -/
  | ruleAnd (r : Rule)
  /-- RULE_OR, R183. Scalar bitwise OR. -/
  | ruleOr (r : Rule)
  /-- RULE_XOR, R183. Scalar bitwise XOR. -/
  | ruleXor (r : Rule)
  /-- SHL, R183. Scalar shift left by b[5:0]. -/
  | shl (r : Rule)
  /-- SHR, R183. Scalar logical shift right by b[5:0]. -/
  | shr (r : Rule)
  /-- SAR, R183. Scalar arithmetic shift right by b[5:0]. -/
  | sar (r : Rule)
  /-- RULE_MIN, R183. Scalar signed minimum. -/
  | ruleMin (r : Rule)
  /-- RULE_MAX, R183. Scalar signed maximum. -/
  | ruleMax (r : Rule)
  /-- CEQ, R183. Scalar compare equal, giving 1 or 0. -/
  | ceq (r : Rule)
  /-- CLT, R183. Scalar signed compare less. -/
  | clt (r : Rule)
  /-- CLTU, R183. Scalar unsigned compare less. -/
  | cltu (r : Rule)
  /-- SEL, R183. Scalar select of a or b by b1. -/
  | sel (r : Rule)
  /-- MOV, R183. Scalar move. -/
  | mov (r : Rule)
  /-- POPC, R183. Scalar population count. -/
  | popc (r : Rule)
  /-- VADD, R185. Lane-wise f32 addition. -/
  | vadd (r : Rule)
  /-- VSUB, R185. Lane-wise f32 subtraction. -/
  | vsub (r : Rule)
  /-- VMUL, R185. Lane-wise f32 multiplication. -/
  | vmul (r : Rule)
  /-- VFMA, R186. Lane-wise fused multiply-add into a vector register. -/
  | vfma (r : Rule)
  /-- VMAX, R185. Lane-wise maximum. -/
  | vmax (r : Rule)
  /-- VMIN, R185. Lane-wise minimum. -/
  | vmin (r : Rule)
  /-- VABS, R185. Lane-wise absolute value. -/
  | vabs (r : Rule)
  /-- VNEG, R185. Lane-wise negation. -/
  | vneg (r : Rule)
  /-- VEXP2, R185. Lane-wise 2^a on the special-function unit. -/
  | vexp2 (r : Rule)
  /-- VRCP, R185. Lane-wise reciprocal on the special-function unit. -/
  | vrcp (r : Rule)
  /-- VRSQ, R185. Lane-wise reciprocal square root on the special-function unit. -/
  | vrsq (r : Rule)
  /-- VCVT, R187. Converts a segment of lanes to a target format. -/
  | vcvt (r : Rule)
  /-- VSCALE, R189. Lane-wise scaling by a power of two. -/
  | vscale (r : Rule)
  /-- VSEL, R189. Lane-wise select by b1. -/
  | vsel (r : Rule)
  /-- VCMP, R189. Lane-wise three-way compare. -/
  | vcmp (r : Rule)
  /-- VRSUM, R191. Pairwise-tree sum of all lanes, broadcast to every lane. -/
  | vrsum (r : Rule)
  /-- VRMAX, R191. Pairwise-tree maximum of all lanes, broadcast to every lane. -/
  | vrmax (r : Rule)
  /-- VSHUF, R190. Permutes lanes by a rotation or an index vector. -/
  | vshuf (r : Rule)
  /-- VBCAST, R190. Broadcasts one lane to every lane of the destination. -/
  | vbcast (r : Rule)
  /-- VPACK, R188. Packs two operands into one of twice the lanes. -/
  | vpack (r : Rule)
  /-- VUNPK, R188. Unpacks one half of an operand into half the lanes. -/
  | vunpk (r : Rule)
  /-- VDOT, R191. Dot product with exact products and a pairwise tree. -/
  | vdot (r : Rule)
  /-- TOPK, R192. Merges candidates into a top-k ranking state. -/
  | topk (r : Rule)
  /-- VQNT, R193. Quantises a segment into a blocked token in the output's quantisation stage. -/
  | vqnt (r : Rule)
  /-- QUANT_GROUP_DRAIN, R194. A closed VQNT group emits its companion then its tokens as output slots allow. -/
  | quantGroupDrain (cell o : Nat)
  /-- SEND, R196. Forwards a channel token or emits a register value as a token. -/
  | send (r : Rule)
  /-- DROP, R197. Consumes the head token and emits nothing. -/
  | drop (r : Rule)
  /-- NUL, R197. Emits one null token. -/
  | nul (r : Rule)
  /-- SELT, R199. Merges two arms by a selector register. -/
  | selt (r : Rule)
  /-- GATE, R200. Loop exit gate pairing data and continue tokens. -/
  | gate (r : Rule)
  /-- STEER, R198. Sends a token to one arm and a null to the other. -/
  | steer (r : Rule)
  /-- JOIN, R201. Joins two tokens into one order token. -/
  | join (r : Rule)
  /-- RETAG, R196. Forwards the head token with a new tag. -/
  | retag (r : Rule)
  /-- KSTEP, R203. Steps a counter through its chain. -/
  | kstep (r : Rule)
  /-- KSET, R204. Writes a counter and zeroes counters chained into it. -/
  | kset (r : Rule)
  /-- KBND, R204. Sets a counter's bound and zeroes it. -/
  | kbnd (r : Rule)
  /-- KEND, R203. Ends a counter loop early as if it stepped onto its bound. -/
  | kend (r : Rule)
  /-- MCTL, R214. Queues a matrix control token in the node's command queue. -/
  | mctl (r : Rule)
  /-- SPL, R206. Spills a vector register to a spill slot. -/
  | spl (r : Rule)
  /-- FIL, R206. Fills a vector register from a spill slot. -/
  | fil (r : Rule)
  /-- SPILL_FETCH_DONE, R206. An overflow spill-slot fetch returns its content to the spill port. -/
  | spillFetchDone (cell : Nat)
  /-- PSIG, R207. Sends a predicate write to a tile of the same reach. -/
  | psig (r : Rule)
  /-- BARA, R208. Arrives at a barrier object from a compute tile. -/
  | bara (r : Rule)
  /-- TRAPT, R209. Writes a software-trap event with cause 0x00 and runs on. -/
  | trapt (r : Rule)
  /-- HLT, R209. Stops the tile's rounds after this one. -/
  | hlt (r : Rule)
  /-- LIVELOCK_EVENT, R173. A rule's consecutive abort count reaches 1,024 and writes cause 0x09. -/
  | livelockEvent (cell kind idx : Nat)
  /-- PARITY_FREEZE, R53. A rule or port word failing parity freezes the tile and raises cause 0x0F. -/
  | parityFreeze (cell kind idx : Nat)
  /-- MMA, R217. Matrix node starts a multiply-accumulate of the A and B streams into a bank. -/
  | mma (cell : Nat) (w : Word)
  /-- MMA_GROUP, R219. The node accumulates one K-group once all its elements are held. -/
  | mmaGroup (cell : Nat)
  /-- MDRN, R218. Matrix node starts draining bank rows into tokens. -/
  | mdrn (cell : Nat) (w : Word)
  /-- MCLR, R218. Matrix node clears a bank and sets its mode. -/
  | mclr (cell : Nat) (w : Word)
  /-- MSWP, R218. Matrix node exchanges banks m0 and m1. -/
  | mswp (cell : Nat) (w : Word)
  /-- MLDC, R218. Matrix node starts loading bank rows from an input channel. -/
  | mldc (cell : Nat) (w : Word)
  /-- AG_NOP, R230. Address-generator rule with no effect beyond its dequeues and predicate update. -/
  | agNop (r : Rule)
  /-- ISSR, R231. Issues one read request on a template. -/
  | issr (r : Rule)
  /-- ISSW, R232. Issues one write of the data channel's head on a template. -/
  | issw (r : Rule)
  /-- GATR, R231. Issues one gather read at an index. -/
  | gatr (r : Rule)
  /-- SCTW, R232. Issues one scatter write at an index. -/
  | sctw (r : Rule)
  /-- CPY, R233. Copies one unit from read template g to write template g+1. -/
  | cpy (r : Rule)
  /-- S2S, R233. Sends the data channel's head unchanged to a stream endpoint. -/
  | s2s (r : Rule)
  /-- LDSY, R231. Issues a synchronising read through a full/empty port. -/
  | ldsy (r : Rule)
  /-- ATOM, R234. Issues an atomic on a 64-bit word, chained by order tokens. -/
  | atom (r : Rule)
  /-- RELS, R235. Closes the current write phase and sends counts to its destinations. -/
  | rels (r : Rule)
  /-- ACQ, R236. Waits for every earlier read of the tile and blocks later requests. -/
  | acq (r : Rule)
  /-- MARK, R237. Sets a template's MARK0. -/
  | mark (r : Rule)
  /-- TBASE, R237. Sets a template's runtime base. -/
  | tbase (r : Rule)
  /-- WPT, R237. Delivers the mirror of the home port's write pointer. -/
  | wpt (r : Rule)
  /-- AG_KSTEP, R230. Steps an address-generator counter through its chain. -/
  | agKstep (r : Rule)
  /-- AG_KSET, R230. Writes an address-generator counter, storing bound minus 1 without flag when too large. -/
  | agKset (r : Rule)
  /-- AG_KBND, R230. Sets an address-generator counter's bound and zeroes it. -/
  | agKbnd (r : Rule)
  /-- AG_HLT, R230. Stops the address generator's rounds while queued requests complete. -/
  | agHlt (r : Rule)
  /-- READ_DELIVER, R228. A read response is delivered to its stream in issue order and frees its queue slot. -/
  | readDeliver (cell g : Nat)
  /-- RELS_DONE, R235. Every destination's count for a phase matches and RELS emits its order token. -/
  | relsDone (cell : Nat)
  /-- ACQ_DONE, R236. Every earlier read has delivered and ACQ emits its order token. -/
  | acqDone (cell : Nat)
  /-- ATOM_PERFORMED, R292. An atomic is performed at its place and its order token is emitted with the old value. -/
  | atomPerformed (cell n : Nat)
  /-- PHASE_COUNT, R294. A RELS count message reaches a port or HBM controller and completes its pair when matched. -/
  | phaseCount (n : Nat)
  /-- HBM_REQUEST, R254. An HBM controller serves a request, reckoning slack from the carried value. -/
  | hbmRequest (stack : Nat)
  /-- PBIND, R238. Gives a memory-tile port the plain-window role. -/
  | pbind (p : PortWord)
  /-- PFIFO, R238. Gives a port the FIFO role. -/
  | pfifo (p : PortWord)
  /-- PRDX, R238. Gives a port the reduction role. -/
  | prdx (p : PortWord)
  /-- PFE, R241. Adds full/empty bits to a plain-window port. -/
  | pfe (p : PortWord)
  /-- PWPX, R242. Makes a plain-window port a copy channel with a write pointer. -/
  | pwpx (p : PortWord)
  /-- PSPU, R238. Gives a port the sparse-update role. -/
  | pspu (p : PortWord)
  /-- PORD, R247. Sets ordered or unordered mode of a sparse-update port. -/
  | pord (p : PortWord)
  /-- PBAR, R238. Gives a port the barrier-area role, optionally zeroing objects. -/
  | pbar (p : PortWord)
  /-- PSPL, R245. Sets the compute tile's spill overflow pointer. -/
  | pspl (p : PortWord)
  /-- PCNT, R243. Adds a unit count that sends an order token at COUNT. -/
  | pcnt (p : PortWord)
  /-- PCLR, R238. Clears selected state of a port. -/
  | pclr (p : PortWord)
  /-- PNUL, R239. Gives a port the null role. -/
  | pnul (p : PortWord)
  /-- PORT_REQUEST, R239. A request reaches a memory-tile port and is served by its role. -/
  | portRequest (cell port : Nat)
  /-- ROUTE_TOKEN_AT_PORT, R239. A token arrives at a port by route and is enqueued, merged or discarded by role. -/
  | routeTokenAtPort (cell : Nat)
  /-- PORT_CONTROL_TOKEN, R240. A vchan 31 token makes the port carry out a port-table entry. -/
  | portControlToken (cell : Nat)
  /-- FIFO_SEND, R239. A FIFO port sends its oldest token on its outbound route as room allows. -/
  | fifoSend (cell port : Nat)
  /-- LDSY_RELEASE, R241. A waiting LDSY is served once its unit is full. -/
  | ldsyRelease (cell port n : Nat)
  /-- BARRIER_ARRIVAL, R287. A BARA arrival reaches the object's memory tile and is counted. -/
  | barrierArrival (n : Nat)
  /-- BARRIER_REPLY, R287. A reply reaches the arriving tile's window entry. -/
  | barrierReply (n : Nat)
  /-- BARRIER_ADVANCE, R287. An advance message raises a tile's GENK. -/
  | barrierAdvance (n : Nat)
  /-- BARRIER_RELEASE, R287. A release sets the waiter predicate, normal or broken. -/
  | barrierRelease (n : Nat)
  /-- BARRIER_RESET, R287. A reset message drops the tile's window entry. -/
  | barrierReset (n : Nat)
  /-- PSIG_APPLY, R282. A predicate write from the inbound queue is applied at a round boundary. -/
  | psigApply (cell kind n : Nat)
  /-- TOKEN_ARRIVAL, R161. A token arrives on a tile's input channel. -/
  | tokenArrival (cell kind : Nat)
  /-- SWITCH_HOP, R151. A packet is routed through a switch towards its destination. -/
  | switchHop (cell port link : Nat)
  /-- BREAKWATER_RECORD, R155. A pending drop record closes after 1,024 cycles and writes cause 0x07. -/
  | breakwaterRecord (cell port : Nat)
  /-- SKERRY_KERNEL, R315. A matching packet runs a skerry kernel. -/
  | skerryKernel (cell : Nat)
  /-- PROGRESS_BROADCAST, R250. Every 64 cycles a cell broadcasts a progress record for each progress counter. -/
  | progressBroadcast (cell : Nat)
  /-- PACE_UPDATE, R251. Every 256 cycles each progress counter's pace is updated. -/
  | paceUpdate (cell : Nat)
  /-- PROGRESS_RECORD_ARRIVAL, R263. A progress record reaches an arbiter and is applied before its decision, possibly making transfers late. -/
  | progressRecordArrival (n : Nat)
  /-- HOLD_RELEASE, R258. A request held for HOLDMAX cycles is released and counted in HOLDREL. -/
  | holdRelease (cell g : Nat)
  /-- SLACK_WATER_EVENT, R72. A quiescent interval reaches the threshold and writes cause 0x06. -/
  | slackWaterEvent (reach : Nat)
  /-- WATCHDOG, R343. A reach live for WDLIM µs writes cause 0x10. -/
  | watchdog (reach : Nat)
  /-- LAUNCH_TOKEN_SUBMIT, R138. A host write covering offset 0x038 submits the staging slot to a queue. -/
  | launchTokenSubmit (job q : Nat) (v : Word)
  /-- SEED_INGRESS, R140. A host write to a queue's SEED word sends or holds a seed. -/
  | seedIngress (job q n t : Nat) (v : Word)
  /-- INGRESS_WINDOW_WRITE, R309. A host write to an ingress window body is applied and raises an order token. -/
  | ingressWindowWrite (job c off len : Nat) (v : Unit64)
  /-- DEPENDENCE_POLL, R139. The sequencer rereads a dependence signal on a line write or after 1,024 cycles. -/
  | dependencePoll (l : Nat)
  /-- ADMIT, R139. The sequencer admits a launch whose five conditions hold. -/
  | admitLaunch (l : Nat)
  /-- CONFIG_LOAD_DONE, R40. The configuration loader finishes checking an image, caching it or refusing it. -/
  | configLoadDone (l : Nat)
  /-- FLOOD_WAVE_CROSSED, R143. Every tile has acted on the flood marker and held seeds are delivered. -/
  | floodWaveCrossed (reach : Nat)
  /-- REACH_COMPLETE, R143. Every tile has halted with nothing outstanding; the slot is freed and the signal written. -/
  | reachComplete (reach : Nat)
  /-- WALK_COMPLETE, R270. A page walk ends in a translation or a fault. -/
  | walkComplete (n : Nat)
  /-- FAULT_RESUME, R347. Host writes ACTION RESUME to retranslate the faulting request. -/
  | faultResume (job slot : Nat) (gen : BitVec 16)
  /-- FAULT_KILL, R347. Host writes ACTION KILL to tear down the reach of the slot. -/
  | faultKill (job slot : Nat) (gen : BitVec 16)
  /-- MOVE_UP, R274. The undertow engine brings a host page into HBM for a tier miss. -/
  | moveUp
  /-- PAGE_MOVE_DONE, R274. A page reaches TIER 00 and withheld requests resume. -/
  | pageMoveDone
  /-- TIER_TIMEOUT, R274. A tier miss waits TIERTO and writes cause 0x0D. -/
  | tierTimeout (n : Nat)
  /-- DOWN, R277. TIERCMD command moving the job's resident tier-range pages down. -/
  | down (job : Nat)
  /-- UP, R277. TIERCMD command moving the job's host tier-range pages up. -/
  | up (job : Nat)
  /-- WSCLR, R277. TIERCMD command emptying the working-set record. -/
  | wsclr (job : Nat)
  /-- TLBINV, R273. Host starts an invalidation of a page or of every page of the job. -/
  | tlbinv (job : Nat) (v : Word)
  /-- TLBINV_DONE, R273. All matching entries are dropped and requests through them applied; BUSY clears. -/
  | tlbinvDone (job : Nat)
  /-- STACK_CONTROL_WRITE, R266. A write of a stack's HMASK and QUIESCE, with HMASK taken only when IDLE. -/
  | stackControlWrite (stack : Nat) (v : Word)
  /-- PCCLR, R280. Writing 1 zeroes all PCREQ counters of a stack. -/
  | pcclr (stack : Nat) (v : Word)
  /-- PARTITION_WRITE, R146. A partition entry write is checked and applied whole or refused. -/
  | partitionWrite (job : Nat) (v : Word)
  /-- PARTITION_CLEAR_DONE, R147. Cells leaving a partition finish clearing and the partition write completes. -/
  | partitionClearDone
  /-- ISLAND_WRITE, R157. A write of an island's frequency and voltage starts a transition. -/
  | islandWrite (cell : Nat) (v : Word)
  /-- ISLAND_TRANSITION_DONE, R157. An island transition ends and the cell resumes. -/
  | islandTransitionDone (cell : Nat)
  /-- EBB_MARKER, R350. An ebb marker reaches a tile's input and stops it, saving it once all inputs are reached. -/
  | ebbMarker (cell kind ch : Nat)
  /-- INGRESS_STOP, R349. The sequencer stops an ingress point, which emits the ebb marker. -/
  | ingressStop (reach cell kind : Nat)
  /-- SAVE, R355. JOBCTL command pre-empting every running reach of a job. -/
  | save (job : Nat)
  /-- RESTORE, R355. JOBCTL command restoring every saved reach of a job. -/
  | restore (job : Nat)
  /-- REACH_TEARDOWN, R364. REACHTD GO tears down a reach and writes its cancelled signal. -/
  | reachTeardown (job : Nat) (v : Word)
  /-- QUEUE_TEARDOWN, R365. QTD GO tears down a queue and cancels its tokens. -/
  | queueTeardown (job : Nat) (v : Word)
  /-- COLLECTIVE_TRIGGER, R329. A token at i7 starts a collective operation. -/
  | collectiveTrigger (cell : Nat)
  /-- COLLECTIVE_UNIT, R331. A collective unit arrives and is combined in tree-position order. -/
  | collectiveUnit (node from_ u : Nat) (v : Unit64)
  /-- COLLECTIVE_DONE, R329. The last write of an operation is applied and the node emits its done token. -/
  | collectiveDone (cell : Nat)
  /-- COLLECTIVE_ABORT, R334. An abort stops the node, is passed along the tree and writes cause 0x0E. -/
  | collectiveAbort (node rank why : Nat)
  /-- PIN_RELEASE, R334. Pinned pages are released on every ack or 1 ms after the abort. -/
  | pinRelease (node : Nat)
  /-- ENGINE_COMMAND, R335. A copy or quantise command runs on a shared engine or as a fallback kernel. -/
  | engineCommand (node : Nat) (fallback : Bool)
  /-- RDIDX_WRITE, R362. Writing RDIDX clears IRQPEND and resends vector 0 if needed. -/
  | rdidxWrite (job : Nat) (v : BitVec 32)
  /-- FLR, R356. Function-level reset clears a job completely. -/
  | flr (job : Nat)
  /-- REGISTER_WRITE, R15. A write to a register with no behaviour of its own under the access codes. -/
  | registerWrite (fn off : Nat) (v : Word)
  /-- CONTEXT_START, R108. The host starts a free control-core context at a start address. -/
  | contextStart (c job : Nat) (pc : Word)
  /-- HOLD_ADOPT, R258. An address generator adopts a newly written HOLD value at some cycle within 256 cycles of the write. -/
  | holdAdopt (cell : Nat)
  /-- ISSUE_STAGE_DECISION, R257. The issue stage of an address generator serves one queued request that is not held, by class and slack. -/
  | issueStageDecision (cell : Nat)
  /-- BANK_PORT_MOVE, R219. The matrix node's bank port moves one token per cycle for a running MDRN or MLDC, completing the command on the last token. -/
  | bankPortMove (cell : Nat)
  /-- COLLECTIVE_SLOT_END, R332. A collective node's tide slot runs out and its shadow configuration stops issuing. -/
  | collectiveSlotEnd (cell : Nat)
  /-- SAVE_IMAGE_VALID, R354. A save image finishes streaming out, its STATE becomes 01 and its reach turns shadowed again. -/
  | saveImageValid (reach : Nat)
  /-- PUBLICATION_SWAP, R310. A PUBLISH finishes copying into the back image, swaps the images, sets VERSION and writes the version word. -/
  | publicationSwap (job w : Nat)
  /-- POWER_CHECK, R373. At each ms boundary islands step down or up against PLIM. -/
  | powerCheck
  /-- TIDE_SLOT_GRANT, R332. Every 256 cycles the tide sequencer grants slots to eligible collective nodes. -/
  | tideSlotGrant
  /-- ATTESTATION_REPORT, R372. Mailbox operation 1 writes a signed attestation report. -/
  | attestationReport
  /-- IDENTITY_CERTIFICATE, R372. Mailbox operation 2 returns the identity certificate. -/
  | identityCertificate
  /-- VF_ENABLE_CLEAR, R358. Clearing VF Enable resets each enabled virtual function in order. -/
  | vfEnableClear
  /-- WARM_RESET, R375. Warm reset resets every virtual function and the physical function's registers. -/
  | warmReset
  /-- COLD_RESET, R374. Cold reset sets every register, retrains links and verifies firmware. -/
  | coldReset
  deriving DecidableEq, Repr

end Sys2Proof
end

