-- ==== Sys2Proof/Machine/State.lean ====
section
/-!
DEFINITION. The state of the Plynvel 1100: everything the spec gives the machine, as plain data. INVENTORY.md lists it
with the rule that names each part and its reset value. Numbers of cells, contexts, jobs, ports and rules are Nat;
register contents, addresses in tokens and encoded fields are bit vectors. A large array that is mostly at reset is a
Tbl.
-/

namespace Sys2Proof.Machine

/-! ## Tokens and packets (03 R73, 19 R316) -/

/-- Token kinds (03 R73). -/
inductive TokKind where
  | data | null | order | marker
  deriving DecidableEq, Repr

/-- A token: payload and the 12 sideband bits (03 R73). -/
structure Token where
  kind : TokKind
  fmt : BitVec 3
  vchan : BitVec 5
  tag : BitVec 2
  payload : Unit64
  deriving DecidableEq, Repr

/-- Which transfer of an address generator a packet completes when it enters its channel (12 R260). -/
structure XferRef where
  cell : Nat
  g : Nat
  reqno : Nat
  deriving DecidableEq, Repr

/-- A packet: a token and the header of 19 R316. `srck` and `dstk` hold the tile kind in [1:0] and the channel in
[4:2]. `inport` and `since` are kept by the switch that holds the packet, `ran` says that its kernel has run there,
`out` is a port the kernel chose, and `link` the seam link of its route (07 R154). -/
structure Packet where
  tok : Token
  src : BitVec 9
  srck : BitVec 5
  dst : BitVec 9
  dstk : BitVec 5
  cls : BitVec 3
  marked : Bool
  mark : BitVec 32
  mctr : BitVec 12
  job : Nat
  reach : Nat
  cpos : BitVec 2
  cseq : BitVec 24
  link : Nat
  inport : Nat
  since : Nat
  ran : Bool
  out : Option Nat
  xfer : Option XferRef
  deriving DecidableEq, Repr

/-- A configured route, with its absolute destination (02 R62, 07 R148). -/
structure Route where
  dst : Nat
  dkind : Nat
  chan : Nat
  cls : BitVec 3
  vchan : BitVec 5
  bnd : Bool
  scope : BitVec 3
  link : Nat
  deriving DecidableEq, Repr

/-! ## Compute tiles (08, 09, 10) -/

/-- A vector register: payload, format tag and the four companion pairs of an e2m1x value (04 R99). -/
structure VReg where
  bits : Unit64
  tag : BitVec 3
  pairs : BitVec 64
  deriving DecidableEq, Repr

/-- An entry of the back-reference history; a nullified result is null (08 R168). -/
structure Hist where
  null : Bool
  val : VReg
  deriving DecidableEq, Repr

/-- A counter with its descriptor (02 R62), its pace and the increase of the running window (12 R251), and what its
next progress record needs (12 R253). -/
structure Counter where
  val : BitVec 32
  bound : BitVec 32
  chain : BitVec 3
  chainEn : Bool
  prog : Bool
  hint : BitVec 16
  pace : BitVec 16
  delta : Nat
  changed : Bool
  starved : Bool
  deriving DecidableEq, Repr

/-- A virtual-channel entry (02 R61). -/
structure VChan where
  fmt : BitVec 3
  block : Bool
  comp : BitVec 5
  compPresent : Bool
  deriving DecidableEq, Repr

/-- The companion stage and position counter of a blocked binding (04 R93). -/
structure Companion where
  chan : BitVec 5
  stage : List Unit64
  pos : Nat
  deriving DecidableEq, Repr

/-- The quantisation stage of a VQNT output (09 R193, R194): the partial token, the next segment, the group, its
pairs, the count of its data tokens, and what is left to drain (the companion first). -/
structure Quant where
  partTok : Unit64
  partNull : Bool
  seg : Nat
  partPairs : List (Byte × Byte)
  group : List Token
  pairs : List (Byte × Byte)
  count : Nat
  comp : Option Token
  compOut : Nat
  drain : List Token
  deriving DecidableEq, Repr

/-- A spill slot's content (09 R205). -/
structure SpillSlot where
  slot : Nat
  val : VReg
  deriving DecidableEq, Repr

/-- A barrier window entry (16 R286). `refused` says that a refused reply has come while a wait is pending (R287). -/
structure Window where
  obj : Word
  valid : Bool
  cur : Option (BitVec 32)
  genk : BitVec 32
  inflight : Bool
  waitp : Bool
  w : BitVec 3
  refused : Bool
  used : Nat
  deriving DecidableEq, Repr

/-- A predicate write waiting in a tile's inbound queue (09 R207, 16 R282). A memory tile's number as a sender is 512 plus its cell. -/
structure Inbound where
  sender : Nat
  pred : BitVec 3
  val : Bool
  deriving DecidableEq, Repr

/-- An operand element held in the matrix node's operand store (10 R217, R361): its format, its bits, its companion
pair where blocked, and whether it comes from a null or order token, so that its products are exactly +0. -/
structure Elem where
  fmt : BitVec 3
  bits : BitVec 32
  pair : Option (Byte × Byte)
  zero : Bool
  deriving DecidableEq, Repr

/-- A queued or running matrix command: its control token and its progress (10 R216, R222). `aTok`, `bTok` count the
tokens taken, `k` the steps (or, for the bank port, the elements) done, `kEnd` the K of a KTAG operation once known,
and `trapped` that its arithmetic event has been written (R220). -/
structure Cmd where
  tok : Word
  started : Bool
  aTok : Nat
  bTok : Nat
  aEl : List Elem
  bEl : List Elem
  k : Nat
  kEnd : Option Nat
  trapped : Bool
  deriving DecidableEq, Repr

/-- The matrix node of a set (10 R211, R212, R223). Element (r, c) of a bank is number 96 r + c. -/
structure Node where
  bank0 : Tbl (BitVec 32)
  bank1 : Tbl (BitVec 32)
  mode0 : Bool
  mode1 : Bool
  queue : List Cmd
  done : Nat
  groups : Nat
  frozen : Bool
  deriving DecidableEq, Repr

/-- Where a tile's set stands: not configured, configured but not started, running its rounds, halted by HLT, stopped
by the ebb marker, or saved (08 R160, 21 R350). -/
inductive Run where
  | off | waiting | running | halted | stopped | saved
  deriving DecidableEq, Repr

/-- The issue state that compute and address-generator sets share (08 R160 to R175). `sel` is what is left of the
round's list, `roundAt` the island cycle of the last round, `before` where it stood when the ebb marker
stopped it, `emitted` that it has sent its own markers, `reached` and `fed` the input channels the marker has reached and
those something feeds, `wave` the wave buffers (21 R350), `livelock` the rules whose event R173 is due. -/
structure Issue where
  reach : Nat
  run : Run
  frozen : Bool
  pool : Vector Word 16
  valid : BitVec 16
  consts : Vector Word 16
  ctr : Vector Counter 8
  routes : Vector (Option Route) 8
  preds : BitVec 8
  age : Vector Nat 16
  runs : Vector Nat 16
  conf : Vector (BitVec 16) 16
  held : BitVec 16
  fired : BitVec 16
  aborted : BitVec 16
  rounds : Nat
  lrule : Nat
  lreason : Nat
  sel : List Nat
  roundAt : Nat
  livelock : List (Nat × Nat)
  chans : Vector (List Packet) 8
  wave : Vector (List Packet) 8
  reached : BitVec 8
  fed : BitVec 8
  before : Run
  emitted : Bool
  inb : List Inbound
  deriving DecidableEq, Repr

/-- A fault slot (21 R345). -/
structure FSlot where
  cause : BitVec 8
  isOpen : Bool
  tmpl : BitVec 2
  acc : BitVec 3
  unit : BitVec 12
  fcode : BitVec 6
  gen : BitVec 16
  addr : Word
  reqno : BitVec 32
  issued : BitVec 32
  delivered : BitVec 32
  withheld : BitVec 16
  wp : BitVec 32
  kv : Vector (BitVec 32) 8
  cell : Nat
  reqId : Nat
  deriving DecidableEq, Repr

/-- Why a template, a spill port or a collective node is frozen: an open fault slot; a fault that waits for a free slot, with what the
slot will show and its code; or a tier miss (21 R344, R345, R348). -/
inductive Freeze where
  | slot (n : Nat)
  | unrecorded (code : Nat) (f : FSlot)
  | tier
  deriving DecidableEq, Repr

/-- One set of a compute tile (08 R175). `spillOut` is the address of the overflow transfer that stands at its stack, `spillSlot` the fault slot that its spill port
holds open (11 R245, 21 R345). -/
structure CSet where
  iss : Issue
  vch : Vector VChan 32
  rmode : BitVec 3
  sat : Bool
  s : Vector Word 16
  v : Vector VReg 8
  ks : Vector Nat 4
  hist : List Hist
  newHist : List Hist
  flags : BitVec 3
  trapEn : BitVec 3
  comp : List Companion
  quant : Vector Quant 8
  spill : Nat
  spillWritten : List Nat
  spillBuf : List SpillSlot
  spillWant : Option Nat
  spillOut : Option Nat
  spillGot : Option SpillSlot
  spillFrz : Option Freeze
  spillSlot : Option Nat
  win : Vector Window 4
  firstRecord : Bool
  nextRecord : Nat
  nextPace : Nat
  node : Node
  deriving DecidableEq, Repr

/-! ## Address generators (11, 12) -/

/-- Address spaces of a template (02 R63). -/
inductive Space where
  | sram | virt | stream
  deriving DecidableEq, Repr

/-- A template (02 R63), with what it changes while it runs: runtime base, MARK0, request number, the counts of R345,
and its mirror of the home port's write pointer (11 R237). `frozen` names its faulting requests. -/
structure Template where
  valid : Bool
  write : Bool
  space : Space
  fmt : BitVec 3
  vchan : BitVec 5
  cls : BitVec 3
  phase : BitVec 2
  baseq : Nat
  runtime : Bool
  rbase : Word
  marked : Bool
  homeCell : Nat
  homePort : Nat
  hasStream : Bool
  dst : Nat
  dkind : Nat
  chan : Nat
  link : Nat
  stride : Vector (BitVec 32) 8
  mcell : Nat
  mctr : Nat
  mark0 : BitVec 32
  mstep : Vector (BitVec 16) 8
  reqno : BitVec 32
  issued : BitVec 32
  delivered : BitVec 32
  mirror : BitVec 32
  frozen : List (Nat × Freeze)
  deriving DecidableEq, Repr

/-- What a request does (11 R230 to R236). -/
inductive ReqKind where
  | read
  | write
  | cpy
  | s2s
  | ldsy (clear : Bool)
  | atom (op : BitVec 4) (scope : BitVec 3) (out : Nat) (et : BitVec 2)
  | nullRead
  deriving DecidableEq, Repr

/-- Where a request stands: in the queue, waiting for a walk, waiting with a frozen template, at its place, a CPY write
at its place, or answered. -/
inductive ReqStage where
  | queued | walking | faulted | tier | placed | cpyWrite | answered
  deriving DecidableEq, Repr

/-- A request of an address generator. `kv` are the counter values of R227, `waddr` and `wg` the write half of a CPY
pair, `seq` its reduce-store sequence (R246), `after` an ACQ it must wait for (R236), `heldFor` and `heldSeen` its hold
(R258), `ans` its answer, and `heldBy` the faulting request it is held with, 0 for none (22 R360). -/
structure Req where
  id : Nat
  g : Nat
  kind : ReqKind
  space : Space
  addr : Nat
  waddr : Nat
  wg : Nat
  marked : Bool
  mark : BitVec 32
  wmark : BitVec 32
  cls : BitVec 3
  tag : BitVec 2
  tok : Token
  reqno : BitVec 32
  kv : Vector (BitVec 32) 8
  phase : BitVec 2
  counted : Bool
  seq : Option (BitVec 32)
  stage : ReqStage
  after : Nat
  held : Nat
  heldSeen : Bool
  unheld : Bool
  ans : Option Token
  heldBy : Nat
  deriving DecidableEq, Repr

/-- A marked transfer not yet complete, and, once late, the value and cycle at detection (12 R261). -/
structure Xfer where
  g : Nat
  reqno : BitVec 32
  mark : BitVec 32
  mcell : Nat
  mctr : Nat
  isWrite : Bool
  late : Option (BitVec 32 × Nat)
  deriving DecidableEq, Repr

/-- A phase of an address generator whose order token has not left: where its writes went, and the RELS that closed it, with its
place in the order of acceptance (11 R235, 12 R257). A destination is numbered 4 × cell + port for a memory-tile port and 4096 + stack for an HBM controller. -/
structure Phase where
  p : BitVec 2
  dests : List (Nat × Nat)
  total : Nat
  closed : Bool
  sent : Bool
  out : Nat
  et : BitVec 2
  since : Nat
  ackd : List Nat
  deriving DecidableEq, Repr

/-- A pending ACQ (11 R236): the reads it waits for, its output, tag and scope, and whether the issue stage has served it
(12 R257). -/
structure Acq where
  id : Nat
  reads : List Nat
  out : Nat
  et : BitVec 2
  scope : BitVec 3
  served : Bool
  deriving DecidableEq, Repr

/-- Deficit round-robin state of an arbiter (12 R255): the class whose turn it is in each group, and D[c]. -/
structure Arb where
  cur : Vector Nat 3
  d : Vector Nat 8
  deriving DecidableEq, Repr

/-- One set of an address generator (08 R175, 11). -/
structure ASet where
  iss : Issue
  tm : Vector Template 4
  q : List Req
  nextId : Nat
  phase : BitVec 2
  phases : List Phase
  seq : Nat
  acqs : List Acq
  xfers : List Xfer
  deriving DecidableEq, Repr

/-- A cached translation: job, page address, page size and the leaf entry (14 R272). -/
structure TlbEnt where
  job : Nat
  page : Nat
  size : Nat
  pte : Word
  deriving DecidableEq, Repr

/-! ## Memory tiles (11, 16) -/

/-- A request at a place that serves it: a memory-tile port or an HBM controller. `slack` is the slack it carries from
cycle `sent` (12 R254), `since` the cycle it became the head of its queue. -/
structure Placed where
  cell : Nat
  id : Nat
  write : Bool
  addr : Nat
  cls : BitVec 3
  marked : Bool
  mark : BitVec 32
  mctr : BitVec 12
  slack : Nat
  sent : Nat
  since : Nat
  deriving DecidableEq, Repr

/-- The reduce-stores of one unit in a sparse-update window, oldest first (11 R247): their tokens and their requests. -/
structure SpuEnt where
  off : Nat
  toks : List Token
  reqs : List Placed
  deriving DecidableEq, Repr

/-- A port of a memory tile (11 R238 to R248). `role` is the port operation's code, 0 for none; `stopped`: a reduction stands at an
uncorrectable unit (14 R279). -/
structure MPort where
  role : Nat
  off : Nat
  len : Nat
  acc : BitVec 2
  op : BitVec 4
  fmt : BitVec 3
  emit : Bool
  fe : Bool
  feOff : Nat
  feLen : Nat
  feInit : Bool
  feBits : Tbl Bool
  wpx : Bool
  wpOff : Nat
  wpLen : Nat
  wtag : BitVec 5
  push : Bool
  wp : Nat
  reorder : List (Nat × Unit64 × Placed)
  pushq : Option Nat
  ord : Bool
  cntTarget : BitVec 32
  cntTag : BitVec 5
  cnt : BitVec 32
  dup : BitVec 32
  accept : Word
  refused : BitVec 32
  frozen : Bool
  stopped : Bool
  discardSeen : Bool
  fifo : List Packet
  ldsy : List Placed
  q : List Placed
  spu : List SpuEnt
  outq : List Token
  reached : Bool
  deriving DecidableEq, Repr

/-- An entry of a memory tile's barrier table (16 R287); each set of a compute tile has its own. -/
structure BarEnt where
  tile : Nat
  reach : Nat
  obj : Nat
  gw : BitVec 32
  wait : Option (BitVec 32 × BitVec 3)
  deriving DecidableEq, Repr

/-- What a memory tile that has been swapped out keeps of its barrier areas: the bytes of their objects, the entries, and the
objects whose event of reason 4 has been written (21 R351). -/
structure BarSave where
  bytes : List Host.Cell
  ents : List BarEnt
  refused : List Nat
  deriving DecidableEq, Repr

/-- One configuration of a memory tile. `frozen` says that a word of its port table has failed parity (02 R53), `kept` is what it keeps of its barrier areas while it does not stand in the active half. -/
structure MSet where
  reach : Nat
  run : Run
  table : Vector Word 8
  valid : BitVec 8
  routes : Vector (Option Route) 4
  ports : Vector MPort 4
  page : BitVec 40
  npage : BitVec 16
  frozen : Bool
  kept : Option BarSave
  deriving DecidableEq, Repr

/-- A high-water mark: port, reach number, source tile, and the mark, none before the first store (11 R246). -/
structure Hwm where
  port : Nat
  reach : Nat
  src : Nat
  mark : BitVec 32
  deriving DecidableEq, Repr

/-- Messages of the control network that concern barriers (16 R287). `tile` is the compute tile's cell and `reach` the reach of
its set, `mem` the memory tile's cell; `obj` is the object's address as the tile named it. -/
inductive Ctl where
  | arrive (tile reach mem : Nat) (obj : Word) (g : Option (BitVec 32)) (p : Nat) (wait : Bool) (w : BitVec 3)
  | reply (tile reach : Nat) (obj : Word) (g gen : BitVec 32)
  | refusedReply (tile reach : Nat) (obj : Word)
  | advance (tile reach : Nat) (obj : Word) (gen : BitVec 32)
  | release (tile reach : Nat) (obj : Word) (w : BitVec 3) (gen : BitVec 32) (broken : Bool)
  | reset (tile reach : Nat) (obj : Word)
  deriving DecidableEq, Repr

/-! ## Switches and skerries (07, 12, 19) -/

/-- A verified kernel of a switch (02 R64). -/
structure Kernel where
  code : List (BitVec 32)
  drop : Bool
  fbase : Nat
  flimit : Nat
  classes : BitVec 8
  inports : BitVec 7
  deriving DecidableEq, Repr

/-- One set of a switch: its kernels and entries 0 to 479 of its flow-state table (19 R317). -/
structure KSet where
  reach : Nat
  kernels : List Kernel
  flow : Tbl Unit64
  deriving DecidableEq, Repr

/-- A breakwater guard's pending record (07 R155). -/
structure DropRec where
  job : Nat
  reach : Nat
  src : BitVec 9
  srck : BitVec 5
  dst : BitVec 9
  dstk : BitVec 5
  cls : BitVec 3
  vchan : BitVec 5
  count : Nat
  marker : Bool
  last : Nat
  deriving DecidableEq, Repr

/-! ## Cells -/

/-- Two sets of one tile, the active one and the inactive one (08 R175). -/
structure Two (α : Type) where
  act : α
  ina : α
  deriving DecidableEq, Repr

/-- A progress record held by a cell's arbiters, of a counter of a reach's set (12 R250). -/
structure Record where
  reach : Nat
  cell : Nat
  ctr : Nat
  value : BitVec 32
  pace : BitVec 16
  starving : Bool
  deriving DecidableEq, Repr

/-- The voltage and frequency island of a cell (07 R157). `base` and `baseAt` give the island's cycle count: `base` at
nominal cycle `baseAt`. -/
structure Island where
  fstep : Nat
  vstep : Nat
  gate : Bool
  fnow : Nat
  busy : Bool
  base : Nat
  baseAt : Nat
  deriving DecidableEq, Repr

/-- The need-by block of a cell (12 R259). -/
structure NeedBy where
  holdIssue : Nat
  holdMax : Nat
  hold : Vector Nat 4
  qwgt : Word
  heldi : Nat
  holdrel : Nat
  late : Nat
  deriving DecidableEq, Repr

/-- A request of a collective node that its issue stage has accepted (19 R329, 12 R257): its unit, its place in the order of
acceptance, its transfer, whether it is marked, and its hold-back (12 R258). -/
structure NodeReq where
  unit : Nat
  since : Nat
  x : Xfer
  marked : Bool
  held : Nat
  heldSeen : Bool
  unheld : Bool
  deriving DecidableEq, Repr

/-- A collective operation in progress at a node (19 R329 to R331, R335): its units and the units it writes, the units read
or arrived and not yet combined, results not yet written, the next unit to read and to send, the units applied, and how many it has
taken from each position. `engine` says that a command runs on a shared engine, or as a fallback kernel. -/
structure COp where
  n : Nat
  total : Nat
  engine : Option Bool
  own : List (Nat × Unit64)
  left : List (Nat × Unit64)
  right : List (Nat × Unit64)
  result : List (Nat × Unit64)
  nextOwn : Nat
  nextUp : Nat
  written : Nat
  took : Vector Nat 4
  deriving DecidableEq, Repr

/-- A collective node (19 R327 to R334, 05 R128). It keeps its source and destination templates with their bases, the tokens
it owes on o7, why it is frozen and the fault slot it holds open; the shore ports to its parent and children, as bound at launch, and
how often it has been aborted; its requests at the issue stage, the writes that stand in a port's
reorder stage, the peers' units that its gateway holds, and the pages it uses: address and length (14 R275). -/
structure CNode where
  reach : Nat
  idx : Nat
  kind : Nat
  rate : Nat
  peers : Nat
  rank : Nat
  gws : List Nat
  epoch : Nat
  enabled : Bool
  limit : Nat
  cstate : Nat
  count : Nat
  g2 : Template
  g3 : Template
  b2 : Word
  b3 : Word
  owed : List Token
  op : Option COp
  frz : Option Freeze
  slot : Option Nat
  rd : Option NodeReq
  wr : Option NodeReq
  flight : List NodeReq
  gate : List (Nat × Nat × Unit64)
  pins : List (Nat × Nat)
  slotEnd : Option Nat
  pinUntil : Option Nat
  deriving DecidableEq, Repr

/-- A cell: its tiles, its switch, its island and its blocks. `holdSince` is the island cycle of the earliest write of a HOLD that
its address generator has not adopted (12 R258), `damaged` the entries of its routing tables that a soft error has changed:
destination, tile kind and channel, and the port they name now (07 R152). `decided` is one more than the island cycle in which one of
its arbiters last made a decision, 0 for none (13 R263), and `brk` is BRK of its barrier state (16 R298). -/
structure Cell where
  c : Two CSet
  a : Two ASet
  m : Two MSet
  k : Two KSet
  utlb : List TlbEnt
  hold : Tbl Nat
  holdSince : Option Nat
  damaged : List (BitVec 9 × BitVec 5 × Nat)
  decided : Nat
  aArb : Arb
  mArb : Vector Arb 4
  hwm : List Hwm
  bars : List BarEnt
  barRefused : List Nat
  brk : Bool
  inq : Tbl (List Packet)
  sArb : Tbl Arb
  drops : Vector (Option DropRec) 7
  send : List (Nat × Packet)
  flowDev : Tbl Unit64
  island : Island
  need : NeedBy
  records : List Record
  nodes : List CNode
  deriving DecidableEq, Repr

/-! ## Control cores (05) -/

/-- Context states (05 R108). -/
inductive CtxState where
  | free | ready | blocked | idle | halted
  deriving DecidableEq, Repr

/-- A control-core memory access that waits (05 R115), with its instruction word. `fence` is an instruction that has begun and
waits for the context's stores or for an access of its own: it stays the context's wait until the instruction has completed
(05 R112). `again` is a WAITC or WAITA whose first read waits. -/
inductive Access where
  | load (d : Reg) (va : Word) (w : BitVec 32)
  | store (va v : Word) (w : BitVec 32)
  | amo (d : Reg) (va v : Word) (op : BitVec 4) (w : BitVec 32)
  | fetch (va : Word)
  | fence
  | again
  deriving DecidableEq, Repr

/-- What a blocked context waits in, with its operands (05 R108). -/
inductive Wait where
  | none
  | waitc (va v : Word) (cond : BitVec 2)
  | waita
  | seed (reach port : Nat) (tag : BitVec 2) (v h : Word) (w : BitVec 32)
  | launch (h : Reg) (token : Unit64) (shadow armed : Bool)
  | cfgld (h : Reg) (load : Nat)
  | cfgsw (x b : Nat)
  | progwr (reach cell ctr : Nat) (add : Bool) (v : Word)
  | access (a : Access)
  deriving DecidableEq, Repr

/-- A store that has not yet taken effect towards other agents (05 R116): its address, its place and its value. -/
structure Pending where
  va : Word
  stack : Nat
  sa : Nat
  v : Word
  deriving DecidableEq, Repr

/-- What was sent towards memory through an entry before it was dropped (14 R273): requests of address generators (cell and number),
stores of contexts, and overflow transfers of spill ports (cell, reach and address). -/
structure Sent where
  reqs : List (Nat × Nat)
  stores : List (Nat × Pending)
  spills : List (Nat × Nat × Nat)
  deriving DecidableEq, Repr

/-- An asynchronous trap held for a context (05 R112). -/
structure Trap where
  cause : Nat
  unit : BitVec 12
  ukind : BitVec 2
  tp0 : Word
  tp1 : Word
  tp2 : Word
  deriving DecidableEq, Repr

/-- A handle slot: its generation and the reach it holds (05 R117). -/
structure HSlot where
  gen : BitVec 8
  reach : Option Nat
  deriving DecidableEq, Repr

/-- A control-core context (05 R110, R111). `cur` is the word of an instruction that has begun and waits for the context's own accesses
(05 R112), and `waitcDirty` and `waitcAt` say that a WAITC line has been written and when it
was last read. -/
structure Context where
  st : CtxState
  wait : Wait
  job : Nat
  pc : Word
  x : Vector Word 32
  intr : Bool
  spur : Bool
  glate : Bool
  cause : BitVec 8
  async : Bool
  epc : Word
  tvec : Word
  tp0 : Word
  tp1 : Word
  tp2 : Word
  tunit : BitVec 12
  tukind : BitVec 2
  started : Nat
  scratch : Word
  cstate : BitVec 2
  ccount : BitVec 32
  slots : Vector HSlot 8
  fetch : Option (Word × Unit64)
  cur : Option (BitVec 32)
  stores : List Pending
  traps : List Trap
  waitcDirty : Bool
  waitcAt : Nat
  deriving DecidableEq, Repr

/-- A monitor-table entry (05 R132): line, context, fired, and whether its line has been written since it was armed. -/
structure Monitor where
  line : Word
  ctx : Nat
  fired : Bool
  hit : Bool
  deriving DecidableEq, Repr

/-- A control core: its monitor table, its micro-TLB and the context that issued last, with the cycle of that issue
(05 R109, R132, 14 R272). -/
structure Core where
  mon : List Monitor
  utlb : List TlbEnt
  last : Nat
  issuedAt : Option Nat
  deriving DecidableEq, Repr

/-! ## Jobs -/

/-- A queue of a job (06 R137 to R140). -/
structure Queue where
  slot : Vector Word 8
  submitted : BitVec 32
  dropped : BitVec 32
  started : BitVec 32
  seedDrop : BitVec 16
  prio : BitVec 2
  enable : Bool
  home : BitVec 6
  homev : Bool
  seeds : List (Nat × Nat × BitVec 2 × Word)
  seedOwed : List (Nat × Nat)
  deriving DecidableEq, Repr

/-- An ingress window (17 R309): held tokens are (offset, byte count). -/
structure Ingress where
  ibase : Word
  ien : Bool
  ilen : Nat
  iqueue : Nat
  iport : Nat
  idrop : BitVec 16
  heldToks : List (BitVec 32 × BitVec 7)
  deriving DecidableEq, Repr

/-- A publication window (17 R310). `run` is the version of a PUBLISH that has not yet swapped, `back` its image, and
`owner` the context whose PUBLISH has not yet copied. -/
structure Publish where
  pbase : Word
  pen : Bool
  plen : Nat
  pver : Word
  version : Word
  front : List Unit64
  back : List Unit64
  run : Option Word
  owner : Option Nat
  deriving DecidableEq, Repr

/-- An event record (21 R340) on its way to its log, the context it traps once it is visible (R341, R342), and whether IRQMASK selected
its cause when it was raised (24 R362). -/
structure EvRec where
  hdr : Word
  tp0 : Word
  tp1 : Word
  tp2 : Word
  trap : Option Nat
  irq : Bool
  deriving DecidableEq, Repr

/-- A job (virtual function) and its registers. `wsUsed` says that its WSBASE has been written since reset, and `wdOld` is the watchdog
limit that holds before global tick `wdAt` (21 R343). -/
structure Job where
  x0 : Nat
  y0 : Nat
  x1 : Nat
  y1 : Nat
  valid : Bool
  bwdrop : BitVec 32
  queues : Vector Queue 16
  lastAdm : Vector Nat 4
  rstk : BitVec 4
  ten : Bool
  roota : BitVec 24
  stkset : Vector (BitVec 12) 3
  hbase : Word
  tvlo : BitVec 31
  tvhi : BitVec 31
  resthr : BitVec 7
  tierto : BitVec 32
  wstk : BitVec 4
  wsen : Bool
  wsa : BitVec 19
  wslost : BitVec 32
  wsUsed : Bool
  upcnt : BitVec 32
  dncnt : BitVec 32
  inv : Option (Bool × Nat × Nat × Sent)
  rshare : BitVec 9
  swthr : BitVec 32
  swevt : BitVec 32
  brkevt : BitVec 32
  ingress : Vector Ingress 8
  pub : Tbl Publish
  rank : BitVec 10
  peers : Tbl (BitVec 28)
  engcmd : BitVec 32
  fallbk : BitVec 32
  cabort : BitVec 32
  elbase : BitVec 40
  elen : Bool
  elsize : BitVec 5
  wridx : BitVec 32
  rdidx : BitVec 32
  lost : BitVec 32
  elfault : Bool
  logq : List EvRec
  wdlim : BitVec 32
  wdOld : BitVec 32
  wdAt : Nat
  fslots : Tbl FSlot
  etmask : BitVec 17
  irqmask : BitVec 17
  irqpend : Bool
  irqMore : Bool
  savebase : BitVec 40
  savesize : BitVec 32
  savefull : Bool
  everSaved : Bool
  saving : Bool
  restoring : Bool
  noreach : Bool
  tdHeld : Option Nat
  qtd : Option (Nat × Bool)
  reqsig : Bool
  admissions : BitVec 16
  reachTd : Option Nat
  deriving DecidableEq, Repr

/-! ## Launch and reaches (06) -/

/-- Reach states (05 R117), with those of a launch on its way: accepted, loading, waiting for its flood wave, being
stopped by an ebb wave, and being torn down. -/
inductive RState where
  | accepted | loading | flooding | shadowed | armed | running | ebbing | saved
  deriving DecidableEq, Repr

/-- Why an ebb wave runs: the swap of a CFGSW, the host's SAVE, a teardown with the signal's reason, or the swap of a reach
that is torn down meanwhile (21 R349, 24 R367). -/
inductive Ebb where
  | none
  | swap (other : Nat)
  | save
  | teardown (reason : Nat)
  | torn (other reason : Nat)
  deriving DecidableEq, Repr

/-- A launch, from its acceptance or submission to the end of its reach. Before admission it is only a candidate; its
fields of R136 stand in `token`, `reqsig` is the image policy when its load began (24 R371), and `units` are the units of its image that the loader has read (02 R41).
`pollStuck` says that the sequencer's last read for it had to wait (06 R139). -/
structure Reach where
  id : Nat
  job : Nat
  st : RState
  device : Bool
  queue : Nat
  ctx : Nat
  bound : Bool
  slot : Nat
  handle : Word
  token : Unit64
  shadow : Bool
  armedReq : Bool
  image : Nat
  cx : Nat
  cy : Nat
  w : Nat
  h : Nat
  signal : Nat
  depMet : BitVec 4
  checked : Bool
  pollDirty : Bool
  pollStuck : Bool
  pollAt : Nat
  number : BitVec 16
  seedRoutes : Vector (Option Route) 8
  reqsig : Bool
  units : List Unit64
  loaded : Bool
  gang : Option Word
  quiet : Nat
  swDone : Bool
  liveNs : Nat
  wdDone : Bool
  startedCount : Bool
  ebb : Ebb
  deriving DecidableEq, Repr

/-- A CFGLD being loaded (05 R123): its word, the image policy when it began (24 R371), and the units of its image that the loader has read (02 R41). -/
structure Load where
  id : Nat
  ctx : Nat
  job : Nat
  va : Nat
  x : Nat
  y : Nat
  word : BitVec 32
  reqsig : Bool
  units : List Unit64
  deriving DecidableEq, Repr

/-- An image held in the configuration cache of a cell (05 R123). -/
structure Cached where
  cell : Nat
  job : Nat
  va : Nat
  units : List Unit64
  lastUse : Nat
  deriving DecidableEq, Repr

/-- What a saved reach left in one cell (21 R350, R351). -/
structure CellSave where
  cell : Nat
  c : CSet
  a : ASet
  m : MSet
  k : KSet
  deriving DecidableEq, Repr

/-- A save image in a job's context save area (21 R353). -/
structure Image where
  reach : Nat
  job : Nat
  off : Nat
  size : Nat
  cells : List CellSave
  valid : Bool
  deriving DecidableEq, Repr

/-- The header of an abandoned save image that has still to take STATE 10 (21 R357): its job, its address, and the words at 0x08 and
0x10. -/
structure Abandoned where
  job : Nat
  reach : Nat
  va : Nat
  words : Nat
  deriving DecidableEq, Repr

/-! ## Memory system (14) -/

/-- The control block of a stack (14 R266), its queue and arbiters: `arb` for the slots that go to any job, `arbs` for those a job owns,
and `slot` the slot of the wheel that comes next (14 R267). -/
structure Stack where
  hmask : BitVec 27
  quiesce : Bool
  cecnt : BitVec 32
  uecnt : BitVec 16
  herr : Bool
  q : List Placed
  arb : Arb
  arbs : Tbl Arb
  slot : Nat
  deriving DecidableEq, Repr

/-- Kinds of access (14 R270). -/
inductive Kind where
  | read | write | atomic | fetch
  deriving DecidableEq, Repr

/-- A walk in progress and the requests that wait on it, oldest first (14 R272, 21 R360): cell, whether the write half of a
CPY pair waits, and request number. `page` is a 4 KiB page number; `own` is the access of a control core, or of another unit beside
the address generators, that waits for a walker. -/
structure Walk where
  die : Nat
  job : Nat
  page : Nat
  reqs : List (Nat × Bool × Nat)
  own : Option (Nat × Kind)
  deriving DecidableEq, Repr

/-- A tier miss: the page (2 MiB granule), its first requester's unit, and the ticks of its start and of its last
timeout event (14 R274). -/
structure Miss where
  job : Nat
  page : Nat
  unit : BitVec 12
  ukind : BitVec 2
  va : Word
  since : Nat
  last : Nat
  reach : Nat
  deriving DecidableEq, Repr

/-- A move of the undertow engine (14 R274), and what a move down waits for. -/
structure Move where
  job : Nat
  page : Nat
  up : Bool
  frame : Word
  wait : Sent
  deriving DecidableEq, Repr

/-- Commands of TIERCMD (14 R277). -/
inductive TierCmd where
  | down | up | wsclr
  deriving DecidableEq, Repr

/-- A queued command and the record entry it stands at. -/
structure TierJob where
  job : Nat
  cmd : TierCmd
  at_ : Nat
  deriving DecidableEq, Repr

/-! ## The machine -/

/-- What the next step's word belongs to (the model's own): a control-core context, or a cell and pool index. -/
structure Focus where
  ctx : Nat
  cell : Nat
  idx : Nat
  deriving DecidableEq, Repr

/-- Memories the host's loader places bytes in (01 R25). -/
inductive Place where
  | virt (job : Nat)
  | sram
  | hbm
  | host
  deriving DecidableEq, Repr

/-- What the outside world does next (the model's own): a row of the table whose agent is outside the device; bytes the
host or its loader writes into a memory; a memory error, uncorrectable in a unit as State.bad names it, or corrected at a
stack (14 R278, R279); or a soft error in a routing-table entry of a switch (07 R152). -/
inductive Input where
  | act (i : Instr)
  | place (p : Place) (addr : Nat) (bytes : List Byte)
  | upset (space unit : Nat)
  | corrected (stack : Nat)
  | misroute (cell : Nat) (dst : BitVec 9) (dstk : BitVec 5) (port : Nat)
  deriving DecidableEq, Repr

/-- A count message of RELS on its way to a destination (11 R235). -/
structure PhaseMsg where
  dest : Nat
  src : Nat
  p : BitVec 2
  count : Nat
  deriving DecidableEq, Repr

/-- A destination's count of the writes of one (source tile, phase) (16 R294). -/
structure PhaseCnt where
  dest : Nat
  src : Nat
  p : BitVec 2
  n : Nat
  deriving DecidableEq, Repr

/-- What leaves the package over the shore links (19 R336): a unit, a result or an abort, for a rank. It carries the node that sends
it and how often that had been aborted. -/
structure Shore where
  cell : Nat
  reach : Nat
  epoch : Nat
  rank : Nat
  unit : Nat
  pos : Nat
  reason : Nat
  v : Unit64
  deriving DecidableEq, Repr

/-- Why a step stops with a fault. -/
inductive Fault where
  /-- REGISTER_WRITE: the offset lies outside the function's 8 MiB BAR 0, or the function does not exist (24 R369).
  Safe: the machine stops where the spec gives no register. -/
  | outsideBar
  deriving DecidableEq, Repr

/-- Why a step has no meaning. -/
inductive Refusal where
  /-- An arm of exec for a row that has no meaning yet. Safe: the machine stops. -/
  | notModelled (mnemonic : String)
  deriving DecidableEq, Repr

/-- The Plynvel 1100. `memErrs` lists the waiting accesses whose uncorrectable error has been reported (14 R279): job,
address and requester. -/
structure State where
  cycle : Nat
  focus : Focus
  schedule : List Nat
  turnNo : Nat
  inputs : List Input
  ctxs : Vector Context 64
  cores : Vector Core 8
  cells : Tbl Cell
  jobs : Tbl Job
  hbm : List Host.Cell
  sram : List Host.Cell
  host : List Host.Cell
  bad : List (Nat × Nat)
  memErrs : List (Nat × Nat × Nat)
  pcreq : Tbl (BitVec 32)
  pcNow : Tbl (BitVec 32)
  stks : Vector Stack 12
  dtlb : Vector (List TlbEnt) 2
  walks : List Walk
  misses : List Miss
  moves : List Move
  tiers : List TierJob
  strict : Bool
  poolBase : BitVec 28
  poolStk : BitVec 4
  poolN : BitVec 32
  poolCap : BitVec 32
  ctl : List Ctl
  phaseMsgs : List PhaseMsg
  phaseCnts : List PhaseCnt
  recordsOut : List (Nat × Record)
  reaches : List Reach
  loads : List Load
  cache : List Cached
  images : List Image
  nextId : Nat
  partErr : BitVec 4
  partErrJob : BitVec 6
  clearing : List Nat
  abandoned : List Abandoned
  plim : BitVec 12
  throt : Bool
  pnow : BitVec 12
  powerMs : Nat
  mailOp : BitVec 8
  mailRun : BitVec 8
  mailErr : Bool
  nonce : Word
  mailBuf : Word
  bootOk : Bool
  coldResets : BitVec 64
  seamOpen : BitVec 32
  stacksIn : BitVec 12
  shoreIn : BitVec 8
  tide : Nat
  shoreOut : List Shore
  msix : Tbl Nat
  freeCount : Nat
  deriving DecidableEq, Repr

/-! ## Reset (24 R374, and the reset columns of the register tables) -/

/-- A vector register at reset: zero, tagged f32 (04 R99). -/
def VReg.reset : VReg := { bits := 0, tag := 6, pairs := 0 }

/-- A null data token, used where a lookup needs a default. -/
def Token.zero : Token := { kind := .data, fmt := 0, vchan := 0, tag := 0, payload := 0 }

/-- A counter of an unconfigured tile. -/
def Counter.reset : Counter :=
  { val := 0, bound := 0, chain := 0, chainEn := false, prog := false, hint := 0, pace := 0, delta := 0, changed := false,
    starved := false }

/-- A virtual-channel entry of an unconfigured tile. -/
def VChan.reset : VChan := { fmt := 0, block := false, comp := 0, compPresent := false }

/-- An empty quantisation stage. -/
def Quant.reset : Quant :=
  { partTok := 0, partNull := false, seg := 0, partPairs := [], group := [], pairs := [], count := 0, comp := none,
    compOut := 0, drain := [] }

/-- An empty barrier window entry. -/
def Window.reset : Window :=
  { obj := 0, valid := false, cur := none, genk := 0, inflight := false, waitp := false, w := 0, refused := false, used := 0 }

/-- A matrix node at reset (10 R211): both banks +0 in f32 mode. -/
def Node.reset : Node :=
  { bank0 := [], bank1 := [], mode0 := false, mode1 := false, queue := [], done := 0, groups := 0, frozen := false }

/-- The issue state of an unconfigured tile (08 R174, R175). -/
def Issue.reset : Issue :=
  { reach := 0, run := .off, frozen := false, pool := Vector.replicate 16 0, valid := 0,
    consts := Vector.replicate 16 0, ctr := Vector.replicate 8 Counter.reset, routes := Vector.replicate 8 none,
    preds := 0, age := Vector.replicate 16 0, runs := Vector.replicate 16 0, conf := Vector.replicate 16 0, held := 0,
    fired := 0, aborted := 0, rounds := 0, lrule := 0, lreason := 0, sel := [], roundAt := 0,
    livelock := [], chans := Vector.replicate 8 [], wave := Vector.replicate 8 [], reached := 0, fed := 0,
    before := .off, emitted := false, inb := [] }

/-- One set of a compute tile, unconfigured. -/
def CSet.reset : CSet :=
  { iss := Issue.reset, vch := Vector.replicate 32 VChan.reset, rmode := 0, sat := false, s := Vector.replicate 16 0,
    v := Vector.replicate 8 VReg.reset, ks := Vector.replicate 4 16, hist := [], newHist := [], flags := 0, trapEn := 0,
    comp := [], quant := Vector.replicate 8 Quant.reset, spill := 0, spillWritten := [], spillBuf := [],
    spillWant := none, spillOut := none, spillGot := none, spillFrz := none, spillSlot := none, win := Vector.replicate 4 Window.reset, firstRecord := false, nextRecord := 0, nextPace := 0,
    node := Node.reset }

/-- A template that is not configured. -/
def Template.reset : Template :=
  { valid := false, write := false, space := .sram, fmt := 0, vchan := 0, cls := 0, phase := 0, baseq := 0,
    runtime := false, rbase := 0, marked := false, homeCell := 0, homePort := 0, hasStream := false, dst := 0,
    dkind := 0, chan := 0, link := 0, stride := Vector.replicate 8 0, mcell := 0, mctr := 0, mark0 := 0,
    mstep := Vector.replicate 8 0, reqno := 0, issued := 0, delivered := 0, mirror := 0, frozen := [] }

/-- An arbiter at reset: the lowest class of each group has its turn and every D[c] is zero (12 R255). -/
def Arb.reset : Arb := { cur := #v[0, 0, 0], d := Vector.replicate 8 0 }

/-- One set of an address generator, unconfigured. -/
def ASet.reset : ASet :=
  { iss := Issue.reset, tm := Vector.replicate 4 Template.reset, q := [], nextId := 0, phase := 0, phases := [],
    seq := 0, acqs := [], xfers := [] }

/-- A memory-tile port with no role. -/
def MPort.reset : MPort :=
  { role := 0, off := 0, len := 0, acc := 0, op := 0, fmt := 0, emit := false, fe := false, feOff := 0, feLen := 0, feInit := false,
    feBits := [], wpx := false, wpOff := 0, wpLen := 0, wtag := 0, push := false, wp := 0, reorder := [], pushq := none,
    ord := false, cntTarget := 0, cntTag := 0, cnt := 0, dup := 0, accept := 0, refused := 0, frozen := false, stopped := false,
    discardSeen := false, fifo := [], ldsy := [], q := [], spu := [], outq := [], reached := false }

/-- One configuration of a memory tile, unconfigured. -/
def MSet.reset : MSet :=
  { reach := 0, run := .off, table := Vector.replicate 8 0, valid := 0, routes := Vector.replicate 4 none,
    ports := Vector.replicate 4 MPort.reset, page := 0, npage := 0, frozen := false, kept := none }

/-- A switch with no kernels. -/
def KSet.reset : KSet := { reach := 0, kernels := [], flow := [] }

/-- An island at reset (07 R157): FSTEP 19 is 2.5 GHz. -/
def Island.reset : Island := { fstep := 19, vstep := 70, gate := false, fnow := 19, busy := false, base := 0, baseAt := 0 }

/-- The need-by block at reset (12 R259). -/
def NeedBy.reset : NeedBy :=
  { holdIssue := 0x4000, holdMax := 0x4000, hold := Vector.replicate 4 0x2000, qwgt := 0x0102040102040101, heldi := 0,
    holdrel := 0, late := 0 }

/-- A cell at reset. -/
def Cell.reset : Cell :=
  { c := ⟨CSet.reset, CSet.reset⟩, a := ⟨ASet.reset, ASet.reset⟩, m := ⟨MSet.reset, MSet.reset⟩,
    k := ⟨KSet.reset, KSet.reset⟩, utlb := [], hold := [], holdSince := none, damaged := [], decided := 0, aArb := Arb.reset,
    mArb := Vector.replicate 4 Arb.reset, hwm := [], bars := [], barRefused := [], brk := false, inq := [], sArb := [],
    drops := Vector.replicate 7 none, send := [], flowDev := [], island := Island.reset, need := NeedBy.reset,
    records := [], nodes := [] }

/-- A context at reset (05 R108, R111). -/
def Context.reset : Context :=
  { st := .free, wait := .none, job := 0, pc := 0, x := Vector.replicate 32 0, intr := false, spur := false,
    glate := false, cause := 0, async := false, epc := 0, tvec := 0, tp0 := 0, tp1 := 0, tp2 := 0, tunit := 0,
    tukind := 0, started := 0, scratch := 0, cstate := 0, ccount := 0, slots := Vector.replicate 8 ⟨0, none⟩,
    fetch := none, cur := none, stores := [], traps := [], waitcDirty := false, waitcAt := 0 }

/-- A queue of a job at reset (06 R137). -/
def Queue.reset : Queue :=
  { slot := Vector.replicate 8 0, submitted := 0, dropped := 0, started := 0, seedDrop := 0, prio := 0, enable := false,
    home := 0, homev := false, seeds := [], seedOwed := [] }

/-- An ingress window at reset (17 R309). -/
def Ingress.reset : Ingress :=
  { ibase := 0, ien := false, ilen := 0, iqueue := 0, iport := 0, idrop := 0, heldToks := [] }

/-- A publication window at reset (17 R310). -/
def Publish.reset : Publish :=
  { pbase := 0, pen := false, plen := 0, pver := 0, version := 0, front := [], back := [], run := none, owner := none }

/-- A closed fault slot (21 R345). -/
def FSlot.reset : FSlot :=
  { cause := 0, isOpen := false, tmpl := 0, acc := 0, unit := 0, fcode := 0, gen := 0, addr := 0, reqno := 0, issued := 0,
    delivered := 0, withheld := 0, wp := 0, kv := Vector.replicate 8 0, cell := 0, reqId := 0 }

/-- A job at reset: the reset columns of 07 R146, 14 R277, 16 R297, 17 R309, R310, 19 R330, 21 R341, R355, R362. -/
def Job.reset : Job :=
  { x0 := 0, y0 := 0, x1 := 0, y1 := 0, valid := false, bwdrop := 0, queues := Vector.replicate 16 Queue.reset,
    lastAdm := Vector.replicate 4 15, rstk := 0, ten := false, roota := 0, stkset := Vector.replicate 3 0, hbase := 0,
    tvlo := 0, tvhi := 0, resthr := 90, tierto := 1000, wstk := 0, wsen := false, wsa := 0, wslost := 0, wsUsed := false,
    upcnt := 0, dncnt := 0, inv := none, rshare := 0, swthr := 0x10000, swevt := 0, brkevt := 0,
    ingress := Vector.replicate 8 Ingress.reset, pub := [], rank := 0, peers := [], engcmd := 0, fallbk := 0, cabort := 0,
    elbase := 0, elen := false, elsize := 7, wridx := 0, rdidx := 0, lost := 0, elfault := false, logq := [], wdlim := 0, wdOld := 0, wdAt := 0,
    fslots := [], etmask := 0, irqmask := 0, irqpend := false, irqMore := false, savebase := 0, savesize := 0,
    savefull := false, everSaved := false, saving := false, restoring := false, noreach := false, tdHeld := none, qtd := none,
    reqsig := false, admissions := 0, reachTd := none }

/-- A stack's control block at reset (14 R266): HMASK holds address bits [39:19]. -/
def Stack.reset : Stack :=
  { hmask := 0x7FFFFC0, quiesce := false, cecnt := 0, uecnt := 0, herr := false, q := [], arb := Arb.reset, arbs := [], slot := 0 }

/-- A control core at reset (05 R109). -/
def Core.reset : Core := { mon := [], utlb := [], last := 7, issuedAt := none }

/-- The machine right after its cold reset (24 R374). Log entries 1 and 2 name the values the spec does not give. -/
def State.reset : State :=
  { cycle := 0, focus := ⟨0, 0, 0⟩, schedule := [], turnNo := 0, inputs := [], ctxs := Vector.replicate 64 Context.reset,
    cores := Vector.replicate 8 Core.reset, cells := [], jobs := [], hbm := [], sram := [], host := [], bad := [], memErrs := [],
    pcreq := [], pcNow := [], stks := Vector.replicate 12 Stack.reset, dtlb := #v[[], []], walks := [], misses := [], moves := [],
    tiers := [], strict := false, poolBase := 0, poolStk := 0, poolN := 0, poolCap := 0, ctl := [], phaseMsgs := [],
    phaseCnts := [], recordsOut := [], reaches := [], loads := [], cache := [], images := [], nextId := 0, partErr := 0,
    partErrJob := 0, clearing := [], abandoned := [], plim := 2400, throt := false, pnow := 0, powerMs := 0, mailOp := 0,
    mailRun := 0, mailErr := false, nonce := 0, mailBuf := 0, bootOk := true, coldResets := 1,
    seamOpen := 0xFFFFFFFF, stacksIn := 0xFFF, shoreIn := 0, tide := 0, shoreOut := [], msix := [], freeCount := 0 }

end Sys2Proof.Machine
end

