-- ==== Sys2Proof/Machine/Ops.lean ====
section
/-!
DEFINITION. The named operations over the state: memories of bytes, accessors, event records and traps, the page walk,
and accesses of device-virtual space.
-/

namespace Sys2Proof.Machine

open Sys2Proof

/-! ## Memories (00 R13)

A memory lists (address, byte) in rising order and never lists a zero byte, which is what an unlisted address reads as
(log entry 2). -/

/-- The byte an unlisted address reads as. -/
def unlisted : Byte := 0

/-- Read one byte. -/
def memGet : List Host.Cell → Nat → Byte
  | [], _ => unlisted
  | (k, v) :: t, a => if a = k then v else if a < k then unlisted else memGet t a

/-- Put a byte in front of a memory whose addresses are all above `a`. -/
def memCons (a : Nat) (v : Byte) (t : List Host.Cell) : List Host.Cell := if v = unlisted then t else (a, v) :: t

/-- Write one byte. -/
def memSet : List Host.Cell → Nat → Byte → List Host.Cell
  | [], a, v => memCons a v []
  | (k, w) :: t, a, v =>
    if a = k then memCons a v t
    else if a < k then memCons a v ((k, w) :: t)
    else (k, w) :: memSet t a v

/-- The canonical form, from a lower bound on the addresses. -/
def memWfFrom : Nat → List Host.Cell → Bool
  | _, [] => true
  | b, (k, v) :: t => b ≤ k && v != unlisted && memWfFrom (k + 1) t

/-- The canonical form of a memory. -/
def Memory.wf (m : List Host.Cell) : Bool := memWfFrom 0 m

/-- Write the low n bytes of v from address a, little-endian. -/
def memWrite (m : List Host.Cell) (a : Nat) : Nat → Nat → List Host.Cell
  | 0, _ => m
  | n + 1, v => memWrite (memSet m a (BitVec.ofNat 8 v)) (a + 1) n (v / 256)

/-- Read n bytes from address a, little-endian. -/
def memRead (m : List Host.Cell) (a : Nat) : Nat → Nat
  | 0 => 0
  | n + 1 => (memGet m a).toNat + 256 * memRead m (a + 1) n

/-- A 64-byte unit. -/
def memUnit (m : List Host.Cell) (a : Nat) : Unit64 := BitVec.ofNat 512 (memRead m a 64)
/-- A 64-bit word. -/
def memWord (m : List Host.Cell) (a : Nat) : Word := BitVec.ofNat 64 (memRead m a 8)
/-- Write a list of bytes. -/
def memBytes (m : List Host.Cell) : Nat → List Byte → List Host.Cell
  | _, [] => m
  | a, b :: t => memBytes (memSet m a b) (a + 1) t

/-! ## Accessors -/

/-- A Nat from a condition. -/
def b2n (b : Bool) : Nat := if b then 1 else 0

def State.ctx (s : State) (c : Nat) : Context := vget Context.reset s.ctxs c
def State.updCtx (s : State) (c : Nat) (f : Context → Context) : State := { s with ctxs := vset s.ctxs c (f (s.ctx c)) }
def State.core (s : State) (k : Nat) : Core := vget Core.reset s.cores k
def State.updCore (s : State) (k : Nat) (f : Core → Core) : State := { s with cores := vset s.cores k (f (s.core k)) }
def State.cell (s : State) (n : Nat) : Cell := Tbl.get Cell.reset s.cells n
def State.updCell (s : State) (n : Nat) (f : Cell → Cell) : State := { s with cells := Tbl.set s.cells n (f (s.cell n)) }
def State.job (s : State) (j : Nat) : Job := Tbl.get Job.reset s.jobs j
def State.updJob (s : State) (j : Nat) (f : Job → Job) : State := { s with jobs := Tbl.set s.jobs j (f (s.job j)) }
def State.stk (s : State) (k : Nat) : Stack := vget Stack.reset s.stks k
def State.updStk (s : State) (k : Nat) (f : Stack → Stack) : State := { s with stks := vset s.stks k (f (s.stk k)) }

/-- The reach of a number, if there is one. -/
def State.reach? (s : State) (id : Nat) : Option Reach := s.reaches.find? (fun r => r.id == id)
def State.updReach (s : State) (id : Nat) (f : Reach → Reach) : State :=
  { s with reaches := s.reaches.map (fun r => if r.id = id then f r else r) }

/-- A reach is live from its admission to its end (05 R117, 21 R342). -/
def Reach.live (r : Reach) : Bool :=
  match r.st with
  | .accepted => false
  | _ => true

/-- The job a reach belongs to, 0 for none. -/
def State.reachJob (s : State) (id : Nat) : Nat := match s.reach? id with | some r => r.job | none => 0

/-- A register of a context: x0 reads zero (02 R44). -/
def Context.reg (c : Context) (r : Reg) : Word := if r = 0 then 0 else vget 0 c.x r.toNat
/-- Write a register: x0 discards (02 R44). -/
def Context.setReg (c : Context) (r : Reg) (v : Word) : Context := if r = 0 then c else { c with x := vset c.x r.toNat v }

/-- Cell index from x and y (00 R4), and back. -/
def cellAt (x y : Nat) : Nat := y * 32 + x
def cellX (n : Nat) : Nat := n % 32
def cellY (n : Nat) : Nat := n / 32
/-- The fabric die of a cell (00 R4). -/
def cellDie (n : Nat) : Nat := cellX n / 16
/-- The core of a context and its die (05 R108): a context's number is die × 32 + core × 8 + context. -/
def ctxCore (c : Nat) : Nat := c / 8
def ctxDie (c : Nat) : Nat := c / 32

/-- The global tick in ns: a nominal cycle is 0.4 ns (00 R9, R14; log entry 4). -/
def State.tick (s : State) : Nat := s.cycle * 2 / 5

/-- The cycle count of a cell's island: (6 + FNOW) / 25 of the nominal rate (07 R157, 00 R14; log entry 4). -/
def State.islandCycle (s : State) (n : Nat) : Nat :=
  let i := (s.cell n).island
  i.base + (s.cycle - i.baseAt) * (6 + i.fnow) / 25

/-- Saturating and wrapping increments of counters in registers. -/
def satInc {w : Nat} (x : BitVec w) : BitVec w := if x = BitVec.allOnes w then x else x + 1

/-- The value drawn next from the values the spec leaves open: the state after the draw. -/
def State.drawn (s : State) : State := { s with freeCount := s.freeCount + 1 }

/-! ## Traps (05 R112, R113) -/

/-- The header word of a record (21 R340). -/
def evHdr (tick unit ukind job cause : Nat) : Word :=
  BitVec.ofNat 64 (cause % 256 + (job % 64) * 2 ^ 8 + (ukind % 4) * 2 ^ 14 + (unit % 4096) * 2 ^ 16 + (tick % 2 ^ 36) * 2 ^ 28)

/-- UNIT of a tile in the layout of 08 R173. -/
def tileUnit (cell kind : Nat) : Nat := cell % 512 + kind * 512

/-- Hold an asynchronous trap for a context: at most one for each cause (05 R112). -/
def Context.hold (c : Context) (t : Trap) : Context :=
  if c.traps.any (fun u => u.cause == t.cause) then c else { c with traps := c.traps ++ [t] }

/-- Move the pc; the fetch buffer is kept until pc leaves its unit (05 R110). -/
def Context.goto (c : Context) (pc : Word) : Context :=
  { c with
    pc := pc
    fetch := match c.fetch with
      | some (a, u) => if a.toNat = pc.toNat / 64 * 64 then some (a, u) else none
      | none => none }

/-- The word at a context's pc, if its buffer holds the unit. -/
def Context.fetched (x : Context) : Option (BitVec 32) :=
  match x.fetch with
  | some (a, u) => if a.toNat = x.pc.toNat / 64 * 64 then some (bits u (8 * (x.pc.toNat % 64)) 32) else none
  | none => none

/-- The word that a context issues: that of its instruction in progress, or the one fetched. -/
def Context.word (x : Context) : Option (BitVec 32) := if x.wait = .access .fence then x.cur.or x.fetched else x.fetched

/-- The registers and state that taking a trap writes when the context has a handler and runs none (05 R113). -/
def Context.enter (c : Context) (async : Bool) (t : Trap) (epc : Word) : Context :=
  Context.goto
    { c with
      cause := BitVec.ofNat 8 t.cause, async := async, epc := epc &&& ~~~3#64, tp0 := t.tp0, tp1 := t.tp1, tp2 := t.tp2,
      tunit := t.unit, tukind := t.ukind, intr := true, st := .ready, wait := .none } c.tvec

/-- Whether a context takes a trap or halts (05 R113). -/
def Context.canTake (c : Context) : Bool := c.tvec != 0 && !c.intr

/-! ## Physical memory of the stacks (14 R264, R265, R280) -/

/-- The fold F of 14 R265 under a mask, and the pseudo-channel of a stack address. -/
def foldOf (hmask : BitVec 27) (sa : Nat) : Nat :=
  let m := sa &&& (hmask.toNat * 2 ^ 13)
  (m / 2 ^ 13 % 64) ^^^ (m / 2 ^ 19 % 64) ^^^ (m / 2 ^ 25 % 64) ^^^ (m / 2 ^ 31 % 64) ^^^ (m / 2 ^ 37 % 8)
def pcOf (hmask : BitVec 27) (sa : Nat) : Nat := (sa / 128 % 64) ^^^ foldOf hmask sa

/-- The place of a byte of a stack: the stack address with [12:7] replaced by the pseudo-channel (14 R265), numbered
across the stacks. -/
def State.hbmKey (s : State) (stack sa : Nat) : Nat :=
  stack * 2 ^ 36 + (sa / 2 ^ 13 * 2 ^ 13 + pcOf (s.stk stack).hmask sa * 128 + sa % 128)

/-- The stack address whose byte stands at a place: the inverse of hbmKey within a stack. -/
def State.hbmSa (s : State) (key : Nat) : Nat :=
  let a := key % 2 ^ 36
  a / 2 ^ 13 * 2 ^ 13 + ((a / 128 % 64) ^^^ foldOf (s.stk (key / 2 ^ 36)).hmask a) * 128 + a % 128

/-- One access counted in PCREQ, saturating (15 R280, R281); pcNow counts those of the cycle. -/
def State.countKey (s : State) (key : Nat) : State :=
  let i := key / 2 ^ 36 * 64 + key / 128 % 64
  { s with pcreq := Tbl.upd 0 s.pcreq i satInc, pcNow := Tbl.upd 0 s.pcNow i satInc }
def State.countAccess (s : State) (stack sa : Nat) : State := s.countKey (s.hbmKey stack sa)

/-- A stack that accepts requests: in service and not quiesced (14 R266, 24 R368). -/
def State.stackOpen (s : State) (stack : Nat) : Bool := !(s.stk stack).quiesce
/-- A stack takes an access of job j: with STRICT set only one of a job that owns slots of its wheel (14 R267; log entry 87). -/
def State.takesFor (s : State) (j stack : Nat) : Bool := s.stackOpen stack && (!s.strict || (s.job j).rshare != 0)
def State.inService (s : State) (stack : Nat) : Bool := bitB s.stacksIn stack

/-- An uncorrectable unit of the stacks (space 1) or of the scratchpads (space 0) (14 R279). -/
def State.hbmBad (s : State) (stack sa : Nat) : Bool := s.bad.contains (1, s.hbmKey stack sa / 64)

/-- An uncorrectable error of a stack is counted (14 R266). -/
def State.noteBad (s : State) (k : Nat) : State := s.updStk k (fun t => { t with uecnt := satInc t.uecnt })

/-- Read and write within one unit of a stack. -/
def State.hbmWord (s : State) (stack sa : Nat) : Word := memWord s.hbm (s.hbmKey stack sa)
def State.hbmUnit (s : State) (stack sa : Nat) : Unit64 := memUnit s.hbm (s.hbmKey stack (sa / 64 * 64))
def State.hbmPut (s : State) (stack sa n v : Nat) : State := { s with hbm := memWrite s.hbm (s.hbmKey stack sa) n v }

/-! ## Placement and page-table entries (14 R264, R269) -/

/-- The stacks a placement code names, ascending (14 R264). -/
def stacksOf (j : Job) (stk : Nat) : List Nat :=
  if stk = 15 then List.range 12
  else (List.range 12).filter (fun i => bitB (vget 0 j.stkset (stk - 12)) i)

/-- place() of 14 R264: the stack and stack address of a set address; none for a placement error, a stack out of service
included (24 R368). -/
def State.place (s : State) (j : Nat) (stk x : Nat) : Option (Nat × Nat) :=
  let r : Option (Nat × Nat) :=
    if stk < 12 then (if x < 2 ^ 36 then some (stk, x) else none)
    else
      let set := stacksOf (s.job j) stk
      let n := set.length
      if n = 0 then none
      else if n * 2 ^ 36 ≤ x then none
      else
        let g := x / 4096
        some (set.getD (g % n) 0, g / n * 4096 + x % 4096)
  match r with
  | some (k, sa) => if s.inService k then some (k, sa) else none
  | none => none

def pteV (e : Word) : Bool := bitB e 0
def pteL (e : Word) : Bool := bitB e 1
def pteRd (e : Word) : Bool := bitB e 2
def pteWr (e : Word) : Bool := bitB e 3
def pteEx (e : Word) : Bool := bitB e 4
def pteAc (e : Word) : Bool := bitB e 5
def pteDt (e : Word) : Bool := bitB e 6
def pteC64 (e : Word) : Bool := bitB e 7
def pteTier (e : Word) : Nat := bitsN e 8 2
def pteStk (e : Word) : Nat := bitsN e 10 4
def pteFrame (e : Word) : Nat := bitsN e 16 44
def ptePin (e : Word) : Bool := bitB e 60

/-- Page size of a leaf at a level (14 R268). -/
def pageSize (e : Word) (lv : Nat) : Nat :=
  match lv with
  | 1 => 2 ^ 30
  | 2 => 2 ^ 21
  | _ => if pteC64 e then 2 ^ 16 else 2 ^ 12

/-- malformed(e, lv) of 14 R269 and R270. -/
def pteMalformed (e : Word) (lv : Nat) : Bool :=
  bitsN e 14 2 != 0 || bitsN e 61 3 != 0 || pteTier e == 3
    || (if pteL e then
          lv == 0 || (pteTier e == 0 && (2 ^ 28 ≤ pteFrame e || pteFrame e * 4096 % pageSize e lv != 0))
        else
          lv == 3 || bitsN e 2 6 != 0 || pteTier e != 0 || ptePin e || 12 ≤ pteStk e)

/-- Whether an entry grants an access, and the detail code when it does not (14 R270). -/
def Kind.allowed (k : Kind) (e : Word) : Bool :=
  match k with
  | .read => pteRd e
  | .write => pteWr e
  | .atomic => pteRd e && pteWr e
  | .fetch => pteEx e
def Kind.detail : Kind → Nat
  | .read => 8
  | .write => 9
  | .fetch => 10
  | .atomic => 11
/-- Whether an access sets DT (14 R271). -/
def Kind.writes : Kind → Bool
  | .write => true
  | .atomic => true
  | _ => false

/-- How a translation ends: at a place, in a fault (cause 3 or 4, with its code), at a tier miss, at an uncorrectable
table entry, or held back by a quiesced stack. -/
inductive Trans where
  | ok (stack sa : Nat)
  | fault (cause code : Nat)
  | tier
  | bad (stack sa : Nat)
  | wait
  deriving DecidableEq, Repr

/-! ## The walk (14 R268 to R271, R276) -/

/-- Index of a level in a device-virtual address (14 R268). -/
def lvIndex (va lv : Nat) : Nat :=
  match lv with
  | 0 => va / 2 ^ 39 % 2 ^ 13
  | 1 => va / 2 ^ 30 % 2 ^ 9
  | 2 => va / 2 ^ 21 % 2 ^ 9
  | _ => va / 2 ^ 12 % 2 ^ 9

/-- va lies in the job's tier range (14 R274). -/
def Job.inTier (j : Job) (va : Nat) : Bool := j.tvlo.toNat ≤ va / 2 ^ 21 && va / 2 ^ 21 < j.tvhi.toNat

/-- Record a walked address in the working-set record (14 R276). -/
def State.wsRecord (s : State) (j va : Nat) : State :=
  let job := s.job j
  let k := job.wstk.toNat
  if !job.wsen || 12 ≤ k then s
  else
    let sa := job.wsa.toNat * 2 ^ 21 + 8 * (va / 2 ^ 21 % 2 ^ 18)
    let s := s.countAccess k sa
    let e := s.hbmWord k sa
    let n : Word := BitVec.ofNat 64 (1 + (va / 2 ^ 21) * 2)
    if e = n then s
    else
      let s := (s.hbmPut k sa 8 n.toNat).countAccess k sa
      if bitB e 0 then s.updJob j (fun b => { b with wslost := b.wslost + 1 }) else s

/-- The unit of the working-set record that a walk writes, if recording is on. -/
def State.wsPlace (s : State) (j va : Nat) : Option (Nat × Nat) :=
  let job := s.job j
  if !job.wsen || 12 ≤ job.wstk.toNat then none else some (job.wstk.toNat, job.wsa.toNat * 2 ^ 21 + 8 * (va / 2 ^ 21 % 2 ^ 18))

/-- The end of a walk at a valid leaf e, read at (stack, sa). It waits while the stack of the record is quiesced (R266), and a bad
unit of the record stops it as a bad table entry does (R279). -/
def State.walkLeaf (s : State) (j va : Nat) (k : Kind) (lv stack sa : Nat) (e : Word) : State × Word × Trans :=
  let w := s.wsPlace j va
  if w.any (fun p => !s.takesFor j p.1) then (s, e, .wait)
  else if w.any (fun p => s.hbmBad p.1 p.2) then
    (s, e, (match w with
      | some p => .bad p.1 p.2
      | none => .wait))
  else
  let s := if pteAc e then s else (s.hbmPut stack sa 8 (e ||| 0x20#64).toNat).countAccess stack sa
  let e := e ||| 0x20#64
  let s := s.wsRecord j va
  let size := pageSize e lv
  if (s.job j).inTier va && size ≠ 2 ^ 21 then (s, e, .fault 3 (5 + lv * 16))
  else if !k.allowed e then (s, e, .fault 4 (k.detail + lv * 16))
  else
    match s.place j (pteStk e) (pteFrame e * 4096 + va % size) with
    | none => (s, e, .fault 3 (4 + lv * 16))
    | some (st, a) =>
      if pteTier e ≠ 0 then (s, e, .tier)
      else if k.writes && !pteDt e then
        ((s.hbmPut stack sa 8 (e ||| 0x40#64).toNat).countAccess stack sa, e ||| 0x40#64, .ok st a)
      else (s, e, .ok st a)

/-- The walk from a table at (stack, base) on level lv. -/
def State.walkFrom (s : State) (j va : Nat) (k : Kind) : Nat → Nat → Nat → Nat → State × Word × Nat × Trans
  | 0, lv, _, _ => (s, 0, lv, .fault 3 (2 + lv * 16))
  | fuel + 1, lv, stack, base =>
    let sa := base + 8 * lvIndex va lv
    if 2 ^ 36 ≤ sa || 12 ≤ stack || !s.inService stack then (s, 0, lv, .fault 3 (4 + lv * 16))
    else if !s.takesFor j stack then (s, 0, lv, .wait)
    else
      let s := s.countAccess stack sa
      if s.hbmBad stack sa then (s, 0, lv, .bad stack sa)
      else
        let e := s.hbmWord stack sa
        if !pteV e then (s, e, lv, .fault 3 (1 + lv * 16))
        else if pteMalformed e lv then (s, e, lv, .fault 3 (2 + lv * 16))
        else if pteL e then
          let r := s.walkLeaf j va k lv stack sa e
          (r.1, r.2.1, lv, r.2.2)
        else State.walkFrom s j va k fuel (lv + 1) (pteStk e) (pteFrame e * 4096)

/-- translate(va, kind) of 14 R270 by a walk: the leaf entry, its level, and the outcome. -/
def State.walk (s : State) (j va : Nat) (k : Kind) : State × Word × Nat × Trans :=
  if 2 ^ 52 ≤ va then (s, 0, 0, .fault 3 3)
  else if !(s.job j).ten then (s, 0, 0, .fault 3 6)
  else s.walkFrom j va k 4 0 (s.job j).rstk.toNat ((s.job j).roota.toNat * 2 ^ 16)

/-! ## Translation caches (14 R272) -/

/-- The entry of a cache that decides an access: one that lacks the permission too, since a changed entry takes effect only after an
invalidation (R273); but a write or an atomic whose entry lacks DT walks again (R271). -/
def tlbFind (t : List TlbEnt) (j va : Nat) (k : Kind) : Option TlbEnt :=
  t.find? (fun e => e.job == j && va / e.size == e.page && (!k.allowed e.pte || !k.writes || pteDt e.pte))

/-- Put an entry into a cache of a given size; the oldest entry leaves (log entry 12). -/
def tlbPut (t : List TlbEnt) (cap : Nat) (e : TlbEnt) : List TlbEnt :=
  let t := t.filter (fun f => !(f.job == e.job && f.page == e.page && f.size == e.size))
  (if cap ≤ t.length then t.drop (t.length + 1 - cap) else t) ++ [e]

/-- The level of a cached leaf, which its size shows (14 R268). -/
def TlbEnt.level (e : TlbEnt) : Nat := if e.size = 2 ^ 30 then 1 else if e.size = 2 ^ 21 then 2 else 3

/-- What a cached entry gives an access: a permission fault, a place, or a placement fault. -/
def State.tlbPlace (s : State) (e : TlbEnt) (va : Nat) (k : Kind) : Trans :=
  if !k.allowed e.pte then .fault 4 (k.detail + 16 * e.level)
  else match s.place e.job (pteStk e.pte) (pteFrame e.pte * 4096 + va % e.size) with
  | some (k, sa) => .ok k sa
  | none => .fault 3 (4 + 16 * e.level)

/-- Translation by a die: its cache, then a walk, whose leaf is cached when its tier is 00 (14 R272). -/
def State.dieTranslate (s : State) (die j va : Nat) (k : Kind) : State × Option TlbEnt × Trans :=
  match tlbFind (vget [] s.dtlb die) j va k with
  | some e => (s, some e, s.tlbPlace e va k)
  | none =>
    let r := s.walk j va k
    match r.2.2.2 with
    | .ok st sa =>
      let size := pageSize r.2.1 r.2.2.1
      let e : TlbEnt := { job := j, page := va / size, size := size, pte := r.2.1 }
      ({ r.1 with dtlb := vset r.1.dtlb die (tlbPut (vget [] r.1.dtlb die) 16384 e) }, some e, .ok st sa)
    | t => (r.1, none, t)

/-- The walks of a die for one page. -/
def Walk.isFor (w : Walk) (die j va : Nat) : Bool := w.die == die && w.job == j && w.page == va / 4096

/-- A miss of a unit beside the address generators takes its place among the walks of its die, in arrival order, or merges with the walk
of its page; a full die leaves it waiting outside (14 R272). -/
def State.queueWalk (s : State) (die j va : Nat) (k : Kind) : State :=
  if s.walks.any (fun w => w.isFor die j va) then
    { s with walks := s.walks.map (fun w => if w.isFor die j va then { w with own := w.own.or (some (va, k)) } else w) }
  else if 4096 ≤ (s.walks.filter (fun w => w.die == die)).length then s
  else { s with walks := s.walks ++ [{ die := die, job := j, page := va / 4096, reqs := [], own := some (va, k) }] }

/-- A miss may walk at once: it has, or finds free, one of the die's 64 walkers, and no request of an address generator shares its walk. -/
def State.walkerFree (s : State) (die j va : Nat) : Bool :=
  let ws := s.walks.filter (fun w => w.die == die)
  match ws.findIdx? (fun w => w.isFor die j va) with
  | some i => i < 64 && (ws[i]?).all (fun w => w.reqs.isEmpty)
  | none => ws.length < 64

/-- Translation for a unit beside the address generators: a miss waits for a walker, and for a quiesced stack, as one of the die's
outstanding misses (14 R272). -/
def State.dieAccess (s : State) (die j va : Nat) (k : Kind) : State × Option TlbEnt × Trans :=
  if (tlbFind (vget [] s.dtlb die) j va k).isSome then s.dieTranslate die j va k
  else if !s.walkerFree die j va then (s.queueWalk die j va k, none, .wait)
  else
    let r := State.dieTranslate { s with walks := s.walks.filter (fun w => !w.isFor die j va) } die j va k
    match r.2.2 with
    | .wait => (s.queueWalk die j va k, none, .wait)
    | _ => r

/-- Translation for a control core (05 R115, 14 R272): its micro-TLB first. -/
def State.coreTranslate (s : State) (core j va : Nat) (k : Kind) : State × Trans :=
  match (if va < 2 ^ 52 then tlbFind (s.core core).utlb j va k else none) with
  | some e => (s, s.tlbPlace e va k)
  | none =>
    let r := s.dieAccess (core / 4) j va k
    match r.2.1 with
    | some e => (r.1.updCore core (fun c => { c with utlb := tlbPut c.utlb 32 e }), r.2.2)
    | none => (r.1, r.2.2)

/-! ## Written lines (05 R110, R131, R132; 06 R139) -/

/-- A written line empties the fetch buffer that holds it, and a WAITC that waits on it reads again. -/
def Context.note (x : Context) (va : Nat) : Context :=
  { x with
    fetch := x.fetch.filter (fun b => b.1 != BitVec.ofNat 64 (va / 64 * 64))
    waitcDirty := x.waitcDirty || (match x.wait with
      | .waitc a _ _ => a.toNat / 64 == va / 64
      | _ => false) }

/-- Note that an agent of a job has written the 64-byte line of an address. -/
def State.noteLine (s : State) (j va : Nat) : State :=
  let line : Word := BitVec.ofNat 64 (va / 64 * 64)
  let mine (c : Nat) : Bool := (s.ctx c).job == j && (s.ctx c).st != .free
  { s with
    ctxs := s.ctxs.map (fun x => if x.job ≠ j || x.st == .free then x else x.note va)
    cores := s.cores.map (fun k =>
      { k with mon := k.mon.map (fun m => if m.line = line && mine m.ctx then { m with hit := true } else m) })
    reaches := s.reaches.map (fun r => if r.job = j && r.st == .accepted then { r with pollDirty := true, pollStuck := false } else r) }

/-! ## Tier misses (14 R274) -/

/-- The requester number of a unit. -/
def whoOf (ukind unit : Nat) : Nat := unit % 4096 + 4096 * ukind

/-- Requesters: a context, the launch sequencer, the undertow engine (21 R340). -/
def whoCtx (c : Nat) : Nat := whoOf 1 c
def whoSeq : Nat := whoOf 2 0x000
def whoUndertow : Nat := whoOf 2 0x001

/-- A miss of an address's page waits. -/
def State.missing (s : State) (j va : Nat) : Bool := s.misses.any (fun m => m.job == j && m.page == va / 2 ^ 21)

/-- A tier miss, merged with an earlier one of its page (14 R274). -/
def State.tierMiss (s : State) (j va who reach : Nat) : State :=
  if s.missing j va then s
  else { s with
    misses := s.misses ++ [{ job := j, page := va / 2 ^ 21, unit := BitVec.ofNat 12 (who % 4096),
                             ukind := BitVec.ofNat 2 (who / 4096), va := BitVec.ofNat 64 va, since := s.tick,
                             last := s.tick, reach := reach }] }

/-! ## The job event log (21 R340 to R342, 24 R362) -/

/-- Request MSI-X vector 0 for a record whose cause IRQMASK selected (24 R362). -/
def State.irq (s : State) (j : Nat) (selected : Bool) : State :=
  if !selected then s
  else if (s.job j).irqpend then s.updJob j (fun b => { b with irqMore := true })
  else { s.updJob j (fun b => { b with irqpend := true, irqMore := false }) with msix := Tbl.upd 0 s.msix j (· + 1) }

/-- Number of records in the ring (21 R341). -/
def Job.ring (b : Job) : Nat := 2 ^ (if b.elsize.toNat < 4 || 20 < b.elsize.toNat then 4 else b.elsize.toNat)

/-- The trap of a record, once the record is in the log or dropped (21 R341). -/
def State.recTrap (s : State) (r : EvRec) : State :=
  match r.trap with
  | none => s
  | some c => s.updCtx c (fun x => x.hold
      { cause := bitsN r.hdr 0 8, unit := bits r.hdr 16 12, ukind := bits r.hdr 14 2, tp0 := r.tp0, tp1 := r.tp1, tp2 := r.tp2 })

/-- The four words of a record as a number (21 R340). -/
def EvRec.bytes (r : EvRec) : Nat :=
  r.hdr.toNat + r.tp0.toNat * 2 ^ 64 + r.tp1.toNat * 2 ^ 128 + r.tp2.toNat * 2 ^ 192

/-- Report an uncorrectable error once for a waiting access: it is counted at its stack and noted as reported, and its record follows
(14 R279). `src` is 0 SRAM, 1 HBM, 2 walk, 3 undertow move. -/
def State.noteError (s : State) (j key src stack who : Nat) : State :=
  let s := if src = 0 then s else s.noteBad stack
  { s with memErrs := (j, key, who) :: s.memErrs }
def State.errorRec (s : State) (j addr src stack who : Nat) : EvRec :=
  { hdr := evHdr s.tick stack 3 j 0x0F, tp0 := BitVec.ofNat 64 addr, tp1 := BitVec.ofNat 64 (src + 16 * stack),
    tp2 := BitVec.ofNat 64 (who % 4096), trap := none, irq := bitB (s.job j).irqmask 0x0F }

/-- The access has been made after all. -/
def State.memErrDone (s : State) (j key who : Nat) : State :=
  if s.memErrs.contains (j, key, who) then { s with memErrs := s.memErrs.filter (· != (j, key, who)) } else s

/-- Write or drop one record; while its page is not in HBM, or a stack it needs is quiesced, it waits (21 R341, 24 R369), and what it
waits for is noted: a page in a lower tier is a tier miss, and a bad table entry stops it and is reported behind it (14 R279). The records
that follow it stand beside the state in which it waits. -/
def State.logOne (s : State) (j : Nat) (r : EvRec) : Except (State × List EvRec) State :=
  let b := s.job j
  let drop (s : State) : State := ((s.updJob j (fun b => { b with lost := satInc b.lost })).irq j r.irq).recTrap r
  if !b.elen || b.elfault || b.ring = (b.wridx - b.rdidx).toNat then .ok (drop s)
  else
    let va := b.elbase.toNat * 4096 + 32 * (b.wridx.toNat % b.ring)
    let t := s.dieAccess 0 j va .write
    match t.2.2 with
    | .ok k sa =>
      if !s.takesFor j k then .error (s, [])
      else
        let s := ((t.1.memErrDone j va whoSeq).countAccess k sa).hbmPut k sa 32 r.bytes
        let s := s.updJob j (fun b => { b with wridx := b.wridx + 1 })
        .ok (((s.noteLine j va).irq j r.irq).recTrap r)
    | .tier => .error (if s.missing j va then s else t.1.tierMiss j va whoSeq 0, [])
    | .wait => .error (t.1, [])
    | .bad k sa =>
      if s.memErrs.contains (j, va, whoSeq) then .error (s, [])
      else .error (t.1.noteError j va 2 k whoSeq, [s.errorRec j sa 2 k whoSeq])
    | _ => .ok (drop (t.1.updJob j (fun b => { b with elfault := true })))

/-- Write the records that wait, oldest first, until one has to wait. -/
def State.flushLog (s : State) (j : Nat) : List EvRec → State
  | [] => s.updJob j (fun b => { b with logq := [] })
  | r :: t =>
    match s.logOne j r with
    | .ok s' => State.flushLog s' j t
    | .error (s, more) => s.updJob j (fun b => { b with logq := r :: t ++ more })

/-- The context an event of a reach traps: the one bound to it, when the mask selects the cause and the reach is live
(21 R342). -/
def State.trapTarget (s : State) (j cause : Nat) (reach : Option Nat) : Option Nat :=
  match reach with
  | none => none
  | some id =>
    match s.reach? id with
    | some r => if r.live && r.bound && bitB (s.job j).etmask cause then some r.ctx else none
    | none => none

/-- Raise an event: one record to the job's log, and its trap (21 R339 to R342). -/
def State.event (s : State) (j cause ukind unit : Nat) (tp0 tp1 tp2 : Word) (reach : Option Nat) : State :=
  let r : EvRec :=
    { hdr := evHdr s.tick unit ukind j cause, tp0 := tp0, tp1 := tp1, tp2 := tp2, trap := s.trapTarget j cause reach
      irq := bitB (s.job j).irqmask cause }
  s.flushLog j ((s.job j).logq ++ [r])

/-! ## Taking a trap and returning (05 R113, R114) -/

/-- take_trap of 05 R113 for context c. An asynchronous trap's record is already in the log. -/
def State.takeTrap (s : State) (c : Nat) (async : Bool) (t : Trap) (epc : Word) : State :=
  let x := s.ctx c
  if x.canTake then s.updCtx c (fun x => x.enter async t epc)
  else
    let s := if async then s else s.event x.job t.cause t.ukind.toNat t.unit.toNat t.tp0 t.tp1 t.tp2 none
    s.updCtx c (fun x => { x with st := .halted, wait := .none })

/-- A synchronous trap of context c at its current instruction (05 R112, R113). -/
def State.syncTrap (s : State) (c cause : Nat) (tp0 tp1 tp2 : Word) : State :=
  s.takeTrap c false
    { cause := cause, unit := BitVec.ofNat 12 c, ukind := 1, tp0 := tp0, tp1 := tp1, tp2 := tp2 } (s.ctx c).pc

/-- The return of 05 R114: the pc from cc.epc, and INTR clear. -/
def Context.return (c : Context) : Context := Context.goto { c with intr := false } c.epc

end Sys2Proof.Machine
end

