-- ==== Sys2Proof/Machine/Memory.lean ====
section
/-!
DEFINITION. Accesses of the device outside the address generators: how a translation ends for a control core or a unit of
the harbour die, memory errors (14 R279), and tier misses (14 R274). A requester is numbered UNIT + 4096 × UKIND
(21 R340).
-/

namespace Sys2Proof.Machine

open Sys2Proof

/-- An access that found an uncorrectable error waits (14 R279). The first time, it has read as `t` says and the error is reported; from
then on it stands as it is until the unit is good. -/
def State.memError (s t : State) (j key addr src stack who : Nat) : State :=
  if s.memErrs.contains (j, key, who) then s
  else let u := t.noteError j key src stack who
    u.flushLog j ((u.job j).logq ++ [u.errorRec j addr src stack who])

/-- How an access stands after its translation: at a place it may use, in a fault, or waiting. -/
inductive Reached where
  | at (stack sa : Nat)
  | fault (cause code : Nat)
  | wait
  deriving DecidableEq, Repr

/-- The outcome of a translation that took s to t, with a closed stack, an uncorrectable unit that a read finds, a bad table entry or a
page that is not in HBM making the access wait (14 R266, R267, R274, R279). `again` says that the access has waited before: one that
waits for a page on its way makes no walk meanwhile. -/
def State.settleAccess (s t : State) (r : Trans) (j va : Nat) (k : Kind) (who : Nat) (again : Bool) : State × Reached :=
  match r with
  | .ok st sa =>
    if !t.takesFor j st then (t, .wait)
    else if k != .write && t.hbmBad st sa then (s.memError (t.countAccess st sa) j va va 1 st who, .wait)
    else (t.memErrDone j va who, .at st sa)
  | .fault cause code => (t, .fault cause code)
  | .tier => (if again && s.missing j va then s else t.tierMiss j va who 0, .wait)
  | .bad st sa => (s.memError t j va sa 2 st who, .wait)
  | .wait => (t, .wait)

/-- An access of a control core's context. -/
def State.coreReach (s : State) (c : Nat) (va : Word) (k : Kind) : State × Reached :=
  let j := (s.ctx c).job
  let t := s.coreTranslate (ctxCore c) j va.toNat k
  s.settleAccess t.1 t.2 j va.toNat k (whoCtx c) ((s.ctx c).st == .blocked)

/-- An access of a unit of the harbour die, through die 0 (log entry 27). -/
def State.sysReach (s : State) (j va : Nat) (k : Kind) (who : Nat) : State × Reached :=
  let t := s.dieAccess 0 j va k
  s.settleAccess t.1 t.2.2 j va k who true

/-- Read a 64-byte unit or a 64-bit word at a place, counted (15 R281). -/
def State.readWord (s : State) (st sa : Nat) : State × Word := (s.countAccess st sa, s.hbmWord st sa)
def State.readUnit (s : State) (st sa : Nat) : State × Unit64 := (s.countAccess st sa, s.hbmUnit st sa)

/-- A unit written whole is good again (log entry 24). -/
def State.mend (s : State) (space key : Nat) : State := { s with bad := s.bad.filter (· != (space, key)) }

/-- Write n bytes within one unit, as an access of a job at va: counted, with its line written (05 R131, R132). -/
def State.writeAt (s : State) (j va st sa n v : Nat) : State :=
  let s := (s.countAccess st sa).hbmPut st sa n v
  let s := if n = 64 then s.mend 1 (s.hbmKey st sa / 64) else s
  s.noteLine j va

end Sys2Proof.Machine
end

