-- ==== Sys2Proof/Config.lean ====
section
/-!
DEFINITION. What the spec leaves open: values with no body, so that nothing can evaluate them (notes/assumptions says
where each is used). Each is applied to a plain counter of the state or to the operands it depends on.
-/

namespace Sys2Proof.Config

/-- A payload word or register value whose content the spec does not state, by the state's draw counter (log entry 13). -/
opaque openWord : Nat → BitVec 64

/-- Whether a signature verifies, by the identifier of its key, the units before the signature block and the eight units of the
signature (02 R65, 24 R370; log entry 10). -/
opaque signatureOk : BitVec 64 → List (BitVec 512) → List (BitVec 512) → Bool

/-- Whether the boot firmware verifies at a cold reset, by the number of the reset (24 R370; log entry 10). -/
opaque firmwareOk : Nat → Bool

/-- The firmware digest, the four image-key identifiers and the signature of an attestation report, and the identity
certificate, in 64-bit words (24 R372; log entry 10). -/
opaque firmwareDigest : Nat → BitVec 64
opaque imageKey : Nat → BitVec 64
opaque reportSignature : List (BitVec 64) → Nat → BitVec 64
opaque identityWord : Nat → BitVec 64

/-- The identifier of the device identity key, which is never zero (24 R368; log entry 10): one more than a free value. -/
opaque identityKeyBelow : Fin 18446744073709551615
def identityKey : BitVec 64 := BitVec.ofNat 64 (identityKeyBelow.val + 1)

/-- Results of training at a cold reset, by the number of the reset: open seam links, stacks in service and trained shore
ports (07 R153, 24 R368; log entry 9). -/
opaque seamTrained : Nat → BitVec 32
opaque stacksTrained : Nat → BitVec 12
opaque shoreTrained : Nat → BitVec 8

/-- Package power over the last ms, by its number (24 R373; log entry 14). -/
opaque powerNow : Nat → BitVec 12

/-- The source channel in the header of a template's packets, by four times the cell index plus the template: a template has no
channel of its own (19 R316; log entry 13). -/
opaque streamChannel : Nat → BitVec 3
/-- The stepping that the capability list shows (24 R368; log entry 9). -/
opaque stepping : BitVec 8

end Sys2Proof.Config
end

