-- ==== Sys2Proof/Machine/Numeric.lean ====
section
/-!
DEFINITION. Exact arithmetic of 04 R86 to R107. A value is a FVal: NaN, a signed infinity, a signed zero, or a non-zero
dyadic number n × 2^e. Operations are exact; rounding happens in `roundTo` only.
-/

namespace Sys2Proof.Machine

/-- A value of a number format, exact (04 R97). `fin n e` is n × 2^e with n ≠ 0. -/
inductive FVal where
  | nan
  | inf (neg : Bool)
  | zero (neg : Bool)
  | fin (n : Int) (e : Int)
  deriving DecidableEq, Repr

/-- The parameters of a float format (04 R86, R87): width, mantissa bits, bias, and whether it has infinities. -/
structure FloatFmt where
  w : Nat
  m : Nat
  bias : Nat
  hasInf : Bool
  deriving DecidableEq, Repr

/-- Format tags (04 R86). -/
def fI8 : Nat := 0
def fE4M3 : Nat := 1
def fE5M2 : Nat := 2
def fE2M1X : Nat := 3
def fBF16 : Nat := 4
def fF16 : Nat := 5
def fF32 : Nat := 6
def fI32 : Nat := 7

/-- The float format of a tag; an integer tag is given the parameters of f32, which no caller uses. -/
def floatFmt (f : Nat) : FloatFmt :=
  match f with
  | 1 => ⟨8, 3, 7, false⟩
  | 2 => ⟨8, 2, 15, true⟩
  | 3 => ⟨4, 1, 1, false⟩
  | 4 => ⟨16, 7, 127, true⟩
  | 5 => ⟨16, 10, 15, true⟩
  | _ => ⟨32, 23, 127, true⟩

/-- Element width in bits and lanes in a token (04 R86). -/
def elemBits (f : Nat) : Nat :=
  match f with
  | 0 => 8 | 1 => 8 | 2 => 8 | 3 => 4 | 4 => 16 | 5 => 16 | _ => 32
def lanesOf (f : Nat) : Nat := 512 / elemBits f

/-- The integer formats. -/
def isIntFmt (f : Nat) : Bool := f == 0 || f == 7

/-- Exponent of the smallest normal. -/
def FloatFmt.emin (F : FloatFmt) : Int := 1 - F.bias

/-- Bits of the exponent field. -/
def FloatFmt.eb (F : FloatFmt) : Nat := F.w - 1 - F.m

/-- Flag masks V, O and S (04 R96). -/
def flagV : Nat := 1
def flagO : Nat := 2
def flagS : Nat := 4

/-! ## Exact operations -/

/-- The dyadic n × 2^e, zero being +0. -/
def mkNum (n e : Int) : FVal := if n = 0 then .zero false else .fin n e

/-- Sign of a value. -/
def FVal.neg? : FVal → Bool
  | .nan => false
  | .inf s => s
  | .zero s => s
  | .fin n _ => n < 0

/-- Negation: exact. -/
def FVal.neg : FVal → FVal
  | .nan => .nan
  | .inf s => .inf !s
  | .zero s => .zero !s
  | .fin n e => .fin (-n) e

/-- Absolute value: exact. -/
def FVal.abs : FVal → FVal
  | .nan => .nan
  | .inf _ => .inf false
  | .zero _ => .zero false
  | .fin n e => .fin n.natAbs e

/-- The value with a given sign. -/
def FVal.withSign (s : Bool) (x : FVal) : FVal := if s then x.abs.neg else x.abs

/-- Multiplication by 2^k: exact. -/
def FVal.scale (k : Int) : FVal → FVal
  | .fin n e => .fin n (e + k)
  | x => x

/-- n × 2^e as an integer multiple of 2^q, q ≤ e. -/
def alignTo (q : Int) (n e : Int) : Int := n * 2 ^ (e - q).toNat

/-- Exact sum of two dyadics. -/
def addFin (n e n' e' : Int) : FVal := let q := min e e'; mkNum (alignTo q n e + alignTo q n' e') q

/-- The sign of an exact zero sum of two values that are not zeros of one sign: −0 under RDN, else +0 (IEEE 754, which
04 R87 names; DEDUCED, log entry 11). -/
def zeroSum (rdn : Bool) : FVal := .zero rdn

/-- Exact sum; `rdn` gives the sign of an exact zero sum. The flag is V for ∞ − ∞ (04 R96). -/
def addNum (rdn : Bool) : FVal → FVal → FVal × Nat
  | .nan, _ => (.nan, 0)
  | _, .nan => (.nan, 0)
  | .inf s, .inf s' => if s = s' then (.inf s, 0) else (.nan, flagV)
  | .inf s, _ => (.inf s, 0)
  | _, .inf s => (.inf s, 0)
  | .zero s, .zero s' => if s = s' then (.zero s, 0) else (zeroSum rdn, 0)
  | .zero _, y => (y, 0)
  | x, .zero _ => (x, 0)
  | .fin n e, .fin n' e' =>
    match addFin n e n' e' with
    | .zero _ => (zeroSum rdn, 0)
    | r => (r, 0)

/-- Exact product; the flag is V for 0 × ∞. -/
def mulNum : FVal → FVal → FVal × Nat
  | .nan, _ => (.nan, 0)
  | _, .nan => (.nan, 0)
  | .inf _, .zero _ => (.nan, flagV)
  | .zero _, .inf _ => (.nan, flagV)
  | .inf s, y => (.inf (s != y.neg?), 0)
  | x, .inf s => (.inf (x.neg? != s), 0)
  | .zero s, y => (.zero (s != y.neg?), 0)
  | x, .zero s => (.zero (x.neg? != s), 0)
  | .fin n e, .fin n' e' => (.fin (n * n') (e + e'), 0)

/-- a < b on the extended line; a NaN is below nothing and above nothing. -/
def ltNum : FVal → FVal → Bool
  | .nan, _ => false
  | _, .nan => false
  | .inf s, .inf s' => s && !s'
  | .inf s, _ => s
  | _, .inf s => !s
  | .zero _, .zero _ => false
  | .zero _, .fin n _ => 0 < n
  | .fin n _, .zero _ => n < 0
  | .fin n e, .fin n' e' => let q := min e e'; alignTo q n e < alignTo q n' e'

/-- Equality of values: zeros are equal whatever their sign. -/
def eqNum (a b : FVal) : Bool := a ≠ .nan && b ≠ .nan && !ltNum a b && !ltNum b a

/-- The larger and the smaller value (04 R101). -/
def maxNum (a b : FVal) : FVal :=
  match a, b with
  | .nan, _ => .nan
  | _, .nan => .nan
  | .zero s, .zero s' => .zero (s && s')
  | a, b => if ltNum a b then b else a
def minNum (a b : FVal) : FVal :=
  match a, b with
  | .nan, _ => .nan
  | _, .nan => .nan
  | .zero s, .zero s' => .zero (s || s')
  | a, b => if ltNum b a then b else a

/-! ## Rounding (04 R95, R97) -/

/-- floor(log2 |n × 2^e|), n ≠ 0. -/
def floorLog (n e : Int) : Int := (n.natAbs.log2 : Int) + e

/-- A magnitude a shifted right by s, rounded by the mode: 0 RNE, 1 RTZ, 2 RDN, 3 RUP, 4 RNA. -/
def roundMag (mode : Nat) (neg : Bool) (a s : Nat) : Nat :=
  let lo := a >>> s
  let rem := a - (lo <<< s)
  let half := 2 ^ (s - 1)
  let up : Bool :=
    if rem = 0 then false
    else match mode with
      | 0 => half < rem || (rem == half && lo % 2 == 1)
      | 1 => false
      | 2 => neg
      | 3 => !neg
      | _ => half ≤ rem
  if up then lo + 1 else lo

/-- n × 2^e rounded to a multiple of 2^q; the sign stays on a zero. -/
def roundAtExp (mode : Nat) (q n e : Int) : FVal :=
  if q ≤ e then .fin n e
  else
    let neg : Bool := n < 0
    let r := roundMag mode neg n.natAbs (q - e).toNat
    if r = 0 then .zero neg else .fin (if neg then -(r : Int) else r) q

/-- round(x, F, mode) of 04 R97. -/
def roundTo (F : FloatFmt) (mode : Nat) : FVal → FVal
  | .fin n e => roundAtExp mode (max (floorLog n e) F.emin - F.m) n e
  | x => x

/-- max(F) of 04 R97. -/
def FloatFmt.maxFin (F : FloatFmt) : FVal :=
  if F.hasInf then .fin (2 ^ (F.m + 1) - 1) ((2 ^ F.eb - 2 : Nat) - F.bias - F.m)
  else if F.w = 4 then .fin 6 0
  else .fin 448 0

/-- A rounded, saturated or infinite result and its flags: encode(F, x, mode, satbit) of 04 R97. The result is exactly
representable in F. -/
def encodeNum (f : Nat) (mode : Nat) (satb : Bool) (x : FVal) : FVal × Nat :=
  let F := floatFmt f
  match x with
  | .nan => (.nan, 0)
  | .zero s => (.zero s, 0)
  | .inf s =>
    if satb && f ≠ fF32 then (F.maxFin.withSign s, 0)
    else if f = fE4M3 then (.nan, flagV)
    else (.inf s, 0)
  | .fin n e =>
    let neg : Bool := n < 0
    let y := roundTo F mode (.fin n e)
    if !ltNum F.maxFin y.abs then (y, 0)
    else if satb && f ≠ fF32 then (F.maxFin.withSign neg, flagO)
    else if mode = 1 || (mode = 2 && !neg) || (mode = 3 && neg) then (F.maxFin.withSign neg, flagO)
    else if f = fE4M3 then (.nan, flagO)
    else (.inf neg, flagO)

/-- Limits of an integer format. -/
def intMax (f : Nat) : Int := if f = 0 then 127 else 2 ^ 31 - 1
def intMin (f : Nat) : Int := if f = 0 then -128 else -(2 ^ 31)

/-- encode_int(F, x, mode) of 04 R97. -/
def encodeInt (f : Nat) (mode : Nat) (x : FVal) : Int × Nat :=
  match x with
  | .nan => (0, flagV)
  | .inf s => (if s then intMin f else intMax f, flagV + flagS)
  | .zero _ => (0, 0)
  | .fin n e =>
    let v : Int := match roundAtExp mode 0 n e with
      | .fin n e => alignTo 0 n e
      | _ => 0
    if intMax f < v then (intMax f, flagS)
    else if v < intMin f then (intMin f, flagS)
    else (v, 0)

/-! ## Bits -/

/-- Canonical NaN bits (04 R87). -/
def nanBits (f : Nat) : Nat :=
  match f with
  | 1 => 0x7F | 2 => 0x7E | 4 => 0x7FC0 | 5 => 0x7E00 | 6 => 0x7FC00000 | _ => 0

/-- The bits of a value that F represents exactly. -/
def toBits (f : Nat) (x : FVal) : Nat :=
  let F := floatFmt f
  let sign (s : Bool) : Nat := if s then 2 ^ (F.w - 1) else 0
  match x with
  | .nan => nanBits f
  | .inf s => sign s + (2 ^ F.eb - 1) * 2 ^ F.m
  | .zero s => sign s
  | .fin n e =>
    let a := n.natAbs
    let l := floorLog n e
    let at' (q : Int) : Nat := if q ≤ e then a <<< (e - q).toNat else a >>> (q - e).toNat
    if l < F.emin then sign (n < 0) + at' (F.emin - F.m)
    else sign (n < 0) + ((l + F.bias).toNat * 2 ^ F.m + (at' (l - F.m) - 2 ^ F.m))

/-- Two's complement bits. -/
def intBits (w : Nat) (v : Int) : Nat := (v % (2 ^ w : Nat)).toNat

/-- decode(F, b) of 04 R97. e2m1x codes are decoded by `decodeElem`. -/
def decodeBits (f : Nat) (b : Nat) : FVal :=
  if isIntFmt f then
    let w := elemBits f
    let v : Int := if b < 2 ^ (w - 1) then (b : Int) else (b : Int) - 2 ^ w
    mkNum v 0
  else
    let F := floatFmt f
    let s : Bool := 2 ^ (F.w - 1) ≤ b
    let ex := (b / 2 ^ F.m) % 2 ^ F.eb
    let m := b % 2 ^ F.m
    let sg (k : Nat) : Int := if s then -(k : Int) else k
    if F.hasInf && ex = 2 ^ F.eb - 1 then (if m = 0 then .inf s else .nan)
    else if f = fE4M3 && ex = 15 && m = 7 then .nan
    else if ex = 0 then (if m = 0 then .zero s else .fin (sg m) (F.emin - F.m))
    else .fin (sg (2 ^ F.m + m)) ((ex : Int) - F.bias - F.m)

/-- The magnitude of an ordinary e2m1x code in halves (04 R89). -/
def e2m1Halves (c : Nat) : Nat :=
  match c % 8 with
  | 0 => 0 | 1 => 1 | 2 => 2 | 3 => 3 | 4 => 4 | 5 => 6 | 6 => 8 | _ => 12

/-- The unscaled value of an e2m1x code under a special byte (04 R89). -/
def e2m1Value (x c : Nat) : FVal :=
  if c = 8 then decodeBits fE4M3 x
  else if c = 0 then .zero false
  else .fin (if 8 ≤ c then -(e2m1Halves c : Int) else e2m1Halves c) (-1)

/-- One element under its companion pair (scale, special), none where no pair is bound to it (04 R89, R90). -/
def decodeElem (f : Nat) (pair : Option (Byte × Byte)) (b : Nat) : FVal :=
  if f = fE2M1X then
    let p := pair.getD (0x7F#8, 0x80#8)
    if p.1 = 0xFF#8 then .nan else (e2m1Value p.2.toNat b).scale ((p.1.toNat : Int) - 127)
  else if f = fE4M3 || f = fE5M2 then
    match pair with
    | none => decodeBits f b
    | some (s, _) => if s = 0xFF#8 then .nan else (decodeBits f b).scale ((s.toNat : Int) - 127)
  else decodeBits f b

/-- A value encoded to one element of an integer or float format other than e2m1x, with its flags (04 R98 step 3). -/
def encodeElem (f mode : Nat) (satb : Bool) (x : FVal) : Nat × Nat :=
  if isIntFmt f then let r := encodeInt f mode x; (intBits (elemBits f) r.1, r.2)
  else let r := encodeNum f mode satb x; (toBits f r.1, r.2)

/-- A value brought to f32 by a mode (04 R98 step 1). -/
def toF32 (mode : Nat) (satb : Bool) (x : FVal) : FVal × Nat := encodeNum fF32 mode satb x

/-! ## Quantisation (04 R91) -/

/-- The distance |a − b| of two finite values. -/
def distNum (a b : FVal) : FVal := (addNum false a b.neg).1.abs

/-- The 15 ordinary codes, those with M1 = 0 first, then code 1000: the order in which ties are decided. -/
def quantCodes : List Nat := [0, 2, 4, 6, 10, 12, 14, 1, 3, 5, 7, 9, 11, 13, 15, 8]

/-- The nearest code to u under special byte x. -/
def quantCode (x : Nat) (u : FVal) : Nat :=
  match u with
  | .zero _ => 0
  | _ =>
    (quantCodes.foldl (fun (best : Nat × FVal) c =>
      let d := distNum u (e2m1Value x c)
      if ltNum d best.2 then (c, d) else best) (0, .inf false)).1

/-- The largest magnitude and the first value that has it. -/
def amaxOf (v : List FVal) : FVal × FVal :=
  v.foldl (fun (best : FVal × FVal) x => if ltNum best.1 x.abs then (x.abs, x) else best) (.zero false, .zero false)

/-- Whether a value is NaN or infinite. -/
def FVal.special : FVal → Bool
  | .nan => true
  | .inf _ => true
  | _ => false

/-- quant_block of 04 R91 for format e2m1x, e4m3 or e5m2: the pair, the codes and the flags. -/
def quantBlock (f : Nat) (v : List FVal) : (Byte × Byte) × List Nat × Nat :=
  let xnull : Byte := if f = fE2M1X then 0x80 else 0x00
  if v.any FVal.special then ((0xFF, xnull), v.map (fun _ => 0), flagV)
  else
    match amaxOf v with
    | (.fin n e, first) =>
      let k : Int := if f = fE2M1X then 2 else if f = fE4M3 then 8 else 15
      let q := max (floorLog n e - k) (-127)
      let s : Byte := BitVec.ofInt 8 (q + 127)
      if f = fE2M1X then
        let x := toBits fE4M3 (encodeNum fE4M3 0 true (first.scale (-q))).1
        ((s, BitVec.ofNat 8 x), v.map (fun u => quantCode x (u.scale (-q))), 0)
      else
        let r := v.map (fun u => encodeElem f 0 true (u.scale (-q)))
        ((s, 0x00), r.map (·.1), r.foldl (fun a p => a ||| p.2) 0)
    | _ => ((0x00, xnull), v.map (fun _ => 0), 0)

/-! ## Reciprocal, reciprocal square root and power of two (04 R101) -/

/-- floor(√n), by the bits of the root from bit k − 1 down. -/
def isqrt (n : Nat) : Nat → Nat → Nat
  | 0, r => r
  | k + 1, r => isqrt n k (if (r + 2 ^ k) * (r + 2 ^ k) ≤ n then r + 2 ^ k else r)

/-- A truncated positive value q × 2^e with a sticky bit for what was cut off; rounding it to any format of R86 gives
the rounding of the exact value. -/
def sticky (neg : Bool) (q : Nat) (exact : Bool) (e : Int) : FVal :=
  let n : Int := (2 * q + (if exact then 0 else 1) : Nat)
  mkNum (if neg then -n else n) (e - 1)

/-- 1/a. -/
def rcpNum : FVal → FVal
  | .nan => .nan
  | .inf s => .zero s
  | .zero s => .inf s
  | .fin n e =>
    let a := n.natAbs
    let k := a.log2 + 64
    sticky (n < 0) (2 ^ k / a) (2 ^ k % a = 0) (-e - k)

/-- 1/√a and its flag. -/
def rsqNum : FVal → FVal × Nat
  | .nan => (.nan, 0)
  | .inf s => if s then (.nan, flagV) else (.zero false, 0)
  | .zero s => (.inf s, 0)
  | .fin n e =>
    if n < 0 then (.nan, flagV)
    else
      let odd : Bool := e % 2 ≠ 0
      let a := if odd then n.natAbs * 2 else n.natAbs
      let e' := if odd then e - 1 else e
      let k := a.log2 / 2 + 66
      let t := 2 ^ (2 * k) / a
      let r := isqrt t (k + 2) 0
      (sticky false r (a * (r * r) = 2 ^ (2 * k)) (-(e' / 2) - k), 0)

/-- Precision of the fixed-point steps of 2^a. -/
def expPrec : Nat := 320

/-- Σ 2^P / (i 2^i) for i from k down to 1: ln 2 in fixed point. -/
def ln2Fix : Nat → Nat
  | 0 => 0
  | k + 1 => 2 ^ expPrec / ((k + 1) * 2 ^ (k + 1)) + ln2Fix k

/-- The Taylor sum of e^x in fixed point: `fuel` terms from term i, whose value is t. -/
def expTaylor (x : Nat) : Nat → Nat → Nat → Nat
  | 0, _, _ => 0
  | fuel + 1, i, t => t + expTaylor x fuel (i + 1) (t * x / (2 ^ expPrec * (i + 1)))

/-- 2^a. -/
def exp2Num : FVal → FVal
  | .nan => .nan
  | .inf s => if s then .zero false else .inf false
  | .zero _ => .fin 1 0
  | .fin n e =>
    if 9 < floorLog n e then .fin 1 (if n < 0 then -1024 else 1024)
    else if 0 ≤ e then .fin 1 (alignTo 0 n e)
    else
      let d : Nat := 2 ^ (-e).toNat
      let i := n.fdiv d
      let f := (n.fmod d).toNat
      if f = 0 then .fin 1 i
      else
        let x := f * ln2Fix 330 / d
        sticky false (expTaylor x 90 0 (2 ^ expPrec)) false (i - expPrec)

end Sys2Proof.Machine
end

