-- ==== Sys2Proof/Machine/Operands.lean ====
section
/-!
DEFINITION. Operand codes (02 R49), channels and companions (03 R75, 04 R93), tokens on their way out (18 R312), and
scalar and vector operands and results (09 R179 to R184).
-/

namespace Sys2Proof.Machine

open Sys2Proof

/-! ## Tokens -/

/-- Scalar data token: fmt 111 with the value in [63:0] (09 R180). -/
def scalarTok (v : Word) (tag : BitVec 2) : Token := { kind := .data, fmt := 7, vchan := 0, tag := tag, payload := v.setWidth 512 }
/-- Null token (03 R74). -/
def nullTok (fmt : BitVec 3) (tag : BitVec 2) : Token := { kind := .null, fmt := fmt, vchan := 0, tag := tag, payload := 0 }
/-- Scope codes in the fmt field of an order token (17 R300). -/
def scopeReach : BitVec 3 := 1
/-- Order token (03 R74, 17 R300): its scope, and a payload word where its emitting rule defines one. -/
def orderTok (scope : BitVec 3) (v : Word) (tag : BitVec 2) : Token := { kind := .order, fmt := scope, vchan := 0, tag := tag, payload := v.setWidth 512 }
/-- Marker token (03 R74): 0x01 flood wave, 0x02 ebb marker. -/
def markerTok (code : Nat) : Token := { kind := .marker, fmt := 0, vchan := 0, tag := 0, payload := BitVec.ofNat 512 code }

def Token.isMarker (t : Token) : Bool := t.kind == .marker
/-- A null or order token: it nullifies a compute firing that takes it (03 R78). -/
def Token.nullish (t : Token) : Bool := t.kind == .null || t.kind == .order
/-- Bits [63:0] of the payload. -/
def Token.word (t : Token) : Word := t.payload.setWidth 64

/-! ## Packets and switch queues (07 R149, 18 R312)

Switch ports are N 0, E 1, S 2, W 3, C 4, M 5, A 6. A tile's output slots are the slots of the route's class at the port
that faces it. -/

def portC : Nat := 4
def portM : Nat := 5
def portA : Nat := 6

/-- The key of an input queue of a switch: port, traffic class and seam link. -/
def inqKey (port cls link : Nat) : Nat := port * 32 + cls * 4 + link

/-- The packets in an input queue. -/
def Cell.inqAt (c : Cell) (port cls link : Nat) : List Packet := Tbl.get [] c.inq (inqKey port cls link)

/-- Replace an input queue. -/
def Cell.setInq (c : Cell) (port cls link : Nat) (q : List Packet) : Cell := { c with inq := c.inq.set (inqKey port cls link) q }

/-- Slots of each traffic class at a switch input port (03 R82). -/
def slotsPerClass : Nat := 2

/-- The packet of a token on a route, from a cell; `srck` is the tile kind in [1:0] and the channel in [4:2]. A boundary
node widens the scope of an order token (17 R304). -/
def mkPacket (s : State) (cell srck reach : Nat) (rt : Route) (t : Token) : Packet :=
  let t := if t.kind = .order && rt.bnd && t.fmt < rt.scope then { t with fmt := rt.scope } else t
  { tok := { t with vchan := rt.vchan }, src := BitVec.ofNat 9 cell, srck := BitVec.ofNat 5 srck,
    dst := BitVec.ofNat 9 rt.dst, dstk := BitVec.ofNat 5 (rt.dkind + rt.chan * 4), cls := rt.cls, marked := false,
    mark := 0, mctr := 0, job := s.reachJob reach, reach := reach, cpos := 0, cseq := 0, link := rt.link,
    inport := portC, since := s.islandCycle cell, ran := false, out := none, xfer := none }

/-- Put a packet into the switch of a cell at an input port. -/
def State.pushPacket (s : State) (cell port : Nat) (p : Packet) : State :=
  s.updCell cell (fun c => c.setInq port p.cls.toNat 0 (c.inqAt port p.cls.toNat 0 ++ [{ p with inport := port }]))

/-- A route has a free slot (08 R162, 18 R312). -/
def Cell.routeFree (c : Cell) (port : Nat) (rt : Option Route) : Bool :=
  match rt with
  | some r => (c.inqAt port r.cls.toNat 0).length < slotsPerClass
  | none => true

/-- Emit a token on output o of a compute tile (kind 0) or address generator (kind 1); an output with no route emits
nothing (01 R34). -/
def State.emit (s : State) (cell kind : Nat) (iss : Issue) (o : Nat) (t : Token) : State :=
  match vget none iss.routes o with
  | none => s
  | some r => s.pushPacket cell (if kind = 0 then portC else portA) (mkPacket s cell (kind + 4 * o) iss.reach r t)

/-! ## Channels -/

/-- The companion record of data channel D (04 R93). -/
def CSet.compOf (cs : CSet) (d : BitVec 5) : Companion := (cs.comp.find? (fun c => c.chan == d)).getD ⟨d, [], 0⟩
def CSet.setComp (cs : CSet) (c : Companion) : CSet := { cs with comp := cs.comp.filter (fun e => e.chan != c.chan) ++ [c] }

/-- The virtual-channel entry of a token. -/
def CSet.entry (cs : CSet) (d : BitVec 5) : VChan := vget VChan.reset cs.vch d.toNat

/-- The data channel whose companion channel is c, the lowest (04 R93). -/
def CSet.boundBy (cs : CSet) (c : BitVec 5) : Option (BitVec 5) :=
  ((List.range 32).find? (fun i =>
    let e := vget VChan.reset cs.vch i
    e.block && e.compPresent && e.comp == c)).map (BitVec.ofNat 5)

/-- A companion token, which never enters a guard-visible slot (04 R93). -/
def CSet.isCompanion (cs : CSet) (t : Token) : Bool := !t.isMarker && (cs.boundBy t.vchan).isSome

/-- A data token that its binding scales (04 R93). -/
def CSet.isBlocked (cs : CSet) (t : Token) : Bool :=
  t.kind == .data && (cs.entry t.vchan).block && (cs.entry t.vchan).fmt == t.fmt

/-- Tokens of a group (04 R92). -/
def groupSize (fmt : BitVec 3) : Nat := if fmt = 3 then 8 else 16

/-- Take the companions at the heads of channel i into their stages, as far as those have room (04 R93). -/
def CSet.takeCompanions (cs : CSet) (i : Nat) : Nat → CSet
  | 0 => cs
  | fuel + 1 =>
    match vget [] cs.iss.chans i with
    | p :: t =>
      if p.tok.isMarker then cs
      else
        match cs.boundBy p.tok.vchan with
        | none => cs
        | some d =>
          let c := cs.compOf d
          if c.stage.length < 2 then
            CSet.takeCompanions
              { cs.setComp { c with stage := c.stage ++ [p.tok.payload] } with
                iss := { cs.iss with chans := vset cs.iss.chans i t } } i fuel
          else cs
    | [] => cs

/-- The same for all eight channels. -/
def CSet.settle (cs : CSet) : CSet := (List.range 8).foldl (fun cs i => cs.takeCompanions i 8) cs

/-- The token that a firing finds on a channel: none for an empty channel, a marker or a companion (03 R75, 04 R93). -/
def CSet.front (cs : CSet) (i : Nat) : Option Token :=
  match vget [] cs.iss.chans i with
  | [] => none
  | p :: _ => if p.tok.isMarker || cs.isCompanion p.tok then none else some p.tok

/-- The head a guard sees: none also for a blocked token without its companion (04 R93). DESIGN CHOICE (log entry 89): a data token on D
of another format than the binding's is a plain token, which guards see without a companion. -/
def CSet.head (cs : CSet) (i : Nat) : Option Token :=
  (cs.front i).filter (fun t => !(cs.isBlocked t && (cs.compOf t.vchan).stage.isEmpty))

/-- The head a guard of an address generator sees. -/
def Issue.head (x : Issue) (i : Nat) : Option Token :=
  match vget [] x.chans i with
  | [] => none
  | p :: _ => if p.tok.isMarker then none else some p.tok

/-- Dequeue channel i of an issue state. -/
def Issue.deq (x : Issue) (i : Nat) : Issue := { x with chans := vset x.chans i (vget [] x.chans i).tail }

/-- Dequeue channel i of a compute tile, with its position counter (04 R93). DESIGN CHOICE (log entry 89): a plain token, one of another
format than the binding's, leaves the companion and the counter alone even when it is tagged t3. -/
def CSet.deq (cs : CSet) (i : Nat) : CSet :=
  match vget [] cs.iss.chans i with
  | [] => cs
  | p :: _ =>
    let cs' := { cs with iss := cs.iss.deq i }
    let cs' :=
      if cs.isBlocked p.tok then
        let c := cs.compOf p.tok.vchan
        if c.pos + 1 = groupSize p.tok.fmt || p.tok.tag = 3 then cs'.setComp { c with stage := c.stage.tail, pos := 0 }
        else cs'.setComp { c with pos := c.pos + 1 }
      else cs'
    cs'.settle

/-! ## The fields of a rule word (01 R36, R37) -/

/-- A channel condition. -/
structure Cond where
  use : Bool
  chan : Nat
  care : Bool
  tag : BitVec 2
  deriving DecidableEq, Repr

def condOf (c : BitVec 7) : Cond := { use := bitB c 6, chan := bitsN c 3 3, care := bitB c 2, tag := bits c 0 2 }

end Sys2Proof.Machine

namespace Sys2Proof

def Rule.condA (r : Rule) : Machine.Cond := Machine.condOf r.ca
def Rule.condB (r : Rule) : Machine.Cond := Machine.condOf r.cb
def Rule.puMode (r : Rule) : Nat := bitsN r.pu 3 2
def Rule.puIdx (r : Rule) : Nat := bitsN r.pu 0 3
/-- The channels a rule dequeues (01 R37). -/
def Rule.deqs (r : Rule) : List Nat :=
  (if r.dqa = 1 then [r.condA.chan] else []) ++ (if r.dqb = 1 then [r.condB.chan] else [])

end Sys2Proof

namespace Sys2Proof.Machine

open Sys2Proof

/-- Operand codes (02 R49). -/
inductive Opd where
  | s (n : Nat) | v (n : Nat) | ch (n : Nat) | b (n : Nat) | k (n : Nat) | g (n : Nat) | null | q (n : Nat) | bad
  deriving DecidableEq, Repr

/-- The meaning of an operand code; `ch` is an input channel as a source and an output channel as a destination. -/
def opdOf (c : BitVec 6) : Opd :=
  let n := c.toNat
  if n < 16 then .s n else if n < 24 then .v (n - 16) else if n < 32 then .ch (n - 24) else if n < 36 then .b (n - 32)
  else if n < 44 then .k (n - 36) else if n = 47 then .null else if n < 48 then .bad else .q (n - 48)

/-- The template a srcB code names: 44 to 47 (02 R49). -/
def tmplOf (c : BitVec 6) : Nat := c.toNat - 44

/-! ## Scalar operands (09 R179) -/

/-- History entry bN, b1 the newest (08 R168); the four entries at configuration are zeros tagged f32. -/
def CSet.back (cs : CSet) (n : Nat) : Hist := cs.hist.getD n ⟨false, VReg.reset⟩

/-- scal(x) of 09 R179. -/
def CSet.scal (cs : CSet) (c : BitVec 6) : Word :=
  match opdOf c with
  | .s n => vget 0 cs.s n
  | .ch n => match cs.front n with | some t => t.word | none => 0
  | .b n => (cs.back n).val.bits.setWidth 64
  | .k n => (vget Counter.reset cs.iss.ctr n).val.setWidth 64
  | .q n => vget 0 cs.iss.consts n
  | .v n => (vget VReg.reset cs.v n).bits.setWidth 64
  | _ => 0

/-! ## Vector operands (09 R179, 04 R98) -/

/-- Pair p of a companion payload or of a register's four pairs (04 R92). -/
def pairOf {w : Nat} (x : BitVec w) (p : Nat) : Byte × Byte := (bits x (16 * p) 8, bits x (16 * p + 8) 8)

/-- The lanes of a payload, each decoded exactly; `pair` gives the companion pair of a block. -/
def decodeLanes (f : Nat) (x : Unit64) (pair : Nat → Option (Byte × Byte)) : List FVal :=
  (List.range (lanesOf f)).map (fun j => decodeElem f (pair (j / 32)) (bitsN x (elemBits f * j) (elemBits f)))

/-- A vector operand: its format and its lanes, or a constant that matches any lane count (04 R100). -/
inductive VOpd where
  | const (x : FVal)
  | lanes (fmt : Nat) (xs : List FVal)
  deriving DecidableEq, Repr

/-- A register's lanes, scaled by its pairs when tagged e2m1x (04 R99). DESIGN CHOICE (log entry 89): a history entry that a VQNT to blocked
e4m3 or e5m2 left is read unscaled too, though its pairs are kept. -/
def VReg.lanes (r : VReg) : List FVal :=
  decodeLanes r.tag.toNat r.bits (fun b => if r.tag = 3 then some (pairOf r.pairs b) else none)

/-- The lanes of a token at the head of a channel, scaled by its companion when blocked (04 R93). -/
def CSet.tokLanes (cs : CSet) (t : Token) : List FVal :=
  let f := t.fmt.toNat
  let c := cs.compOf t.vchan
  if cs.isBlocked t && !c.stage.isEmpty then
    let k := if f = fE2M1X then 4 else 2
    decodeLanes f t.payload (fun b => some (pairOf (c.stage.headD 0) (k * c.pos + b)))
  else decodeLanes f t.payload (fun _ => none)

/-- vec(x) of 09 R179, exact. -/
def CSet.vec (cs : CSet) (c : BitVec 6) : VOpd :=
  match opdOf c with
  | .v n => .lanes (vget VReg.reset cs.v n).tag.toNat (vget VReg.reset cs.v n).lanes
  | .ch n => match cs.front n with
    | some t => .lanes t.fmt.toNat (cs.tokLanes t)
    | none => .lanes fF32 []
  | .b n => .lanes (cs.back n).val.tag.toNat (cs.back n).val.lanes
  | .q n => .const (decodeBits fF32 (bitsN (vget 0 cs.iss.consts n) 0 32))
  | _ => .const (.zero false)

/-- Lane counts of two operands: none on a mismatch; two constants give 16 lanes (04 R100, 09 R179). -/
def laneCount : VOpd → VOpd → Option Nat
  | .const _, .const _ => some 16
  | .const _, .lanes _ xs => some xs.length
  | .lanes _ xs, .const _ => some xs.length
  | .lanes _ xs, .lanes _ ys => if xs.length = ys.length then some xs.length else none

/-- n lanes of an operand brought to f32, with the flags of that (04 R98 step 1). -/
def VOpd.f32 (mode : Nat) (satb : Bool) (n : Nat) : VOpd → List FVal × Nat
  | .const x => (List.replicate n x, 0)
  | .lanes _ xs =>
    let r := xs.map (toF32 mode satb)
    (r.map (·.1), r.foldl (fun a p => a ||| p.2) 0)

/-- The result format of a register destination, by lines 2 to 4 of 09 R184. -/
def resultFmt : VOpd → VOpd → Nat
  | .lanes f _, _ => f
  | .const _, .lanes f _ => f
  | .const _, .const _ => fF32

/-! ## Vector results (09 R180, R184) -/

/-- Lanes packed into a payload. -/
def packLanes (w : Nat) (xs : List Nat) : Unit64 := BitVec.ofNat 512 (xs.foldr (fun x a => x + a * 2 ^ w) 0)

/-- Blocks of 32 lanes. -/
def blocksOf (xs : List FVal) : Nat → List (List FVal)
  | 0 => []
  | n + 1 => xs.take 32 :: blocksOf (xs.drop 32) n

/-- Pairs packed into register or companion bytes (04 R92). -/
def packPairs (ps : List (Byte × Byte)) : Nat := ps.foldr (fun p a => p.1.toNat + p.2.toNat * 256 + a * 65536) 0

/-- Lanes encoded into a register of a format, with flags; none when the lane count is not the format's (09 R184). -/
def encodeReg (f mode : Nat) (satb : Bool) (xs : List FVal) : Option (VReg × Nat) :=
  if xs.length ≠ lanesOf f then none
  else if f = fE2M1X then
    let q := (blocksOf xs 4).map (quantBlock fE2M1X)
    some ({ bits := packLanes 4 (q.map (fun b => b.2.1)).flatten, tag := 3,
            pairs := BitVec.ofNat 64 (packPairs (q.map (·.1))) }, q.foldl (fun a b => a ||| b.2.2) 0)
  else
    let r := xs.map (encodeElem f mode satb)
    some ({ bits := packLanes (elemBits f) (r.map (·.1)), tag := BitVec.ofNat 3 f, pairs := 0 },
      r.foldl (fun a p => a ||| p.2) 0)

/-- The token of a register value (09 R180). -/
def VReg.tok (r : VReg) (tag : BitVec 2) : Token := { kind := .data, fmt := r.tag, vchan := 0, tag := tag, payload := r.bits }

/-- The history value of a scalar result (09 R179). -/
def scalarHist (y : Word) : Hist := ⟨false, { bits := y.setWidth 512, tag := 7, pairs := 0 }⟩
/-- The history value of a nullified firing (08 R168). -/
def nullHist : Hist := ⟨true, VReg.reset⟩

/-- The virtual-channel entry that output o's route names (09 R180). -/
def CSet.outEntry (cs : CSet) (o : Nat) : VChan :=
  match vget none cs.iss.routes o with
  | some r => cs.entry r.vchan
  | none => VChan.reset

end Sys2Proof.Machine
end

