-- ==== Sys2Proof/Machine/Flags.lean ====
section
/-!
DEFINITION. Sticky flags and arithmetic traps (04 R96), the firing and the abort of a rule (08 R167, R168, R171 to R173),
predicate updates (01 R37), counters (09 R181, R203, R204), and the delivery of results (09 R180, R184).
-/

namespace Sys2Proof.Machine

open Sys2Proof

/-! ## Tiles -/

/-- Tile kinds (08 R173). -/
def kindC : Nat := 0
def kindA : Nat := 1

/-- The active set of the compute tile and of the address generator of a cell, and their issue states. -/
def State.cset (s : State) (n : Nat) : CSet := (s.cell n).c.act
def State.aset (s : State) (n : Nat) : ASet := (s.cell n).a.act
def State.mset (s : State) (n : Nat) : MSet := (s.cell n).m.act
def State.updC (s : State) (n : Nat) (f : CSet → CSet) : State :=
  s.updCell n (fun c => { c with c := { c.c with act := f c.c.act } })
def State.updA (s : State) (n : Nat) (f : ASet → ASet) : State :=
  s.updCell n (fun c => { c with a := { c.a with act := f c.a.act } })
def State.updM (s : State) (n : Nat) (f : MSet → MSet) : State :=
  s.updCell n (fun c => { c with m := { c.m with act := f c.m.act } })
def State.issue (s : State) (n kind : Nat) : Issue := if kind = 0 then (s.cset n).iss else (s.aset n).iss
def State.updIssue (s : State) (n kind : Nat) (f : Issue → Issue) : State :=
  if kind = 0 then s.updC n (fun c => { c with iss := f c.iss }) else s.updA n (fun a => { a with iss := f a.iss })

/-- Bit i of a mask set to a value. -/
def putBit {w : Nat} (x : BitVec w) (i : Nat) (b : Bool) : BitVec w :=
  if b then x ||| BitVec.twoPow w i else x &&& ~~~BitVec.twoPow w i

/-! ## Counters (09 R181, R202 to R204; 12 R251) -/

/-- One step of a counter's value, which is its own increase (12 R251). -/
def Counter.put (c : Counter) (v : BitVec 32) (inc : Nat) : Counter :=
  { c with val := v, delta := min (c.delta + inc) 16383, changed := c.changed || v != c.val }

/-- A write of y: the increase is y − old when y is greater (12 R251). -/
def Counter.write (c : Counter) (y : BitVec 32) : Counter := c.put y (y.toNat - c.val.toNat)

/-- What R181 stores for y, and whether it sets S. -/
def Counter.bounded (c : Counter) (y : BitVec 32) : BitVec 32 × Bool :=
  if c.bound ≠ 0 && c.bound ≤ y then (c.bound - 1, true) else (y, false)

def Issue.counter (x : Issue) (n : Nat) : Counter := vget Counter.reset x.ctr n
def Issue.setCtr (x : Issue) (n : Nat) (c : Counter) : Issue := { x with ctr := vset x.ctr n c }

/-- step(N) of 09 R203; a chain has at most eight counters. -/
def Issue.stepCtr (x : Issue) : Nat → Nat → Issue × Bool
  | 0, _ => (x, true)
  | fuel + 1, n =>
    let c := x.counter n
    let v := c.val + 1
    let carry (v : BitVec 32) : Issue × Bool :=
      let x := x.setCtr n (c.put v 1)
      if c.chainEn then Issue.stepCtr x fuel c.chain.toNat else (x, true)
    if c.bound ≠ 0 then
      if v < c.bound then (x.setCtr n (c.put v 1), false) else carry 0
    else if v ≠ 0 then (x.setCtr n (c.put v 1), false)
    else carry 0

/-- How many counters a step of counter n wraps (11 R227). -/
def Issue.wraps (x : Issue) : Nat → Nat → Nat
  | 0, _ => 0
  | fuel + 1, n =>
    let c := x.counter n
    let v := c.val + 1
    let ov : Bool := if c.bound ≠ 0 then c.bound ≤ v else v == 0
    if ov then 1 + (if c.chainEn then Issue.wraps x fuel c.chain.toNat else 0) else 0

/-- Counters that counter n's chain can reach, itself first (09 R203). -/
def Issue.chainFrom (x : Issue) : Nat → Nat → List Nat
  | 0, _ => []
  | fuel + 1, n => n :: (if (x.counter n).chainEn then Issue.chainFrom x fuel (x.counter n).chain.toNat else [])

/-- Counters whose chain reaches kN, directly or through others, kN not counted (09 R204). -/
def Issue.reachers (x : Issue) (n : Nat) : List Nat := (List.range 8).filter (fun i => i != n && (x.chainFrom 8 i).contains n)

/-- KSET's write: kN := v, and every counter chained into it zero (09 R204). -/
def Issue.ksetTo (x : Issue) (n : Nat) (v : BitVec 32) : Issue :=
  (x.reachers n).foldl (fun x i => x.setCtr i ((x.counter i).write 0)) (x.setCtr n ((x.counter n).write v))

/-- KBND's write: the bound, and kN zero (09 R204; 12 R251: it adds 0). -/
def Issue.kbndTo (x : Issue) (n : Nat) (b : BitVec 32) : Issue :=
  x.setCtr n { (x.counter n).put 0 0 with bound := b }

/-! ## Firing and abort -/

/-- What the parts of the device answer when a selected rule is offered to them (08 R170): a refusal with its reason
(08 R171), the mask of an arithmetic trap, or an event of its own at the first abort of a run; or the firing's effects,
its condition and its result. -/
inductive Offer where
  | refuse (reason : Nat)
  | arith (mask : Nat)
  | refuseEvent (reason cause : Nat) (tp0 : Word)
  | refuseOpen (reason cause : Nat)
  | fire (s : State) (cond : Bool) (res : Option Hist)
  deriving DecidableEq, Repr

/-- The word of the rule that the focus names. -/
def State.ruleWord (s : State) (n kind : Nat) : Word := vget 0 (s.issue n kind).pool s.focus.idx

/-- An event of a tile (08 R173). -/
def State.tileEvent (s : State) (n kind cause : Nat) (tp0 tp1 tp2 : Word) : State :=
  let id := (s.issue n kind).reach
  s.event (s.reachJob id) cause 0 (tileUnit n kind) tp0 tp1 tp2 (some id)

/-- An abort: no effect but the age, the abort count and the status (08 R172 to R174). -/
def Issue.abort (x : Issue) (i reason : Nat) : Issue :=
  let run := min (vget 0 x.runs i + 1) 65535
  { x with
    runs := vset x.runs i run, age := vset x.age i (min (vget 0 x.age i + 1) 31), aborted := putBit x.aborted i true,
    lrule := i, lreason := reason,
    livelock := if run = 1024 then x.livelock ++ [(i, reason)] else x.livelock }

/-- An abort of the focused rule, with the event of the first abort of a run (04 R96; 09 R206, R208). -/
def State.abortRule (s : State) (n kind : Nat) (o : Offer) : State :=
  let i := s.focus.idx
  let first : Bool := vget 0 (s.issue n kind).runs i == 0
  let go (reason : Nat) (s : State) : State := s.updIssue n kind (fun x => x.abort i reason)
  match o with
  | .refuse reason => go reason s
  | .arith mask =>
    let s' := if first then
        s.drawn.tileEvent n kind 0x0B (BitVec.ofNat 64 mask) (Config.openWord s.freeCount) (Config.openWord s.freeCount)
      else s
    go 4 s'
  | .refuseEvent reason cause tp0 =>
    let s' := if first then s.tileEvent n kind cause tp0 (BitVec.ofNat 64 i) (s.ruleWord n kind) else s
    go reason s'
  | .refuseOpen reason cause =>
    let s' := if first then
        s.drawn.tileEvent n kind cause (Config.openWord s.freeCount) (Config.openWord s.freeCount) (Config.openWord s.freeCount)
      else s
    go reason s'
  | .fire s _ _ => s

/-- A predicate update (01 R37). -/
def Issue.predUpdate (x : Issue) (r : Rule) (cond : Bool) : Issue :=
  match r.puMode with
  | 1 => { x with preds := putBit x.preds r.puIdx cond }
  | 2 => { x with preds := putBit x.preds r.puIdx true }
  | 3 => { x with preds := putBit x.preds r.puIdx false }
  | _ => x

/-- What every firing does to the issue state: age and abort count zero, FIRED, the predicate update (08 R167). -/
def Issue.fired! (x : Issue) (i : Nat) (r : Rule) (cond : Bool) : Issue :=
  ({ x with age := vset x.age i 0, runs := vset x.runs i 0, fired := putBit x.fired i true }).predUpdate r cond

/-- A firing of a compute rule: dequeues, the predicate update and the history (08 R168). -/
def CSet.finish (cs : CSet) (i : Nat) (r : Rule) (cond : Bool) (res : Option Hist) : CSet :=
  let cs := r.deqs.foldl CSet.deq cs
  { cs with iss := cs.iss.fired! i r cond, newHist := cs.newHist ++ res.toList }

/-- A firing of an address-generator rule. -/
def ASet.finish (a : ASet) (i : Nat) (r : Rule) (cond : Bool) : ASet :=
  { a with iss := (r.deqs.foldl Issue.deq a.iss).fired! i r cond }

/-- Predicates and channel conditions of a guard (08 R162). With the tokens that a firing finds it is the part that no other rule of the
round can change (08 R163). -/
def guardCore (preds : BitVec 8) (head : Nat → Option Token) (r : Rule) : Bool :=
  let ok (c : Cond) : Bool :=
    !c.use || (match head c.chan with
      | some t => !c.care || t.tag == c.tag
      | none => false)
  (preds &&& r.pm) == (r.pv &&& r.pm) && ok r.condA && ok r.condB

/-- What the null result of a nullified firing looks like in an output token (03 R78). -/
inductive NullOut where
  | none | scalar | vector
  deriving DecidableEq, Repr

/-- The sources of a compute rule that nullify it (03 R78): null or order heads, null history entries. `b1` says that the
opcode also reads b1. -/
def CSet.nullSource (cs : CSet) (r : Rule) (b1 : Bool) : Bool :=
  let src (c : BitVec 6) : Bool :=
    match opdOf c with
    | .ch n => (match cs.front n with | some t => t.nullish | none => true)
    | .b n => (cs.back n).null
    | _ => false
  src r.srcA || src r.srcB || (b1 && (cs.back 0).null)

/-- A nullified firing (03 R78): a null token to an output, a false condition, and a null result where the opcode has
one. -/
def State.nullified (s : State) (n : Nat) (cs : CSet) (r : Rule) (out : NullOut) : State :=
  let s := match out, opdOf r.dst with
    | .scalar, .ch o => s.emit n kindC cs.iss o (nullTok 7 r.et)
    | .vector, .ch o => s.emit n kindC cs.iss o (nullTok (cs.outEntry o).fmt r.et)
    | _, _ => s
  s.updC n (fun c => c.finish s.focus.idx r false (match out with | .none => none | _ => some nullHist))

/-- The firing of a compute rule that nullifies. `body` answers the offer at the boundary state. A rule whose conditions do
not hold does not fire. -/
def State.fireC (s : State) (r : Rule) (out : NullOut) (b1 : Bool) (body : State → Nat → CSet → Offer) :
    Host.Outcome State Fault Refusal :=
  let n := s.focus.cell
  let cs := s.cset n
  if !guardCore cs.iss.preds cs.front r then .next s
  else if cs.nullSource r b1 then .next (s.nullified n cs r out)
  else match body s n cs with
    | .fire s' cond res => .next (s'.updC n (fun c => c.finish s.focus.idx r cond res))
    | o => .next (s.abortRule n kindC o)

/-- The firing of a flow rule, which takes null and order tokens itself (09 R195). -/
def State.fireFlow (s : State) (r : Rule) (body : State → Nat → CSet → Offer) : Host.Outcome State Fault Refusal :=
  let n := s.focus.cell
  let cs := s.cset n
  if !guardCore cs.iss.preds cs.front r then .next s
  else match body s n cs with
    | .fire s' cond res => .next (s'.updC n (fun c => c.finish s.focus.idx r cond res))
    | o => .next (s.abortRule n kindC o)

/-! ## Results (09 R180, R181, R184) -/

/-- Flags to be set by a firing: an abort when one is enabled (04 R96), else the sticky flags. -/
def CSet.traps (cs : CSet) (f : Nat) : Nat := f &&& cs.trapEn.toNat
def CSet.setFlags (cs : CSet) (f : Nat) : CSet := { cs with flags := cs.flags ||| BitVec.ofNat 3 f }

/-- Deliver a scalar result (09 R180, R181). -/
def State.putScalar (s : State) (n : Nat) (cs : CSet) (r : Rule) (y : Word) (cond : Bool) : Offer :=
  let done (s : State) : Offer := .fire s cond (some (scalarHist y))
  match opdOf r.dst with
  | .s i => done (s.updC n (fun c => { c with s := vset c.s i y }))
  | .k i =>
    let b := (cs.iss.counter i).bounded (y.setWidth 32)
    let f := if b.2 then flagS else 0
    if cs.traps f ≠ 0 then .arith (cs.traps f)
    else done (s.updC n (fun c => { c.setFlags f with iss := c.iss.setCtr i ((c.iss.counter i).write b.1) }))
  | .ch o => done (s.emit n kindC cs.iss o (scalarTok y r.et))
  | _ => done s

/-- A write to a vector register sets the state length of its pair to 16 (09 R192). -/
def CSet.putReg (cs : CSet) (i : Nat) (v : VReg) : CSet :=
  { cs with v := vset cs.v i v, ks := vset cs.ks (i / 2) 16 }

/-- Some lane of a delivered value is not ±0 (09 R184). -/
def VReg.nonZero (v : VReg) : Bool := v.lanes.any (fun x => match x with | .zero _ => false | _ => true)

/-- Deliver a vector result of f32 lanes: `f` is the register format, and `fl` gives the flags of the firing from the format of the
destination and the flags of the encoding. -/
def State.putVecBy (s : State) (n : Nat) (cs : CSet) (r : Rule) (f : Nat) (xs : List FVal) (fl : Nat → Nat → Nat) : Offer :=
  let mode := cs.rmode.toNat
  let go (f : Nat) (k : VReg → State → State) : Offer :=
    match encodeReg f mode cs.sat xs with
    | none => .arith 8
    | some (v, fl') =>
      let fl := fl f fl'
      if cs.traps fl ≠ 0 then .arith (cs.traps fl)
      else .fire (k v (s.updC n (fun c => c.setFlags fl))) v.nonZero (some ⟨false, v⟩)
  match opdOf r.dst with
  | .v i => go f (fun v s => s.updC n (fun c => c.putReg i v))
  | .ch o => go (cs.outEntry o).fmt.toNat (fun v s => s.emit n kindC cs.iss o (v.tok r.et))
  | _ => go f (fun _ s => s)

/-- Deliver a vector result whose flags are those of the operation, `fl`, and of the encoding (04 R96). -/
def State.putVec (s : State) (n : Nat) (cs : CSet) (r : Rule) (f : Nat) (xs : List FVal) (fl : Nat) : Offer :=
  s.putVecBy n cs r f xs (fun _ e => fl ||| e)

end Sys2Proof.Machine
end

