-- ==== Sys2Proof/Machine/NeedBy.lean ====
section
/-!
DEFINITION. Need-by marks: clocks of islands (07 R157), slack (12 R252), arbitration (R255, R256), hold-back (R258), the
progress plane (R249 to R253) and lateness (R260, R261).
-/

namespace Sys2Proof.Machine

open Sys2Proof

/-- A cell in a job's partition (07 R145). -/
def Job.holds (b : Job) (n : Nat) : Bool :=
  b.valid && b.x0 ≤ cellX n && cellX n ≤ b.x1 && b.y0 ≤ cellY n && cellY n ≤ b.y1

/-- The cells of a job's partition, and of a reach's rectangle (07 R145, R148). -/
def cellsOf (x0 y0 x1 y1 : Nat) : List Nat :=
  (List.range (y1 + 1 - y0)).flatMap (fun y => (List.range (x1 + 1 - x0)).map (fun x => cellAt (x0 + x) (y0 + y)))
def Job.cells (b : Job) : List Nat := if b.valid then cellsOf b.x0 b.y0 b.x1 b.y1 else []
def Reach.cells (r : Reach) : List Nat := cellsOf r.cx r.cy (r.cx + r.w - 1) (r.cy + r.h - 1)

/-- The job whose partition holds a cell, 0 for none. -/
def State.cellJob (s : State) (n : Nat) : Nat :=
  match s.jobs.find? (fun p => p.2.holds n) with
  | some p => p.1
  | none => 0

/-! ## Slack (12 R252) -/

/-- The largest slack, that of an unmarked packet. -/
def slackMax : Nat := 2 ^ 24 - 1

/-- The implicit record: value 0 and the descriptor's pace (12 R252). -/
def State.implicitRecord (s : State) (cell ctr : Nat) : Record :=
  { reach := (s.cset cell).iss.reach, cell := cell, ctr := ctr, value := 0, pace := ((s.cset cell).iss.counter ctr).hint, starving := false }

/-- The record of a counter at an arbiter's cell. -/
def State.recordAt (s : State) (at_ cell ctr : Nat) : Record :=
  ((s.cell at_).records.find? (fun r => r.reach == (s.cset cell).iss.reach && r.cell == cell && r.ctr == ctr)).getD (s.implicitRecord cell ctr)

/-- slack(mark, rec) of 12 R252. -/
def slackOf (mark : BitVec 32) (r : Record) : Nat :=
  let d := (mark - r.value).toNat
  if r.starving then 0
  else if d = 0 || 2 ^ 31 ≤ d then 0
  else min (d * 4096 / max r.pace.toNat 1) slackMax

/-- The slack of a packet or request at an arbiter. `mctr` is the counter reference: cell in [8:0], counter in [11:9]. -/
def State.slackAt (s : State) (at_ : Nat) (marked : Bool) (mark : BitVec 32) (mctr : BitVec 12) : Nat :=
  if marked then slackOf mark (s.recordAt at_ (bitsN mctr 0 9) (bitsN mctr 9 3)) else slackMax

/-! ## Arbitration (12 R255, R256) -/

/-- The head of a queue at an arbiter: class, slack, the cycle it became the head, source cell and input port, and whether
the next packet of its queue is one that is not held. -/
structure Head where
  cls : Nat
  slack : Nat
  since : Nat
  src : Nat
  port : Nat
  next : Bool
  deriving DecidableEq, Repr

/-- Group of a class: classes 0 and 1, 2 to 4, 5 to 7. -/
def groupOf (c : Nat) : Nat := if c < 2 then 0 else if c < 5 then 1 else 2
def groupBase (g : Nat) : Nat := match g with | 0 => 0 | 1 => 2 | _ => 5
def groupLen (g : Nat) : Nat := match g with | 0 => 2 | _ => 3

/-- The ranking of R256. -/
def Head.before (a b : Head) : Bool :=
  if a.slack ≠ b.slack then a.slack < b.slack
  else if a.since ≠ b.since then a.since < b.since
  else if a.src ≠ b.src then a.src < b.src
  else a.port < b.port

/-- The head of a class that ranks first, with its place in the list. -/
def bestOf (c : Nat) (hs : List (Nat × Head)) : Option (Nat × Head) :=
  hs.foldl (fun m h =>
    if h.2.cls ≠ c then m
    else match m with
      | none => some h
      | some b => if h.2.before b.2 then some h else some b) none

/-- The weight of a class (12 R259): 0 acts as 1. -/
def weight (qwgt : Word) (c : Nat) : Nat := max 1 (bitsN qwgt (8 * c) 8)

/-- The turn within a group, from class offset o on. -/
def Arb.turn (a : Arb) (g : Nat) (hs : List (Nat × Head)) : Nat → Nat → Arb × Nat
  | 0, o => (a, o)
  | fuel + 1, o =>
    let c := groupBase g + o
    if hs.any (fun h => h.2.cls == c) then (a, o)
    else Arb.turn { a with d := vset a.d c 0 } g hs fuel ((o + 1) % groupLen g)

/-- decide() of 12 R255 over the heads that are not held: the place of the head it serves. -/
def Arb.decide (a : Arb) (qwgt : Word) (heads : List Head) : Option (Nat × Arb) :=
  let hs := heads.mapIdx (fun i h => (i, h))
  match [0, 1, 2].find? (fun g => heads.any (fun h => groupOf h.cls == g)) with
  | none => none
  | some g =>
    let t := a.turn g hs (groupLen g) (vget 0 a.cur g)
    let a := t.1
    let c := groupBase g + t.2
    match bestOf c hs with
    | none => none
    | some (i, h) =>
      let d0 := vget 0 a.d c
      let d := (if d0 = 0 then weight qwgt c else d0) - 1
      let more := h.next || hs.any (fun x => x.1 != i && x.2.cls == c)
      let cur := if d = 0 || !more then (t.2 + 1) % groupLen g else t.2
      some (i, { cur := vset a.cur g cur, d := vset a.d c d })

/-- QWGT at reset, which the HBM controllers use (12 R255). -/
def qwgtReset : Word := NeedBy.reset.qwgt

/-! ## Lateness (12 R260, R261) -/

/-- Write a lateness record of a reach's address generator. -/
def State.lateRecord (s : State) (n id : Nat) (x : Xfer) (v : BitVec 32) (at_ : Nat) (incomplete : Bool) : State :=
  let cycles := min (s.islandCycle n - at_) (2 ^ 32 - 1)
  let s := s.event (s.reachJob id) 0x05 0 (tileUnit n kindA)
    (BitVec.ofNat 64 (x.mcell + x.mctr * 2 ^ 9 + x.g * 2 ^ 12 + b2n x.isWrite * 2 ^ 14 + x.reqno.toNat * 2 ^ 16))
    (BitVec.ofNat 64 (x.mark.toNat + v.toNat * 2 ^ 32)) (BitVec.ofNat 64 (cycles + b2n incomplete * 2 ^ 32)) (some id)
  s.updCell n (fun c => { c with need := { c.need with late := (c.need.late + 1) % 2 ^ 32 } })

/-- The end of a transfer: its record if it was late (R261). -/
def State.lateEnd (s : State) (n id : Nat) (x : Xfer) (incomplete : Bool) : State :=
  match x.late with
  | some (v, at_) => s.lateRecord n id x v at_ incomplete
  | none => s

/-- A transfer ends: it is complete (12 R260, R261), or its write has been dropped, which leaves it incomplete (log entry 88). -/
def State.endXfer (s : State) (n g : Nat) (reqno : BitVec 32) (incomplete : Bool) : State :=
  match (s.aset n).xfers.find? (fun x => x.g == g && x.reqno == reqno) with
  | none => s
  | some x =>
    (s.lateEnd n (s.aset n).iss.reach x incomplete).updA n (fun a => { a with xfers := a.xfers.filter (fun y => !(y.g == g && y.reqno == reqno)) })
def State.completeXfer (s : State) (n g : Nat) (reqno : BitVec 32) : State := s.endXfer n g reqno false

/-- Compare the transfers of a cell, those of its collective nodes among them, with a record that arrives (12 R261). -/
def State.findLate (s : State) (n : Nat) (r : Record) : State :=
  let t := s.islandCycle n
  let see (x : Xfer) : Xfer :=
    if x.late.isNone && x.mcell == r.cell && x.mctr == r.ctr && (r.value - x.mark).toNat < 2 ^ 31 then { x with late := some (r.value, t) } else x
  let node (q : NodeReq) : NodeReq := if q.marked then { q with x := see q.x } else q
  (s.updA n (fun a => if a.iss.reach = r.reach then { a with xfers := a.xfers.map see } else a)).updCell n (fun c =>
    if c.nodes.isEmpty then c
    else { c with nodes := c.nodes.map (fun d =>
      if d.reach = r.reach then { d with rd := d.rd.map node, wr := d.wr.map node, flight := d.flight.map node } else d) })

/-! ## The progress plane (12 R250 to R253) -/

/-- A set takes part in the progress plane: its first round has come, and it is not saved. -/
def CSet.broadcasts (cs : CSet) : Bool := !(cs.iss.run == .off || cs.iss.run == .waiting || cs.iss.run == .saved)

/-- An update of the paces, and a broadcast, of a cell are due (R250, R251). -/
def State.paceDue (s : State) (n : Nat) : Bool := (s.cset n).broadcasts && (s.cset n).nextPace ≤ s.islandCycle n
def State.broadcastDue (s : State) (n : Nat) : Bool :=
  (s.cset n).broadcasts && !(s.cell n).island.busy && (s.cset n).nextRecord ≤ s.islandCycle n

/-- A record on its way to a cell must arrive now, because the next one of its counter is due (R250). -/
def State.recordDue (s : State) (at_ : Nat) : Bool := s.recordsOut.any (fun p => p.1 == at_ && s.broadcastDue p.2.cell)

/-- An arbiter of a cell has made a decision in this cycle of the cell (13 R263). -/
def State.hasDecided (s : State) (n : Nat) : Bool := (s.cell n).decided == s.islandCycle n + 1

/-- PROGRESS_BROADCAST: a record of each progress counter to every cell of the partition, every 64 cycles of the island from
the first round of the set on. The records before have arrived, and an update of the paces that is due has been made
(R250, R263). -/
def execProgressBroadcast (n : Nat) (s : State) : Host.Outcome State Fault Refusal :=
  let cs := s.cset n
  if !s.broadcastDue n || s.paceDue n || s.recordsOut.any (fun p => p.2.cell == n) then .next s
  else
    let cells := (s.job (s.reachJob cs.iss.reach)).cells
    let ks := (List.range 8).filter (fun k => (cs.iss.counter k).prog)
    let recs : List Record := ks.map (fun k =>
      let c := cs.iss.counter k
      { reach := cs.iss.reach, cell := n, ctr := k, value := c.val, pace := c.pace, starving := cs.iss.run == .running && c.starved && !c.changed && !cs.firstRecord })
    let s := { s with recordsOut := s.recordsOut ++ recs.flatMap (fun r => cells.map (fun d => (d, r))) }
    .next (s.updC n (fun c => { c with
      firstRecord := false, nextRecord := s.islandCycle n + 64,
      iss := { c.iss with ctr := c.iss.ctr.map (fun k => { k with changed := false, starved := true }) } }))

/-- PACE_UPDATE: every 256 cycles of the island (12 R251). -/
def execPaceUpdate (n : Nat) (s : State) : Host.Outcome State Fault Refusal :=
  if !s.paceDue n then .next s
  else
    let upd (k : Counter) : Counter :=
      if k.prog then
        { k with pace := BitVec.ofNat 16 (min (k.pace.toNat - k.pace.toNat / 4 + 4 * k.delta) 65535), delta := 0 }
      else k
    .next (s.updC n (fun c => { c with nextPace := s.islandCycle n + 256, iss := { c.iss with ctr := c.iss.ctr.map upd } }))

/-- PROGRESS_RECORD_ARRIVAL: record n in flight reaches its cell; those of one counter to one cell stay in order. It comes
before the decisions of a cycle of that cell, or in another cycle (R263). -/
def execProgressRecordArrival (n : Nat) (s : State) : Host.Outcome State Fault Refusal :=
  match s.recordsOut[n]? with
  | none => .next s
  | some (d, r) =>
    if (s.recordsOut.take n).any (fun p => p.1 == d && p.2.reach == r.reach && p.2.cell == r.cell && p.2.ctr == r.ctr) then .next s
    else if s.hasDecided d then .next s
    else
      let s := { s with recordsOut := s.recordsOut.eraseIdx n }
      let s := s.updCell d (fun c => { c with
        records := c.records.filter (fun q => !(q.reach == r.reach && q.cell == r.cell && q.ctr == r.ctr)) ++ [r] })
      .next (s.findLate d r)

/-! ## Hold-back (12 R258) -/

/-- The HOLD of a memory-tile port as an address generator has adopted it. -/
def Cell.adopted (c : Cell) (target port : Nat) : Nat := Tbl.get 0x2000 c.hold (target * 4 + port)

/-- A HOLD of a cell is written: each address generator of its partition adopts it within 256 cycles of its own clock, counted
from the earliest write that it has not adopted. -/
def State.holdWritten (s : State) (n : Nat) : State :=
  (s.job (s.cellJob n)).cells.foldl (fun (s : State) d =>
    s.updCell d (fun c => { c with holdSince := c.holdSince.or (some (s.islandCycle d)) })) s

/-- HOLD_ADOPT: an address generator adopts the HOLD values of its partition. -/
def execHoldAdopt (n : Nat) (s : State) : Host.Outcome State Fault Refusal :=
  let cells := (s.job (s.cellJob n)).cells
  let vals := cells.flatMap (fun d => (List.range 4).map (fun p => (d * 4 + p, vget 0x2000 (s.cell d).need.hold p)))
  .next (s.updCell n (fun c => { c with
    holdSince := none, hold := vals.foldl (fun h v => if Tbl.get 0x2000 h v.1 = v.2 then h else h.set v.1 v.2) c.hold }))

/-- The hold limit of a request (12 R258): none for an unmarked one. A HOLD of 0xFFFF adds no limit of its own. -/
def State.holdLimit (s : State) (n : Nat) (marked : Bool) (port : Option (Nat × Nat)) : Option Nat :=
  let c := s.cell n
  if !marked then none
  else match port with
    | none => some c.need.holdIssue
    | some (d, p) => let h := c.adopted d p; some (if h = 0xFFFF then c.need.holdIssue else min c.need.holdIssue h)

end Sys2Proof.Machine
end

