-- ==== Sys2Proof/Machine/AddrGen.lean ====
section
/-!
DEFINITION. The address generator's rules (11 R224 to R237): what they compute from a template, what refuses them, and the
requests they leave in the request queue. Walks, arbitration, service and delivery are in Requests.lean.
-/

namespace Sys2Proof.Machine

open Sys2Proof

/-! ## Requests from templates (11 R227) -/

/-- What issue(g, idx) computes: address, mark, the counter values used, tag, carry, and the counters after the step. -/
structure Issued where
  addr : Word
  mark : BitVec 32
  kv : Vector (BitVec 32) 8
  tag : BitVec 2
  carry : Bool
  iss : Issue
  deriving DecidableEq, Repr

def Issue.kv (x : Issue) : Vector (BitVec 32) 8 := x.ctr.map (·.val)

/-- base(g): the runtime base, or the constant BASEQ. -/
def Template.base (t : Template) (x : Issue) : Word := if t.runtime then t.rbase else vget 0 x.consts t.baseq

/-- base + Σ STRIDE × kv, with signed strides. -/
def Template.addrOf (t : Template) (base : Word) (kv : Vector (BitVec 32) 8) : Word :=
  let a := (List.range 8).foldl (fun (a : Word) j => a + (vget 0 t.stride j).signExtend 64 * (vget 0 kv j).setWidth 64) base
  match t.space with
  | .virt => a &&& 0xFFFFFFFFFFFFF#64
  | _ => a

/-- MARK0 + Σ MSTEP × kv. -/
def Template.markOf (t : Template) (kv : Vector (BitVec 32) 8) : BitVec 32 :=
  (List.range 8).foldl (fun (a : BitVec 32) j => a + (vget 0 t.mstep j).signExtend 32 * vget 0 kv j) t.mark0

/-- The step counter: the lowest J with a stride or mark step; J = 7 is skipped with an index. -/
def Template.stepCounter (t : Template) (indexed : Bool) : Option Nat :=
  (List.range (if indexed then 7 else 8)).find? (fun j => vget 0 t.stride j != 0 || vget 0 t.mstep j != 0)

/-- issue(g, idx). -/
def Template.issue (t : Template) (x : Issue) (idx : Option (BitVec 32)) : Issued :=
  let kv := match idx with | some i => vset x.kv 7 i | none => x.kv
  let step : Issue × Bool × Nat := match t.stepCounter idx.isSome with
    | some c => ((x.stepCtr 8 c).1, (x.stepCtr 8 c).2, x.wraps 8 c)
    | none => (x, true, 0)
  { addr := t.addrOf (t.base x) kv, mark := t.markOf kv, kv := kv,
    tag := if step.2.1 then 3 else if 2 ≤ step.2.2 then 2 else if step.2.2 = 1 then 1 else 0,
    carry := step.2.1, iss := step.1 }

/-- Template g of a set. -/
def ASet.tmpl (a : ASet) (g : Nat) : Template := vget Template.reset a.tm g
def ASet.setTmpl (a : ASet) (g : Nat) (f : Template → Template) : ASet := { a with tm := vset a.tm g (f (a.tmpl g)) }

/-! ## Space S (11 R224, R225, R239) -/

/-- Bytes of a cell's slice, and the start of its spill carve-out (11 R245). -/
def sliceBytes : Nat := 2 ^ 22
def CSet.carveOut (cs : CSet) : Nat := sliceBytes - cs.spill * 0x1000

/-- The key of a byte of a slice in the scratchpads. -/
def sramKey (cell off : Nat) : Nat := cell * 2 ^ 22 + off

/-- A relative cell index of a reach as an absolute cell (11 R224, 07 R148). -/
def Reach.absCell (r : Reach) (rel : Nat) : Option Nat :=
  let x := r.cx + rel % 32
  let y := r.cy + rel / 32
  if x < 32 && y < 16 then some (cellAt x y) else none

/-- The rectangle of a reach holds both ends of its rows' seam (07 R154). -/
def Reach.stitched (r : Reach) : Bool := r.cx ≤ 15 && 16 < r.cx + r.w

/-- The cell and offset an address in space S names for a tile of a reach, or the cause of its refusal (11 R225). -/
def State.sramTarget (s : State) (n : Nat) (reach : Nat) (addr : Word) : Except Nat (Nat × Nat) :=
  match s.reach? reach with
  | none => .error 0x04
  | some r =>
    if bitsN addr 31 33 ≠ 0 then .error 0x04
    else match r.absCell (bitsN addr 22 9) with
      | none => .error 0x04
      | some d =>
        let off := bitsN addr 0 22
        if !(s.job r.job).holds d then .error 0x04
        else if cellDie n ≠ cellDie d && !r.stitched then .error 0x04
        else if (s.cset d).carveOut ≤ off then .error 0x04
        else if off % 64 ≠ 0 then .error 0x02
        else .ok (d, off)

/-- How a request uses a memory-tile port. -/
inductive PortUse where
  | read
  | write
  | reduce
  | atom (op : BitVec 4) (word : Nat) (operand : Word)
  deriving DecidableEq, Repr

/-- The offset lies in the window of a port. -/
def MPort.inWindow (p : MPort) (off : Nat) : Bool := p.off * 64 ≤ off && off < (p.off + p.len) * 64

/-- The port's role takes the request (11 R234, R239; 16 R288). -/
def MPort.takes (p : MPort) (u : PortUse) (off : Nat) : Bool :=
  match p.role, u with
  | 0x01, .read => p.inWindow off && p.acc != 2
  | 0x01, .write => p.inWindow off && p.acc != 1
  | 0x01, .reduce => p.inWindow off && p.acc != 1
  | 0x01, .atom _ _ _ => p.inWindow off && p.acc == 0
  | 0x03, .read => p.inWindow off
  | 0x06, .read => p.inWindow off
  | 0x06, .reduce => p.inWindow off
  | 0x08, .atom op w x => p.inWindow off && op == 1 && 1 ≤ w && w ≤ 4 && x != 0 && x.toNat < 2 ^ 16
  | 0x08, _ => p.inWindow off
  | 0x0C, .atom _ _ _ => false
  | 0x0C, _ => true
  | _, _ => false

def MSet.port (m : MSet) (p : Nat) : MPort := vget MPort.reset m.ports p
def MSet.setPort (m : MSet) (p : Nat) (f : MPort → MPort) : MSet := { m with ports := vset m.ports p (f (m.port p)) }
def State.port (s : State) (n p : Nat) : MPort := (s.mset n).port p
def State.updPort (s : State) (n p : Nat) (f : MPort → MPort) : State := s.updM n (fun m => m.setPort p f)

/-- A port stands frozen, at an uncorrectable unit or by a parity error of its tile (14 R279, 02 R53). -/
def State.portStands (s : State) (n p : Nat) : Bool := (s.port n p).frozen || (s.mset n).frozen

/-- Requests a port holds that are not yet applied. -/
def MPort.load (p : MPort) : Nat := p.q.length + p.ldsy.length + p.reorder.length

/-- The reach number of a reach (16 R295). -/
def State.reachNumber (s : State) (id : Nat) : Nat := match s.reach? id with | some r => r.number.toNat | none => 0

/-- The high-water table of a port has no room for a source (11 R246). -/
def State.hwmFull (s : State) (d p reach src : Nat) : Bool :=
  let t := (s.cell d).hwm.filter (fun h => h.port == p)
  64 ≤ t.length && !t.any (fun h => h.reach == reach && h.src == src)

/-- A refused request counted at its port (11 R248). -/
def State.portRefused (s : State) (d p : Nat) : State := s.updPort d p (fun q => { q with refused := q.refused + 1 })

/-- What answers a request in space S: a refusal, or the cell and offset. -/
inductive SAnswer where
  | refuse (o : Offer) (at_ : Option (Nat × Nat))
  | ok (d off : Nat)
  deriving DecidableEq, Repr

/-- Reduce-stores that a tile has accepted: those that have left its issue stage, and those that wait there. -/
def ASet.stores (a : ASet) : Nat := a.seq + (a.q.filter (fun q => q.seq.isSome && !q.counted)).length

/-- The checks of R225 in order, with those of the sparse-update role (11 R246, 16 R295). -/
def State.checkS (s : State) (n : Nat) (a : ASet) (port : Nat) (addr : Word) (u : PortUse) : SAnswer :=
  match s.sramTarget n a.iss.reach addr with
  | .error c => .refuse (.refuseEvent 2 c addr) none
  | .ok (d, off) =>
    let p := s.port d port
    if !p.takes u off then .refuse (.refuseEvent 2 0x04 addr) (some (d, port))
    else if u == .reduce && p.role == 0x06 && 2 ^ 32 - 1 ≤ a.stores then .refuse (.refuseEvent 2 0x04 addr) (some (d, port))
    else if u == .reduce && p.role == 0x06 && s.hwmFull d port (s.reachNumber a.iss.reach) n then .refuse (.refuse 2) (some (d, port))
    else if 16 ≤ p.load then .refuse (.refuse 2) (some (d, port))
    else .ok d off

/-! ## Space V (11 R226, 14 R272, 22 R360) -/

/-- Walks that a tile waits on. -/
def State.pendingMisses (s : State) (n : Nat) : Nat := (s.walks.filter (fun w => w.reqs.any (fun q => q.1 == n))).length

/-- How a request in space V is accepted: translated, waiting for a walk, or not at all. -/
inductive VAnswer where
  | hit | miss | refuse (o : Offer)
  deriving DecidableEq, Repr

/-- Whether a miss of a tile on a page can be taken: it joins a walk of the tile, or finds fewer than four pending and room
at the die. -/
def State.canMiss (s : State) (n j page : Nat) : Bool :=
  s.walks.any (fun w => w.die == cellDie n && w.job == j && w.page == page && w.reqs.any (fun q => q.1 == n))
    || (s.pendingMisses n < 4 && (s.walks.filter (fun w => w.die == cellDie n)).length < 4096)

/-- The checks of R226. A template that is frozen looks nothing up (22 R360). -/
def State.checkV (s : State) (n j : Nat) (t : Template) (addr : Word) (k : Kind) : VAnswer :=
  if addr &&& 63#64 ≠ 0 then .refuse (.refuseEvent 2 0x02 addr)
  else if !t.frozen.isEmpty then .hit
  else if (tlbFind (s.cell n).utlb j addr.toNat k).isSome then .hit
  else if s.canMiss n j (addr.toNat / 4096) then .miss
  else .refuse (.refuse 1)

/-- Put a request on a walk of its page (14 R272, 22 R360). -/
def State.joinWalk (s : State) (n j page : Nat) (half : Bool) (id : Nat) : State :=
  let same (w : Walk) : Bool := w.die == cellDie n && w.job == j && w.page == page
  if s.walks.any same then
    { s with walks := s.walks.map (fun w => if same w then { w with reqs := w.reqs ++ [(n, half, id)] } else w) }
  else { s with walks := s.walks ++ [{ die := cellDie n, job := j, page := page, reqs := [(n, half, id)], own := none }] }

/-! ## The request queue (11 R228) -/

/-- Whether a request occupies one of the sixteen slots. -/
def Req.occupies (q : Req) : Bool :=
  let waits : Bool := match q.stage with
    | .queued => true
    | .walking => true
    | .faulted => true
    | .tier => true
    | _ => false
  match q.kind with
  | .write => waits
  | .atom _ _ _ _ => waits
  | .cpy => q.stage != .cpyWrite
  | _ => true
def ASet.slots (a : ASet) : Nat := (a.q.filter Req.occupies).length

/-- The kind of access a request makes (14 R270). -/
def ReqKind.access (k : ReqKind) : Kind := match k with
  | .write => .write
  | .atom _ _ _ _ => .atomic
  | _ => .read

/-- The ACQ that later requests wait for: the last pending one (11 R236). -/
def ASet.barrier (a : ASet) : Nat := (a.acqs.getLast?.map (·.id)).getD 0

/-- A request of a template, before it is placed in the queue. -/
def ASet.newReq (a : ASet) (g : Nat) (kind : ReqKind) (t : Template) (c : Issued) : Req :=
  { id := a.nextId + 1, g := g, kind := kind, space := t.space, addr := c.addr.toNat, waddr := 0, wg := 0,
    marked := t.marked, mark := c.mark, wmark := 0, cls := t.cls, tag := c.tag, tok := Token.zero, reqno := t.reqno,
    kv := c.kv, phase := a.phase, counted := false, seq := none, stage := .queued, after := a.barrier, held := 0,
    heldSeen := false, unheld := false, ans := none, heldBy := 0 }

/-- The request number of the template steps, nullified requests included (12 R260). -/
def ASet.numbered (a : ASet) (g : Nat) (c : Issued) : ASet :=
  { (a.setTmpl g (fun t => { t with reqno := t.reqno + 1 })) with iss := c.iss }

/-- One more write in the open phase (11 R235). -/
def ASet.countWrite (a : ASet) : ASet :=
  if a.phases.any (fun p => p.p == a.phase && !p.closed) then
    { a with phases := a.phases.map (fun p => if p.p = a.phase && !p.closed then { p with total := p.total + 1 } else p) }
  else { a with phases := a.phases ++ [{ p := a.phase, dests := [], total := 1, closed := false, sent := false, out := 0, et := 0, since := 0, ackd := [] }] }

/-- Accept a request: queue it, start its transfer and note an outstanding miss. -/
def State.accept (s : State) (n : Nat) (q : Req) (c : Issued) (t : Template) (miss write : Bool) : State :=
  let q := if miss then { q with stage := .walking, counted := true } else q
  let s := s.updA n (fun a =>
    let a := a.numbered q.g c
    let a := { a with q := a.q ++ [q], nextId := q.id }
    let a := if miss then a.setTmpl q.g (fun t => { t with issued := t.issued + 1 }) else a
    let a := if write then a.countWrite else a
    if q.marked then
      { a with xfers := a.xfers ++ [{ g := q.g, reqno := q.reqno, mark := q.mark, mcell := t.mcell, mctr := t.mctr,
                                      isWrite := write, late := none }] }
    else a)
  if miss then s.joinWalk n (s.reachJob (s.aset n).iss.reach) (q.addr / 4096) false q.id else s

/-- Offer a request on its template to the checks of its space, and accept it. A reduce-store takes its number when it leaves the
issue stage (R246). -/
def State.request (s : State) (n : Nat) (a : ASet) (q : Req) (c : Issued) (t : Template) (u : PortUse) (write : Bool) :
    State × Offer :=
  match t.space with
  | .sram =>
    match s.checkS n a t.homePort c.addr u with
    | .refuse o at_ => ((match at_ with | some (d, p) => s.portRefused d p | none => s), o)
    | .ok d _ =>
      let sparse : Bool := u == .reduce && (s.port d t.homePort).role == 0x06
      (s, .fire (s.accept n (if sparse then { q with seq := some 0 } else q) c t false write) c.carry none)
  | .virt =>
    match s.checkV n (s.reachJob a.iss.reach) t c.addr q.kind.access with
    | .refuse o => (s, o)
    | .hit => (s, .fire (s.accept n q c t false write) c.carry none)
    | .miss => (s, .fire (s.accept n q c t true write) c.carry none)
  | .stream => (s, .fire (s.accept n q c t false write) c.carry none)

/-! ## Firing (03 R79, 11 R230) -/

/-- The firing of an address-generator rule. `body` answers with the state in which a refusal leaves the ports. -/
def State.fireA (s : State) (r : Rule) (body : State → Nat → ASet → State × Offer) : Host.Outcome State Fault Refusal :=
  let n := s.focus.cell
  let a := s.aset n
  if !guardCore a.iss.preds a.iss.head r then .next s
  else
    let p := body s n a
    match p.2 with
    | .fire s' cond _ => .next (s'.updA n (fun a => a.finish s.focus.idx r cond))
    | o => .next (p.1.abortRule n kindA o)

/-- A predicate source that nullifies: a null head, or a data head whose bit 0 is 0 (03 R79). -/
def predNull (t : Option Token) : Bool :=
  match t with
  | none => true
  | some t => t.kind == .null || (t.kind == .data && !bitB t.payload 0)

/-- srcA nullifies the request. -/
def ASet.srcNull (a : ASet) (r : Rule) : Bool :=
  match opdOf r.srcA with
  | .ch i => predNull (a.iss.head i)
  | _ => false

/-- The head of the data channel, which condition A names (11 R230). -/
def ASet.data (a : ASet) (r : Rule) : Token := (a.iss.head r.condA.chan).getD Token.zero

/-- The value of an index or operand source: [63:32] of a channel head, [31:0] of a counter or constant (11 R231, R237). -/
def ASet.index (a : ASet) (r : Rule) : BitVec 32 :=
  match opdOf r.srcA with
  | .ch i => match a.iss.head i with | some t => bits t.payload 32 32 | none => 0
  | .k i => (a.iss.counter i).val
  | .q i => (vget 0 a.iss.consts i).setWidth 32
  | _ => 0

/-- A nullified request: the counters step, and a read or S2S queues one null token for its stream (03 R79, 11 R227). -/
def State.nullRequest (s : State) (n g : Nat) (t : Template) (c : Issued) (toStream : Bool) : State × Offer :=
  (s, .fire (s.updA n (fun a =>
    let q := { a.newReq g .nullRead t c with
      marked := false, stage := .answered, ans := some { nullTok t.fmt c.tag with vchan := t.vchan } }
    let a := a.numbered g c
    if toStream then { a with q := a.q ++ [q], nextId := q.id } else a)) c.carry none)

/-- A read form (11 R231). -/
def readForm (kind : ReqKind) (indexed : Bool) (r : Rule) (s : State) : Host.Outcome State Fault Refusal :=
  s.fireA r (fun s n a =>
    let g := tmplOf r.srcB
    let t := a.tmpl g
    let c := t.issue a.iss (if indexed then some (a.index r) else none)
    if a.srcNull r then s.nullRequest n g t c true
    else s.request n a (a.newReq g kind t c) c t .read false)

/-- A write form (11 R232): a null or order token in the data position nullifies it too. -/
def writeForm (indexed : Bool) (r : Rule) (s : State) : Host.Outcome State Fault Refusal :=
  s.fireA r (fun s n a =>
    let g := tmplOf r.srcB
    let t := a.tmpl g
    let c := t.issue a.iss (if indexed then some (a.index r) else none)
    let x := a.data r
    if a.srcNull r || x.nullish then s.nullRequest n g t c false
    else s.request n a { a.newReq g .write t c with tok := x } c t (if indexed then .reduce else .write) true)

def execIssr (r : Rule) (s : State) := readForm .read false r s
def execGatr (r : Rule) (s : State) := readForm .read true r s
def execIssw (r : Rule) (s : State) := writeForm false r s
def execSctw (r : Rule) (s : State) := writeForm true r s

/-- LDSY (11 R231): srcA, if used, is its constant. -/
def execLdsy (r : Rule) (s : State) : Host.Outcome State Fault Refusal :=
  s.fireA r (fun s n a =>
    let g := tmplOf r.srcB
    let t := a.tmpl g
    let c := t.issue a.iss none
    let flag : Bool := match opdOf r.srcA with | .q i => bitB (vget (0 : Word) a.iss.consts i) 0 | _ => false
    s.request n a (a.newReq g (.ldsy flag) t c) c t .read false)

/-- CPY (11 R233): both halves at the counter values of g. -/
def execCpy (r : Rule) (s : State) : Host.Outcome State Fault Refusal :=
  s.fireA r (fun s n a =>
    let g := tmplOf r.srcB
    let t := a.tmpl g
    let w := a.tmpl (g + 1)
    let c := t.issue a.iss none
    let wa := w.addrOf (w.base a.iss) c.kv
    let q := { a.newReq g .cpy t c with wg := g + 1, waddr := wa.toNat, wmark := w.markOf c.kv }
    if a.srcNull r then s.nullRequest n g t c false
    else
      let bad : Option (Offer × Option (Nat × Nat)) := match w.space with
        | .sram => (match s.checkS n a w.homePort wa .write with | .refuse o d => some (o, d) | .ok _ _ => none)
        | .virt => if wa &&& 63#64 ≠ 0 then some (.refuseEvent 2 0x02 wa, none) else none
        | .stream => none
      match bad with
      | some (o, d) => ((match d with | some (d, p) => s.portRefused d p | none => s), o)
      | none => s.request n a q c t .read true)

/-- S2S (11 R233): the head goes unchanged to the template's endpoint. -/
def execS2s (r : Rule) (s : State) : Host.Outcome State Fault Refusal :=
  s.fireA r (fun s n a =>
    let g := tmplOf r.srcB
    let t := a.tmpl g
    let c := t.issue a.iss none
    if a.srcNull r then s.nullRequest n g t c true
    else s.request n a { a.newReq g .s2s t c with tok := a.data r } c t .read false)

/-- ATOM (11 R234): the data token is in condition A and the order token in condition B. -/
def execAtom (r : Rule) (s : State) : Host.Outcome State Fault Refusal :=
  s.fireA r (fun s n a =>
    let g := tmplOf r.srcB
    let t := a.tmpl g
    let c := t.issue a.iss none
    let k : Word := match opdOf r.srcA with | .q i => vget 0 a.iss.consts i | _ => 0
    let out := match opdOf r.dst with | .ch o => o | _ => 0
    let x := a.data r
    let o := (a.iss.head r.condB.chan).getD Token.zero
    if x.kind = .null || o.kind = .null then
      (s, .fire ((s.updA n (fun a => a.numbered g c)).emit n kindA a.iss out (nullTok 0 r.et)) true none)
    else
      let w := bitsN x.payload 64 3
      let r' := s.request n a
        { a.newReq g (.atom (bits k 0 4) (bits k 4 3) out r.et) t c with tok := x, marked := false } c t
        (.atom (bits k 0 4) w x.word) false
      match r'.2 with
      | .fire s' _ res => (r'.1, .fire s' true res)
      | o => (r'.1, o))

/-! ## Phases, acquires and template state (11 R235 to R237) -/

/-- The output that dst names. -/
def dstOut (r : Rule) : Nat := match opdOf r.dst with | .ch o => o | _ => 0

/-- A phase is complete: it is closed, and every destination of its writes holds their count; one with no writes is so at once. -/
def Phase.complete (p : Phase) : Bool := p.closed && (p.total == 0 || (p.sent && p.dests.all (fun d => p.ackd.contains d.1)))

/-- RELS (11 R235): the open phase closes; it is refused while three earlier ones are incomplete. -/
def execRels (r : Rule) (s : State) : Host.Outcome State Fault Refusal :=
  s.fireA r (fun s n a =>
    if 3 ≤ (a.phases.filter (fun p => p.closed && !p.complete)).length then (s, .refuse 2)
    else
      let closing (p : Phase) : Phase := { p with closed := true, out := dstOut r, et := r.et, since := a.nextId + 1 }
      let phases :=
        if a.phases.any (fun p => p.p == a.phase && !p.closed) then
          a.phases.map (fun p => if p.p = a.phase && !p.closed then closing p else p)
        else a.phases ++ [closing { p := a.phase, dests := [], total := 0, closed := false, sent := false, out := 0, et := 0, since := 0, ackd := [] }]
      (s, .fire (s.updA n (fun a => { a with phases := phases, phase := a.phase + 1, nextId := a.nextId + 1 })) true none))

/-- A read of a tile that has not delivered its token. -/
def Req.undelivered (q : Req) : Bool :=
  match q.kind with
  | .read => true
  | .ldsy _ => true
  | .nullRead => true
  | _ => false

/-- ACQ (11 R236): it consumes the head of its channel, once even when DQA or DQB also names it. -/
def execAcq (r : Rule) (s : State) : Host.Outcome State Fault Refusal :=
  s.fireA r (fun s n a =>
    let i := match opdOf r.srcA with | .ch i => i | _ => 0
    let scope : BitVec 3 := match opdOf r.srcB with | .q i => (vget (0 : Word) a.iss.consts i).setWidth 3 | _ => 0
    let h := (a.iss.head i).getD Token.zero
    let s' := if r.deqs.contains i then s else s.updA n (fun a => { a with iss := a.iss.deq i })
    if h.kind = .null then (s, .fire (s'.emit n kindA a.iss (dstOut r) (nullTok 0 r.et)) false none)
    else
      (s, .fire (s'.updA n (fun a => { a with
        acqs := a.acqs ++ [{ id := a.nextId + 1, reads := (a.q.filter Req.undelivered).map (·.id), out := dstOut r,
                             et := r.et, scope := scope, served := false }]
        nextId := a.nextId + 1 })) true none))

/-- A null or order head nullifies MARK and TBASE (11 R237). -/
def ASet.setNull (a : ASet) (r : Rule) : Bool :=
  match opdOf r.srcA with
  | .ch i => (match a.iss.head i with | some t => t.nullish | none => true)
  | _ => false

/-- MARK (11 R237). -/
def execMark (r : Rule) (s : State) : Host.Outcome State Fault Refusal :=
  s.fireA r (fun s n a =>
    if a.setNull r then (s, .fire s false none)
    else (s, .fire (s.updA n (fun b => b.setTmpl (tmplOf r.srcB) (fun t => { t with mark0 := a.index r }))) true none))

/-- The 64-bit value of a source. -/
def ASet.value (a : ASet) (c : BitVec 6) : Word :=
  match opdOf c with
  | .ch i => match a.iss.head i with | some t => t.word | none => 0
  | .k i => (a.iss.counter i).val.setWidth 64
  | .q i => vget 0 a.iss.consts i
  | _ => 0

/-- TBASE (11 R237): bits [51:0], or [30:0] in space S. -/
def execTbase (r : Rule) (s : State) : Host.Outcome State Fault Refusal :=
  s.fireA r (fun s n a =>
    if a.setNull r then (s, .fire s false none)
    else
      let g := tmplOf r.srcB
      let v := a.value r.srcA
      let b : Word := if (a.tmpl g).space = .sram then v &&& 0x7FFFFFFF#64 else v &&& 0xFFFFFFFFFFFFF#64
      (s, .fire (s.updA n (fun b' => b'.setTmpl g (fun t => { t with rbase := b }))) true none))

/-- WPT (11 R237): the mirror of the home port's write pointer. -/
def execWpt (r : Rule) (s : State) : Host.Outcome State Fault Refusal :=
  s.fireA r (fun s n a =>
    let t := a.tmpl (tmplOf r.srcB)
    let home : Nat := match s.reach? a.iss.reach with | some rr => (rr.absCell t.homeCell).getD 0 | none => 0
    let p := s.port home t.homePort
    let v : BitVec 32 := if p.wpx then t.mirror else 0
    let cond : Bool := p.wpx && v.toNat == p.wpLen * 64
    let s' := match opdOf r.dst with
      | .k i => s.updA n (fun a => { a with iss := a.iss.setCtr i ((a.iss.counter i).write ((a.iss.counter i).bounded v).1) })
      | .ch o => s.emit n kindA a.iss o (scalarTok (v.setWidth 64) r.et)
      | _ => s
    (s, .fire s' cond none))

/-! ## Counters, NOP and HLT (11 R230) -/

def execAgNop (r : Rule) (s : State) : Host.Outcome State Fault Refusal := s.fireA r (fun s _ _ => (s, .fire s true none))

def execAgKstep (r : Rule) (s : State) : Host.Outcome State Fault Refusal :=
  s.fireA r (fun s n a =>
    let x := a.iss.stepCtr 8 (match opdOf r.dst with | .k i => i | _ => 0)
    (s, .fire (s.updA n (fun a => { a with iss := x.1 })) x.2 none))

/-- KSET: bound − 1 without a flag where the value is too large; a null or order source nullifies. -/
def execAgKset (r : Rule) (s : State) : Host.Outcome State Fault Refusal :=
  s.fireA r (fun s n a =>
    if a.setNull r then (s, .fire s false none)
    else
      let k := match opdOf r.dst with | .k i => i | _ => 0
      let b := ((a.iss.counter k).bounded ((a.value r.srcA).setWidth 32)).1
      (s, .fire (s.updA n (fun a => { a with iss := a.iss.ksetTo k b })) (b != 0) none))

def execAgKbnd (r : Rule) (s : State) : Host.Outcome State Fault Refusal :=
  s.fireA r (fun s n a =>
    if a.setNull r then (s, .fire s false none)
    else
      let k := match opdOf r.dst with | .k i => i | _ => 0
      (s, .fire (s.updA n (fun b => { b with iss := b.iss.kbndTo k ((a.value r.srcA).setWidth 32) })) true none))

def execAgHlt (r : Rule) (s : State) : Host.Outcome State Fault Refusal :=
  s.fireA r (fun s n _ => (s, .fire (s.updA n (fun a => { a with iss := { a.iss with run := .halted } })) true none))

end Sys2Proof.Machine
end

