-- ==== Sys2Proof/Machine/Barrier.lean ====
section
/-!
DEFINITION. Barrier objects and windows (16 R284 to R291), BARA (09 R208), PSIG (09 R207, 16 R282) and the messages between
tiles and objects.
-/

namespace Sys2Proof.Machine

open Sys2Proof

/-! ## An object in memory (16 R284, R285) -/

/-- Word i of the object at a key of the scratchpads. -/
def State.objWord (s : State) (key i : Nat) : Word := memWord s.sram (key + 8 * i)
def State.setObjWord (s : State) (key i : Nat) (v : Word) : State := { s with sram := memWrite s.sram (key + 8 * i) 8 v.toNat }

def State.objGen (s : State) (key : Nat) : BitVec 32 := (s.objWord key 0).setWidth 32
def State.objBroken (s : State) (key : Nat) : Bool := bitB (s.objWord key 0) 33
def State.objExpect (s : State) (key p : Nat) : Nat := bitsN (s.objWord key (1 + p)) 0 16
def State.objArrived (s : State) (key p : Nat) : Nat := bitsN (s.objWord key (1 + p)) 16 16

/-- Counts that R285 lets stand in a valid object: every EXPECT at least 1, no ARRIVED above its EXPECT. -/
def countsOk (expect arrived : Nat → Nat) : Bool := (List.range 4).all (fun p => 1 ≤ expect p && arrived p ≤ expect p)

/-- VALID as the stored word gives it, and 0 wherever the conditions of R285 fail (20 R338). -/
def State.objValid (s : State) (key : Nat) : Bool := bitB (s.objWord key 0) 32 && countsOk (s.objExpect key) (s.objArrived key)

/-- Words of an object as they are stored. -/
def objHead (gen : BitVec 32) (valid broken : Bool) : Word := gen.setWidth 64 ||| (if valid then 1#64 <<< 32 else 0) ||| (if broken then 1#64 <<< 33 else 0)
def objSlot (expect arrived : Nat) : Word := BitVec.ofNat 64 (expect % 2 ^ 16 + arrived % 2 ^ 16 * 2 ^ 16)

/-- The entries of an object, and the object's ENT brought up to date (R287). -/
def Cell.entriesOf (c : Cell) (key : Nat) : List BarEnt := c.bars.filter (fun b => b.obj == key)
def State.putEnt (s : State) (d key : Nat) : State := s.setObjWord key 5 (BitVec.ofNat 64 ((s.cell d).entriesOf key).length)

/-- Change the entry of a tile's set at an object, making it if there is none. -/
def State.updEntry (s : State) (d key tile reach : Nat) (g : BitVec 32) (f : BarEnt → BarEnt) : State :=
  s.updCell d (fun c =>
    let mine (b : BarEnt) : Bool := b.obj == key && b.tile == tile && b.reach == reach
    let e := (c.bars.find? mine).getD ⟨tile, reach, key, g, none⟩
    { c with bars := c.bars.filter (fun b => !mine b) ++ [f e] })

/-- a ≥ b in the window of 2^31 (R285). -/
def genGe (a b : BitVec 32) : Bool := (a - b).toNat < 2 ^ 31
/-- The least generation at or above `from_` in slot p. -/
def genAt (from_ : BitVec 32) (p : Nat) : BitVec 32 := from_ + BitVec.ofNat 32 ((p + 4 - from_.toNat % 4) % 4)
def genMax (a b : BitVec 32) : BitVec 32 := if genGe a b then a else b

/-! ## Messages and events (R287, R291) -/

/-- The address of an object as a reach names it. -/
def State.objAddr (s : State) (reach key : Nat) : Word :=
  match s.reach? reach with
  | some r =>
    let d := key / 2 ^ 22
    BitVec.ofNat 64 (((cellY d - r.cy) * 32 + (cellX d - r.cx)) * 2 ^ 22 + key % 2 ^ 22)
  | none => BitVec.ofNat 64 key
/-- The address of an object as the set of an entry named it. -/
def State.objName (s : State) (e : BarEnt) : Word := s.objAddr e.reach e.obj

def State.send (s : State) (m : Ctl) : State := { s with ctl := s.ctl ++ [m] }

/-- The event 0x0A of a memory tile. -/
def State.barEvent (s : State) (d : Nat) (addr : Word) (gen : BitVec 32) (reason released arriver : Nat) : State :=
  let id := (s.mset d).reach
  let j := s.reachJob id
  let s := s.event j 0x0A 0 (tileUnit d 2) addr
    (BitVec.ofNat 64 (gen.toNat + reason * 2 ^ 32 + min released 65535 * 2 ^ 48)) (BitVec.ofNat 64 arriver) (some id)
  s.updJob j (fun b => { b with brkevt := satInc b.brkevt })

/-- Free every entry of a broken object, with its releases and resets, and set BROKEN (R290). -/
def State.breakObj (s : State) (d key : Nat) (addr : Word) (reason arriver : Nat) (gen0 : BitVec 32) : State :=
  let es := (s.cell d).entriesOf key
  let s := es.foldl (fun s e =>
    let s := match e.wait with
      | some (_, w) => s.send (.release e.tile e.reach (s.objName e) w (s.objGen key) true)
      | none => s
    s.send (.reset e.tile e.reach (s.objName e))) s
  let s := s.updCell d (fun c => { c with bars := c.bars.filter (fun b => b.obj != key) })
  let s := s.setObjWord key 0 (s.objWord key 0 ||| (1#64 <<< 33))
  (s.putEnt d key).barEvent d addr gen0 reason (es.filter (fun e => e.wait.isSome)).length arriver

/-- One pass of complete(o): the oldest generation ends. -/
def State.endGeneration (s : State) (d key : Nat) : State :=
  let gen := s.objGen key
  let p := gen.toNat % 4
  let s := s.setObjWord key (1 + p) (objSlot (s.objExpect key p) 0)
  let s := s.setObjWord key 0 (objHead (gen + 1) (s.objValid key) (s.objBroken key))
  let es := (s.cell d).entriesOf key
  let s := es.foldl (fun s e =>
    match e.wait with
    | some (g, w) =>
      if g = gen then
        (s.send (.release e.tile e.reach (s.objName e) w (gen + 1) false)).updEntry d key e.tile e.reach e.gw (fun e => { e with wait := none })
      else if genGe e.gw (gen + 1) then s.send (.advance e.tile e.reach (s.objName e) (gen + 1)) else s
    | none => if genGe e.gw (gen + 1) then s.send (.advance e.tile e.reach (s.objName e) (gen + 1)) else s) s
  let s := s.updCell d (fun c => { c with
    bars := c.bars.filter (fun b => b.obj != key || genGe b.gw (gen + 1) || b.wait.isSome) })
  s.putEnt d key

/-- complete(o) of R287; four slots fill at most. -/
def State.completeObj (s : State) (d key : Nat) : Nat → State
  | 0 => s
  | fuel + 1 =>
    let p := (s.objGen key).toNat % 4
    if s.objArrived key p = s.objExpect key p then State.completeObj (s.endGeneration d key) d key fuel else s

/-- The event of reason 4, once after each write of the object. -/
def State.refuseArrival (s : State) (d key : Nat) (addr : Word) (released arriver : Nat) : State :=
  if (s.cell d).barRefused.contains key then s
  else (s.updCell d (fun c => { c with barRefused := key :: c.barRefused })).barEvent d addr (s.objGen key) 4 released arriver

/-- The port that serves an arrival: the lowest in the role of barrier area whose window holds the object (20 R337). -/
def State.barPort (s : State) (d off : Nat) : Option Nat :=
  (List.range 4).find? (fun p => (s.port d p).role == 0x08 && (s.port d p).inWindow off)

/-- A whole-object write (R285, R289); `arriver` is the writer with its tile kind. -/
def State.writeObj (s : State) (d off : Nat) (u : Unit64) (addr : Word) (arriver : Nat) : State :=
  let key := sramKey d off
  let gen0 := s.objGen key
  let quiet := ((s.cell d).entriesOf key).isEmpty && (List.range 4).all (fun p => s.objArrived key p == 0)
  let w (i : Nat) : Word := bits u (64 * i) 64
  let expect (p : Nat) : Nat := bitsN (w (1 + p)) 0 16
  let arrived (p : Nat) : Nat := bitsN (w (1 + p)) 16 16
  let valid := bitB (w 0) 32 && countsOk expect arrived
  let s := s.updCell d (fun c => { c with barRefused := c.barRefused.filter (· != key) })
  let s := s.setObjWord key 0 (objHead ((w 0).setWidth 32) valid (!quiet))
  let s := (List.range 4).foldl (fun s p => s.setObjWord key (1 + p) (objSlot (expect p) (arrived p))) s
  let s := ((s.setObjWord key 6 0).setObjWord key 7 0).mend 0 (key / 64)
  if quiet then s.setObjWord key 5 0
  else s.breakObj d key addr (if valid then 1 else 2) arriver gen0

/-- An ATOM at an object (R288): the state after it, and the word it returns. -/
def State.atomObj (s : State) (d off w x : Nat) (addr : Word) (arriver : Nat) : State × Word :=
  let key := sramKey d off
  let old := s.objWord key w
  let p := w - 1
  if !s.objValid key || s.objBroken key then (s.refuseArrival d key addr 0 arriver, old)
  else if s.objExpect key p < s.objArrived key p + x then (s.breakObj d key addr 3 arriver (s.objGen key), old)
  else
    ((s.setObjWord key w (objSlot (s.objExpect key p) (s.objArrived key p + x))).completeObj d key 5, old)

/-! ## Arrivals (R287) -/

/-- The object of an arrival at a port lies in an uncorrectable unit (14 R279). -/
def State.arrivalBad (s : State) (d p : Nat) (m : Ctl) : Bool :=
  match m with
  | .arrive _ _ mem addr _ _ _ _ => mem == d && s.barPort d (bitsN addr 0 22) == some p && s.bad.contains (0, sramKey d (bitsN addr 0 22) / 64)
  | _ => false

/-- An arrival waits while its port stands frozen: the port freezes, with its event, at the first whose object it cannot read, and
goes on once no such unit is left (14 R279; log entry 82). -/
def State.arrivalStop (s : State) (d p : Nat) (m : Ctl) (addr : Word) (tile : Nat) : Option State :=
  if s.portStands d p then some s
  else if s.arrivalBad d p m then
    if (s.port d p).stopped then some s
    else
      let id := (s.mset d).reach
      some ((s.updPort d p (fun q => { q with stopped := true })).event (s.reachJob id) 0x0F 0 (tileUnit d 2) addr 0
        (BitVec.ofNat 64 (tileUnit tile 0)) (some id))
  else if (s.port d p).stopped && s.ctl.any (s.arrivalBad d p) then some s
  else none

/-- BARRIER_ARRIVAL: message n reaches its object. A port that has lost its role since the arrival left refuses it. -/
def execBarrierArrival (n : Nat) (s : State) : Host.Outcome State Fault Refusal :=
  match s.ctl[n]? with
  | some (.arrive tile reach mem addr g p wait w) =>
    let off := bitsN addr 0 22
    let key := sramKey mem off
    match (s.barPort mem off).bind (fun q => s.arrivalStop mem q (.arrive tile reach mem addr g p wait w) addr tile) with
    | some t => .next t
    | none =>
    let s := { s with ctl := s.ctl.eraseIdx n }
    let s := match s.barPort mem off with
      | some q => s.updPort mem q (fun q => { q with stopped := false })
      | none => s
    let broken (s : State) : State := if wait then s.send (.release tile reach addr w (s.objGen key) true) else s
    if (s.barPort mem off).isNone || !s.objValid key || s.objBroken key then
      .next ((broken (s.send (.refusedReply tile reach addr))).refuseArrival mem key addr (b2n wait) tile)
    else
      let gen := s.objGen key
      let g : BitVec 32 := match g with
        | some g => if (g - gen).toNat < 4 then g else genAt gen p
        | none => genAt gen p
      if s.objArrived key p = s.objExpect key p then
        .next (broken ((s.breakObj mem key addr 3 tile gen).send (.refusedReply tile reach addr)))
      else
        let s := s.setObjWord key (1 + p) (objSlot (s.objExpect key p) (s.objArrived key p + 1))
        let s := if g ≠ gen then s.updEntry mem key tile reach g (fun e => { e with gw := genMax e.gw g }) else s
        let s := if wait then s.updEntry mem key tile reach g (fun e => { e with wait := some (g, w) }) else s
        let s := (s.putEnt mem key).completeObj mem key 5
        .next (s.send (.reply tile reach addr g (s.objGen key)))
  | _ => .next s

/-! ## The sets of a reach (08 R175, R176; 21 R354)

A write for a set that has been swapped out goes to its inactive half, and, once the set has streamed out, to its save image:
what the tile holds there is applied when the set returns. -/

/-- The issue state of a reach's set in a tile: in the active or the inactive half, or in its save image. -/
def State.issueOf (s : State) (n kind reach : Nat) : Option Issue :=
  let c := s.cell n
  let here := if kind = 0 then [c.c.act.iss, c.c.ina.iss] else [c.a.act.iss, c.a.ina.iss]
  let kept := s.images.flatMap (fun m =>
    if m.reach = reach then (m.cells.filter (fun e => e.cell == n)).map (fun e => if kind = 0 then e.c.iss else e.a.iss) else [])
  (here ++ kept).find? (fun x => x.reach == reach && x.run != .off)

/-- A reach's set stands in a tile, and not in its save image alone. -/
def State.inTile (s : State) (n kind reach : Nat) : Bool :=
  let c := s.cell n
  (if kind = 0 then [c.c.act.iss, c.c.ina.iss] else [c.a.act.iss, c.a.ina.iss]).any (fun x => x.reach == reach && x.run != .off)

/-- Change the sets of a reach in a cell, wherever they stand. -/
def State.updSet (s : State) (n reach : Nat) (f : CSet → CSet) (g : ASet → ASet) : State :=
  let fc (x : CSet) : CSet := if x.iss.reach = reach then f x else x
  let ga (x : ASet) : ASet := if x.iss.reach = reach then g x else x
  let s := s.updCell n (fun c => { c with c := ⟨fc c.c.act, fc c.c.ina⟩, a := ⟨ga c.a.act, ga c.a.ina⟩ })
  { s with images := s.images.map (fun m =>
    if m.reach = reach then { m with cells := m.cells.map (fun e => if e.cell = n then { e with c := fc e.c, a := ga e.a } else e) } else m) }

/-- Change the compute set of a reach, and the issue state of one of its sets. -/
def State.updCSet (s : State) (n reach : Nat) (f : CSet → CSet) : State := s.updSet n reach f id
def State.updIssueOf (s : State) (n kind reach : Nat) (f : Issue → Issue) : State :=
  if kind = 0 then s.updSet n reach (fun c => { c with iss := f c.iss }) id else s.updSet n reach id (fun a => { a with iss := f a.iss })

/-! ## Messages at a compute tile (R287, R282) -/

/-- The tile and object of a message to a compute tile. -/
def Ctl.dest : Ctl → Option (Nat × Nat × Word)
  | .arrive _ _ _ _ _ _ _ _ => none
  | .reply t r o _ _ => some (t, r, o)
  | .refusedReply t r o => some (t, r, o)
  | .advance t r o _ => some (t, r, o)
  | .release t r o _ _ _ => some (t, r, o)
  | .reset t r o => some (t, r, o)

/-- Where a release comes from, and which set it is for: its predicate write enters the inbound queue of that set. -/
def Ctl.write : Ctl → Option (Nat × Nat × Nat)
  | .release t r o _ _ _ => some (t, r, bitsN o 22 9)
  | _ => none

/-- Messages of one object to one tile arrive in the order they were sent, and so do the releases of one memory tile to one tile
(16 R282). -/
def State.ctlFirst (s : State) (n : Nat) : Bool :=
  match s.ctl[n]? with
  | none => false
  | some x => x.dest.isSome && !(s.ctl.take n).any (fun m => m.dest == x.dest || (x.write.isSome && m.write == x.write))

/-- The entry of an object is in use. -/
def Window.isFor (e : Window) (o : Word) : Bool := e.valid && e.obj == o

/-- The GEN that a message tells: the first of a new entry, and then the higher one (R286). -/
def Window.learn (e : Window) (gen : BitVec 32) : BitVec 32 := if e.cur.isNone then gen else genMax e.genk gen

/-- The entry of an object, if a set has one; change it; drop it. -/
def CSet.winOf (cs : CSet) (o : Word) : Option Window := cs.win.toList.find? (fun e => e.isFor o)
def CSet.updWin (cs : CSet) (o : Word) (f : Window → Window) : CSet := { cs with win := cs.win.map (fun e => if e.isFor o then f e else e) }
def CSet.dropWin (cs : CSet) (o : Word) : CSet := cs.updWin o (fun _ => Window.reset)

/-- A counted reply; a refused one, which drops the entry once no wait is pending; an advance; the end of a wait. -/
def Window.replied (e : Window) (g gen : BitVec 32) : Window := { e with cur := some g, genk := e.learn gen, inflight := false }
def Window.turnedAway (e : Window) : Window := if e.waitp then { e with inflight := false, refused := true } else Window.reset
def Window.advanced (e : Window) (gen : BitVec 32) : Window := { e with genk := e.learn gen }
def Window.waited (e : Window) (gen : BitVec 32) : Window :=
  if e.refused then Window.reset else { e with genk := e.learn gen, waitp := false }

/-- BRK of a compute tile: a refused reply, or a release marked broken, has reached it (R298). -/
def State.breakTile (s : State) (t : Nat) : State := s.updCell t (fun c => { c with brk := true })

/-- BARRIER_REPLY. -/
def execBarrierReply (n : Nat) (s : State) : Host.Outcome State Fault Refusal :=
  if !s.ctlFirst n then .next s
  else match s.ctl[n]? with
    | some (.reply t r o g gen) =>
      .next (({ s with ctl := s.ctl.eraseIdx n }).updCSet t r (fun (cs : CSet) => cs.updWin o (fun e => e.replied g gen)))
    | some (.refusedReply t r o) =>
      .next ((State.updCSet { s with ctl := s.ctl.eraseIdx n } t r (fun (cs : CSet) => cs.updWin o Window.turnedAway)).breakTile t)
    | _ => .next s

/-- BARRIER_ADVANCE. -/
def execBarrierAdvance (n : Nat) (s : State) : Host.Outcome State Fault Refusal :=
  if !s.ctlFirst n then .next s
  else match s.ctl[n]? with
    | some (.advance t r o gen) =>
      .next (({ s with ctl := s.ctl.eraseIdx n }).updCSet t r (fun (cs : CSet) => cs.updWin o (fun e => e.advanced gen)))
    | _ => .next s

/-- A predicate write joins the inbound queue of a tile; a halted one absorbs it (09 R209). -/
def Issue.takeWrite (x : Issue) (q : Inbound) : Issue := if x.run = .halted then x else { x with inb := x.inb ++ [q] }

/-- What a release does to a set: the predicate write joins the inbound queue, and the entry ends its wait or is dropped. -/
def CSet.released (cs : CSet) (o : Word) (w : BitVec 3) (gen : BitVec 32) (broken : Bool) : CSet :=
  let cs : CSet := { cs with iss := cs.iss.takeWrite ⟨512 + bitsN o 22 9, w, true⟩ }
  if broken then cs.dropWin o else cs.updWin o (fun e => e.waited gen)

/-- Writes that a tile holds for a set: its inbound queue and, once the set has streamed out, the PROGWR that wait for it (08 R176). -/
def State.writesHeld (s : State) (n kind reach : Nat) (x : Issue) : Nat :=
  x.inb.length + (if kind = 0 && !s.inTile n kind reach then
    (s.ctxs.toList.filter (fun c => match c.wait with
      | .progwr r d _ _ _ => r == reach && d == n
      | _ => false)).length else 0)

/-- BARRIER_RELEASE: it waits at the memory tile until the inbound queue has an entry (R282). -/
def execBarrierRelease (n : Nat) (s : State) : Host.Outcome State Fault Refusal :=
  if !s.ctlFirst n then .next s
  else match s.ctl[n]? with
    | some (.release t r o w gen broken) =>
      let full : Bool := match s.issueOf t kindC r with
        | some x => 8 ≤ s.writesHeld t kindC r x && x.run != Run.halted
        | none => false
      if full then .next s
      else
        let s := State.updCSet { s with ctl := s.ctl.eraseIdx n } t r (fun cs => cs.released o w gen broken)
        .next (if broken then s.breakTile t else s)
    | _ => .next s

/-- BARRIER_RESET. -/
def execBarrierReset (n : Nat) (s : State) : Host.Outcome State Fault Refusal :=
  if !s.ctlFirst n then .next s
  else match s.ctl[n]? with
    | some (.reset t r o) => .next (({ s with ctl := s.ctl.eraseIdx n }).updCSet t r (fun (cs : CSet) => cs.dropWin o))
    | _ => .next s

/-! ## BARA (09 R208, 16 R286) -/

/-- An entry that waits for nothing, and so may be taken for another object. -/
def Window.idle (e : Window) : Bool := !e.inflight && !e.waitp && (match e.cur with | some c => genGe e.genk c | none => true)

/-- The place that BARA takes for a new object: a free entry, or the least recently used of those that wait for nothing. -/
def CSet.freeWin (cs : CSet) : Option Nat :=
  let entry (i : Nat) : Window := vget Window.reset cs.win i
  match (List.range 4).find? (fun i => !(entry i).valid) with
  | some i => some i
  | none =>
    ((List.range 4).filter (fun i => (entry i).idle)).foldl (fun m i => match m with
      | none => some i
      | some k => if (entry i).used < (entry k).used then some i else m) none

/-- The place of an object's entry. -/
def CSet.winAt (cs : CSet) (o : Word) : Option Nat := (List.range 4).find? (fun i => (vget Window.reset cs.win i).isFor o)

/-- BARA. An object that no barrier area of its tile holds is refused as an address outside the partition is (20 R337). -/
def execBara (r : Rule) (s : State) : Host.Outcome State Fault Refusal :=
  s.fireC r .none false (fun s n cs =>
    let addr := cs.scal r.srcA
    let k := cs.scal r.srcB
    if k &&& ~~~63#64 ≠ 0 then .arith 8
    else match s.sramTarget n cs.iss.reach addr with
      | .error _ => .refuseEvent 2 0x04 addr
      | .ok (d, off) =>
        if (s.barPort d off).isNone then .refuseEvent 2 0x04 addr
        else
          let p := bitsN k 0 2
          let wait := bitB k 2
          let w : BitVec 3 := bits k 3 3
          let go (i : Nat) (e : Window) (g : Option (BitVec 32)) : Offer :=
            let e := { e with obj := addr, valid := true, inflight := true, used := s.turnNo }
            let e := if wait then { e with waitp := true, w := w } else e
            .fire ((s.updC n (fun c => { c with win := vset c.win i e })).send (.arrive n cs.iss.reach d addr g p wait w)) true none
          match cs.winAt addr with
          | none =>
            match cs.freeWin with
            | none => .refuse 2
            | some i => go i Window.reset none
          | some i =>
            let e := vget Window.reset cs.win i
            if e.inflight || (wait && e.waitp) then .refuse 2
            else
              let g := genAt (match e.cur with | some c => genMax c e.genk | none => e.genk) p
              if 4 ≤ (g - e.genk).toNat then .refuse 2
              else go i e (some g))

/-! ## PSIG (09 R207, 16 R282, 08 R176) -/

/-- PSIG: the write takes its entry of the target's inbound queue when it fires. A halted target absorbs it. -/
def execPsig (r : Rule) (s : State) : Host.Outcome State Fault Refusal :=
  s.fireC r .none false (fun s n cs =>
    let k := cs.scal r.srcA
    let kind := bitsN k 9 1
    let id := cs.iss.reach
    let d : Nat := match s.reach? id with
      | some rr => cellAt (rr.cx + bitsN k 0 5) (rr.cy + bitsN k 5 4)
      | none => n
    match s.issueOf d kind id with
    | none => .fire s true none
    | some x =>
      if 8 ≤ s.writesHeld d kind id x && x.run != Run.halted then .refuse 5
      else .fire (s.updIssueOf d kind id (fun x => x.takeWrite ⟨n, bits k 10 3, bitB k 13⟩)) true none)

/-- Write n of an inbound queue is applied; a halted tile absorbs it (09 R209). -/
def Issue.applyWrite (x : Issue) (n : Nat) : Issue :=
  match x.inb[n]? with
  | none => x
  | some w => { x with
      inb := x.inb.eraseIdx n
      preds := if x.run == .halted || (x.run == .stopped && x.before == .halted) then x.preds else putBit x.preds w.pred.toNat w.val }

/-- PSIG_APPLY: write n of the inbound queue of the active set is applied between two rounds; those of one sender keep
their order. -/
def execPsigApply (cell kind n : Nat) (s : State) : Host.Outcome State Fault Refusal :=
  let x := s.issue cell kind
  match x.inb[n]? with
  | none => .next s
  | some w =>
    if x.sel ≠ [] || (x.inb.take n).any (fun v => v.sender == w.sender) then .next s
    else .next (s.updIssue cell kind (fun x => x.applyWrite n))

end Sys2Proof.Machine
end

