-- ==== Sys2Proof/Decode.lean ====
section
/-!
DEFINITION. The decoder and the encoder, written from 02 R39 and R44 to R58 and from the operand forms that 09, 10 and
11 give their rules. A control-core word is decoded when it is fetched; a rule word, a port word or a skerry word is
judged once, by the configuration loader, so its decoder answers the loader's error code. Each is total and refuses by
name.
-/

namespace Sys2Proof

/-! ## Control-core words (02 R44 to R47) -/

/-- The register field in [25:21]: xd, xh, or a branch's xa. -/
def rd (w : BitVec 32) : Reg := bits w 21 5
/-- The register field in [20:16]: xa, or the xb of the branch and CF formats. -/
def ra (w : BitVec 32) : Reg := bits w 16 5
/-- The register field in [15:11]: xb of the CA format. -/
def rb (w : BitVec 32) : Reg := bits w 11 5
/-- imm16, offset16 or field16. -/
def imm (w : BitVec 32) : BitVec 16 := bits w 0 16

/-- An instruction that a word stands for only if a condition on its other bits holds. -/
def onlyIf (c : Bool) (i : Instr) : Option Instr := if c then some i else none

/-- The ALU group, by its function field (02 R46). -/
def decodeAlu (w : BitVec 32) : Option Instr :=
  match (bits w 0 11).toNat with
  | 0 => some (.add (rd w) (ra w) (rb w))
  | 1 => some (.sub (rd w) (ra w) (rb w))
  | 2 => some (.and (rd w) (ra w) (rb w))
  | 3 => some (.or (rd w) (ra w) (rb w))
  | 4 => some (.xor (rd w) (ra w) (rb w))
  | 5 => some (.sll (rd w) (ra w) (rb w))
  | 6 => some (.srl (rd w) (ra w) (rb w))
  | 7 => some (.sra (rd w) (ra w) (rb w))
  | 8 => some (.mul (rd w) (ra w) (rb w))
  | 9 => some (.mulh (rd w) (ra w) (rb w))
  | 10 => some (.divu (rd w) (ra w) (rb w))
  | 11 => some (.remu (rd w) (ra w) (rb w))
  | 12 => some (.slt (rd w) (ra w) (rb w))
  | 13 => some (.sltu (rd w) (ra w) (rb w))
  | 14 => some (.min (rd w) (ra w) (rb w))
  | 15 => some (.max (rd w) (ra w) (rb w))
  | _ => none

/-- The collective operations, by field [9:8]; a query names x0 as xb (05 R128; log entry 61). -/
def decodeColl (w : BitVec 32) : Option Instr :=
  match (bits w 8 8).toNat with
  | 0 => some (.collEnable (rd w) (ra w) (bits w 0 8))
  | 1 => onlyIf (ra w == 0) (.collQuery (rd w) (ra w) (bits w 0 8))
  | 2 => some (.collAbort (rd w) (ra w) (bits w 0 8))
  | _ => none

/-- The control and status registers the part implements are 0x000 to 0x00E (05 R111). -/
def csrImplemented (n : BitVec 16) : Bool := n.toNat ≤ 0x00E

/-- The control-core word `w` as an instruction; none for a word that is not one (02 R39, R45, R47; 05 R124, R131). -/
def decode (w : BitVec 32) : Option Instr :=
  match (bits w 26 6).toNat with
  | 0x01 => decodeAlu w
  | 0x02 => some (.addi (rd w) (ra w) (imm w))
  | 0x03 => some (.andi (rd w) (ra w) (imm w))
  | 0x04 => some (.ori (rd w) (ra w) (imm w))
  | 0x05 => some (.xori (rd w) (ra w) (imm w))
  | 0x06 => onlyIf (bits w 6 10 == 0) (.slli (rd w) (ra w) (bits w 0 6))
  | 0x07 => onlyIf (bits w 6 10 == 0) (.srli (rd w) (ra w) (bits w 0 6))
  | 0x08 => onlyIf (bits w 6 10 == 0) (.srai (rd w) (ra w) (bits w 0 6))
  | 0x09 => onlyIf (bits w 16 5 == 0) (.lui (rd w) (imm w))
  | 0x0A => some (.ld (rd w) (ra w) (imm w))
  | 0x0B => some (.st (rd w) (ra w) (imm w))
  | 0x0C => some (.ldaq (rd w) (ra w) (imm w))
  | 0x0D => some (.strl (rd w) (ra w) (imm w))
  | 0x0E => onlyIf ((bits w 0 4).toNat ≤ 8 && (bits w 4 3).toNat ≤ 4 && bits w 7 4 == 0) (.amo (rd w) (ra w) (rb w) (bits w 4 3) (bits w 0 4))
  | 0x10 => some (.beq (rd w) (ra w) (imm w))
  | 0x11 => some (.bne (rd w) (ra w) (imm w))
  | 0x12 => some (.blt (rd w) (ra w) (imm w))
  | 0x13 => some (.bge (rd w) (ra w) (imm w))
  | 0x14 => some (.bltu (rd w) (ra w) (imm w))
  | 0x15 => some (.bgeu (rd w) (ra w) (imm w))
  | 0x16 => some (.jal (bits w 0 26))
  | 0x17 => some (.jalr (rd w) (ra w) (imm w))
  | 0x20 => onlyIf (bits w 9 7 == 0) (.cfgld (rd w) (ra w) (bits w 5 4) (bits w 0 5))
  | 0x21 => onlyIf (bits w 0 16 == 0) (.cfgsw (rd w) (ra w))
  | 0x22 => onlyIf (bits w 2 14 == 0 && bits w 0 2 != 3) (.launch (rd w) (ra w) (bits w 1 1) (bits w 0 1))
  | 0x23 => onlyIf (bits w 5 11 == 0) (.seed (rd w) (ra w) (bits w 3 2) (bits w 0 3))
  | 0x24 => onlyIf (bits w 2 14 == 0 && bits w 0 2 != 3) (.waitc (rd w) (ra w) (bits w 0 2))
  | 0x25 => onlyIf (bits w 1 15 == 0) (.waita (rd w) (ra w) (bits w 0 1))
  | 0x26 => onlyIf (bits w 3 23 == 0 && (bits w 0 3).toNat ≤ 4) (.fence (bits w 0 3))
  | 0x27 => onlyIf (bits w 6 10 == 0) (.publish (rd w) (ra w) (bits w 0 6))
  | 0x28 => onlyIf (bits w 0 16 == 0) (.gang (rd w) (ra w))
  | 0x29 => decodeColl w
  | 0x2A => onlyIf (bits w 12 4 == 0) (.progrd (rd w) (ra w) (bits w 9 3) (bits w 5 4) (bits w 0 5))
  | 0x2B => onlyIf (bits w 13 3 == 0) (.progwr (rd w) (ra w) (bits w 12 1) (bits w 9 3) (bits w 5 4) (bits w 0 5))
  | 0x30 => onlyIf (bits w 16 5 == 0 && csrImplemented (imm w)) (.csrrd (rd w) (imm w))
  | 0x31 => onlyIf (bits w 21 5 == 0 && csrImplemented (imm w)) (.csrwr (ra w) (imm w))
  | 0x38 => onlyIf (bits w 16 10 == 0) (.trap (imm w))
  | 0x39 => onlyIf (bits w 0 26 == 0) .rett
  | 0x3A => onlyIf (bits w 0 26 == 0) .idle
  | _ => none

/-- The word of a control-core instruction; none for an instruction of another kind. -/
def encode : Instr → Option (BitVec 32)
  | .add d a b => some (1#6 ++ d ++ a ++ b ++ 0#11)
  | .sub d a b => some (1#6 ++ d ++ a ++ b ++ 1#11)
  | .and d a b => some (1#6 ++ d ++ a ++ b ++ 2#11)
  | .or d a b => some (1#6 ++ d ++ a ++ b ++ 3#11)
  | .xor d a b => some (1#6 ++ d ++ a ++ b ++ 4#11)
  | .sll d a b => some (1#6 ++ d ++ a ++ b ++ 5#11)
  | .srl d a b => some (1#6 ++ d ++ a ++ b ++ 6#11)
  | .sra d a b => some (1#6 ++ d ++ a ++ b ++ 7#11)
  | .mul d a b => some (1#6 ++ d ++ a ++ b ++ 8#11)
  | .mulh d a b => some (1#6 ++ d ++ a ++ b ++ 9#11)
  | .divu d a b => some (1#6 ++ d ++ a ++ b ++ 10#11)
  | .remu d a b => some (1#6 ++ d ++ a ++ b ++ 11#11)
  | .slt d a b => some (1#6 ++ d ++ a ++ b ++ 12#11)
  | .sltu d a b => some (1#6 ++ d ++ a ++ b ++ 13#11)
  | .min d a b => some (1#6 ++ d ++ a ++ b ++ 14#11)
  | .max d a b => some (1#6 ++ d ++ a ++ b ++ 15#11)
  | .addi d a i => some (2#6 ++ d ++ a ++ i)
  | .andi d a i => some (3#6 ++ d ++ a ++ i)
  | .ori d a i => some (4#6 ++ d ++ a ++ i)
  | .xori d a i => some (5#6 ++ d ++ a ++ i)
  | .slli d a s => some (6#6 ++ d ++ a ++ 0#10 ++ s)
  | .srli d a s => some (7#6 ++ d ++ a ++ 0#10 ++ s)
  | .srai d a s => some (8#6 ++ d ++ a ++ 0#10 ++ s)
  | .lui d i => some (9#6 ++ d ++ 0#5 ++ i)
  | .ld d a i => some (10#6 ++ d ++ a ++ i)
  | .st d a i => some (11#6 ++ d ++ a ++ i)
  | .ldaq d a i => some (12#6 ++ d ++ a ++ i)
  | .strl d a i => some (13#6 ++ d ++ a ++ i)
  | .amo d a b s o => some (14#6 ++ d ++ a ++ b ++ 0#4 ++ s ++ o)
  | .beq a b o => some (16#6 ++ a ++ b ++ o)
  | .bne a b o => some (17#6 ++ a ++ b ++ o)
  | .blt a b o => some (18#6 ++ a ++ b ++ o)
  | .bge a b o => some (19#6 ++ a ++ b ++ o)
  | .bltu a b o => some (20#6 ++ a ++ b ++ o)
  | .bgeu a b o => some (21#6 ++ a ++ b ++ o)
  | .jal o => some (22#6 ++ o)
  | .jalr d a i => some (23#6 ++ d ++ a ++ i)
  | .cfgld h b y x => some (32#6 ++ h ++ b ++ 0#7 ++ y ++ x)
  | .cfgsw h b => some (33#6 ++ h ++ b ++ 0#16)
  | .launch h b a s => some (34#6 ++ h ++ b ++ 0#14 ++ a ++ s)
  | .seed h b t p => some (35#6 ++ h ++ b ++ 0#11 ++ t ++ p)
  | .waitc h b c => some (36#6 ++ h ++ b ++ 0#14 ++ c)
  | .waita h b f => some (37#6 ++ h ++ b ++ 0#15 ++ f)
  | .fence s => some (38#6 ++ 0#23 ++ s)
  | .publish h b w => some (39#6 ++ h ++ b ++ 0#10 ++ w)
  | .gang h b => some (40#6 ++ h ++ b ++ 0#16)
  | .collEnable h b n => some (41#6 ++ h ++ b ++ 0#8 ++ n)
  | .collQuery h b n => some (41#6 ++ h ++ b ++ 1#8 ++ n)
  | .collAbort h b n => some (41#6 ++ h ++ b ++ 2#8 ++ n)
  | .progrd h b c y x => some (42#6 ++ h ++ b ++ 0#4 ++ c ++ y ++ x)
  | .progwr h b m c y x => some (43#6 ++ h ++ b ++ 0#3 ++ m ++ c ++ y ++ x)
  | .csrrd d i => some (48#6 ++ d ++ 0#5 ++ i)
  | .csrwr a i => some (49#6 ++ 0#5 ++ a ++ i)
  | .trap i => some (56#6 ++ 0#10 ++ i)
  | .rett => some (57#6 ++ 0#26)
  | .idle => some (58#6 ++ 0#26)
  | _ => none

/-! ## Rule words (01 R35 to R37, 02 R48 to R52) -/

/-- The opcode field of a rule word. -/
def ruleOp (w : BitVec 64) : BitVec 7 := bits w 27 7

/-- The other fields of a rule word. -/
def ruleOf (w : BitVec 64) : Rule :=
  { pm := bits w 56 8, pv := bits w 48 8, ca := bits w 41 7, cb := bits w 34 7, dst := bits w 21 6, srcA := bits w 15 6,
    srcB := bits w 9 6, pu := bits w 4 5, dqa := bits w 3 1, dqb := bits w 2 1, et := bits w 0 2 }

/-- The rule word of an opcode and its other fields. -/
def ruleWord (op : BitVec 7) (r : Rule) : BitVec 64 :=
  r.pm ++ r.pv ++ r.ca ++ r.cb ++ op ++ r.dst ++ r.srcA ++ r.srcB ++ r.pu ++ r.dqa ++ r.dqb ++ r.et

/-- The compute-tile rule of an opcode (02 R51); none for rej and mtok codes. -/
def computeRule (op : Nat) (r : Rule) : Option Instr :=
  match op with
  | 0x00 => some (.ruleNop r)
  | 0x01 => some (.ruleAdd r)
  | 0x02 => some (.ruleSub r)
  | 0x03 => some (.ruleMul r)
  | 0x04 => some (.ruleAnd r)
  | 0x05 => some (.ruleOr r)
  | 0x06 => some (.ruleXor r)
  | 0x07 => some (.shl r)
  | 0x08 => some (.shr r)
  | 0x09 => some (.sar r)
  | 0x0A => some (.ruleMin r)
  | 0x0B => some (.ruleMax r)
  | 0x0C => some (.ceq r)
  | 0x0D => some (.clt r)
  | 0x0E => some (.cltu r)
  | 0x0F => some (.sel r)
  | 0x10 => some (.mov r)
  | 0x11 => some (.popc r)
  | 0x20 => some (.vadd r)
  | 0x21 => some (.vsub r)
  | 0x22 => some (.vmul r)
  | 0x23 => some (.vfma r)
  | 0x24 => some (.vmax r)
  | 0x25 => some (.vmin r)
  | 0x26 => some (.vabs r)
  | 0x27 => some (.vneg r)
  | 0x28 => some (.vexp2 r)
  | 0x29 => some (.vrcp r)
  | 0x2A => some (.vrsq r)
  | 0x2B => some (.vcvt r)
  | 0x2C => some (.vscale r)
  | 0x2D => some (.vsel r)
  | 0x2E => some (.vcmp r)
  | 0x2F => some (.vrsum r)
  | 0x30 => some (.vrmax r)
  | 0x31 => some (.vshuf r)
  | 0x32 => some (.vbcast r)
  | 0x33 => some (.vpack r)
  | 0x34 => some (.vunpk r)
  | 0x35 => some (.vdot r)
  | 0x36 => some (.topk r)
  | 0x37 => some (.vqnt r)
  | 0x40 => some (.send r)
  | 0x41 => some (.drop r)
  | 0x42 => some (.nul r)
  | 0x43 => some (.selt r)
  | 0x44 => some (.gate r)
  | 0x45 => some (.steer r)
  | 0x46 => some (.join r)
  | 0x47 => some (.retag r)
  | 0x48 => some (.kstep r)
  | 0x49 => some (.kset r)
  | 0x4A => some (.kbnd r)
  | 0x4B => some (.kend r)
  | 0x50 => some (.mctl r)
  | 0x58 => some (.spl r)
  | 0x59 => some (.fil r)
  | 0x5C => some (.psig r)
  | 0x5D => some (.bara r)
  | 0x5E => some (.trapt r)
  | 0x5F => some (.hlt r)
  | _ => none

/-- The address-generator rule of an opcode (02 R52). -/
def agRule (op : Nat) (r : Rule) : Option Instr :=
  match op with
  | 0x00 => some (.agNop r)
  | 0x01 => some (.issr r)
  | 0x02 => some (.issw r)
  | 0x03 => some (.gatr r)
  | 0x04 => some (.sctw r)
  | 0x05 => some (.cpy r)
  | 0x06 => some (.s2s r)
  | 0x07 => some (.ldsy r)
  | 0x08 => some (.atom r)
  | 0x10 => some (.rels r)
  | 0x11 => some (.acq r)
  | 0x12 => some (.mark r)
  | 0x18 => some (.tbase r)
  | 0x19 => some (.wpt r)
  | 0x48 => some (.agKstep r)
  | 0x49 => some (.agKset r)
  | 0x4A => some (.agKbnd r)
  | 0x5F => some (.agHlt r)
  | _ => none

/-- The opcode and fields of a compute-tile rule. -/
def computeFields : Instr → Option (BitVec 7 × Rule)
  | .ruleNop r => some (0x00, r)
  | .ruleAdd r => some (0x01, r)
  | .ruleSub r => some (0x02, r)
  | .ruleMul r => some (0x03, r)
  | .ruleAnd r => some (0x04, r)
  | .ruleOr r => some (0x05, r)
  | .ruleXor r => some (0x06, r)
  | .shl r => some (0x07, r)
  | .shr r => some (0x08, r)
  | .sar r => some (0x09, r)
  | .ruleMin r => some (0x0A, r)
  | .ruleMax r => some (0x0B, r)
  | .ceq r => some (0x0C, r)
  | .clt r => some (0x0D, r)
  | .cltu r => some (0x0E, r)
  | .sel r => some (0x0F, r)
  | .mov r => some (0x10, r)
  | .popc r => some (0x11, r)
  | .vadd r => some (0x20, r)
  | .vsub r => some (0x21, r)
  | .vmul r => some (0x22, r)
  | .vfma r => some (0x23, r)
  | .vmax r => some (0x24, r)
  | .vmin r => some (0x25, r)
  | .vabs r => some (0x26, r)
  | .vneg r => some (0x27, r)
  | .vexp2 r => some (0x28, r)
  | .vrcp r => some (0x29, r)
  | .vrsq r => some (0x2A, r)
  | .vcvt r => some (0x2B, r)
  | .vscale r => some (0x2C, r)
  | .vsel r => some (0x2D, r)
  | .vcmp r => some (0x2E, r)
  | .vrsum r => some (0x2F, r)
  | .vrmax r => some (0x30, r)
  | .vshuf r => some (0x31, r)
  | .vbcast r => some (0x32, r)
  | .vpack r => some (0x33, r)
  | .vunpk r => some (0x34, r)
  | .vdot r => some (0x35, r)
  | .topk r => some (0x36, r)
  | .vqnt r => some (0x37, r)
  | .send r => some (0x40, r)
  | .drop r => some (0x41, r)
  | .nul r => some (0x42, r)
  | .selt r => some (0x43, r)
  | .gate r => some (0x44, r)
  | .steer r => some (0x45, r)
  | .join r => some (0x46, r)
  | .retag r => some (0x47, r)
  | .kstep r => some (0x48, r)
  | .kset r => some (0x49, r)
  | .kbnd r => some (0x4A, r)
  | .kend r => some (0x4B, r)
  | .mctl r => some (0x50, r)
  | .spl r => some (0x58, r)
  | .fil r => some (0x59, r)
  | .psig r => some (0x5C, r)
  | .bara r => some (0x5D, r)
  | .trapt r => some (0x5E, r)
  | .hlt r => some (0x5F, r)
  | _ => none

/-- The opcode and fields of an address-generator rule. -/
def agFields : Instr → Option (BitVec 7 × Rule)
  | .agNop r => some (0x00, r)
  | .issr r => some (0x01, r)
  | .issw r => some (0x02, r)
  | .gatr r => some (0x03, r)
  | .sctw r => some (0x04, r)
  | .cpy r => some (0x05, r)
  | .s2s r => some (0x06, r)
  | .ldsy r => some (0x07, r)
  | .atom r => some (0x08, r)
  | .rels r => some (0x10, r)
  | .acq r => some (0x11, r)
  | .mark r => some (0x12, r)
  | .tbase r => some (0x18, r)
  | .wpt r => some (0x19, r)
  | .agKstep r => some (0x48, r)
  | .agKset r => some (0x49, r)
  | .agKbnd r => some (0x4A, r)
  | .agHlt r => some (0x5F, r)
  | _ => none

/-- A rule word of a compute tile, or of an address generator, as an instruction. -/
def decodeRule (ag : Bool) (w : BitVec 64) : Option Instr :=
  if ag then agRule (ruleOp w).toNat (ruleOf w) else computeRule (ruleOp w).toNat (ruleOf w)

/-- The rule word of an instruction of a compute tile, or of an address generator. -/
def encodeRule (ag : Bool) (i : Instr) : Option (BitVec 64) :=
  ((if ag then agFields i else computeFields i)).map (fun p => ruleWord p.1 p.2)

/-! ## Operand forms (02 R49, R50; 09 R177 to R209; 10 R214; 11 R230) -/

/-- Operand classes of 09 R177, with the templates of an address generator. -/
inductive Cls where
  | s | v | i | o | b | k | q | null | g
  deriving DecidableEq, Repr

/-- The class of an operand code as a source or as a destination; none where 02 R49 rejects the code. -/
def clsOf (ag isDst : Bool) (c : BitVec 6) : Option Cls :=
  let n := c.toNat
  if n < 16 then (if ag then none else some .s)
  else if n < 24 then (if ag then none else some .v)
  else if n < 32 then some (if isDst then .o else .i)
  else if n < 36 then (if ag || isDst then none else some .b)
  else if n < 44 then some .k
  else if n < 47 then none
  else if n = 47 then (if isDst then some .null else none)
  else if isDst then none else some .q

/-- The class of srcB, which in an address generator may name a template. -/
def clsB (ag : Bool) (c : BitVec 6) : Option Cls :=
  if ag && 44 ≤ c.toNat && c.toNat ≤ 47 then some .g else clsOf ag false c

/-- How a form uses ET: never, on an output destination, always (NUL, SELT, JOIN, RETAG), or as SEND does (09 R180,
R195; 11 R230). -/
inductive EtUse where
  | never | output | always | send
  deriving DecidableEq, Repr

/-- An operand form: the classes each field accepts (an empty list for an unused field), a field that may also be left
zero, and its use of ET. -/
structure Form where
  dst : List Cls
  a : List Cls
  b : List Cls
  optA : Bool
  optB : Bool
  et : EtUse
  deriving DecidableEq, Repr

def scalarSrc : List Cls := [.s, .i, .b, .k, .q]
def vectorSrc : List Cls := [.v, .i, .b, .q]
def scalarDst : List Cls := [.s, .k, .o, .null]
def vectorDst : List Cls := [.v, .o, .null]

def form (dst a b : List Cls) (et : EtUse) : Form := ⟨dst, a, b, false, false, et⟩

/-- The form of a compute-tile opcode. -/
def computeForm (op : Nat) : Option Form :=
  if op = 0x00 then some (form [] [] [] .never)
  else if 0x01 ≤ op && op ≤ 0x0F then some (form scalarDst scalarSrc scalarSrc .output)
  else if op = 0x10 || op = 0x11 then some (form scalarDst scalarSrc [] .output)
  else if op = 0x23 then some (form [.v] vectorSrc vectorSrc .never)
  else if op = 0x26 || op = 0x27 || op = 0x28 || op = 0x29 || op = 0x2A || op = 0x2F || op = 0x30 then
    some (form vectorDst vectorSrc [] .output)
  else if op = 0x2B || op = 0x32 || op = 0x34 then some (form vectorDst vectorSrc [.q] .output)
  else if op = 0x36 then some (form [.v] [.v, .i, .b] [.q] .never)
  else if op = 0x37 then some (form [.o] [.v, .i, .b] [.q] .output)
  else if 0x20 ≤ op && op ≤ 0x35 then some (form vectorDst vectorSrc vectorSrc .output)
  else match op with
    | 0x40 => some (form [.o] [.i, .v, .s, .b] [] .send)
    | 0x41 => some (form [] [.i] [] .never)
    | 0x42 => some (form [.o] [] [] .always)
    | 0x43 => some (form [.o] [.i] [.i] .always)
    | 0x44 => some (form [.o] [.i] [.i] .never)
    | 0x45 => some (form [.o] [.i] [.i] .never)
    | 0x46 => some (form [.o] [.i] [.i] .always)
    | 0x47 => some (form [.o] [.i] [] .always)
    | 0x48 => some (form [.k] [] [] .never)
    | 0x49 => some (form [.k] scalarSrc [] .never)
    | 0x4A => some (form [.k] scalarSrc [] .never)
    | 0x4B => some (form [.k] [] [] .never)
    | 0x50 => some ⟨[], [.q], scalarSrc, false, true, .never⟩
    | 0x58 => some (form [] [.v] scalarSrc .never)
    | 0x59 => some (form [.v] scalarSrc [] .never)
    | 0x5C => some (form [] [.q] [] .never)
    | 0x5D => some (form [] scalarSrc scalarSrc .never)
    | 0x5E => some (form [] scalarSrc scalarSrc .never)
    | 0x5F => some (form [] [] [] .never)
    | _ => none

/-- The form of an address-generator opcode. -/
def agForm (op : Nat) : Option Form :=
  match op with
  | 0x00 => some (form [] [] [] .never)
  | 0x01 => some ⟨[], [.i], [.g], true, false, .never⟩
  | 0x02 => some ⟨[], [.i], [.g], true, false, .never⟩
  | 0x03 => some (form [] [.i, .k, .q] [.g] .never)
  | 0x04 => some (form [] [.i, .k, .q] [.g] .never)
  | 0x05 => some ⟨[], [.i], [.g], true, false, .never⟩
  | 0x06 => some ⟨[], [.i], [.g], true, false, .never⟩
  | 0x07 => some ⟨[], [.q], [.g], true, false, .never⟩
  | 0x08 => some (form [.o] [.q] [.g] .output)
  | 0x10 => some (form [.o] [] [] .output)
  | 0x11 => some (form [.o] [.i] [.q] .output)
  | 0x12 => some (form [] [.i, .k, .q] [.g] .never)
  | 0x18 => some (form [] [.i, .k, .q] [.g] .never)
  | 0x19 => some (form [.o, .k, .null] [] [.g] .output)
  | 0x48 => some (form [.k] [] [] .never)
  | 0x49 => some (form [.k] [.i, .k, .q] [] .never)
  | 0x4A => some (form [.k] [.i, .k, .q] [] .never)
  | 0x5F => some (form [] [] [] .never)
  | _ => none

/-- A used operand field against its class list: 0x0015 for a code its field rejects, 0x0016 for a class the opcode does
not accept, 0x0017 for an unused field that is not zero, whatever code it holds (02 R49, R50; log entry 81). -/
def fieldFault (accepts : List Cls) (opt : Bool) (cls : Option Cls) (zero : Bool) : Option Nat :=
  if accepts = [] then (if zero then none else some 0x0017)
  else if opt && zero then none
  else match cls with
    | none => some 0x0015
    | some c => if accepts.contains c then none else some 0x0016

/-- Whether ET is nonzero where the form emits no token with it (02 R50; 09 R180, R195). -/
def etFault (f : Form) (r : Rule) (ag : Bool) : Bool :=
  r.et != 0 && (match f.et with
    | .never => true
    | .output => clsOf ag true r.dst != some .o
    | .always => false
    | .send => clsOf ag false r.srcA == some .i)

/-- The faults of a guard (02 R48), each with the byte of the word its check reads first. -/
def guardFaults (r : Rule) : List (Nat × Nat) :=
  let use (c : BitVec 7) : Bool := bitB c 6
  let cond (c : BitVec 7) : Bool := (!use c && c != 0) || (!bitB c 2 && bits c 0 2 != 0)
  (if (r.dqa == 1 && !use r.ca) || (r.dqb == 1 && !use r.cb) then [(0, 0x0014)] else [])
    ++ (if cond r.cb || (use r.cb && !use r.ca) || (use r.ca && use r.cb && bits r.ca 3 3 == bits r.cb 3 3) then [(4, 0x0014)] else [])
    ++ (if cond r.ca then [(5, 0x0014)] else [])
    ++ (if r.pv &&& ~~~r.pm != 0 then [(6, 0x0014)] else [])

/-- A channel that a rule uses is tested by a used condition (09 R178). -/
def tested (r : Rule) (c : BitVec 6) : Bool :=
  (bitB r.ca 6 && bitsN r.ca 3 3 + 24 == c.toNat) || (bitB r.cb 6 && bitsN r.cb 3 3 + 24 == c.toNat)

/-- The flow forms that consume their channel sources: srcA in condition A with DQA, srcB in condition B with DQB
(09 R178). -/
def consumes (op : Nat) : Bool := op == 0x41 || op == 0x43 || op == 0x44 || op == 0x45 || op == 0x46

/-- The channel-source checks of a compute rule (09 R178). -/
def sourceFaults (op : Nat) (f : Form) (r : Rule) : List (Nat × Nat) :=
  let isI (c : BitVec 6) (l : List Cls) : Bool := l != [] && clsOf false false c == some .i
  let badB : Bool := isI r.srcB f.b && (if consumes op then
      !(bitB r.cb 6 && bitsN r.cb 3 3 + 24 == r.srcB.toNat && r.dqb == 1) else !tested r r.srcB)
  let badA : Bool := isI r.srcA f.a && (if consumes op then
      !(bitB r.ca 6 && bitsN r.ca 3 3 + 24 == r.srcA.toNat && r.dqa == 1) else !tested r r.srcA)
  (if badB then [(if consumes op then 0 else 1, 0x0014)] else []) ++ (if badA then [(if consumes op then 0 else 1, 0x0014)] else [])

/-- The channel checks of an address-generator rule that read only the word (11 R230): a channel in srcA stands in
condition B of a form with a data channel, in condition A otherwise. -/
def agSourceFaults (op : Nat) (r : Rule) : List (Nat × Nat) :=
  let data : Bool := op == 0x02 || op == 0x04 || op == 0x06
  let isI : Bool := clsOf true false r.srcA == some .i
  let inCond (c : BitVec 7) : Bool := bitB c 6 && bitsN c 3 3 + 24 == r.srcA.toNat
  (if isI && !(if data then inCond r.cb else inCond r.ca) then [(1, 0x0014)] else [])
    ++ (if (data || op == 0x08) && !bitB r.ca 6 then [(5, 0x0014)] else [])
    ++ (if op == 0x08 && !bitB r.cb 6 then [(4, 0x0014)] else [])

/-- What is wrong with a rule word read alone: the byte of the word its check reads first, and the loader error code
(02 R42, R48 to R52). DESIGN CHOICE (log entry 89): beside an unassigned opcode the guard and the codes that 02 R49 rejects are checked, and
neither ET nor unused fields. -/
def ruleFaults (ag : Bool) (w : BitVec 64) : List (Nat × Nat) :=
  let op := (ruleOp w).toNat
  let r := ruleOf w
  let guard := guardFaults r ++ (if (bits r.pu 3 2 == 0 && bits r.pu 0 3 != 0) then [(0, 0x0017)] else [])
  match (if ag then agForm op else computeForm op) with
  | none =>
    (3, if ag then 0x0012 else if 0x51 ≤ op && op ≤ 0x55 then 0x0013 else 0x0011) :: guard
      ++ (if (r.srcB != 0 && clsB ag r.srcB == none) || (r.srcA != 0 && clsOf ag false r.srcA == none) then [(1, 0x0015)] else [])
      ++ (if r.dst != 0 && clsOf ag true r.dst == none then [(2, 0x0015)] else [])
  | some f =>
    let one (p : Nat) (c : Option Nat) : List (Nat × Nat) := match c with | some k => [(p, k)] | none => []
    guard
      ++ (if etFault f r ag then [(0, 0x0017)] else [])
      ++ one 1 (fieldFault f.b f.optB (clsB ag r.srcB) (r.srcB == 0))
      ++ one 1 (fieldFault f.a f.optA (clsOf ag false r.srcA) (r.srcA == 0))
      ++ one 2 (fieldFault f.dst false (clsOf ag true r.dst) (r.dst == 0))
      ++ (if !ag && op == 0x45 && r.dst.toNat % 2 == 1 then [(2, 0x0015)] else [])
      ++ (if !ag && op == 0x36 && r.dst.toNat % 2 == 1 then [(2, 0x0015)] else [])
      ++ (if ag && op == 0x05 && (r.srcB == 45 || r.srcB == 47) then [(1, 0x0016)] else [])
      ++ (if ag then agSourceFaults op r else sourceFaults op f r)

/-- A rule word that passes the checks of one word. -/
def ruleWordOk (ag : Bool) (w : BitVec 64) : Bool := (ruleFaults ag w).isEmpty

/-! ## Port words (02 R54, R55; 11 R238) -/

def portOf (w : BitVec 64) : PortWord := { port := bits w 56 2, ops := bits w 0 56 }

/-- The port word of an operation code. -/
def portRule (op : Nat) (p : PortWord) : Option Instr :=
  match op with
  | 0x01 => some (.pbind p)
  | 0x02 => some (.pfifo p)
  | 0x03 => some (.prdx p)
  | 0x04 => some (.pfe p)
  | 0x05 => some (.pwpx p)
  | 0x06 => some (.pspu p)
  | 0x07 => some (.pord p)
  | 0x08 => some (.pbar p)
  | 0x09 => some (.pspl p)
  | 0x0A => some (.pcnt p)
  | 0x0B => some (.pclr p)
  | 0x0C => some (.pnul p)
  | _ => none

/-- The operation code and fields of a port word. -/
def portFields : Instr → Option (BitVec 6 × PortWord)
  | .pbind p => some (0x01, p)
  | .pfifo p => some (0x02, p)
  | .prdx p => some (0x03, p)
  | .pfe p => some (0x04, p)
  | .pwpx p => some (0x05, p)
  | .pspu p => some (0x06, p)
  | .pord p => some (0x07, p)
  | .pbar p => some (0x08, p)
  | .pspl p => some (0x09, p)
  | .pcnt p => some (0x0A, p)
  | .pclr p => some (0x0B, p)
  | .pnul p => some (0x0C, p)
  | _ => none

/-- A port word as an instruction, and back. -/
def decodePort (w : BitVec 64) : Option Instr := portRule (bitsN w 58 6) (portOf w)
def encodePort (i : Instr) : Option (BitVec 64) := (portFields i).map (fun p => p.1 ++ p.2.port ++ p.2.ops)

/-- The window fields of a port word in range (11 R238). -/
def windowOk (w : BitVec 64) : Bool :=
  let off := bitsN w 0 16
  let len := bitsN w 16 16
  if len = 0 then off == 0 else off + len ≤ 65536

/-- The operands of a port word in range and its other bits zero (11 R238). -/
def portOperandsOk (w : BitVec 64) : Bool :=
  let z (lo n : Nat) : Bool := bitsN w lo n == 0
  let port := bitsN w 56 2
  match bitsN w 58 6 with
  | 0x01 => windowOk w && bitsN w 32 2 != 3 && z 34 22
  | 0x02 => windowOk w && z 32 24
  | 0x03 => windowOk w && bitsN w 32 4 ≤ 2 && bitsN w 36 3 != 3 && z 40 16
  | 0x04 => windowOk w && z 33 23
  | 0x05 => windowOk w && z 38 18
  | 0x06 => windowOk w && bitsN w 32 4 ≤ 4 && bitsN w 36 3 != 3
      && (bitsN w 32 4 != 3 || bitsN w 36 3 == 0 || bitsN w 36 3 == 7) && z 39 17
  | 0x07 => z 0 32 && z 33 23
  | 0x08 => windowOk w && z 33 23
  | 0x09 => port == 0
  | 0x0A => z 37 19
  | 0x0B => bitsN w 0 5 != 0 && z 5 51
  | 0x0C => z 0 56
  | _ => false

/-- The loader error code of a port word read alone (02 R42, R54, R55). -/
def portFault (w : BitVec 64) : Option Nat :=
  if bitsN w 58 6 = 0 || 0x0D ≤ bitsN w 58 6 then some 0x0021
  else if portOperandsOk w then none else some 0x0022

/-! ## The host's reading of the opcode table -/

/-- The instruction the decoder reads from an instruction whose bits are w. -/
def decodeTableWord (nbits w : Nat) : Option Instr := if nbits ≤ 32 then decode (BitVec.ofNat 32 w) else none

end Sys2Proof
end

