-- ==== Sys2Proof/Machine/Vector.lean ====
section
/-!
DEFINITION. The vector operations (09 R184 to R194; 04 R98 to R102, R106, R107).
-/

namespace Sys2Proof.Machine

open Sys2Proof

/-- A list of values with flags, flags joined. -/
def joinFlags (xs : List (FVal × Nat)) : List FVal × Nat := (xs.map (·.1), xs.foldl (fun a p => a ||| p.2) 0)

/-- A value rounded to f32 with its flags joined to those of the operation (04 R98 step 2). -/
def roundF32 (mode : Nat) (x : FVal × Nat) : FVal × Nat :=
  let r := encodeNum fF32 mode false x.1
  (r.1, x.2 ||| r.2)

/-- An element-wise form of two operands. -/
def vecForm2 (f : CSet → FVal → FVal → FVal × Nat) (r : Rule) (s : State) : Host.Outcome State Fault Refusal :=
  s.fireC r .vector false (fun s n cs =>
    let a := cs.vec r.srcA
    let b := cs.vec r.srcB
    match laneCount a b with
    | none => .arith 8
    | some k =>
      let m := cs.rmode.toNat
      let xa := a.f32 m cs.sat k
      let xb := b.f32 m cs.sat k
      let y := joinFlags (List.zipWith (fun x y => roundF32 m (f cs x y)) xa.1 xb.1)
      s.putVec n cs r (resultFmt a b) y.1 (xa.2 ||| xb.2 ||| y.2))

/-- Lanes of a single operand: a constant has 16. -/
def VOpd.count : VOpd → Nat
  | .const _ => 16
  | .lanes _ xs => xs.length
def VOpd.fmtOf : VOpd → Nat
  | .const _ => fF32
  | .lanes f _ => f

/-- An element-wise form of one operand. -/
def vecForm1 (f : CSet → FVal → FVal × Nat) (r : Rule) (s : State) : Host.Outcome State Fault Refusal :=
  s.fireC r .vector false (fun s n cs =>
    let a := cs.vec r.srcA
    let m := cs.rmode.toNat
    let xa := a.f32 m cs.sat a.count
    let y := joinFlags (xa.1.map (fun x => roundF32 m (f cs x)))
    s.putVec n cs r a.fmtOf y.1 (xa.2 ||| y.2))

/-- An exact sum under the tile's mode (04 R97; log entry 11). -/
def CSet.sum (cs : CSet) (a b : FVal) : FVal × Nat := addNum (cs.rmode == 2) a b

def execVadd (r : Rule) (s : State) := vecForm2 (fun cs a b => cs.sum a b) r s
def execVsub (r : Rule) (s : State) := vecForm2 (fun cs a b => cs.sum a b.neg) r s
def execVmul (r : Rule) (s : State) := vecForm2 (fun _ a b => mulNum a b) r s
def execVmax (r : Rule) (s : State) := vecForm2 (fun _ a b => (maxNum a b, 0)) r s
def execVmin (r : Rule) (s : State) := vecForm2 (fun _ a b => (minNum a b, 0)) r s
def execVabs (r : Rule) (s : State) := vecForm1 (fun _ a => (a.abs, 0)) r s
def execVneg (r : Rule) (s : State) := vecForm1 (fun _ a => (a.neg, 0)) r s
def execVexp2 (r : Rule) (s : State) := vecForm1 (fun _ a => (exp2Num a, 0)) r s
def execVrcp (r : Rule) (s : State) := vecForm1 (fun _ a => (rcpNum a, 0)) r s
def execVrsq (r : Rule) (s : State) := vecForm1 (fun _ a => rsqNum a) r s

/-- a × b + c exactly; V for a NaN from operands that are not NaN (04 R96). -/
def fmaNum (cs : CSet) (a b c : FVal) : FVal × Nat :=
  if c = .nan then (.nan, 0)
  else
    let p := mulNum a b
    let t := cs.sum p.1 c
    (t.1, p.2 ||| t.2)

/-- VFMA (09 R186). -/
def execVfma (r : Rule) (s : State) : Host.Outcome State Fault Refusal :=
  s.fireC r .vector false (fun s n cs =>
    let a := cs.vec r.srcA
    let b := cs.vec r.srcB
    let c := cs.vec r.dst
    let k := c.count
    let fits (x : VOpd) : Bool := match x with | .const _ => true | .lanes _ xs => xs.length == k
    if !fits a || !fits b then .arith 8
    else
      let m := cs.rmode.toNat
      let xa := a.f32 m cs.sat k
      let xb := b.f32 m cs.sat k
      let xc := c.f32 m cs.sat k
      let y := joinFlags (List.zipWith (fun x p => roundF32 m (fmaNum cs x.1 x.2 p)) (List.zip xa.1 xb.1) xc.1)
      s.putVec n cs r c.fmtOf y.1 (xa.2 ||| xb.2 ||| xc.2 ||| y.2))

/-- The constant that srcB names (09 R187). -/
def CSet.constB (cs : CSet) (r : Rule) : Word := cs.scal r.srcB

/-- A source that moves into a register unchanged: an unblocked token or a history entry of format F (09 R187). -/
def CSet.rawOf (cs : CSet) (r : Rule) (f : Nat) : Option VReg :=
  let ok (v : VReg) : Option VReg := if v.tag.toNat = f then some v else none
  match opdOf r.dst, opdOf r.srcA with
  | .v _, .b n => ok (cs.back n).val
  | .v _, .ch n => (match cs.front n with
    | some t => if cs.isBlocked t then none else ok { bits := t.payload, tag := t.fmt, pairs := 0 }
    | none => none)
  | _, _ => none

/-- Deliver a register value as it is. -/
def State.putRaw (s : State) (n : Nat) (r : Rule) (v : VReg) : Offer :=
  let s := match opdOf r.dst with
    | .v i => s.updC n (fun c => c.putReg i v)
    | _ => s
  .fire s v.nonZero (some ⟨false, v⟩)

/-- The lanes that VCVT selects, none where it aborts (09 R187). -/
def cvtLanes (xs : List FVal) (m seg : Nat) : Option (List FVal) :=
  let n := xs.length
  if m ≤ n then
    if n / m ≤ seg then none else some ((xs.drop (seg * m)).take m)
  else if n = 0 || m / n ≤ seg then none
  else some (List.replicate (seg * n) (.zero false) ++ xs ++ List.replicate (m - seg * n - n) (.zero false))

/-- VCVT (09 R187). -/
def execVcvt (r : Rule) (s : State) : Host.Outcome State Fault Refusal :=
  s.fireC r .vector false (fun s n cs =>
    let q := cs.constB r
    let f := bitsN q 0 3
    let seg := bitsN q 3 3
    match (if seg = 0 then cs.rawOf r f else none) with
    | some v => s.putRaw n r v
    | none =>
      let a := cs.vec r.srcA
      let x := a.f32 cs.rmode.toNat cs.sat a.count
      match cvtLanes x.1 (lanesOf f) seg with
      | none => .arith 8
      | some ys => s.putVec n cs r f ys x.2)

/-- VPACK (09 R188). -/
def execVpack (r : Rule) (s : State) : Host.Outcome State Fault Refusal :=
  s.fireC r .vector false (fun s n cs =>
    let a := cs.vec r.srcA
    let b := cs.vec r.srcB
    match laneCount a b with
    | none => .arith 8
    | some k =>
      if k ≠ 16 && k ≠ 32 then .arith 8
      else
        let xa := a.f32 cs.rmode.toNat cs.sat k
        let xb := b.f32 cs.rmode.toNat cs.sat k
        s.putVec n cs r (if k = 16 then fBF16 else fE4M3) (xa.1 ++ xb.1) (xa.2 ||| xb.2))

/-- VUNPK (09 R188). -/
def execVunpk (r : Rule) (s : State) : Host.Outcome State Fault Refusal :=
  s.fireC r .vector false (fun s n cs =>
    let a := cs.vec r.srcA
    let k := a.count
    if k ≠ 32 && k ≠ 64 && k ≠ 128 then .arith 8
    else
      let x := a.f32 cs.rmode.toNat cs.sat k
      let h := bitsN (cs.constB r) 0 1
      s.putVec n cs r (if k = 32 then fF32 else if k = 64 then fBF16 else fE4M3) ((x.1.drop (h * (k / 2))).take (k / 2)) x.2)

/-- A value truncated toward zero to an integer; NaN and infinities as given. -/
def truncInt (special : Bool → Int) : FVal → Int
  | .fin n e => if 0 ≤ e then alignTo 0 n e else n.tdiv (2 ^ (-e).toNat)
  | .zero _ => 0
  | .inf s => special s
  | .nan => 0

/-- VSCALE (09 R189): b truncated toward zero and clamped to −512 to 512. -/
def execVscale (r : Rule) (s : State) :=
  vecForm2 (fun _ a b =>
    if b = .nan then (.nan, 0)
    else (a.scale (max (-512) (min 512 (truncInt (fun neg => if neg then -512 else 512) b))), 0)) r s

/-- The comparison of two lanes (09 R189). -/
def cmpNum (a b : FVal) : FVal :=
  if a = .nan || b = .nan then .nan
  else if ltNum b a then .fin 1 0
  else if ltNum a b then .fin (-1) 0
  else .zero false

/-- VCMP sets no flag except by an integer encode (09 R189). -/
def execVcmp (r : Rule) (s : State) : Host.Outcome State Fault Refusal :=
  s.fireC r .vector false (fun s n cs =>
    let a := cs.vec r.srcA
    let b := cs.vec r.srcB
    match laneCount a b with
    | none => .arith 8
    | some k =>
      let xa := a.f32 cs.rmode.toNat cs.sat k
      let xb := b.f32 cs.rmode.toNat cs.sat k
      s.putVecBy n cs r (resultFmt a b) (List.zipWith cmpNum xa.1 xb.1) (fun f e => if isIntFmt f then e else 0))

/-- VSEL (09 R189). -/
def execVsel (r : Rule) (s : State) : Host.Outcome State Fault Refusal :=
  s.fireC r .vector true (fun s n cs =>
    let a := cs.vec r.srcA
    let b := cs.vec r.srcB
    let c := (cs.back 0).val.lanes
    match laneCount a b with
    | none => .arith 8
    | some k =>
      if c.length ≠ k then .arith 8
      else
        let m := cs.rmode.toNat
        let xa := a.f32 m cs.sat k
        let xb := b.f32 m cs.sat k
        let y := List.zipWith (fun p x => if ltNum (.zero false) x then p.1 else p.2) (List.zip xa.1 xb.1) c
        s.putVec n cs r (resultFmt a b) y (xa.2 ||| xb.2))

/-- VSHUF (09 R190). -/
def execVshuf (r : Rule) (s : State) : Host.Outcome State Fault Refusal :=
  s.fireC r .vector false (fun s n cs =>
    let a := cs.vec r.srcA
    let k := a.count
    let x := a.f32 cs.rmode.toNat cs.sat k
    let idx : List Nat × Nat := match cs.vec r.srcB with
      | .const _ => ((List.range k).map (fun j => (j + bitsN (cs.constB r) 0 7) % k), 0)
      | b =>
        let y := b.f32 cs.rmode.toNat cs.sat b.count
        ((List.range k).map (fun j => ((truncInt (fun _ => 0) (y.1.getD (j % b.count) (.zero false))) % (k : Int)).toNat), y.2)
    s.putVec n cs r a.fmtOf (idx.1.map (fun i => x.1.getD i (.zero false))) (x.2 ||| idx.2))

/-- The format of the destination: an output's entry, else the register format (09 R184). -/
def CSet.dstFmt (cs : CSet) (r : Rule) (f : Nat) : Nat :=
  match opdOf r.dst with
  | .ch o => (cs.outEntry o).fmt.toNat
  | .v _ => f
  | _ => f

/-- One value in every lane of the destination format (09 R190, R191). -/
def State.putAll (s : State) (n : Nat) (cs : CSet) (r : Rule) (f : Nat) (x : FVal) (fl : Nat) : Offer :=
  s.putVec n cs r f (List.replicate (lanesOf (cs.dstFmt r f)) x) fl

/-- VBCAST (09 R190). -/
def execVbcast (r : Rule) (s : State) : Host.Outcome State Fault Refusal :=
  s.fireC r .vector false (fun s n cs =>
    let a := cs.vec r.srcA
    let x := a.f32 cs.rmode.toNat cs.sat a.count
    match x.1[bitsN (cs.constB r) 0 7]? with
    | none => .arith 8
    | some y => s.putAll n cs r a.fmtOf y x.2)

/-- One level of a pairwise tree (04 R102). -/
def treeLevel (op : FVal → FVal → FVal × Nat) : List FVal → List (FVal × Nat)
  | a :: b :: t => op a b :: treeLevel op t
  | [a] => [(a, 0)]
  | [] => []

/-- reduce(l, op) of 04 R102 with joined flags; eight levels suffice for 128 lanes. -/
def treeReduce (op : FVal → FVal → FVal × Nat) : Nat → List FVal → Nat → FVal × Nat
  | 0, xs, f => (xs.headD (.zero false), f)
  | fuel + 1, xs, f =>
    if xs.length ≤ 1 then (xs.headD (.zero false), f)
    else
      let y := joinFlags (treeLevel op xs)
      treeReduce op fuel y.1 (f ||| y.2)

/-- VRSUM (09 R191). -/
def execVrsum (r : Rule) (s : State) : Host.Outcome State Fault Refusal :=
  s.fireC r .vector false (fun s n cs =>
    let a := cs.vec r.srcA
    let m := cs.rmode.toNat
    let x := a.f32 m cs.sat a.count
    let y := treeReduce (fun a b => roundF32 m (cs.sum a b)) 8 x.1 0
    s.putAll n cs r a.fmtOf y.1 (x.2 ||| y.2))

/-- VRMAX (09 R191). -/
def execVrmax (r : Rule) (s : State) : Host.Outcome State Fault Refusal :=
  s.fireC r .vector false (fun s n cs =>
    let a := cs.vec r.srcA
    let x := a.f32 cs.rmode.toNat cs.sat a.count
    let y := treeReduce (fun a b => (maxNum a b, 0)) 8 x.1 0
    s.putAll n cs r a.fmtOf y.1 x.2)

/-- VDOT (09 R191): exact products, exact first sums rounded once. -/
def execVdot (r : Rule) (s : State) : Host.Outcome State Fault Refusal :=
  s.fireC r .vector false (fun s n cs =>
    let a := cs.vec r.srcA
    let b := cs.vec r.srcB
    match laneCount a b with
    | none => .arith 8
    | some k =>
      let m := cs.rmode.toNat
      let xa := a.f32 m cs.sat k
      let xb := b.f32 m cs.sat k
      let p := joinFlags (List.zipWith mulNum xa.1 xb.1)
      let add (a b : FVal) : FVal × Nat := roundF32 m (cs.sum a b)
      let y := treeReduce add 8 p.1 0
      s.putAll n cs r (resultFmt a b) y.1 (xa.2 ||| xb.2 ||| p.2 ||| y.2))

/-! ## TOPK (04 R106, R107; 09 R192) -/

/-- rank_before of 04 R106. -/
def rankBefore (a b : FVal × Nat) : Bool :=
  match a.1, b.1 with
  | .nan, .nan => a.2 < b.2
  | .nan, _ => false
  | _, .nan => true
  | x, y => if ltNum y x then true else if ltNum x y then false else a.2 < b.2

/-- Insert behind every candidate that ranks no later. -/
def rankInsert (x : FVal × Nat) : List (FVal × Nat) → List (FVal × Nat)
  | [] => [x]
  | y :: t => if rankBefore x y then x :: y :: t else y :: rankInsert x t

/-- An arriving candidate ranks equal to a held one (04 R106). -/
def rankHeld (x : FVal × Nat) (held : List (FVal × Nat)) : Bool := held.any (fun y => !rankBefore x y && !rankBefore y x)

/-- The first k of a state and the arriving candidates: one equal in value and index to a held one is discarded (04 R106). -/
def rankTop (k : Nat) (held cands : List (FVal × Nat)) : List (FVal × Nat) :=
  cands.foldl (fun acc x => if rankHeld x acc then acc else (rankInsert x acc).take k)
    (held.foldl (fun acc x => (rankInsert x acc).take k) [])

/-- An empty slot (04 R107). -/
def emptySlot : FVal × Nat := (.nan, 0xFFFFFFFF)

/-- The pair of registers of a ranking state of k candidates (04 R107). -/
def topRegs (xs : List (FVal × Nat)) : VReg × VReg :=
  ({ bits := packLanes 32 (xs.map (fun c => toBits fF32 c.1)), tag := 6, pairs := 0 },
   { bits := packLanes 32 (xs.map (·.2)), tag := 7, pairs := 0 })

/-- TOPK (09 R192). -/
def execTopk (r : Rule) (s : State) : Host.Outcome State Fault Refusal :=
  s.fireC r .vector false (fun s n cs =>
    let q := cs.constB r
    let k := bitsN q 0 5
    let m := bitsN q 10 7
    let a := cs.vec r.srcA
    let x := a.f32 cs.rmode.toNat cs.sat a.count
    let d := match opdOf r.dst with | .v i => i | _ => 0
    let vr := vget VReg.reset cs.v d
    let ir := vget VReg.reset cs.v (d + 1)
    if k = 0 || 16 < k || a.count < m then .arith 8
    else if !bitB q 5 && (vr.tag ≠ 6 || ir.tag ≠ 7) then .arith 8
    else if cs.traps x.2 ≠ 0 then .arith (cs.traps x.2)
    else
      let w := if m = 0 then a.count else m
      let lane (b : Unit64) (j : Nat) : Nat := bitsN b (32 * j) 32
      let st : List (FVal × Nat) :=
        if bitB q 5 then List.replicate k emptySlot
        else (List.range (vget 16 cs.ks (d / 2))).map (fun j => (decodeBits fF32 (lane vr.bits j), lane ir.bits j))
      let base := bitsN q 32 16 + (if bitB q 6 then (cs.iss.counter (bitsN q 7 3)).val.toNat * w else 0)
      let cands := (List.range w).map (fun j => (x.1.getD j .nan, (base + j) % 2 ^ 32))
      let new := rankTop k st cands
      let new := new ++ List.replicate (k - new.length) emptySlot
      let regs := topRegs new
      .fire (s.updC n (fun c =>
          let c := c.setFlags x.2
          { c with v := vset (vset c.v d regs.1) (d + 1) regs.2, ks := vset c.ks (d / 2) k }))
        (new != st) (some ⟨false, regs.1⟩))

/-! ## VQNT (09 R193, R194) -/

/-- Put one block's codes into the partial token from lane j on. -/
def placeCodes (w : Nat) (tok : Unit64) (j : Nat) (codes : List Nat) : Unit64 :=
  tok ||| (packLanes w codes <<< (w * j))

/-- The companion token of a group: its pairs, and (0x7F, 0x80) where it covers no token (04 R92). -/
def companionTok (pairs : List (Byte × Byte)) : Token :=
  { kind := .data, fmt := 0, vchan := 0, tag := 0,
    payload := BitVec.ofNat 512 (packPairs ((pairs ++ List.replicate (32 - pairs.length) (0x7F#8, 0x80#8)).take 32)) }

/-- Append the finished token and close the group when it is due (09 R193, R194). -/
def Quant.append (q : Quant) (f : Nat) (et : BitVec 2) (oc : Nat) : Quant :=
  let t : Token := if q.partNull then nullTok (BitVec.ofNat 3 f) et
    else { kind := .data, fmt := BitVec.ofNat 3 f, vchan := 0, tag := et, payload := q.partTok }
  let pairs := if q.partNull then q.pairs else q.pairs ++ q.partPairs
  let count := if q.partNull then q.count else q.count + 1
  let q := { q with partTok := 0, partNull := false, seg := 0, partPairs := [] }
  if et = 3 || count = groupSize (BitVec.ofNat 3 f) then
    { q with group := [], pairs := [], count := 0, comp := some (companionTok pairs), compOut := oc,
             drain := q.group ++ [t] }
  else { q with group := q.group ++ [t], pairs := pairs, count := count }

/-- The output that a VQNT's dst names. -/
def dstOutput (c : BitVec 6) : Nat := match opdOf c with | .ch o => o | _ => 0

/-- The nullified VQNT: the segment stays empty and the partial token becomes null (09 R193). In the partial token that later segments
leave in the history, its blocks have the pair of R194 that covers nothing (DESIGN CHOICE, log entry 89). -/
def CSet.quantNull (cs : CSet) (r : Rule) (lanes : Nat) : CSet :=
  let o := dstOutput r.dst
  let f := (cs.outEntry o).fmt.toNat
  let k := cs.constB r
  let seg := bitsN k 0 3
  let q := vget Quant.reset cs.quant o
  let q := { q with partNull := true, partPairs := q.partPairs ++ List.replicate (lanes / 32) (0x7F, 0x80) }
  let q := if lanesOf f ≤ seg * lanes + lanes then q.append f r.et (bitsN k 3 3) else { q with seg := seg + 1 }
  { cs with quant := vset cs.quant o q }

/-- VQNT (09 R193). -/
def execVqnt (r : Rule) (s : State) : Host.Outcome State Fault Refusal :=
  let n := s.focus.cell
  let cs := s.cset n
  if !guardCore cs.iss.preds cs.front r then .next s
  else if cs.nullSource r false then
    .next (s.updC n (fun c => (c.quantNull r (max 32 (cs.vec r.srcA).count)).finish s.focus.idx r false (some nullHist)))
  else s.fireC r .none false (fun s n cs =>
    let o := dstOutput r.dst
    let f := (cs.outEntry o).fmt.toNat
    let k := cs.constB r
    let seg := bitsN k 0 3
    let a := cs.vec r.srcA
    let m := a.count
    let q := vget Quant.reset cs.quant o
    if (m ≠ 32 && m ≠ 64 && m ≠ 128) || lanesOf f < seg * m + m || seg ≠ q.seg then .arith 8
    else
      let x := a.f32 cs.rmode.toNat cs.sat m
      let bl : List ((Byte × Byte) × List Nat × Nat) := (blocksOf x.1 (m / 32)).map (quantBlock f)
      let fl := x.2 ||| bl.foldl (fun a b => a ||| b.2.2) 0
      if cs.traps fl ≠ 0 then .arith (cs.traps fl)
      else
        let codes := (bl.map (fun b => b.2.1)).flatten
        let q := { q with
          partTok := placeCodes (elemBits f) q.partTok (seg * m) codes
          partPairs := q.partPairs ++ bl.map Prod.fst }
        let res : VReg := { bits := q.partTok, tag := BitVec.ofNat 3 f, pairs := BitVec.ofNat 64 (packPairs (q.partPairs.take 4)) }
        let full : Bool := seg * m + m == lanesOf f
        let q := if full then q.append f r.et (bitsN k 3 3) else { q with seg := seg + 1 }
        .fire (s.updC n (fun c => { c.setFlags fl with quant := vset c.quant o q })) full (some ⟨false, res⟩))

/-- QUANT_GROUP_DRAIN: one token of a closed group, its companion first, where the output has a free slot (09 R194). -/
def execQuantGroupDrain (cell o : Nat) (s : State) : Host.Outcome State Fault Refusal :=
  let c := s.cell cell
  let cs := c.c.act
  let q := vget Quant.reset cs.quant o
  if cs.iss.run == .stopped || cs.iss.run == .saved then .next s
  else match q.comp, q.drain with
  | some t, _ =>
    if c.routeFree portC (vget none cs.iss.routes q.compOut) then
      .next ((s.emit cell kindC cs.iss q.compOut t).updC cell (fun c => { c with quant := vset c.quant o { q with comp := none } }))
    else .next s
  | none, t :: rest =>
    if c.routeFree portC (vget none cs.iss.routes o) then
      .next ((s.emit cell kindC cs.iss o t).updC cell (fun c => { c with quant := vset c.quant o { q with drain := rest } }))
    else .next s
  | none, [] => .next s

end Sys2Proof.Machine
end

