-- ==== Sys2Proof/Machine/Flow.lean ====
section
/-!
DEFINITION. The flow rules (09 R195 to R201), the counter rules (R202 to R204), and NOP, TRAPT and HLT (R209).
-/

namespace Sys2Proof.Machine

open Sys2Proof

/-- A head token; a flow rule's guard has tested its channels (09 R178). -/
def CSet.headTok (cs : CSet) (c : BitVec 6) : Token :=
  match opdOf c with
  | .ch i => (cs.front i).getD Token.zero
  | _ => Token.zero

def Token.isData (t : Token) : Bool := t.kind == .data

/-- Emit on the output that dst names. -/
def State.emitDst (s : State) (n : Nat) (cs : CSet) (r : Rule) (t : Token) : State :=
  s.emit n kindC cs.iss (dstOutput r.dst) t

/-- A register value sent as a token, encoded to the entry's format when that differs (09 R196). -/
def State.sendReg (s : State) (n : Nat) (cs : CSet) (r : Rule) (v : VReg) : Offer :=
  let f := (cs.outEntry (dstOutput r.dst)).fmt
  if v.tag = 3 then .arith 8
  else if f = v.tag then .fire (s.emitDst n cs r (v.tok r.et)) true none
  else
    let x := (VOpd.lanes v.tag.toNat v.lanes).f32 cs.rmode.toNat cs.sat v.lanes.length
    match encodeReg f.toNat cs.rmode.toNat cs.sat x.1 with
    | none => .arith 8
    | some (w, fl) =>
      let fl := fl ||| x.2
      if cs.traps fl ≠ 0 then .arith (cs.traps fl)
      else .fire ((s.updC n (fun c => c.setFlags fl)).emitDst n cs r (w.tok r.et)) true none

/-- SEND (09 R196). -/
def execSend (r : Rule) (s : State) : Host.Outcome State Fault Refusal :=
  s.fireFlow r (fun s n cs =>
    match opdOf r.srcA with
    | .ch _ =>
      let t := cs.headTok r.srcA
      .fire (s.emitDst n cs r t) t.isData none
    | .v i => s.sendReg n cs r (vget VReg.reset cs.v i)
    | .b i =>
      let h := cs.back i
      if h.null then .fire (s.emitDst n cs r (nullTok (cs.outEntry (dstOutput r.dst)).fmt r.et)) false none
      else s.sendReg n cs r h.val
    | _ => s.sendReg n cs r { bits := (cs.scal r.srcA).setWidth 512, tag := 7, pairs := 0 })

/-- DROP (09 R197). -/
def execDrop (r : Rule) (s : State) : Host.Outcome State Fault Refusal :=
  s.fireFlow r (fun s _ cs => .fire s (cs.headTok r.srcA).isData none)

/-- NUL (09 R197). -/
def execNul (r : Rule) (s : State) : Host.Outcome State Fault Refusal :=
  s.fireFlow r (fun s n cs => .fire (s.emitDst n cs r (nullTok (cs.outEntry (dstOutput r.dst)).fmt r.et)) true none)

/-- SELT (09 R199): sN, N = ET, selects. -/
def execSelt (r : Rule) (s : State) : Host.Outcome State Fault Refusal :=
  s.fireFlow r (fun s n cs =>
    let t := if bitB (vget (0 : Word) cs.s r.et.toNat) 0 then cs.headTok r.srcA else cs.headTok r.srcB
    .fire (s.emitDst n cs r t) t.isData none)

/-- GATE (09 R200). -/
def execGate (r : Rule) (s : State) : Host.Outcome State Fault Refusal :=
  s.fireFlow r (fun s n cs =>
    let x := cs.headTok r.srcA
    let c := cs.headTok r.srcB
    if c.kind = .null then .fire s false none
    else if c.kind = .order || bitB c.payload 0 then .fire (s.emitDst n cs r x) false none
    else .fire (s.emitDst n cs r { x with tag := 3 }) true none)

/-- STEER (09 R198): o2m carries arm 1 and o2m+1 arm 0. A null token carries the fmt of its own output's route entry. -/
def execSteer (r : Rule) (s : State) : Host.Outcome State Fault Refusal :=
  s.fireFlow r (fun s n cs =>
    let o := dstOutput r.dst
    let x := cs.headTok r.srcA
    let c := cs.headTok r.srcB
    let none1 (o : Nat) : Token := nullTok (cs.outEntry o).fmt x.tag
    let put (a b : Token) : State := (s.emit n kindC cs.iss o a).emit n kindC cs.iss (o + 1) b
    if c.nullish || x.kind = .null then .fire (put (none1 o) (none1 (o + 1))) false none
    else if bitB c.payload 0 then .fire (put x (none1 (o + 1))) true none
    else .fire (put (none1 o) x) false none)

/-- The scope an input of JOIN counts as: none for a null token (17 R300). -/
def Token.joinScope (t : Token) : Option (BitVec 3) :=
  match t.kind with
  | .null => none
  | .order => some t.fmt
  | _ => some scopeReach

/-- JOIN (09 R201, 17 R300): the narrower scope of its inputs. -/
def execJoin (r : Rule) (s : State) : Host.Outcome State Fault Refusal :=
  s.fireFlow r (fun s n cs =>
    let t : Token := match (cs.headTok r.srcA).joinScope, (cs.headTok r.srcB).joinScope with
      | none, none => nullTok (cs.outEntry (dstOutput r.dst)).fmt r.et
      | some x, none => orderTok x 0 r.et
      | none, some y => orderTok y 0 r.et
      | some x, some y => orderTok (if x ≤ y then x else y) 0 r.et
    .fire (s.emitDst n cs r t) (t.kind == .order) none)

/-- RETAG (09 R196). -/
def execRetag (r : Rule) (s : State) : Host.Outcome State Fault Refusal :=
  s.fireFlow r (fun s n cs =>
    let t := { cs.headTok r.srcA with tag := r.et }
    .fire (s.emitDst n cs r t) t.isData none)

/-! ## Counters -/

/-- The counter that dst names. -/
def dstCtr (r : Rule) : Nat := match opdOf r.dst with | .k i => i | _ => 0

/-- KSTEP (09 R203). -/
def execKstep (r : Rule) (s : State) : Host.Outcome State Fault Refusal :=
  s.fireC r .none false (fun s n cs =>
    let x := cs.iss.stepCtr 8 (dstCtr r)
    .fire (s.updC n (fun c => { c with iss := x.1 })) x.2 none)

/-- KEND (09 R203): kN to zero as if it had stepped onto its bound, then its chain steps. -/
def execKend (r : Rule) (s : State) : Host.Outcome State Fault Refusal :=
  s.fireC r .none false (fun s n cs =>
    let k := dstCtr r
    let c := cs.iss.counter k
    let x := cs.iss.setCtr k (c.put 0 1)
    let y := if c.chainEn then x.stepCtr 8 c.chain.toNat else (x, true)
    .fire (s.updC n (fun c => { c with iss := y.1 })) y.2 none)

/-- KSET (09 R204). -/
def execKset (r : Rule) (s : State) : Host.Outcome State Fault Refusal :=
  s.fireC r .none false (fun s n cs =>
    let k := dstCtr r
    let b := (cs.iss.counter k).bounded ((cs.scal r.srcA).setWidth 32)
    let f := if b.2 then flagS else 0
    if cs.traps f ≠ 0 then .arith (cs.traps f)
    else .fire (s.updC n (fun c => { c.setFlags f with iss := c.iss.ksetTo k b.1 })) (b.1 != 0) none)

/-- KBND (09 R204). -/
def execKbnd (r : Rule) (s : State) : Host.Outcome State Fault Refusal :=
  s.fireC r .none false (fun s n cs =>
    .fire (s.updC n (fun c => { c with iss := c.iss.kbndTo (dstCtr r) ((cs.scal r.srcA).setWidth 32) })) true none)

/-! ## System forms (09 R209) -/

/-- NOP. -/
def execRuleNop (r : Rule) (s : State) : Host.Outcome State Fault Refusal :=
  s.fireC r .none false (fun s _ _ => .fire s true none)

/-- TRAPT: one event with cause 0x00; the tile runs on. -/
def execTrapt (r : Rule) (s : State) : Host.Outcome State Fault Refusal :=
  s.fireC r .none false (fun s n cs =>
    .fire (s.tileEvent n kindC 0x00 (cs.scal r.srcA) (cs.scal r.srcB) (s.ruleWord n kindC)) true none)

/-- HLT: no round after this one; the rules selected after it still fire. -/
def execHlt (r : Rule) (s : State) : Host.Outcome State Fault Refusal :=
  s.fireC r .none false (fun s n _ => .fire (s.updIssue n kindC (fun x => { x with run := .halted })) true none)

end Sys2Proof.Machine
end

