-- ==== Sys2Proof/Machine/Matrix.lean ====
section
/-!
DEFINITION. The matrix node (10 R211 to R223, 23 R361, 04 R103 to R105).
-/

namespace Sys2Proof.Machine

open Sys2Proof

/-! ## The matrix control token (10 R213) -/

def mOp (w : Word) : Nat := bitsN w 0 7
def mBank (w : Word) : Nat := bitsN w 7 1
def mRt (w : Word) : Bool := bitB w 8
def mCount (w : Word) : Nat := bitsN w 32 32
def mAch (w : Word) : Nat := bitsN w 9 3
def mAw (w : Word) : Nat := bitsN w 12 1
def mBch (w : Word) : Nat := bitsN w 13 3
def mBw (w : Word) : Nat := bitsN w 16 2
def mmaZero (w : Word) : Bool := bitB w 18
def mmaKtag (w : Word) : Bool := bitB w 19
def mChan (w : Word) : Nat := bitsN w 9 3
def mdrnFmt (w : Word) : Nat := bitsN w 12 3
def mdrnZero (w : Word) : Bool := bitB w 15
def mRowtag (w : Word) : Bool := bitB w 16
def mFirst (w : Word) : Nat := bitsN w 17 6
def mclrMode (w : Word) : Bool := bitB w 9
def mldcMode (w : Word) : Bool := bitB w 12

def opMMA : Nat := 0x51
def opMDRN : Nat := 0x52
def opMCLR : Nat := 0x53
def opMSWP : Nat := 0x54
def opMLDC : Nat := 0x55

/-- COUNT in the range of 10 R213. -/
def mCountOk (w : Word) : Bool :=
  let c := mCount w
  if mOp w = opMMA then (if mmaKtag w then c == 0 else 1 ≤ c)
  else if mOp w = opMDRN || mOp w = opMLDC then 1 ≤ c && c ≤ 64 - mFirst w
  else c == 0

/-- Input channels and output channels a command names (10 R215, R216). -/
def mIns (w : Word) : List Nat :=
  if mOp w = opMMA then (List.range (mAw w + 1)).map (· + mAch w) ++ (List.range (mBw w + 1)).map (· + mBch w)
  else if mOp w = opMLDC then [mChan w]
  else []
def mOuts (w : Word) : List Nat := if mOp w = opMDRN then [mChan w] else []

/-- MCTL (10 R214). -/
def execMctl (r : Rule) (s : State) : Host.Outcome State Fault Refusal :=
  s.fireC r .none false (fun s n cs =>
    let t := cs.scal r.srcA
    let t := if mRt t then (t &&& 0xFFFFFFFF#64) ||| ((cs.scal r.srcB) <<< 32) else t
    if !mCountOk t then .arith 8
    else
      let c : Cmd := { tok := t, started := false, aTok := 0, bTok := 0, aEl := [], bEl := [], k := 0,
                       kEnd := if mOp t = opMMA && !mmaKtag t then some (mCount t) else none, trapped := false }
      .fire (s.updC n (fun c' => { c' with node := { c'.node with queue := c'.node.queue ++ [c] } })) true none)

/-! ## Starting a command (10 R216) -/

/-- Input channels that the MCTL templates of a set reserve (10 R215). -/
def CSet.nodeInputs (cs : CSet) : List Nat :=
  ((List.range 16).filter (fun i => bitB cs.iss.valid i && bitsN (vget 0 cs.iss.pool i) 27 7 == 0x50)).flatMap
    (fun i => mIns (vget 0 cs.iss.consts (bitsN (vget 0 cs.iss.pool i) 15 6 - 48)))

/-- The node works while its set is active: HLT does not stop it (10 R221), a freeze does (R220), and an ebb wave stops
it once the marker has reached every node input (R222). A drain stops with its tile, which has sent the marker of its output (21 R350). -/
def CSet.nodeRuns (cs : CSet) : Bool :=
  !cs.iss.frozen && !cs.node.frozen &&
    (match cs.iss.run with
     | .running => true
     | .halted => true
     | .stopped => cs.nodeInputs.any (fun i => bitB cs.iss.fed i && !bitB cs.iss.reached i)
     | _ => false)

/-- Whether two commands name a bank or a channel in common (10 R216). -/
def cmdMeets (a b : Word) : Bool :=
  mOp a == opMSWP || mOp b == opMSWP || mBank a == mBank b
    || (mIns a).any (fun i => (mIns b).contains i) || (mOuts a).any (fun o => (mOuts b).contains o)

/-- The unit of a command is held by a started one (10 R212). -/
def cmdBlocks (a b : Word) : Bool :=
  let arr (w : Word) : Bool := mOp w == opMMA || mOp w == opMSWP
  let port (w : Word) : Bool := mOp w != opMMA
  (arr a && arr b) || (port a && port b)

/-- The index of the next command to start, if it may start now. -/
def Node.next? (x : Node) : Option Nat :=
  match x.queue.findIdx? (fun c => !c.started) with
  | none => none
  | some i =>
    match x.queue[i]? with
    | none => none
    | some c =>
      if (x.queue.take i).any (fun e => cmdMeets e.tok c.tok || cmdBlocks e.tok c.tok) then none else some i

/-- The set that has been swapped out of a tile has not streamed out: until then no command of the incoming set starts or goes on
(10 R222). -/
def State.nodeHeld (s : State) (n : Nat) : Bool :=
  let id := (s.cell n).c.ina.iss.reach
  s.reaches.any (fun r => r.id == id && r.st == .saved) && !s.images.any (fun m => m.reach == id && m.valid)

/-- The command that would start now carries this control token. -/
def CSet.startable (cs : CSet) (op : Nat) (w : Word) : Option Nat :=
  if !cs.nodeRuns then none
  else
    match cs.node.next? with
    | none => none
    | some i =>
      match cs.node.queue[i]? with
      | some c => if c.tok = w && mOp w = op then some i else none
      | none => none
def State.startable (s : State) (n op : Nat) (w : Word) : Option Nat := if s.nodeHeld n then none else (s.cset n).startable op w

def Node.bank (x : Node) (b : Nat) : Tbl (BitVec 32) := if b = 0 then x.bank0 else x.bank1
def Node.setBank (x : Node) (b : Nat) (v : Tbl (BitVec 32)) : Node := if b = 0 then { x with bank0 := v } else { x with bank1 := v }
def Node.mode (x : Node) (b : Nat) : Bool := if b = 0 then x.mode0 else x.mode1
def Node.setMode (x : Node) (b : Nat) (m : Bool) : Node := if b = 0 then { x with mode0 := m } else { x with mode1 := m }
def Node.setCmd (x : Node) (i : Nat) (c : Cmd) : Node := { x with queue := x.queue.set i c }
/-- A command leaves the queue when it completes (10 R223). -/
def Node.complete (x : Node) (i : Nat) : Node := { x with queue := x.queue.eraseIdx i, done := x.done + 1 }

/-- The elements of a bank rebuilt; zeros are not listed. -/
def bankBuild (f : Nat → BitVec 32) : Tbl (BitVec 32) :=
  (List.range 6144).filterMap (fun i => if f i = 0 then none else some (i, f i))

def State.updNode (s : State) (n : Nat) (f : Node → Node) : State := s.updC n (fun c => { c with node := f c.node })

/-- MMA: the command starts, clearing its bank when ZERO is set (10 R217). -/
def execMma (cell : Nat) (w : Word) (s : State) : Host.Outcome State Fault Refusal :=
  match s.startable cell opMMA w with
  | none => .next s
  | some i => .next (s.updNode cell (fun x =>
      let x := if mmaZero w then x.setBank (mBank w) [] else x
      { x with queue := x.queue.modify i (fun c => { c with started := true }) }))

/-- MDRN: the drain starts (10 R218). -/
def execMdrn (cell : Nat) (w : Word) (s : State) : Host.Outcome State Fault Refusal :=
  match s.startable cell opMDRN w with
  | none => .next s
  | some i => .next (s.updNode cell (fun x => { x with queue := x.queue.modify i (fun c => { c with started := true }) }))

/-- MCLR: clears the bank in a mode, in one cycle (10 R218). -/
def execMclr (cell : Nat) (w : Word) (s : State) : Host.Outcome State Fault Refusal :=
  match s.startable cell opMCLR w with
  | none => .next s
  | some i => .next (s.updNode cell (fun x => ((x.setBank (mBank w) []).setMode (mBank w) (mclrMode w)).complete i))

/-- MSWP: exchanges the banks and their modes, in one cycle (10 R218). -/
def execMswp (cell : Nat) (w : Word) (s : State) : Host.Outcome State Fault Refusal :=
  match s.startable cell opMSWP w with
  | none => .next s
  | some i => .next (s.updNode cell (fun x =>
      { x with bank0 := x.bank1, bank1 := x.bank0, mode0 := x.mode1, mode1 := x.mode0 }.complete i))

/-- MLDC: the load starts, clearing the bank when its mode changes (10 R218). -/
def execMldc (cell : Nat) (w : Word) (s : State) : Host.Outcome State Fault Refusal :=
  match s.startable cell opMLDC w with
  | none => .next s
  | some i => .next (s.updNode cell (fun x =>
      let b := mBank w
      let x := if x.mode b = mldcMode w then x else (x.setBank b []).setMode b (mldcMode w)
      { x with queue := x.queue.modify i (fun c => { c with started := true }) }))

/-! ## Flags (10 R220) -/

/-- Flags of the node: sticky, and one event for the first enabled flag of a command. -/
def State.nodeFlags (s : State) (n i : Nat) (fl step : Nat) : State :=
  if fl = 0 then s
  else
    let cs := s.cset n
    let s := s.updC n (fun c => c.setFlags fl)
    match cs.node.queue[i]? with
    | none => s
    | some c =>
      if cs.traps fl = 0 || c.trapped then s
      else (s.tileEvent n kindC 0x0B (BitVec.ofNat 64 (cs.traps fl)) c.tok (BitVec.ofNat 64 step)).updNode n
        (fun x => x.setCmd i { c with trapped := true })

/-! ## Elements (10 R217) -/

/-- The elements a token supplies, in lane order. -/
def CSet.elems (cs : CSet) (t : Token) : List Elem :=
  let f := t.fmt.toNat
  let w := elemBits f
  let z := t.nullish
  let pr (b : Nat) : Option (Byte × Byte) :=
    if cs.isBlocked t then
      let c := cs.compOf t.vchan
      some (pairOf (c.stage.headD 0) ((if f = fE2M1X then 4 else 2) * c.pos + b))
    else none
  (List.range (lanesOf f)).map (fun j =>
    { fmt := t.fmt, bits := BitVec.ofNat 32 (bitsN t.payload (w * j) w), pair := pr (j / 32), zero := z })

/-! ## Groups (04 R103 to R105, 10 R217) -/

/-- Whether steps k to k + g − 1 form a group of g whose formats satisfy `ok`: none while that is not known. -/
def Cmd.forms (c : Cmd) (g : Nat) (ok : BitVec 3 → Bool) : Option Bool :=
  let a := c.aEl.take (64 * g)
  let b := c.bEl.take (96 * g)
  if !(a.all (fun e => ok e.fmt) && b.all (fun e => ok e.fmt)) then some false
  else if c.kEnd.any (fun k => k ≤ c.k + g - 1) then some false
  else if a.length = 64 * g && b.length = 96 * g then some true
  else none

/-- group_size(k) of 10 R217: none while the elements that decide it are not held. -/
def Cmd.groupSize (c : Cmd) : Option Nat :=
  match c.forms 4 (fun f => f == 3) with
  | none => none
  | some true => some 4
  | some false =>
    match c.forms 2 (fun f => f.toNat ≤ 3) with
    | none => none
    | some true => some 2
    | some false => if 64 ≤ c.aEl.length && 96 ≤ c.bEl.length then some 1 else none

/-! ## Taking operands (10 R217, 23 R361) -/

/-- What fills the last step after a token that ends inside it: the value +0, from no token of e2m1x or of a wide format (10 R217). -/
def Elem.pad : Elem := { fmt := 0, bits := 0, pair := none, zero := false }

/-- A stream's channel for its next token, taken in turn. -/
def turnChan (first width taken : Nat) : Nat := first + taken % (width + 1)

/-- What the next token of a stream brings: the stream takes no more, its channel is empty, or the elements that the store would
keep and K once they are known. -/
inductive Feed where
  | shut
  | empty
  | token (es : List Elem) (kEnd : Option Nat)
  deriving DecidableEq, Repr

/-- The next A token: one that ends a KTAG operation fills its last step with +0, and lanes beyond K are discarded (10 R217). -/
def CSet.feedA (cs : CSet) (c : Cmd) : Feed :=
  let w := c.tok
  let got := 64 * c.k + c.aEl.length
  if c.kEnd.any (fun k => 64 * k ≤ got) then .shut
  else match cs.head (turnChan (mAch w) (mAw w) c.aTok) with
    | none => .empty
    | some t =>
      let es := cs.elems t
      match c.kEnd with
      | some k => .token (es.take (64 * k - got)) c.kEnd
      | none =>
        if mmaKtag w && 2 ≤ t.tag.toNat then
          let k := (got + es.length - 1) / 64 + 1
          .token (es ++ List.replicate (64 * k - (got + es.length)) Elem.pad) (some k)
        else .token es none

/-- The next B token: only once its first step is known to lie below K (10 R217). -/
def CSet.feedB (cs : CSet) (c : Cmd) : Feed :=
  let w := c.tok
  let got := 96 * c.k + c.bEl.length
  let step := got / 96
  let known : Bool := match c.kEnd with
    | some k => step < k
    | none => 64 * step < 64 * c.k + c.aEl.length
  if !known then .shut
  else match cs.head (turnChan (mBch w) (mBw w) c.bTok) with
    | none => .empty
    | some t => .token (match c.kEnd with
      | some k => (cs.elems t).take (96 * k - got)
      | none => cs.elems t) c.kEnd

/-- A stream that holds some elements can take no more within its four steps. -/
def Feed.stops (f : Feed) (held cap : Nat) : Bool := match f with
  | .shut => true
  | .empty => cap ≤ held
  | .token es _ => cap < held + es.length

/-- The store takes a stream's next elements: those that keep it within four steps (23 R361), and, where neither stream can take any
that do while the group is not decided, a token that goes beyond (log entry 15). -/
def Cmd.storeTakes (c : Cmd) (es : List Elem) (held cap : Nat) (other : Feed) (otherHeld otherCap : Nat) : Bool :=
  held + es.length ≤ cap || (held < cap && c.groupSize.isNone && other.stops otherHeld otherCap)

/-- Take one A token into the store. -/
def CSet.takeA (cs : CSet) (c : Cmd) : Option (CSet × Cmd) :=
  match cs.feedA c with
  | .token es kEnd =>
    if !c.storeTakes es c.aEl.length 256 (cs.feedB c) c.bEl.length 384 then none
    else
      let bEl := match kEnd with
        | none => c.bEl
        | some k => c.bEl.take (96 * k - 96 * c.k)
      some (cs.deq (turnChan (mAch c.tok) (mAw c.tok) c.aTok), { c with aTok := c.aTok + 1, aEl := c.aEl ++ es, kEnd := kEnd, bEl := bEl })
  | _ => none

/-- Take one B token into the store. -/
def CSet.takeB (cs : CSet) (c : Cmd) : Option (CSet × Cmd) :=
  match cs.feedB c with
  | .token es _ =>
    if !c.storeTakes es c.bEl.length 384 (cs.feedA c) c.aEl.length 256 then none
    else some (cs.deq (turnChan (mBch c.tok) (mBw c.tok) c.bTok), { c with bTok := c.bTok + 1, bEl := c.bEl ++ es })
  | _ => none

/-! ## Updates (04 R104, R105) -/

/-- An operand in f32 mode and whether it is illegal (10 R217). -/
def Elem.num (e : Elem) : FVal × Nat :=
  if e.zero then (.zero false, 0)
  else if 6 ≤ e.fmt.toNat then (.nan, flagV)
  else (decodeElem e.fmt.toNat e.pair e.bits.toNat, 0)

/-- An operand in i32 mode. -/
def Elem.int (e : Elem) : Int × Nat :=
  if e.zero then (0, 0)
  else if e.fmt = 0 then ((BitVec.ofNat 8 e.bits.toNat).toInt, 0)
  else (0, flagV)

/-- The product of two elements, exactly +0 where either stands for nothing. -/
def elemMul (a b : Elem) : FVal × Nat :=
  if a.zero || b.zero then (.zero false, 0)
  else
    let x := a.num
    let y := b.num
    let p := mulNum x.1 y.1
    (p.1, x.2 ||| y.2 ||| p.2)

/-- One element of a bank in f32 mode updated by a group (04 R104). -/
def accF32 (acc : BitVec 32) (ps : List (Elem × Elem)) : BitVec 32 × Nat :=
  let t := ps.foldl (fun (x : FVal × Nat) p =>
    let m := elemMul p.1 p.2
    let y := addNum false x.1 m.1
    (y.1, x.2 ||| m.2 ||| y.2)) (.zero true, 0)
  let a := decodeBits fF32 acc.toNat
  let u := addNum false a t.1
  let v := encodeNum fF32 0 false u.1
  (BitVec.ofNat 32 (toBits fF32 v.1), t.2 ||| u.2 ||| v.2)

/-- One element of a bank in i32 mode updated by a group (04 R105). -/
def accI32 (acc : BitVec 32) (ps : List (Elem × Elem)) : BitVec 32 × Nat :=
  let t := ps.foldl (fun (x : Int × Nat) p =>
    if p.1.zero || p.2.zero then x
    else
      let a := p.1.int
      let b := p.2.int
      (x.1 + a.1 * b.1, x.2 ||| a.2 ||| b.2)) (0, 0)
  let v := acc.toInt + t.1
  let c := max (intMin fI32) (min (intMax fI32) v)
  (BitVec.ofInt 32 c, t.2 ||| (if c = v then 0 else flagS))

/-- The operand pairs of element (r, c) for a group of g steps. -/
def Cmd.pairs (c : Cmd) (g r col : Nat) : List (Elem × Elem) :=
  let z : Elem := { fmt := 0, bits := 0, pair := none, zero := true }
  (List.range g).map (fun j => (c.aEl.getD (64 * j + r) z, c.bEl.getD (96 * j + col) z))

/-- Accumulate one group of g steps into the bank of command i, and complete the command after its last step. -/
def State.accumulate (s : State) (n i g : Nat) (c : Cmd) : State :=
  let x := (s.cset n).node
  let b := mBank c.tok
  let bank := x.bank b
  let acc := if x.mode b then accI32 else accF32
  let out (e : Nat) : BitVec 32 × Nat := acc (Tbl.get 0 bank e) (c.pairs g (e / 96) (e % 96))
  let fl := (List.range 6144).foldl (fun f e => f ||| (out e).2) 0
  let c' := { c with k := c.k + g, aEl := c.aEl.drop (64 * g), bEl := c.bEl.drop (96 * g) }
  let s := s.updNode n (fun x =>
    { (x.setBank b (bankBuild (fun e => (out e).1))).setCmd i c' with groups := x.groups + 1 })
  let s := s.nodeFlags n i fl c.k
  if c'.kEnd = some c'.k then s.updNode n (fun x => x.complete i) else s

/-- The running MMA. -/
def Node.running (x : Node) (p : Nat → Bool) : Option (Nat × Cmd) :=
  match x.queue.findIdx? (fun c => c.started && p (mOp c.tok)) with
  | some i => (x.queue[i]?).map (fun c => (i, c))
  | none => none

/-- MMA_GROUP: one cycle of the array. It accumulates a group whose elements are held, and takes at most one token from
each stream (10 R219, 23 R361). -/
def execMmaGroup (cell : Nat) (s : State) : Host.Outcome State Fault Refusal :=
  let cs := s.cset cell
  if !cs.nodeRuns || s.nodeHeld cell then .next s
  else
    match cs.node.running (· == opMMA) with
    | none => .next s
    | some (i, c) =>
      match c.groupSize with
      | some g => .next (s.accumulate cell i g c)
      | none =>
        let a := (cs.takeA c).getD (cs, c)
        let b := (a.1.takeB a.2).getD a
        .next (s.updC cell (fun _ => { b.1 with node := b.1.node.setCmd i b.2 }))

/-! ## The bank port (10 R218, R219) -/

/-- A drained element (10 R218). -/
def drainElem (mode : Bool) (f rm : Nat) (satb : Bool) (v : BitVec 32) : Nat × Nat :=
  if mode then
    if f = fI32 then (v.toNat, 0)
    else
      let x := mkNum v.toInt 0
      if isIntFmt f then encodeElem f rm satb x else encodeElem f rm satb (roundTo (floatFmt fF32) rm x)
  else encodeElem f rm satb (decodeBits fF32 v.toNat)

/-- One token of a drain. -/
def State.drainMove (s : State) (n i : Nat) (c : Cmd) : State :=
  let cs := s.cset n
  let w := c.tok
  let o := mChan w
  if !(s.cell n).routeFree portC (vget none cs.iss.routes o) then s
  else
    let f := mdrnFmt w
    let l := lanesOf f
    let rows := mCount w
    let per := (96 + l - 1) / l
    let total := if mRowtag w then rows * per else (rows * 96 + l - 1) / l
    let start := if mRowtag w then c.k / per * 96 + c.k % per * l else c.k * l
    let stop := if mRowtag w then c.k / per * 96 + 96 else rows * 96
    let mode := cs.node.mode (mBank w)
    let bank := cs.node.bank (mBank w)
    let es := (List.range l).map (fun j =>
      if start + j < stop then drainElem mode f cs.rmode.toNat cs.sat (Tbl.get 0 bank (mFirst w * 96 + start + j)) else (0, 0))
    let last : Bool := c.k + 1 == total
    let tag : BitVec 2 := if last then 3 else if mRowtag w && (c.k + 1) % per == 0 then 1 else 0
    let t : Token := { kind := .data, fmt := BitVec.ofNat 3 f, vchan := 0, tag := tag, payload := packLanes (elemBits f) (es.map (·.1)) }
    let s := s.emit n kindC cs.iss o t
    let s := s.updNode n (fun x => x.setCmd i { c with k := c.k + 1 })
    let s := s.nodeFlags n i (es.foldl (fun a e => a ||| e.2) 0) (mFirst w + start / 96)
    if last then
      s.updNode n (fun x =>
        let lo := mFirst w * 96
        let x := if mdrnZero w then
            x.setBank (mBank w) ((x.bank (mBank w)).filter (fun e => e.1 < lo || lo + rows * 96 ≤ e.1)) else x
        x.complete i)
    else s

/-- A loaded element (10 R218). -/
def loadElem (mode : Bool) (e : Elem) : BitVec 32 × Nat :=
  let x : FVal := if e.zero then .zero false else decodeElem e.fmt.toNat e.pair e.bits.toNat
  if mode then let r := encodeInt fI32 0 x; (BitVec.ofInt 32 r.1, r.2)
  else let r := encodeNum fF32 0 true x; (BitVec.ofNat 32 (toBits fF32 r.1), r.2)

/-- One token of a load. `k` counts the elements loaded. -/
def State.loadMove (s : State) (n i : Nat) (c : Cmd) : State :=
  let cs := s.cset n
  let w := c.tok
  match cs.head (mChan w) with
  | none => s
  | some t =>
    let es := cs.elems t
    let left := mCount w * 96 - c.k
    let take := if mRowtag w then min (96 - c.k % 96) es.length else min left es.length
    let mode := mldcMode w
    let vs := (es.take take).map (loadElem mode)
    let base := mFirst w * 96 + c.k
    let bank := cs.node.bank (mBank w)
    let bank' := bankBuild (fun e => if base ≤ e && e < base + take then (vs.getD (e - base) (0, 0)).1 else Tbl.get 0 bank e)
    let s := s.updC n (fun cs =>
      let cs := cs.deq (mChan w)
      { cs with node := (cs.node.setBank (mBank w) bank').setCmd i { c with k := c.k + take } })
    let s := s.nodeFlags n i (vs.foldl (fun a e => a ||| e.2) 0) (mFirst w + c.k / 96)
    if c.k + take = mCount w * 96 then s.updNode n (fun x => x.complete i) else s

/-- BANK_PORT_MOVE: the bank port moves one token of the running MDRN or MLDC. -/
def execBankPortMove (cell : Nat) (s : State) : Host.Outcome State Fault Refusal :=
  let cs := s.cset cell
  if !cs.nodeRuns || s.nodeHeld cell then .next s
  else
    match cs.node.running (fun o => o == opMDRN || o == opMLDC) with
    | none => .next s
    | some (i, c) => .next (
        if mOp c.tok ≠ opMDRN then s.loadMove cell i c
        else if cs.iss.run == .stopped then s
        else s.drainMove cell i c)

end Sys2Proof.Machine
end

