-- ==== Sys2Proof/Machine/Network.lean ====
section
/-!
DEFINITION. Switches: routing (07 R151, 19 R323), which packet an output port serves (12 R255, R256), breakwater guards
(07 R149, R155), seam links (07 R154) and arrivals at a tile's channels (08 R161).
-/

namespace Sys2Proof.Machine

open Sys2Proof

/-! ## Geometry (00 R4, R5) -/

/-- The cell that a switch port faces: N y − 1, E x + 1, S y + 1, W x − 1. -/
def neighbour (n port : Nat) : Option Nat :=
  let x := cellX n
  let y := cellY n
  match port with
  | 0 => if y = 0 then none else some (cellAt x (y - 1))
  | 1 => if x = 31 then none else some (cellAt (x + 1) y)
  | 2 => if y = 15 then none else some (cellAt x (y + 1))
  | 3 => if x = 0 then none else some (cellAt (x - 1) y)
  | _ => none

/-- The port at the other end of a link. -/
def opposite (port : Nat) : Nat := match port with | 0 => 2 | 1 => 3 | 2 => 0 | _ => 1

/-- The link is one of the seam's. -/
def isSeam (n port : Nat) : Bool := (cellX n == 15 && port == 1) || (cellX n == 16 && port == 3)

/-- The port of a tile kind: C, A or M. -/
def tilePort (kind : Nat) : Nat := match kind with | 0 => portC | 1 => portA | _ => portM

/-- The port towards a destination: along x, then along y, then the tile (07 R151). -/
def routedPort (n : Nat) (p : Packet) : Nat :=
  let d := p.dst.toNat
  if cellX n < cellX d then 1
  else if cellX d < cellX n then 3
  else if cellY n < cellY d then 2
  else if cellY d < cellY n then 0
  else tilePort (bitsN p.dstk 0 2)

/-- The port that a switch's routing table names for a packet; a soft error may have changed its entry (07 R152). -/
def Cell.tablePort (c : Cell) (n : Nat) (p : Packet) : Nat :=
  ((c.damaged.find? (fun e => e.1 == p.dst && e.2.1 == p.dstk)).map (·.2.2)).getD (routedPort n p)

/-- The port a packet leaves through: one a kernel chose, or its routing table's. -/
def Cell.outPort (c : Cell) (n : Nat) (p : Packet) : Nat := match p.out with
  | some q => if q = 7 then c.tablePort n p else q
  | none => c.tablePort n p

/-- A port on a partition's edge or the mesh's, which carries a guard (07 R149). -/
def State.guarded (s : State) (n port : Nat) : Bool :=
  port < 4 && (match neighbour n port with
    | none => true
    | some m => s.cellJob n != s.cellJob m)

/-- The seam link for a packet that has no route record: link 0 or the one open link (07 R154). -/
def State.looseLink (s : State) (n : Nat) : Nat := if bitB s.seamOpen (2 * cellY n) then 0 else 1

/-! ## Queues -/

/-- The kernel a packet runs: the lowest that its class and input port match; markers run none (19 R315). -/
def Cell.kernelFor (c : Cell) (inport : Nat) (p : Packet) : Option Nat :=
  if p.tok.isMarker then none
  else (List.range c.k.act.kernels.length).find? (fun i => match c.k.act.kernels[i]? with
    | some k => bitB k.classes p.cls.toNat && bitB k.inports inport
    | none => false)

/-- A packet that still has a kernel to run. -/
def Cell.mustRun (c : Cell) (inport : Nat) (p : Packet) : Bool := !p.ran && (c.kernelFor inport p).isSome

/-- Where a candidate of an output port stands: in an input queue, or first in the send stage. -/
inductive Spot where
  | queue (key : Nat)
  | send
  deriving DecidableEq, Repr

/-- A marker runs no kernel, so it waits for the packets of its route that stand in the send stage (03 R76). -/
def Cell.mustWait (c : Cell) (inport : Nat) (p : Packet) : Bool :=
  p.tok.isMarker && c.send.any (fun e => e.2.inport == inport && e.2.src == p.src && e.2.srck == p.srck && e.2.reach == p.reach)

/-- Packets that could leave through a port now: heads of input queues that have no kernel to run and nothing to wait for, and the
first of the send stage (19 R322). -/
def State.outCandidates (s : State) (n port : Nat) : List (Spot × Packet × Head) :=
  let c := s.cell n
  let mk (p : Packet) (next : Bool) : Head :=
    { cls := p.cls.toNat, slack := s.slackAt n p.marked p.mark p.mctr, since := p.since, src := p.src.toNat,
      port := p.inport, next := next }
  let q := c.inq.filterMap (fun e =>
    let inport := e.1 / 32
    match e.2 with
    | [] => none
    | p :: rest =>
      if c.mustRun inport p || c.mustWait inport p || c.outPort n p != port then none
      else
        let next : Bool := match rest with
          | r :: _ => !c.mustRun inport r && c.outPort n r == port
          | [] => false
        some (Spot.queue e.1, p, mk p next))
  let sendPort (e : Nat × Packet) : Nat := if e.1 = 7 then c.tablePort n e.2 else e.1
  match c.send with
  | e :: rest =>
    if sendPort e = port then
      q ++ [(Spot.send, e.2, mk e.2 ((rest.head?.map (fun r => sendPort r == port && r.2.cls == e.2.cls)).getD false))]
    else q
  | [] => q

/-- Take the packet at a spot; the next of its queue becomes the head now. -/
def State.takeSpot (s : State) (n : Nat) (sp : Spot) : State :=
  s.updCell n (fun c => match sp with
    | .send =>
      { c with send := match c.send.tail with
          | (o, r) :: t => (o, { r with since := s.islandCycle n }) :: t
          | [] => [] }
    | .queue k =>
      let q := match (Tbl.get [] c.inq k).tail with
        | r :: t => { r with since := s.islandCycle n } :: t
        | [] => []
      { c with inq := c.inq.set k q })

/-- The packet an output port serves among those that a test admits, with the port's arbiter after the decision. No decision
comes before a record that is due at the cell (13 R263). -/
def State.outPick (s : State) (n port link : Nat) (ok : Packet → Bool) : Option (Spot × Packet × State) :=
  if s.recordDue n then none
  else
    let c := s.cell n
    let cs := (s.outCandidates n port).filter (fun e => ok e.2.1)
    let key := port * 4 + link
    match (Tbl.get Arb.reset c.sArb key).decide c.need.qwgt (cs.map (fun e => e.2.2)) with
    | none => none
    | some (i, arb) =>
      match cs[i]? with
      | none => none
      | some e => some (e.1, e.2.1, s.updCell n (fun c => { c with sArb := c.sArb.set key arb, decided := s.islandCycle n + 1 }))

/-! ## Breakwater guards (07 R155) -/

/-- Write a pending record to the log of its job. -/
def State.writeDrop (s : State) (n port : Nat) (d : DropRec) : State :=
  s.event d.job 0x07 0 (tileUnit n 3)
    (BitVec.ofNat 64 (d.src.toNat + bitsN d.srck 0 2 * 2 ^ 9 + bitsN d.srck 2 3 * 2 ^ 11 + d.dst.toNat * 2 ^ 16
      + bitsN d.dstk 0 2 * 2 ^ 25 + bitsN d.dstk 2 3 * 2 ^ 27 + d.cls.toNat * 2 ^ 32 + d.vchan.toNat * 2 ^ 35))
    (BitVec.ofNat 64 (d.count + b2n d.marker * 2 ^ 32)) (BitVec.ofNat 64 (n + port * 2 ^ 9)) (some d.reach)

/-- Close the pending record of a port. -/
def State.closeDrop (s : State) (n port : Nat) : State :=
  match vget none (s.cell n).drops port with
  | none => s
  | some d => (s.writeDrop n port d).updCell n (fun c => { c with drops := vset c.drops port none })

/-- A guard drops a packet. -/
def State.dropAt (s : State) (n port : Nat) (p : Packet) : State :=
  let s := s.updJob p.job (fun b => { b with bwdrop := satInc b.bwdrop })
  let new : DropRec :=
    { job := p.job, reach := p.reach, src := p.src, srck := p.srck, dst := p.dst, dstk := p.dstk, cls := p.cls,
      vchan := p.tok.vchan, count := 1, marker := p.tok.isMarker, last := s.islandCycle n }
  match vget none (s.cell n).drops port with
  | none => s.updCell n (fun c => { c with drops := vset c.drops port (some new) })
  | some d =>
    if d.src = p.src && d.srck = p.srck && d.dst = p.dst && d.dstk = p.dstk && d.reach = p.reach then
      let d := { d with count := d.count + 1, marker := d.marker || p.tok.isMarker, last := s.islandCycle n }
      let s := s.updCell n (fun c => { c with drops := vset c.drops port (some d) })
      if d.count = 65535 then s.closeDrop n port else s
    else (s.closeDrop n port).updCell n (fun c => { c with drops := vset c.drops port (some new) })

/-- BREAKWATER_RECORD: 1,024 cycles of the cell without another matching drop. -/
def execBreakwaterRecord (n port : Nat) (s : State) : Host.Outcome State Fault Refusal :=
  match vget none (s.cell n).drops port with
  | some d => if d.last + 1024 ≤ s.islandCycle n then .next (s.closeDrop n port) else .next s
  | none => .next s

/-! ## Hops (07 R151, R154) -/

/-- The link a packet takes out of a port: 2 stands for a packet that has no route record there. One that a kernel has brought to
a row where its link is closed crosses on the open one (R153). -/
def State.linkOf (s : State) (n port : Nat) (p : Packet) : Nat :=
  if !isSeam n port then 0
  else if p.link = 2 || !bitB s.seamOpen (2 * cellY n + p.link) then s.looseLink n
  else p.link

/-- SWITCH_HOP: the packet that a port of a switch serves crosses to the next switch, or is dropped by its guard. -/
def execSwitchHop (n port link : Nat) (s : State) : Host.Outcome State Fault Refusal :=
  if 4 ≤ port then .next s
  else
    let room (p : Packet) : Bool := s.linkOf n port p == link && (s.guarded n port || (match neighbour n port with
      | some m => ((s.cell m).inqAt (opposite port) p.cls.toNat link).length < slotsPerClass
      | none => true))
    match s.outPick n port link room with
    | none => .next s
    | some (sp, p, s) =>
      let s := s.takeSpot n sp
      if s.guarded n port then .next (s.dropAt n port p)
      else match neighbour n port with
        | none => .next s
        | some m =>
          let p := { p with inport := opposite port, since := s.islandCycle m, ran := false, out := none }
          .next (s.updCell m (fun c => c.setInq (opposite port) p.cls.toNat link
            (c.inqAt (opposite port) p.cls.toNat link ++ [p])))

/-! ## Arrivals at compute tiles and address generators (03 R82, 08 R161, 21 R350) -/

/-- Slots of an input channel, and of the wave buffer of a channel. -/
def channelSlots : Nat := 4
def waveSlots : Nat := 128

/-- Tokens in a channel; a marker takes no slot (log entry 62). -/
def Issue.tokensIn (x : Issue) (ch : Nat) : Nat := ((vget [] x.chans ch).filter (fun p => !p.tok.isMarker)).length

/-- A channel can take a token: it has a free slot, or its stopped tile has room in the wave buffer. -/
def Issue.hasRoom (x : Issue) (ch : Nat) : Bool :=
  x.tokensIn ch < channelSlots || ((x.run == .stopped || x.run == .saved) && (vget [] x.wave ch).length < waveSlots)

/-- Put a token into a channel; behind a full one, or behind tokens already there, into the wave buffer. -/
def Issue.enter (x : Issue) (ch : Nat) (p : Packet) : Issue :=
  if x.tokensIn ch < channelSlots && (vget [] x.wave ch).isEmpty then
    { x with chans := vset x.chans ch (vget [] x.chans ch ++ [p]) }
  else { x with wave := vset x.wave ch (vget [] x.wave ch ++ [p]) }

/-- A compute tile or an address generator can take a packet from its switch now: a marker always, a token if its channel has
room. A tile with no configuration takes and discards what comes. -/
def State.tileAdmits (s : State) (n kind : Nat) (p : Packet) : Bool :=
  let x := s.issue n kind
  p.tok.isMarker || x.run == .off || x.hasRoom (bitsN p.dstk 2 3)

/-- TOKEN_ARRIVAL: the token that port C or A serves enters its channel; a marked transfer completes (12 R260). A marker that the
port serves is left to EBB_MARKER. -/
def execTokenArrival (n kind : Nat) (s : State) : Host.Outcome State Fault Refusal :=
  if 2 ≤ kind then .next s
  else
    let x := s.issue n kind
    match s.outPick n (tilePort kind) 0 (s.tileAdmits n kind) with
    | none => .next s
    | some (sp, p, t) =>
      let u := s
      let s := t.takeSpot n sp
      if p.tok.isMarker then .next u
      else if x.run = .off then .next s
      else
        let s := s.updIssue n kind (fun x => x.enter (bitsN p.dstk 2 3) p)
        let s := if kind = 0 then s.updC n CSet.settle else s
        match p.xfer with
        | some r => .next (s.completeXfer r.cell r.g (BitVec.ofNat 32 r.reqno))
        | none => .next s

end Sys2Proof.Machine
end

