-- ==== Sys2Proof/Machine/Service.lean ====
section
/-!
DEFINITION. What becomes of an accepted request: how it is answered or applied (11 R228, 16 R294), how a fault freezes its
template and opens a fault slot (21 R344 to R346), and which request a place serves next (12 R254, R255).
-/

namespace Sys2Proof.Machine

open Sys2Proof

/-! ## Requests by number -/

def ASet.req? (a : ASet) (id : Nat) : Option Req := a.q.find? (fun q => q.id == id)
def ASet.updReq (a : ASet) (id : Nat) (f : Req → Req) : ASet := { a with q := a.q.map (fun q => if q.id = id then f q else q) }
def ASet.dropReq (a : ASet) (id : Nat) : ASet := { a with q := a.q.filter (fun q => q.id != id) }

/-- The write half of a CPY pair is due or on its way (11 R233). -/
def Req.writeHalf (q : Req) : Bool := match q.kind with
  | .cpy => q.ans.isSome
  | _ => false

/-- The template and the address a request uses now. -/
def Req.tmplNow (q : Req) : Nat := if q.writeHalf then q.wg else q.g
def Req.addrNow (q : Req) : Nat := if q.writeHalf then q.waddr else q.addr

/-- The kind of access a request makes now (14 R270). -/
def Req.accessNow (q : Req) : Kind := if q.writeHalf then .write else q.kind.access

/-- ACC of a fault slot (21 R345). -/
def Req.accCode (q : Req) : Nat :=
  match q.kind with
  | .write => 2
  | .atom _ _ _ _ => 3
  | .cpy => if q.writeHalf then 7 else 6
  | _ => 1

/-- Destinations of writes (11 R235). -/
def destPort (cell port : Nat) : Nat := 4 * cell + port
def destStack (k : Nat) : Nat := 4096 + k

/-! ## Phase counts at a destination (16 R294) -/

/-- The source tile of a phase as a destination counts it: each set of a tile counts for itself. -/
def State.phaseSrc (s : State) (n : Nat) : Nat := n + 512 * (s.aset n).iss.reach

/-- A destination has an entry for a pair, or room for one. -/
def State.phaseRoom (s : State) (dest src : Nat) (p : BitVec 2) : Bool :=
  let src := s.phaseSrc src
  let t := s.phaseCnts.filter (fun c => c.dest == dest)
  t.length < 256 || t.any (fun c => c.src == src && c.p == p)

/-- One more write of a pair applied at a destination. -/
def State.countApplied (s : State) (dest src : Nat) (p : BitVec 2) : State :=
  let src := s.phaseSrc src
  let same (c : PhaseCnt) : Bool := c.dest == dest && c.src == src && c.p == p
  if s.phaseCnts.any same then
    { s with phaseCnts := s.phaseCnts.map (fun c => if same c then { c with n := c.n + 1 } else c) }
  else { s with phaseCnts := s.phaseCnts ++ [⟨dest, src, p, 1⟩] }

/-- A write of a phase leaves for a destination. -/
def ASet.noteDest (a : ASet) (p : BitVec 2) (dest : Nat) : ASet :=
  { a with phases := a.phases.map (fun h =>
      if h.p = p && !h.sent then
        { h with dests :=
            if h.dests.any (fun d => d.1 == dest) then h.dests.map (fun d => if d.1 = dest then (d.1, d.2 + 1) else d)
            else h.dests ++ [(dest, 1)] }
      else h) }

/-- A write that was counted in its phase turns out to be nullified (11 R233). -/
def ASet.uncountWrite (a : ASet) (p : BitVec 2) : ASet :=
  { a with phases := a.phases.map (fun h => if h.p = p && !h.sent then { h with total := h.total - 1 } else h) }

/-! ## Fault slots (21 R344 to R346) -/

/-- The oldest faulting request of a template, if it is frozen. -/
def Template.frozenAt (t : Template) : Option Nat :=
  t.frozen.foldl (fun m e => match m with
    | none => some e.1
    | some k => some (min k e.1)) none

/-- The code under which a memory error waits for its slot: source, stack, unit and address (14 R279). -/
def memCode (src stack unit addr : Nat) : Nat := src + 16 * stack + 256 * unit + 2 ^ 20 * addr

/-- The read responses of a template that stand answered behind its faulting request. -/
def ASet.withheld (a : ASet) (g : Nat) : Nat :=
  match (a.tmpl g).frozenAt with
  | none => 0
  | some k => (a.q.filter (fun q => q.g == g && k < q.id && q.stage == .answered && q.undelivered)).length

/-- The event of a slot (21 R346; a memory error keeps the payload of 14 R279). -/
def State.slotEvent (s : State) (j n slot : Nat) (f : FSlot) (code reach : Nat) : State :=
  if f.cause = 0x0F then
    let src := code % 16
    let stack := code / 16 % 16
    let addr : Word := BitVec.ofNat 64 (code / 2 ^ 20)
    let who : Word := BitVec.ofNat 64 (tileUnit n kindA)
    if src = 0 then s.event j 0x0F 0 (code / 256 % 4096) addr 0 who (some reach)
    else s.event j 0x0F 3 stack addr (BitVec.ofNat 64 (src + 16 * stack)) who none
  else
    s.event j f.cause.toNat 0 (tileUnit n kindA) f.addr
      (BitVec.ofNat 64 (slot + f.fcode.toNat * 2 ^ 16 + f.gen.toNat * 2 ^ 32 + 2 ^ 63)) (f.reqno.setWidth 64) (some reach)

/-- Open a slot, or open it again for a request that faults again: GEN grows and an event is written. -/
def State.fillSlot (s : State) (j n slot : Nat) (f : FSlot) (code reach : Nat) : State :=
  let old := Tbl.get FSlot.reset (s.job j).fslots slot
  let f := { f with isOpen := true, gen := old.gen + 1, unit := BitVec.ofNat 12 (tileUnit n kindA), cell := n }
  (s.updJob j (fun b => { b with fslots := b.fslots.set slot f })).slotEvent j n slot f code reach

/-- The lowest closed slot of a job. -/
def Job.freeSlot (b : Job) : Option Nat := (List.range 64).find? (fun k => !(Tbl.get FSlot.reset b.fslots k).isOpen)

/-- What a slot shows of a request of an address generator when it opens. -/
def ASet.slotOf (a : ASet) (q : Req) (cause code : Nat) : FSlot :=
  let t := a.tmpl q.tmplNow
  { FSlot.reset with
    cause := BitVec.ofNat 8 cause, tmpl := BitVec.ofNat 2 q.tmplNow, acc := BitVec.ofNat 3 q.accCode,
    fcode := if cause = 0x0F then 0 else BitVec.ofNat 6 code, addr := BitVec.ofNat 64 q.addrNow, reqno := q.reqno,
    issued := (a.tmpl q.g).issued, delivered := (a.tmpl q.g).delivered, withheld := BitVec.ofNat 16 (a.withheld q.g),
    wp := if t.space = .sram then t.mirror else 0, kv := q.kv, reqId := q.id }

/-- A request of a template meets a fault: its template freezes at it, in the slot it already holds, in a closed slot, or
unrecorded while every slot is open. -/
def State.freezeReq (s : State) (n id cause code : Nat) (stage : ReqStage) : State :=
  match (s.aset n).req? id with
  | none => s
  | some q =>
    let reach := (s.aset n).iss.reach
    let j := s.reachJob reach
    let held : Option Nat := match ((s.aset n).tmpl q.g).frozen.find? (fun e => e.1 == id) with
      | some (_, .slot k) => some k
      | _ => none
    let slot := match held with
      | some k => some k
      | none => (s.job j).freeSlot
    let why : Freeze := match slot with
      | some k => .slot k
      | none => .unrecorded code ((s.aset n).slotOf { q with stage := stage } cause code)
    let s := s.updA n (fun a => (a.updReq id (fun q => { q with stage := stage })).setTmpl q.g (fun t =>
      { t with frozen := t.frozen.filter (fun e => e.1 != id) ++ [(id, why)] }))
    match slot with
    | none => s
    | some k => s.fillSlot j n k ((s.aset n).slotOf { q with stage := stage } cause code) code reach

/-- A template freezes at a request whose page is not in HBM (14 R274, 21 R348). -/
def State.freezeTier (s : State) (n id : Nat) : State :=
  match (s.aset n).req? id with
  | none => s
  | some q => s.updA n (fun a => (a.updReq id (fun q => { q with stage := .tier })).setTmpl q.g (fun t =>
      if t.frozen.any (fun e => e.1 == id) then t else { t with frozen := t.frozen ++ [(id, .tier)] }))

/-- The compute set of a reach in a cell, wherever it stands. -/
def State.csetOf (s : State) (n reach : Nat) : Option CSet :=
  let c := s.cell n
  let kept := s.images.flatMap (fun m => if m.reach = reach then (m.cells.filter (fun e => e.cell == n)).map (·.c) else [])
  ([c.c.act, c.c.ina] ++ kept).find? (fun x => x.iss.reach == reach && x.iss.run != .off)

/-- The spill port of a reach's set freezes in the same way (11 R245): ACC is 4 for a spill and 5 for a fill. -/
def State.freezeSpill (s : State) (n reach acc addr cause code : Nat) : State :=
  let j := s.reachJob reach
  let f : FSlot := { FSlot.reset with
    cause := BitVec.ofNat 8 cause, acc := BitVec.ofNat 3 acc,
    fcode := if cause = 0x0F then 0 else BitVec.ofNat 6 code, addr := BitVec.ofNat 64 addr }
  match (match (s.csetOf n reach).bind (·.spillSlot) with
    | some k => some k
    | none => (s.job j).freeSlot) with
  | some k => (s.updCSet n reach (fun c => { c with spillFrz := some (.slot k), spillSlot := some k })).fillSlot j n k f code reach
  | none => s.updCSet n reach (fun c => { c with spillFrz := some (.unrecorded code f) })

/-- A fault of a job that waits for a slot: of request id of a cell, of the spill port of a reach's set, or of node k of a cell. -/
inductive Waiting where
  | request (n id cause code : Nat) (stage : ReqStage)
  | spill (n reach code : Nat) (f : FSlot)
  | node (n k reach code : Nat) (f : FSlot)
  deriving DecidableEq, Repr

/-- What waits for a slot in a cell: the requests of its templates, its spill ports, and its nodes. -/
def State.waitingAt (s : State) (n : Nat) : List Waiting :=
  let c := s.cell n
  let kept := s.images.flatMap (fun m => (m.cells.filter (fun e => e.cell == n)).map (·.c))
  (List.range 4).flatMap (fun g => ((s.aset n).tmpl g).frozen.filterMap (fun e => match e.2 with
      | .unrecorded code f => some (.request n e.1 f.cause.toNat code ((((s.aset n).req? e.1).map (·.stage)).getD .faulted))
      | _ => none))
    ++ ([c.c.act, c.c.ina] ++ kept).filterMap (fun x => match x.spillFrz with
      | some (.unrecorded code f) => some (.spill n x.iss.reach code f)
      | _ => none)
    ++ (List.range c.nodes.length).filterMap (fun k => match c.nodes[k]? with
      | some d => (match d.frz with
        | some (.unrecorded code f) => some (.node n k d.reach code f)
        | _ => none)
      | none => none)

/-- What of a job waits for a slot first. -/
def State.unrecorded (s : State) (j : Nat) : Option Waiting := ((s.job j).cells.flatMap s.waitingAt).head?

/-- Close a slot; a fault that waits for one takes it (21 R345). -/
def State.closeSlot (s : State) (j slot : Nat) : State :=
  let s := s.updJob j (fun b => { b with fslots := Tbl.upd FSlot.reset b.fslots slot (fun f => { f with isOpen := false }) })
  match s.unrecorded j with
  | some (.request n id cause code stage) => s.freezeReq n id cause code stage
  | some (.spill n reach code f) =>
    (s.updCSet n reach (fun c => { c with spillFrz := some (.slot slot), spillSlot := some slot })).fillSlot j n slot f code reach
  | some (.node n k reach code f) =>
    (s.updCell n (fun c => { c with nodes := c.nodes.modify k (fun d => { d with frz := some (.slot slot), slot := some slot }) })).fillSlot
      j n slot f code reach
  | none => s

/-- The spill port of a reach's set no longer stands at a fault, and the slot it holds closes. -/
def State.thawSpill (s : State) (n reach : Nat) : State :=
  let k := (s.csetOf n reach).bind (·.spillSlot)
  let s := s.updCSet n reach (fun c => { c with spillFrz := none, spillSlot := none })
  match k with
  | some k => s.closeSlot (s.reachJob reach) k
  | none => s

/-- A write of a collective node that stood in a port's reorder stage is over: applied, so that its transfer is complete (12 R260,
R261), or dropped, which leaves it incomplete. Such an entry has request number 0, and its `since` names the node's request. -/
def State.nodeOver (s : State) (p : Placed) (applied : Bool) : State :=
  let l := (s.cell p.cell).nodes
  match (List.range l.length).findSome? (fun k => l[k]?.bind (fun d => (d.flight.find? (fun r => r.since == p.since)).map (fun r => (k, d, r)))) with
  | none => s
  | some (k, d, r) =>
    let s := s.updCell p.cell (fun c => { c with nodes := c.nodes.modify k (fun d => { d with
      flight := d.flight.filter (fun x => x.since != p.since), op := d.op.map (fun o => { o with written := o.written + 1 }) }) })
    if r.marked then s.lateEnd p.cell d.reach r.x (!applied) else s

/-- Where a request waits to be translated or placed: a CPY pair whose read is answered, or the queue. -/
def Req.again (q : Req) : ReqStage := if q.writeHalf then .answered else .queued

/-- The requests that were held with faulting request id go back to be translated again (22 R360). -/
def ASet.freeHeld (a : ASet) (id : Nat) : ASet :=
  { a with q := a.q.map (fun q => if q.heldBy = id then { q with stage := q.again, heldBy := 0 } else q) }

/-- A faulting request has been performed: its template no longer stands at it, and its slot closes (21 R347). -/
def State.thaw (s : State) (n g id : Nat) : State :=
  match ((s.aset n).tmpl g).frozen.find? (fun e => e.1 == id) with
  | none => s
  | some e =>
    let s := s.updA n (fun a => (a.setTmpl g (fun t => { t with frozen := t.frozen.filter (fun e => e.1 != id) })).freeHeld id)
    match e.2 with
    | .slot k => s.closeSlot (s.reachJob (s.aset n).iss.reach) k
    | _ => s

/-! ## Answers and applied writes -/

/-- The token that a read returns (11 R228). -/
def ASet.readTok (a : ASet) (q : Req) (u : Unit64) : Token :=
  let t := a.tmpl q.g
  { kind := .data, fmt := t.fmt, vchan := t.vchan, tag := q.tag, payload := u }
def ASet.readNull (a : ASet) (q : Req) : Token :=
  let t := a.tmpl q.g
  { nullTok t.fmt q.tag with vchan := t.vchan }

/-- A read is answered. The write half of a CPY pair is nullified by a null token (11 R233): its transfer ends, with its record if it
was late (12 R261, R262). -/
def State.answer (s : State) (n : Nat) (q : Req) (t : Token) : State :=
  let s :=
    if q.kind = .cpy && t.nullish then
      (s.updA n (fun a => (a.dropReq q.id).uncountWrite q.phase)).completeXfer n q.g q.reqno
    else s.updA n (fun a => a.updReq q.id (fun r => { r with stage := .answered, ans := some t }))
  s.thaw n q.g q.id

/-- A write has been applied at a destination: it is counted and its request ends. `done` says that its transfer is
complete (12 R260). -/
def State.applied (s : State) (n : Nat) (q : Req) (dest : Nat) (done : Bool) : State :=
  let s := s.countApplied dest n q.phase
  let s := s.updA n (fun a => a.dropReq q.id)
  let s := if q.marked && done then s.completeXfer n q.g q.reqno else s
  s.thaw n q.g q.id

/-! ## Which request a place serves (12 R254, R255) -/

/-- The heads of the queues of a place, with their numbers in its list. With `once`, a request does not overtake another
to its unit. -/
def placedHeads (q : List Placed) (slack : Placed → Nat) (once : Bool) (ok : Placed → Bool) : List (Nat × Head) :=
  (List.range q.length).filterMap (fun i =>
    match q[i]? with
    | none => none
    | some p =>
      let ahead := q.take i
      let mine (x : Placed) : Bool := x.cell == p.cell && x.cls == p.cls
      if ahead.any mine || (once && ahead.any (fun x => x.addr / 64 == p.addr / 64)) || !ok p then none
      else some (i, { cls := p.cls.toNat, slack := slack p, since := p.since, src := p.cell, port := 0,
                      next := (q.drop (i + 1)).any mine }))

/-- The request that a place serves next, its number in the list, and its arbiter after the decision. -/
def pickPlaced (arb : Arb) (qwgt : Word) (q : List Placed) (slack : Placed → Nat) (once : Bool) (ok : Placed → Bool) :
    Option (Nat × Placed × Arb) :=
  let hs := placedHeads q slack once ok
  match arb.decide qwgt (hs.map (·.2)) with
  | none => none
  | some (k, arb) =>
    match hs[k]? with
    | none => none
    | some h => (q[h.1]?).map (fun p => (h.1, p, arb))

/-- Take a request from a list; the next one of its queue becomes a head now. -/
def takePlaced (q : List Placed) (i now : Nat) : List Placed :=
  match q[i]? with
  | none => q
  | some p =>
    let rest := q.eraseIdx i
    match rest.findIdx? (fun x => x.cell == p.cell && x.cls == p.cls) with
    | none => rest
    | some k => rest.modify k (fun x => { x with since := now })

/-- The request that a place's entry stands for. -/
def State.reqOf (s : State) (p : Placed) : Option Req := (s.aset p.cell).req? p.id

/-- Slack at an HBM controller: what the request carried, less the cycles since (12 R254); an unmarked one keeps its own. -/
def State.stackSlack (s : State) (p : Placed) : Nat := if p.marked then p.slack - (s.cycle - p.sent) else slackMax

/-- A request as it stands at a place from its cycle `now`. The write half of a CPY pair travels in its own template's class, with its mark
(11 R228). -/
def State.placedOf (s : State) (n : Nat) (q : Req) (write : Bool) (addr now : Nat) : Placed :=
  let t := (s.aset n).tmpl q.tmplNow
  let mctr : BitVec 12 := BitVec.ofNat 12 (t.mcell + t.mctr * 2 ^ 9)
  let cls := if q.writeHalf then t.cls else q.cls
  let marked := if q.writeHalf then t.marked else q.marked
  let mark := if q.writeHalf then q.wmark else q.mark
  { cell := n, id := q.id, write := write, addr := addr, cls := cls, marked := marked, mark := mark, mctr := mctr,
    slack := s.slackAt n marked mark mctr, sent := s.cycle, since := now }

/-! ## Atomics (11 R234, 16 R292) -/

/-- The word that an ATOM takes, its operation and operand. -/
def Req.atomWord (q : Req) : Nat := bitsN q.tok.payload 64 3
def Req.atomOp (q : Req) : BitVec 4 := match q.kind with
  | .atom op _ _ _ => op
  | _ => 0

end Sys2Proof.Machine
end

