-- ==== Sys2Proof/Machine/MemTile.lean ====
section
/-!
DEFINITION. Memory tiles: port words (11 R238), requests at a port by role (11 R239 to R247), tokens that arrive by route
(11 R239, R240, R244), and what a port sends.
-/

namespace Sys2Proof.Machine

open Sys2Proof

/-! ## Port words (11 R238) -/

/-- The window of a port word: LEN 0 means 65,536 units. -/
def portOff (w : PortWord) : Nat := bitsN w.ops 0 16
def portLen (w : PortWord) : Nat := let n := bitsN w.ops 16 16; if n = 0 then 65536 else n

/-- Requests of a port whose writes are dropped without being applied: their transfers end incomplete (log entry 88). -/
def State.forget (s : State) (ps : List Placed) : State :=
  ps.foldl (fun s p =>
    if p.id = 0 then s.nodeOver p false
    else (match s.reqOf p with
      | some q => s.endXfer p.cell q.g q.reqno true
      | none => s).updA p.cell (fun a => a.dropReq p.id)) s

/-- A role replaces the earlier role and its attributes; tokens a FIFO holds are discarded and counted. -/
def State.setRole (s : State) (d : Nat) (w : PortWord) (role : Nat) (f : MPort → MPort) : State :=
  let n := w.port.toNat
  let p := s.port d n
  (s.forget (p.reorder.map (·.2.2) ++ p.spu.flatMap (·.reqs))).updPort d n (fun p => f { MPort.reset with
    role := role, off := portOff w, len := portLen w, q := p.q, ldsy := p.ldsy, outq := p.outq, accept := p.accept,
    refused := p.refused + BitVec.ofNat 32 p.fifo.length, dup := p.dup, discardSeen := p.discardSeen, frozen := p.frozen,
    reached := p.reached })

/-- An attribute acts on a port whose role takes it. -/
def State.setAttr (s : State) (d : Nat) (w : PortWord) (role : Nat) (f : MPort → MPort) : State :=
  s.updPort d w.port.toNat (fun p => if p.role = role then f p else p)

/-- Zero n bytes of a memory from an address. -/
def memClear (m : List Host.Cell) (a n : Nat) : List Host.Cell := m.filter (fun c => !(a ≤ c.1 && c.1 < a + n))

def State.doPbind (s : State) (d : Nat) (w : PortWord) : State := s.setRole d w 0x01 (fun p => { p with acc := bits w.ops 32 2 })
def State.doPfifo (s : State) (d : Nat) (w : PortWord) : State := s.setRole d w 0x02 id
def State.doPrdx (s : State) (d : Nat) (w : PortWord) : State :=
  s.setRole d w 0x03 (fun p => { p with op := bits w.ops 32 4, fmt := bits w.ops 36 3, emit := bitB w.ops 39 })
def State.doPfe (s : State) (d : Nat) (w : PortWord) : State :=
  s.setAttr d w 0x01 (fun p => { p with fe := true, feOff := portOff w, feLen := portLen w, feInit := bitB w.ops 32, feBits := [] })
def State.doPwpx (s : State) (d : Nat) (w : PortWord) : State :=
  s.setAttr d w 0x01 (fun p => { p with
    wpx := true, wpOff := portOff w, wpLen := portLen w, wtag := bits w.ops 32 5, push := bitB w.ops 37, wp := 0 })
def State.doPspu (s : State) (d : Nat) (w : PortWord) : State :=
  s.setRole d w 0x06 (fun p => { p with op := bits w.ops 32 4, fmt := bits w.ops 36 3 })
def State.doPord (s : State) (d : Nat) (w : PortWord) : State := s.setAttr d w 0x06 (fun p => { p with ord := bitB w.ops 32 })
/-- Zeros written to n objects from an offset on, as plain writes (16 R289). -/
def State.zeroObjs (s : State) (d writer : Nat) : Nat → Nat → State
  | _, 0 => s
  | off, n + 1 => State.zeroObjs (s.writeObj d off 0 (s.objAddr (s.mset d).reach (sramKey d off)) writer) d writer (off + 64) n

/-- PBAR; INIT sets every object of the window to zero. From a port-control token each is a plain write of `writer`, the token's
sender (16 R289); at configuration the memory is cleared, no entry is held, and each object has been written (16 R287). -/
def State.doPbar (s : State) (d : Nat) (w : PortWord) (writer : Option Nat) : State :=
  let s := s.setRole d w 0x08 id
  if !bitB w.ops 32 then s
  else
    match writer with
    | some x => s.zeroObjs d x (portOff w * 64) (portLen w)
    | none =>
      let a := sramKey d (portOff w * 64)
      State.updCell { s with sram := memClear s.sram a (portLen w * 64) } d (fun c => { c with
        bars := c.bars.filter (fun b => !(a ≤ b.obj && b.obj < a + portLen w * 64))
        barRefused := c.barRefused.filter (fun k => !(a ≤ k && k < a + portLen w * 64)) })
/-- PSPL acts on the tile (11 R245). -/
def State.doPspl (s : State) (d : Nat) (w : PortWord) : State :=
  s.updM d (fun m => { m with page := bits w.ops 0 40, npage := bits w.ops 40 16 })
def State.doPcnt (s : State) (d : Nat) (w : PortWord) : State :=
  s.setAttr d w 0x01 (fun p => { p with cntTarget := bits w.ops 0 32, cntTag := bits w.ops 32 5, cnt := 0 })
/-- PCLR. Units of the reorder stage are dropped without being applied (11 R242). -/
def State.doPclr (s : State) (d : Nat) (w : PortWord) : State :=
  let n := w.port.toNat
  let b (i : Nat) : Bool := bitB w.ops i
  let s := if b 2 then s.forget ((s.port d n).reorder.map (·.2.2)) else s
  let s := s.updPort d n (fun p =>
    let p := { p with discardSeen := false }
    let p := if b 0 && p.fe then { p with feInit := false, feBits := [] } else p
    let p := if b 1 then { p with cnt := 0 } else p
    let p := if b 2 then { p with wp := 0, reorder := [] } else p
    if b 4 then { p with fifo := [], refused := p.refused + BitVec.ofNat 32 p.fifo.length } else p)
  if b 3 then s.updCell d (fun c => { c with hwm := c.hwm.filter (fun h => h.port != n) }) else s
def State.doPnul (s : State) (d : Nat) (w : PortWord) : State := s.setRole d w 0x0C id

def execPbind (p : PortWord) (s : State) : Host.Outcome State Fault Refusal := .next (s.doPbind s.focus.cell p)
def execPfifo (p : PortWord) (s : State) : Host.Outcome State Fault Refusal := .next (s.doPfifo s.focus.cell p)
def execPrdx (p : PortWord) (s : State) : Host.Outcome State Fault Refusal := .next (s.doPrdx s.focus.cell p)
def execPfe (p : PortWord) (s : State) : Host.Outcome State Fault Refusal := .next (s.doPfe s.focus.cell p)
def execPwpx (p : PortWord) (s : State) : Host.Outcome State Fault Refusal := .next (s.doPwpx s.focus.cell p)
def execPspu (p : PortWord) (s : State) : Host.Outcome State Fault Refusal := .next (s.doPspu s.focus.cell p)
def execPord (p : PortWord) (s : State) : Host.Outcome State Fault Refusal := .next (s.doPord s.focus.cell p)
def execPbar (p : PortWord) (s : State) : Host.Outcome State Fault Refusal := .next (s.doPbar s.focus.cell p (some (tileUnit s.focus.cell 2)))
def execPspl (p : PortWord) (s : State) : Host.Outcome State Fault Refusal := .next (s.doPspl s.focus.cell p)
def execPcnt (p : PortWord) (s : State) : Host.Outcome State Fault Refusal := .next (s.doPcnt s.focus.cell p)
def execPclr (p : PortWord) (s : State) : Host.Outcome State Fault Refusal := .next (s.doPclr s.focus.cell p)
def execPnul (p : PortWord) (s : State) : Host.Outcome State Fault Refusal := .next (s.doPnul s.focus.cell p)

/-- A word of the port table carried out at its tile: at configuration, or by a port-control token of a sender. -/
def State.portWord (s : State) (d : Nat) (w : Word) (writer : Option Nat) : State :=
  match decodePort w with
  | some (.pbind p) => s.doPbind d p
  | some (.pfifo p) => s.doPfifo d p
  | some (.prdx p) => s.doPrdx d p
  | some (.pfe p) => s.doPfe d p
  | some (.pwpx p) => s.doPwpx d p
  | some (.pspu p) => s.doPspu d p
  | some (.pord p) => s.doPord d p
  | some (.pbar p) => s.doPbar d p writer
  | some (.pspl p) => s.doPspl d p
  | some (.pcnt p) => s.doPcnt d p
  | some (.pclr p) => s.doPclr d p
  | some (.pnul p) => s.doPnul d p
  | _ => s

/-- The role an attribute word needs (11 R238). -/
def attrRole (op : Nat) : Option Nat :=
  match op with
  | 0x04 => some 0x01
  | 0x05 => some 0x01
  | 0x07 => some 0x06
  | 0x0A => some 0x01
  | _ => none

/-! ## Units of a slice (11 R239, R241; 14 R278, R279) -/

def State.sramUnit (s : State) (d off : Nat) : Unit64 := memUnit s.sram (sramKey d (off / 64 * 64))
def State.sramBad (s : State) (d off : Nat) : Bool := s.bad.contains (0, sramKey d off / 64)

/-- The unit of a port's full/empty window that an offset lies in. -/
def MPort.feUnit (p : MPort) (off : Nat) : Option Nat :=
  if p.fe && p.feOff * 64 ≤ off && off < (p.feOff + p.feLen) * 64 then some (off / 64) else none
def MPort.feFull (p : MPort) (u : Nat) : Bool := Tbl.get p.feInit p.feBits u

/-- Write a unit; every full/empty bit of the unit becomes full. -/
def State.sramPut (s : State) (d off : Nat) (u : Unit64) : State :=
  let k := sramKey d (off / 64 * 64)
  let full (p : MPort) : MPort := match p.feUnit off with
    | some x => { p with feBits := p.feBits.set x true }
    | none => p
  State.updM (State.mend { s with sram := memWrite s.sram k 64 u.toNat } 0 (k / 64)) d (fun m => { m with ports := m.ports.map full })

/-! ## What a port sends (11 R239, R242, R243) -/

/-- A port sends a token on its outbound route. -/
def State.emitM (s : State) (d n : Nat) (t : Token) : State :=
  match vget none (s.mset d).routes n with
  | none => s
  | some r => s.pushPacket d portM (mkPacket s d (2 + 4 * n) (s.mset d).reach r t)

/-- Count a unit of tag T applied at a port. -/
def MPort.count (p : MPort) (tag : BitVec 5) : MPort :=
  if p.cntTarget = 0 || p.cntTag ≠ tag then p
  else if p.cnt + 1 = p.cntTarget then
    { p with cnt := 0,
             outq := p.outq ++ [orderTok scopeReach (BitVec.ofNat 64 (tag.toNat + p.cntTarget.toNat * 2 ^ 32)) 0] }
  else { p with cnt := p.cnt + 1 }

/-- The mirrors of a source tile's templates whose home port this is (11 R237). -/
def State.acknowledge (s : State) (src d n : Nat) : State :=
  let wp : BitVec 32 := BitVec.ofNat 32 (s.port d n).wp
  match s.reach? (s.aset src).iss.reach with
  | none => s
  | some r => s.updA src (fun a => { a with
      tm := a.tm.map (fun t =>
        if t.homePort = n && r.absCell t.homeCell == some d && t.mirror < wp then { t with mirror := wp } else t) })

/-- Apply one unit of a write at a port: the unit, its count, and the end of its request. -/
def State.portApply (s : State) (d n : Nat) (p : Placed) (tag : BitVec 5) (off : Nat) (u : Unit64) : State :=
  let s := (s.sramPut d off u).updPort d n (fun p => p.count tag)
  match s.reqOf p with
  | some q => s.applied p.cell q (destPort d n) true
  | none => if p.id = 0 then s.nodeOver p true else s

/-- Move the write pointer past the units that the reorder stage holds; another unit held for an offset that it has passed is
applied too (11 R242). -/
def State.advanceWp (s : State) (d n : Nat) : Nat → State
  | 0 => s
  | fuel + 1 =>
    let p := s.port d n
    match p.reorder.find? (fun e => e.1 ≤ p.wp) with
    | none => s
    | some (a, u, pl) =>
      let s := s.updPort d n (fun p => { p with
        reorder := p.reorder.eraseP (fun e => e.1 ≤ p.wp), wp := if a = p.wp then p.wp + 64 else p.wp })
      let s := s.portApply d n pl p.wtag (p.wpOff * 64 + a) u
      State.advanceWp (s.acknowledge pl.cell d n) d n fuel

/-- A write at a plain window, which may be a copy channel (11 R242). -/
def State.plainWrite (s : State) (d n : Nat) (pl : Placed) (tag : BitVec 5) (off : Nat) (u : Unit64) : State :=
  let p := s.port d n
  if p.wpx && tag == p.wtag && p.wpOff * 64 ≤ off && off < (p.wpOff + p.wpLen) * 64 then
    let a := off - p.wpOff * 64
    if a < p.wp then (s.portApply d n pl tag off u).acknowledge pl.cell d n
    else if a = p.wp then
      let s := (s.portApply d n pl tag off u).updPort d n (fun p => { p with wp := p.wp + 64 })
      let s := (s.advanceWp d n 17).acknowledge pl.cell d n
      s.updPort d n (fun p => if p.push then { p with pushq := some p.wp } else p)
    else s.updPort d n (fun p => { p with reorder := p.reorder ++ [(a, u, pl)] })
  else s.portApply d n pl tag off u

/-! ## Lane arithmetic of reductions and reduce-stores (11 R244, R246) -/

/-- Operations of the two units. -/
inductive LaneOp where
  | add | max | min | or | replace
  deriving DecidableEq, Repr

def prdxOp (op : BitVec 4) : LaneOp := match op.toNat with | 0 => .add | 1 => .max | _ => .min
def pspuOp (op : BitVec 4) : LaneOp := match op.toNat with | 0 => .add | 1 => .min | 2 => .max | 3 => .or | _ => .replace

/-- One lane, in f32 rounded once by RNE; the sum of integer lanes of a sparse-update port is exact (11 R247; log entry 48). -/
def LaneOp.lane (o : LaneOp) (exact : Bool) (a b : FVal) : FVal :=
  let round (x : FVal × Nat) : FVal := if exact then x.1 else (roundF32 0 x).1
  match o with
  | .add => round (addNum false a b)
  | .max => round (maxNum a b, 0)
  | .min => round (minNum a b, 0)
  | _ => round (b, 0)

/-- The lanes of a token by its own fmt (03 R77). -/
def Token.lanes (t : Token) : List FVal := decodeLanes t.fmt.toNat t.payload (fun _ => none)

/-- Lanes encoded to a format with RNE and SAT 1. -/
def packRne (f : Nat) (xs : List FVal) : Unit64 := packLanes (elemBits f) (xs.map (fun x => (encodeElem f 0 true x).1))

/-- A resident unit of format f combined with tokens, oldest first: those are folded together before they meet it. -/
def LaneOp.merge (o : LaneOp) (exact : Bool) (f : Nat) (resident : Unit64) (toks : List Token) : Unit64 :=
  match o with
  | .or => toks.foldl (fun u t => u ||| packRne f t.lanes) resident
  | .replace => match toks.getLast? with
    | some t => packRne f t.lanes
    | none => resident
  | _ => match toks with
    | [] => resident
    | t :: rest =>
      let u := rest.foldl (fun u t => List.zipWith (o.lane exact) u t.lanes) t.lanes
      packRne f (List.zipWith (o.lane exact) (decodeLanes f resident (fun _ => none)) u)

/-! ## Sparse update (11 R246, R247; 16 R295) -/

/-- Stores in a port's window. -/
def MPort.spuLoad (p : MPort) : Nat := (p.spu.map (fun e => e.reqs.length)).foldl (· + ·) 0

/-- The address by which a request names its place. -/
def Req.name (q : Req) : Word := BitVec.ofNat 64 q.addrNow

/-- A read finds an uncorrectable unit: the port freezes at the request, and so does its template (14 R279). -/
def State.portBad (s : State) (d n : Nat) (q : Req) (src : Nat) : State :=
  (s.updPort d n (fun p => { p with frozen := true })).freezeReq src q.id 0x0F
    (memCode 0 0 (tileUnit d 2) q.addrNow) .placed

/-- Apply entry i of a sparse-update window. An uncorrectable resident unit freezes the port at the oldest of its stores
(14 R279). -/
def State.spuApply (s : State) (d n i : Nat) : State :=
  let p := s.port d n
  match p.spu[i]? with
  | none => s
  | some e =>
    if s.portStands d n || p.stopped then s
    else match (if s.sramBad d e.off && pspuOp p.op != .replace then e.reqs.findSome? (fun r => (s.reqOf r).map (fun q => (r, q))) else none) with
      | some (r, q) => s.portBad d n q r.cell
      | none =>
        let f := p.fmt.toNat
        let s := s.sramPut d e.off ((pspuOp p.op).merge (isIntFmt f) f (s.sramUnit d e.off) e.toks)
        let s := s.updPort d n (fun p => { p with spu := p.spu.eraseIdx i })
        e.reqs.foldl (fun s r => match s.reqOf r with
          | some q => s.applied r.cell q (destPort d n) true
          | none => s) s

/-- A reduce-store reaches its port: a duplicate is discarded; otherwise its source's mark takes its number and it joins
the window, in ordered mode as an entry of its own. A store whose lane count is not the format's is discarded (R244), and one
of a source for which the table has no room is refused (R246). -/
def State.reduceStore (s : State) (d n : Nat) (pl : Placed) (q : Req) (seq : BitVec 32) : State :=
  let p := s.port d n
  let num := s.reachNumber (s.aset pl.cell).iss.reach
  let same (h : Hwm) : Bool := h.port == n && h.reach == num && h.src == pl.cell
  let dup : Bool := (s.cell d).hwm.any (fun h => same h && seq ≤ h.mark)
  if dup then (s.updPort d n (fun p => { p with dup := p.dup + 1 })).applied pl.cell q (destPort d n) true
  else if s.hwmFull d n num pl.cell then (s.portRefused d n).applied pl.cell q (destPort d n) true
  else
    let s := s.updCell d (fun c => { c with hwm := c.hwm.filter (fun h => !same h) ++ [⟨n, num, pl.cell, seq⟩] })
    if q.tok.lanes.length ≠ lanesOf p.fmt.toNat then
      (s.updPort d n (fun p => { p with refused := p.refused + 1 })).applied pl.cell q (destPort d n) true
    else
      s.updPort d n (fun p =>
        if !p.ord && p.spu.any (fun e => e.off == pl.addr) then
          { p with spu := p.spu.map (fun e => if e.off = pl.addr then { e with toks := e.toks ++ [q.tok], reqs := e.reqs ++ [pl] } else e) }
        else { p with spu := p.spu ++ [⟨pl.addr, [q.tok], [pl]⟩] })

/-! ## Requests at a port (11 R239) -/

/-- A write served by its port's role. -/
def State.portWrite (s : State) (d n : Nat) (pl : Placed) (q : Req) : State :=
  let p := s.port d n
  let u : Unit64 := if q.writeHalf then (q.ans.getD Token.zero).payload else q.tok.payload
  let tag := ((s.aset pl.cell).tmpl q.tmplNow).vchan
  match p.role, q.seq with
  | 0x06, some k => s.reduceStore d n pl q k
  | 0x08, _ => (s.writeObj d pl.addr u q.name (tileUnit pl.cell kindA)).applied pl.cell q (destPort d n) true
  | 0x01, _ => s.plainWrite d n pl tag pl.addr u
  | _, _ => s.applied pl.cell q (destPort d n) true

/-- A read served by its port's role; a port that no longer has one that reads answers as a null port. -/
def State.portRead (s : State) (d n : Nat) (pl : Placed) (q : Req) : State :=
  let p := s.port d n
  let a := s.aset pl.cell
  match p.role with
  | 0x0C => s.answer pl.cell q (a.readNull q)
  | 0x00 => s.answer pl.cell q (a.readNull q)
  | 0x02 => s.answer pl.cell q (a.readNull q)
  | _ => s.answer pl.cell q (a.readTok q (s.sramUnit d pl.addr))

/-- Whether a port can serve a request now: the reduce-stores of one source tile are served in the order of their numbers
(R246). -/
def State.canServe (s : State) (d n : Nat) (pl : Placed) : Bool :=
  let p := s.port d n
  match s.reqOf pl with
  | none => true
  | some q =>
    let tag := ((s.aset pl.cell).tmpl q.tmplNow).vchan
    if pl.write then
      s.phaseRoom (destPort d n) pl.cell q.phase
        && !(p.role == 0x01 && p.wpx && tag == p.wtag && 16 ≤ p.reorder.length
              && p.wpOff * 64 + p.wp < pl.addr && pl.addr < (p.wpOff + p.wpLen) * 64)
        && !(p.role == 0x06 && q.seq.isSome && (64 ≤ p.spuLoad || p.q.any (fun x => x.cell == pl.cell && x.id != pl.id
              && (match (s.reqOf x).bind (·.seq), q.seq with
                | some a, some b => a < b
                | _, _ => false))))
    else true

/-- The request that a port serves next. No decision comes before a record that is due at the cell (13 R263). -/
def State.portPick (s : State) (d n : Nat) : Option (Nat × Placed × State) :=
  let p := s.port d n
  let c := s.cell d
  if s.portStands d n || p.stopped || s.recordDue d then none
  else
    match pickPlaced (vget Arb.reset c.mArb n) c.need.qwgt p.q (fun x => s.slackAt d x.marked x.mark x.mctr) false
        (s.canServe d n) with
    | none => none
    | some (i, pl, arb) => some (i, pl, s.updCell d (fun c => { c with mArb := vset c.mArb n arb, decided := s.islandCycle d + 1 }))

/-- Take the request a port has picked from its queue. -/
def State.portTake (s : State) (d n i : Nat) : State := s.updPort d n (fun p => { p with q := takePlaced p.q i (s.islandCycle d) })

/-- Serve the request that the port's arbiter picks; an atomic is left to ATOM_PERFORMED. -/
def State.portServe (s : State) (d n : Nat) : State :=
  match s.portPick d n with
  | none => s
  | some (i, pl, t) =>
    match s.reqOf pl with
    | none => t.portTake d n i
    | some q =>
      match q.kind with
      | .atom _ _ _ _ => s
      | .ldsy clear =>
        let p := s.port d n
        (match p.feUnit pl.addr with
        | none =>
          if s.sramBad d pl.addr && p.role != 0x0C then t.portBad d n q pl.cell else (t.portTake d n i).portRead d n pl q
        | some x =>
          if !p.feFull x || p.ldsy.any (fun l => l.addr / 64 == pl.addr / 64) then (t.portTake d n i).updPort d n (fun p => { p with ldsy := p.ldsy ++ [pl] })
          else if s.sramBad d pl.addr then t.portBad d n q pl.cell
          else
            let t := (t.portTake d n i).portRead d n pl q
            if clear then t.updPort d n (fun p => { p with feBits := p.feBits.set x false }) else t)
      | _ =>
        if pl.write then (t.portTake d n i).portWrite d n pl q
        else if s.sramBad d pl.addr && (s.port d n).role != 0x0C then t.portBad d n q pl.cell
        else (t.portTake d n i).portRead d n pl q

/-- PORT_REQUEST. Where a sparse-update window holds stores, what comes next among them and the next request is left open
(R247) and a free value decides; in ordered mode the oldest store is applied before any other is taken. -/
def execPortRequest (cell port : Nat) (s : State) : Host.Outcome State Fault Refusal :=
  if 4 ≤ port then .next s
  else
    let p := s.port cell port
    match p.spu with
    | [] => .next (s.portServe cell port)
    | _ =>
      if p.ord || (s.portPick cell port).isNone then .next (s.spuApply cell port 0)
      else
        let k := (Config.openWord s.freeCount).toNat % (p.spu.length + 1)
        if k < p.spu.length then .next (s.drawn.spuApply cell port k) else .next (s.drawn.portServe cell port)

/-- Waiting LDSY n of a port may be served: its unit is full or has no bit, and no earlier one waits on the unit. -/
def MPort.ldsyDue (p : MPort) (n : Nat) : Bool :=
  match p.ldsy[n]? with
  | none => false
  | some pl => !p.frozen && !(p.ldsy.take n).any (fun l => l.addr / 64 == pl.addr / 64) && (match p.feUnit pl.addr with
    | none => true
    | some x => p.feFull x)

/-- LDSY_RELEASE: waiting LDSY n is served once its unit is full, or at a port that has lost its bits. -/
def execLdsyRelease (cell port n : Nat) (s : State) : Host.Outcome State Fault Refusal :=
  let p := s.port cell port
  match p.ldsy[n]? with
  | none => .next s
  | some pl =>
    if !p.ldsyDue n || p.stopped || (s.mset cell).frozen then .next s
    else match s.reqOf pl with
      | none => .next (s.updPort cell port (fun p => { p with ldsy := p.ldsy.eraseIdx n }))
      | some q =>
        if s.sramBad cell pl.addr && p.role != 0x0C then .next (s.portBad cell port q pl.cell)
        else
          let s := (s.updPort cell port (fun p => { p with ldsy := p.ldsy.eraseIdx n })).portRead cell port pl q
          match q.kind, p.feUnit pl.addr with
          | .ldsy true, some x => .next (s.updPort cell port (fun p => { p with feBits := p.feBits.set x false }))
          | _, _ => .next s

/-! ## Tokens by route (11 R239, R240, R244) -/

/-- An event of a memory tile about a token: its payload, the port with its role, and the sender. -/
def State.tokenEvent (s : State) (d n cause : Nat) (p : Packet) : State :=
  let id := (s.mset d).reach
  s.event (s.reachJob id) cause 0 (tileUnit d 2) p.tok.word (BitVec.ofNat 64 (n + (s.port d n).role * 4))
    (BitVec.ofNat 64 (p.src.toNat + bitsN p.srck 0 2 * 2 ^ 9 + bitsN p.srck 2 3 * 2 ^ 11)) (some id)

/-- A token the role does not take: discarded and counted, with an event at the first. -/
def State.discardTok (s : State) (d n : Nat) (p : Packet) : State :=
  let s := if (s.port d n).discardSeen then s else s.tokenEvent d n 0x04 p
  s.updPort d n (fun q => { q with refused := q.refused + 1, discardSeen := true })

/-- One token of a reduction (R244). -/
def State.reduceTok (s : State) (d n : Nat) (p : Packet) : State :=
  let q := s.port d n
  let f := q.fmt.toNat
  let off := (q.off + q.cnt.toNat % q.len) * 64
  let adv (s : State) : State := s.updPort d n (fun q => { q with cnt := q.cnt + 1, accept := q.accept + 1 })
  if p.tok.nullish then adv s
  else if p.tok.lanes.length ≠ lanesOf f then s.updPort d n (fun q => { q with refused := q.refused + 1 })
  else
    let u := (prdxOp q.op).merge false f (s.sramUnit d off) [p.tok]
    let s := adv (s.sramPut d off u)
    if q.emit then
      s.updPort d n (fun q => { q with outq := q.outq ++ [{ kind := .data, fmt := q.fmt, vchan := 0, tag := p.tok.tag, payload := u }] })
    else s

/-- The unit that the next token of a reduction merges with. -/
def MPort.mergeOff (q : MPort) : Nat := (q.off + q.cnt.toNat % q.len) * 64

/-- A reduction stands at an uncorrectable unit (14 R279). -/
def State.mergeBad (s : State) (d n : Nat) : Bool := (s.port d n).role == 0x03 && s.sramBad d (s.port d n).mergeOff

/-- Whether a port can take a token now: a full FIFO is back-pressured, and so is a reduction whose results wait, or one that has
frozen at an uncorrectable unit. A port frozen by a parity error takes none (02 R53). -/
def State.tokRoom (s : State) (d : Nat) (p : Packet) : Bool :=
  let n := bitsN p.dstk 2 3
  let q := s.port d n
  match q.role with
  | 0x02 => q.fifo.length < q.len && !s.portStands d n
  | 0x03 => q.outq.length < 2 && !s.portStands d n && (!q.stopped || !s.mergeBad d n)
  | _ => !s.portStands d n

/-- Nothing at a port comes before a port-control token. -/
def State.portQuiet (s : State) (d n : Nat) : Bool := (s.port d n).q.isEmpty && (s.port d n).spu.isEmpty

/-- The port-table word that a port-control token names. -/
def MSet.entry (m : MSet) (p : Packet) : Word := vget 0 m.table (bitsN p.tok.word 0 3)

/-- A memory tile can take a packet from its switch now. It takes and discards everything while it has no configuration; a
marker goes once its port has sent what it holds, a port-control token once nothing at its port, or at the port it acts on,
comes before it and neither stands frozen. -/
def State.admitsM (s : State) (d : Nat) (p : Packet) : Bool :=
  let m := s.mset d
  let n := bitsN p.dstk 2 3
  let k := bitsN (m.entry p) 56 2
  if m.run == .off then true
  else if p.tok.isMarker then m.reach ≠ p.reach || ((s.port d n).outq.isEmpty && (s.port d n).pushq.isNone)
  else if p.tok.vchan = 31 then s.portQuiet d n && s.portQuiet d k && !s.portStands d n && !s.portStands d k
  else s.tokRoom d p

/-- A reduction meets an uncorrectable unit: its port freezes, and the token waits until the unit has been repaired
(14 R279; log entry 82). -/
def State.mergeStop (s : State) (d n : Nat) (p : Packet) : State :=
  let id := (s.mset d).reach
  (s.updPort d n (fun q => { q with stopped := true })).event (s.reachJob id) 0x0F 0 (tileUnit d 2)
    (BitVec.ofNat 64 (sramKey d (s.port d n).mergeOff)) 0 (BitVec.ofNat 64 (p.src.toNat + bitsN p.srck 0 2 * 2 ^ 9)) (some id)

/-- ROUTE_TOKEN_AT_PORT: the packet that port M serves, unless it is a marker or a port-control token. A memory tile with no
configuration takes and discards it. A marked transfer that ends at the port is complete (12 R260; log entry 82). -/
def execRouteTokenAtPort (cell : Nat) (s : State) : Host.Outcome State Fault Refusal :=
  let m := s.mset cell
  match s.outPick cell portM 0 (s.admitsM cell) with
  | none => .next s
  | some (sp, p, t) =>
    let n := bitsN p.dstk 2 3
    if m.run = .off then .next (t.takeSpot cell sp)
    else if p.tok.isMarker || p.tok.vchan = 31 then .next s
    else if !p.tok.nullish && s.mergeBad cell n then .next (s.mergeStop cell n p)
    else
      let t := t.takeSpot cell sp
      let t := match p.xfer with
        | some r => t.completeXfer r.cell r.g (BitVec.ofNat 32 r.reqno)
        | none => t
      match (s.port cell n).role with
      | 0x02 => .next (t.updPort cell n (fun q => { q with fifo := q.fifo ++ [p], accept := q.accept + 1 }))
      | 0x03 => .next ((t.updPort cell n (fun q => { q with stopped := false })).reduceTok cell n p)
      | 0x0C => .next t
      | _ => .next (t.discardTok cell n p)

/-- PORT_CONTROL_TOKEN: the packet that port M serves, if it is one. -/
def execPortControlToken (cell : Nat) (s : State) : Host.Outcome State Fault Refusal :=
  let m := s.mset cell
  match s.outPick cell portM 0 (s.admitsM cell) with
  | none => .next s
  | some (sp, p, t) =>
    if m.run = .off || p.tok.isMarker || p.tok.vchan ≠ 31 then .next s
    else
      let s := t.takeSpot cell sp
      let n := bitsN p.dstk 2 3
      let w := m.entry p
      let role := (s.port cell (bitsN w 56 2)).role
      let taken : Bool := match attrRole (bitsN w 58 6) with
        | some r => r == role
        | none => true
      if !bitB m.valid (bitsN p.tok.word 0 3) || bitsN p.tok.word 3 61 != 0 || !taken then
        .next ((s.updPort cell n (fun q => { q with refused := q.refused + 1 })).tokenEvent cell n 0x01 p)
      else .next ((s.updPort cell n (fun q => { q with accept := q.accept + 1 })).portWord cell w (some (tileUnit p.src.toNat (bitsN p.srck 0 2))))

/-- FIFO_SEND: a port sends its oldest queued token, then a push, then a FIFO entry, as its route has room. The bytes of a
FIFO entry in the window are left open by R238, and no request reads them. -/
def execFifoSend (cell port : Nat) (s : State) : Host.Outcome State Fault Refusal :=
  let m := s.mset cell
  let p := s.port cell port
  if p.reached || m.frozen || !(s.cell cell).routeFree portM (vget none m.routes port) then .next s
  else match p.outq, p.pushq, p.fifo with
    | t :: rest, _, _ => .next ((s.updPort cell port (fun p => { p with outq := rest })).emitM cell port t)
    | [], some wp, _ => .next ((s.updPort cell port (fun p => { p with pushq := none })).emitM cell port (scalarTok (BitVec.ofNat 64 wp) 0))
    | [], none, t :: rest => .next ((s.updPort cell port (fun p => { p with fifo := rest })).emitM cell port t.tok)
    | [], none, [] => .next s

end Sys2Proof.Machine
end

