-- ==== Sys2Proof/Machine/Skerry.lean ====
section
/-!
DEFINITION. Skerry processors (02 R56 to R58, 19 R315 to R325): the decoder of a skerry word, one kernel run as one event,
and its sends.
-/

namespace Sys2Proof.Machine

open Sys2Proof

/-! ## Skerry words (02 R56 to R58) -/

/-- Three-register integer operations (19 R318). -/
inductive SkAlu where
  | add | sub | mul | and | or | xor | shl | shr | min | max
  deriving DecidableEq, Repr

/-- Lane operations (19 R319). -/
inductive SkLane where
  | add | mul | max | min
  deriving DecidableEq, Repr

/-- A skerry instruction. `v` is the vector flag. -/
inductive SkInstr where
  | alu (op : SkAlu) (d a b : BitVec 4)
  | addi (d a : BitVec 4) (i : BitVec 14)
  | lui (d : BitVec 4) (i : BitVec 18)
  | lane (op : SkLane) (d a b : BitVec 4)
  | ldf (d : BitVec 4) (f : BitVec 6)
  | stf (f : BitVec 6) (a : BitVec 4)
  | ldp (d : BitVec 4) (v : Bool) (m : BitVec 4)
  | stp (v : Bool) (m : BitVec 4) (a : BitVec 4)
  | lds (d a : BitVec 4) (v : Bool) (m : BitVec 4)
  | sts (b a : BitVec 4) (v : Bool) (m : BitVec 4)
  | brf (c : BitVec 4) (a b : BitVec 4) (o : BitVec 10)
  | fwd (p : BitVec 3)
  | dup (p : BitVec 3)
  | drp
  | emit (p : BitVec 3) (a : BitVec 4)
  | fin
  | trapk (c : BitVec 8)
  deriving DecidableEq, Repr

def skAluOf (op : Nat) : SkAlu :=
  match op with
  | 1 => .add | 2 => .sub | 3 => .mul | 4 => .and | 5 => .or | 6 => .xor | 7 => .shl | 8 => .shr | 9 => .min | _ => .max
def skLaneOf (op : Nat) : SkLane := match op with | 0x10 => .add | 0x11 => .mul | 0x12 => .max | _ => .min

/-- A skerry word as an instruction, or the loader error that refuses it (R56 to R58): 0x0031 or 0x0032. -/
def decodeSkerry (w : BitVec 32) : Except Nat SkInstr :=
  let op := bitsN w 26 6
  let d : BitVec 4 := bits w 22 4
  let a : BitVec 4 := bits w 18 4
  let b : BitVec 4 := bits w 14 4
  let z (lo n : Nat) : Bool := bitsN w lo n == 0
  let v := bitB w 4
  let m : BitVec 4 := bits w 0 4
  let reg (r : BitVec 4) : Bool := !v || (r.toNat < 4 && (m == 0 || m == 8))
  let ok (c : Bool) (i : SkInstr) : Except Nat SkInstr := if c then .ok i else .error 0x0032
  if 1 ≤ op && op ≤ 10 then ok (z 0 14) (.alu (skAluOf op) d a b)
  else if 0x10 ≤ op && op ≤ 0x13 then
    ok (z 0 14 && d.toNat < 4 && a.toNat < 4 && b.toNat < 4) (.lane (skLaneOf op) d a b)
  else match op with
    | 0x0B => ok (z 14 4) (.addi d a (bits w 0 14))
    | 0x0C => ok (z 18 4) (.lui d (bits w 0 18))
    | 0x18 => ok (z 6 16) (.ldf d (bits w 0 6))
    | 0x19 => ok (z 6 12 && z 22 4) (.stf (bits w 0 6) a)
    | 0x1A => ok (z 5 17 && reg d) (.ldp d v m)
    | 0x1B => ok (z 5 13 && z 22 4 && reg a) (.stp v m a)
    | 0x1C => ok (z 5 13 && reg d) (.lds d a v m)
    | 0x1D => ok (z 5 9 && z 22 4 && reg b) (.sts b a v m)
    | 0x20 => ok (z 22 4 && bitsN w 10 4 ≤ 6) (.brf (bits w 10 4) a b (bits w 0 10))
    | 0x28 => ok (z 3 23) (.fwd (bits w 0 3))
    | 0x29 => ok (z 3 23 && bitsN w 0 3 != 7) (.dup (bits w 0 3))
    | 0x2A => ok (z 0 26) .drp
    | 0x2B => ok (z 3 15 && z 22 4 && bitsN w 0 3 != 7) (.emit (bits w 0 3) a)
    | 0x30 => ok (z 0 26) .fin
    | 0x31 => ok (z 8 18) (.trapk (bits w 0 8))
    | _ => .error 0x0031

/-! ## A run (19 R315 to R322) -/

/-- The state of a run: registers, the packet as it stands, the flow-state table, and the sends queued. -/
structure SkRun where
  h : Vector (BitVec 32) 16
  w : Vector (BitVec 256) 4
  p : Packet
  flow : Tbl Unit64
  sends : List (Nat × Packet)
  pc : Nat
  seam : Nat
  deriving DecidableEq, Repr

/-- How an instruction ends: the run goes on, the kernel ends with the packet sent or dropped, or it traps. -/
inductive SkEnd where
  | go (r : SkRun)
  | send (port : Nat) (r : SkRun)
  | drop (r : SkRun)
  | trap (code : Nat) (device : Bool) (index : Nat) (r : SkRun)
  deriving DecidableEq, Repr

def SkRun.reg (r : SkRun) (a : BitVec 4) : BitVec 32 := vget 0 r.h a.toNat
def SkRun.setReg (r : SkRun) (a : BitVec 4) (x : BitVec 32) : SkRun := { r with h := vset r.h a.toNat x }

/-- The kind code of a token, and back (03 R73). -/
def TokKind.code : TokKind → Nat
  | .data => 0
  | .null => 1
  | .order => 2
  | .marker => 3
def kindOfCode (n : Nat) : TokKind := match n with | 0 => .data | 1 => .null | 2 => .order | _ => .marker

/-- A header field (R316). -/
def Packet.field (p : Packet) (tick : Nat) (f : Nat) : BitVec 32 :=
  match f with
  | 0 => p.src.setWidth 32
  | 1 => p.srck.setWidth 32
  | 2 => p.dst.setWidth 32
  | 3 => p.dstk.setWidth 32
  | 4 => p.cls.setWidth 32
  | 5 => p.tok.vchan.setWidth 32
  | 6 => p.tok.fmt.setWidth 32
  | 7 => BitVec.ofNat 32 p.tok.kind.code
  | 8 => p.tok.tag.setWidth 32
  | 9 => BitVec.ofNat 32 p.inport
  | 10 => p.mark
  | 11 => p.mctr.setWidth 32
  | 12 => BitVec.ofNat 32 p.job
  | 13 => BitVec.ofNat 32 tick
  | 14 => p.cpos.setWidth 32
  | 15 => p.cseq.setWidth 32
  | _ => 0

/-- Write a header field; none where tile kind 11 or kind 11 is named. -/
def Packet.setField (p : Packet) (f : Nat) (x : BitVec 32) : Option Packet :=
  match f with
  | 2 => some { p with dst := x.setWidth 9 }
  | 3 => if bitsN x 0 2 = 3 then none else some { p with dstk := x.setWidth 5 }
  | 4 => some { p with cls := x.setWidth 3 }
  | 5 => some { p with tok := { p.tok with vchan := x.setWidth 5 } }
  | 6 => some { p with tok := { p.tok with fmt := x.setWidth 3 } }
  | 7 => if bitsN x 0 2 = 3 then none else some { p with tok := { p.tok with kind := kindOfCode (bitsN x 0 2) } }
  | 8 => some { p with tok := { p.tok with tag := x.setWidth 2 } }
  | 10 => some { p with mark := x }
  | 11 => some { p with mctr := x.setWidth 12 }
  | _ => some p

/-- w bits of a 512-bit value from bit lo replaced. -/
def putBits (x : Unit64) (lo w v : Nat) : Unit64 :=
  let mask : Unit64 := BitVec.ofNat 512 ((2 ^ w - 1) * 2 ^ lo)
  (x &&& ~~~mask) ||| (BitVec.ofNat 512 (v % 2 ^ w * 2 ^ lo))

/-- A window or flow-state access: one word, or eight as a vector register. -/
def SkRun.load (r : SkRun) (u : Unit64) (d : BitVec 4) (v : Bool) (m : Nat) : SkRun :=
  if v then { r with w := vset r.w d.toNat (bits u (32 * m) 256) } else r.setReg d (bits u (32 * m) 32)
def SkRun.store (r : SkRun) (u : Unit64) (a : BitVec 4) (v : Bool) (m : Nat) : Unit64 :=
  if v then putBits u (32 * m) 256 (vget 0 r.w a.toNat).toNat else putBits u (32 * m) 32 (r.reg a).toNat

def SkAlu.eval (o : SkAlu) (x y : BitVec 32) : BitVec 32 :=
  match o with
  | .add => x + y
  | .sub => x - y
  | .mul => x * y
  | .and => x &&& y
  | .or => x ||| y
  | .xor => x ^^^ y
  | .shl => x <<< bitsN y 0 5
  | .shr => x >>> bitsN y 0 5
  | .min => if x.slt y then x else y
  | .max => if y.slt x then x else y

/-- One element of a lane operation: exact, then encoded; only f32 does not saturate (R319). -/
def SkLane.elem (o : SkLane) (f x y : Nat) : Nat :=
  let a := decodeElem f none x
  let b := decodeElem f none y
  let z := match o with
    | .add => (addNum false a b).1
    | .mul => (mulNum a b).1
    | .max => maxNum a b
    | .min => minNum a b
  (encodeElem f 0 (f != fF32) z).1

/-- A lane operation on two 256-bit registers. -/
def SkLane.eval (o : SkLane) (f : Nat) (x y : BitVec 256) : BitVec 256 :=
  let n := elemBits f
  BitVec.ofNat 256 ((List.range (256 / n)).foldl (fun a i => a + o.elem f (bitsN x (n * i) n) (bitsN y (n * i) n) * 2 ^ (n * i)) 0)

def skCond (c : Nat) (x y : BitVec 32) : Bool :=
  match c with
  | 0 => true
  | 1 => x == y
  | 2 => x != y
  | 3 => x.slt y
  | 4 => !x.slt y
  | 5 => x.ult y
  | _ => !x.ult y

/-- One instruction. `tick` is the global tick at the kernel's start, `k` the kernel, `routed` the port the routing table
chose for the packet as it entered. A port that the kernel chooses at the seam, and an emitted packet, take the row's link for packets
without a route record (07 R154). -/
def SkInstr.run (i : SkInstr) (tick : Nat) (k : Kernel) (routed : Nat) (r : SkRun) : SkEnd :=
  let next (r : SkRun) : SkEnd := .go { r with pc := r.pc + 1 }
  let port (p : BitVec 3) : Nat := if p = 7 then routed else p.toNat
  let via (o : BitVec 3) (p : Packet) : Packet := if o.toNat = r.seam then { p with link := 2 } else p
  match i with
  | .alu op d a b => next (r.setReg d (op.eval (r.reg a) (r.reg b)))
  | .addi d a i => next (r.setReg d (r.reg a + i.signExtend 32))
  | .lui d i => next (r.setReg d (i ++ 0#14))
  | .lane op d a b =>
    if r.p.tok.fmt = 3 then .trap 0x81 true 0 r
    else next { r with w := vset r.w d.toNat (op.eval r.p.tok.fmt.toNat (vget 0 r.w a.toNat) (vget 0 r.w b.toNat)) }
  | .ldf d f => next (r.setReg d (r.p.field tick f.toNat))
  | .stf f a => (match r.p.setField f.toNat (r.reg a) with
    | some p => next { r with p := p }
    | none => .trap 0x82 true 0 r)
  | .ldp d v m => next (r.load r.p.tok.payload d v m.toNat)
  | .stp v m a => next { r with p := { r.p with tok := { r.p.tok with payload := r.store r.p.tok.payload a v m.toNat } } }
  | .lds d a v m =>
    let x := (r.reg a).toNat
    if k.flimit - k.fbase < x then .trap 0x80 true x r
    else next (r.load (Tbl.get 0 r.flow (k.fbase + x)) d v m.toNat)
  | .sts b a v m =>
    let x := (r.reg a).toNat
    if k.flimit - k.fbase < x then .trap 0x80 true x r
    else next { r with flow := r.flow.set (k.fbase + x) (r.store (Tbl.get 0 r.flow (k.fbase + x)) b v m.toNat) }
  | .brf c a b o => .go { r with pc := if skCond c.toNat (r.reg a) (r.reg b) then r.pc + o.toNat else r.pc + 1 }
  | .fwd p => .send (port p) { r with p := via p r.p }
  | .dup p => next { r with sends := r.sends ++ [(port p, via p r.p)] }
  | .drp => .drop r
  | .emit p a =>
    let x := r.reg a
    if bitsN x 9 2 = 3 then .trap 0x82 true 0 r
    else next { r with sends := r.sends ++ [(port p, { r.p with dst := x.setWidth 9, dstk := bits x 9 5, link := 2 })] }
  | .fin => .send routed r
  | .trapk c => .trap c.toNat false 0 r

/-- A kernel to its end; branches only go forward, so 65 instructions are enough (R324). -/
def Kernel.run (k : Kernel) (tick routed : Nat) : Nat → SkRun → SkEnd
  | 0, r => .send routed r
  | fuel + 1, r =>
    match k.code[r.pc]? with
    | none => .send routed r
    | some w =>
      match decodeSkerry w with
      | .error _ => .send routed r
      | .ok i =>
        match i.run tick k routed r with
        | .go r => Kernel.run k tick routed fuel r
        | e => e

/-! ## The event -/

/-- The packet a skerry takes next: of those at the heads of their queues that match a kernel, the one that has stood
there longest, then the lower port. -/
def Cell.skerryHead (c : Cell) : Option (Nat × Packet) :=
  c.inq.foldl (fun m e => match e.2 with
    | [] => m
    | p :: _ =>
      if !c.mustRun (e.1 / 32) p then m
      else match m with
        | none => some (e.1, p)
        | some (k, q) => if p.since < q.since || (p.since = q.since && e.1 / 32 < k / 32) then some (e.1, p) else m) none

/-- The trap of a kernel (R325). -/
def State.skerryTrap (s : State) (n kn : Nat) (entry : Packet) (code : Nat) (device : Bool) (index pc : Nat) : State :=
  s.event (s.cellJob n) 0x08 0 (tileUnit n 3)
    (BitVec.ofNat 64 (code + b2n device * 2 ^ 8 + kn * 2 ^ 9 + pc * 2 ^ 11))
    (BitVec.ofNat 64 (entry.src.toNat + entry.dst.toNat * 2 ^ 9 + entry.cls.toNat * 2 ^ 18 + entry.tok.vchan.toNat * 2 ^ 21
      + entry.inport * 2 ^ 26))
    (BitVec.ofNat 64 index) (some (s.cell n).k.act.reach)

/-- SKERRY_KERNEL: after a trap the packet leaves as it entered (log entry 40). The skerry of a cell runs the kernel of its next packet, once its send stage is empty. -/
def execSkerryKernel (cell : Nat) (s : State) : Host.Outcome State Fault Refusal :=
  let c := s.cell cell
  if !c.send.isEmpty then .next s
  else match c.skerryHead with
    | none => .next s
    | some (key, p) =>
      match c.kernelFor (key / 32) p with
      | none => .next s
      | some kn =>
        match c.k.act.kernels[kn]? with
        | none => .next s
        | some k =>
          let routed := c.tablePort cell p
          let run : SkRun :=
            { h := Vector.replicate 16 0, w := Vector.replicate 4 0, p := p, flow := c.k.act.flow, sends := [], pc := 0,
              seam := if isSeam cell 1 then 1 else if isSeam cell 3 then 3 else 8 }
          let out (p : Packet) : Packet := { p with ran := true, since := s.islandCycle cell }
          let s := s.takeSpot cell (.queue key)
          let done (s : State) (flow : Tbl Unit64) (sends : List (Nat × Packet)) : State :=
            s.updCell cell (fun c => { c with
              k := { c.k with act := { c.k.act with flow := flow } }, send := sends.map (fun e => (e.1, out e.2)) })
          match k.run s.tick routed 65 run with
          | .send o r => .next (done s r.flow (r.sends ++ [(o, r.p)]))
          | .drop r => .next (done s r.flow r.sends)
          | .go r => .next (done s r.flow (r.sends ++ [(routed, r.p)]))
          | .trap code device index r =>
            let s := s.skerryTrap cell kn p code device index r.pc
            .next (done s r.flow (if k.drop then [] else [(routed, p)]))

end Sys2Proof.Machine
end

