-- ==== Sys2Proof/Machine/Image.lean ====
section
/-!
DEFINITION. Tlaino images (02 R59 to R65) and the checks of the configuration loader (02 R40 to R43, R48 to R55; the rules
that name a loader error). An image is the list of its 64-byte units.
-/

namespace Sys2Proof.Machine

open Sys2Proof

/-! ## Fields -/

/-- Bits [lo + w − 1 : lo] of the little-endian value at a byte offset; no field crosses a unit. -/
def imgF (m : List Unit64) (off lo w : Nat) : Nat := bitsN (m.getD (off / 64) 0) (8 * (off % 64) + lo) w
/-- The 64-bit word at an offset. -/
def imgW (m : List Unit64) (off : Nat) : Word := bits (m.getD (off / 64) 0) (8 * (off % 64)) 64

def imgWidth (m : List Unit64) : Nat := imgF m 0x0C 0 5 + 1
def imgHeight (m : List Unit64) : Nat := imgF m 0x0C 5 4 + 1
def imgSize (m : List Unit64) : Nat := imgF m 0x08 0 32
def imgSigned (m : List Unit64) : Bool := imgF m 0x04 16 1 == 1
def imgNtile (m : List Unit64) : Nat := imgF m 0x10 0 16
def imgNsk (m : List Unit64) : Nat := imgF m 0x10 16 16
def imgNcoll (m : List Unit64) : Nat := imgF m 0x14 0 16
def imgTileOff (m : List Unit64) : Nat := imgF m 0x18 0 32
def imgSigOff (m : List Unit64) : Nat := imgF m 0x1C 0 32

/-- Where the records end: before the signature block, or at the end. -/
def imgLimit (m : List Unit64) : Nat := if imgSigned m then imgSigOff m else imgSize m

/-- A record: kind 0 compute, 1 address generator, 2 memory, 3 skerry section, 4 collective section, 9 a tile record of no
kind, where the image cannot be read further. -/
structure Rec where
  off : Nat
  kind : Nat
  x : Nat
  y : Nat
  deriving DecidableEq, Repr

/-- The record of a cell layout at an offset. -/
def recAt (m : List Unit64) (off kind : Nat) : Rec := { off := off, kind := kind, x := imgF m off 0 5, y := imgF m off 5 4 }

/-- Length of a tile record (R61). -/
def tileLen (kind : Nat) : Nat := match kind with | 0 => 640 | 1 => 1024 | _ => 192

/-- Number of kernels of a skerry section, and the start of each kernel's code (R64). -/
def skKernels (m : List Unit64) (off : Nat) : Nat := min (imgF m off 9 3) 4
def skLen (m : List Unit64) (off n : Nat) : Nat := imgF m (off + 8 + 8 * n) 0 6 + 1
def skCodeAt (m : List Unit64) (off n : Nat) : Nat :=
  (List.range n).foldl (fun a i => a + (skLen m off i * 4 + 63) / 64 * 64) (off + 64)

/-- Tile records from an offset, and where they end. -/
def tileRecs (m : List Unit64) : Nat → Nat → List Rec × Option Nat
  | 0, off => ([], some off)
  | n + 1, off =>
    let k := imgF m off 9 2
    if k = 3 then ([recAt m off 9], none)
    else
      let t := tileRecs m n (off + tileLen k)
      (recAt m off k :: t.1, t.2)

/-- Skerry sections. -/
def skRecs (m : List Unit64) : Nat → Nat → List Rec × Nat
  | 0, off => ([], off)
  | n + 1, off =>
    let t := skRecs m n (skCodeAt m off (skKernels m off))
    (recAt m off 3 :: t.1, t.2)

/-- Collective sections. -/
def collRecs (m : List Unit64) : Nat → Nat → List Rec × Nat
  | 0, off => ([], off)
  | n + 1, off =>
    let t := collRecs m n (off + 64)
    (recAt m off 4 :: t.1, t.2)

/-- The records in image order, and where they end. -/
def imgRecs (m : List Unit64) : List Rec × Option Nat :=
  let t := tileRecs m (imgNtile m) (imgTileOff m)
  match t.2 with
  | none => (t.1, none)
  | some e =>
    let k := skRecs m (imgNsk m) e
    let c := collRecs m (imgNcoll m) k.2
    (t.1 ++ k.1 ++ c.1, some c.2)

/-! ## Faults

A fault is a byte offset of the record with the loader error code of the check that fails there. -/

abbrev LoadFault := Nat × Nat

/-- A check that reads first at an offset. -/
def flt (bad : Bool) (off code : Nat) : List LoadFault := if bad then [(off, code)] else []

/-- The fault of lowest offset. -/
def firstFault (l : List LoadFault) : Option LoadFault :=
  l.foldl (fun m f => match m with
    | none => some f
    | some g => if f.1 < g.1 then some f else some g) none

/-- Bytes from lo to hi of a record are zero, as 64-bit words. -/
def zeroFrom (m : List Unit64) (off lo hi : Nat) : List LoadFault :=
  (List.range ((hi - lo) / 8)).flatMap (fun i => flt (imgW m (off + lo + 8 * i) != 0) (lo + 8 * i) 0x0004)

/-- A route entry (R62). -/
def routeFaults (m : List Unit64) (off rel : Nat) : List LoadFault :=
  let a := off + rel
  if imgF m a 0 1 = 0 then flt (imgW m a != 0) rel 0x0018
  else
    flt (imgF m a 10 2 == 3) (rel + 1) 0x0004 ++ flt (imgF m a 10 2 == 2 && 4 ≤ imgF m a 12 3) (rel + 1) 0x0004
      ++ flt (5 ≤ imgF m a 24 3) (rel + 3) 0x0004 ++ flt (imgF m a 27 37 != 0) (rel + 3) 0x0004

/-- The signature block of an image at a place verifies (R65, 24 R370): RSA-4096 with SHA-512, by a key whose identifier is
one of the four that the firmware carries, over the bytes before the block. -/
def signatureGood (m : List Unit64) (sig : Nat) : Bool :=
  let key := imgW m sig
  imgF m (sig + 8) 0 16 == 1 && key != 0 && (List.range 4).any (fun k => Config.imageKey k == key)
    && Config.signatureOk key (m.take (sig / 64)) ((m.drop (sig / 64 + 1)).take 8)

/-- Stage 1 (R42): signature, then the header's fields in the order of their offsets. A record or section that runs past the
image, or into the signature block, is the header's fault (log entry 81). -/
def headerFaults (m : List Unit64) (reqsig : Bool) (w h : Nat) : Option Nat :=
  let size := imgSize m
  let sig := imgSigOff m
  let sigOk : Bool := sig % 64 == 0 && 128 ≤ sig && sig + 576 ≤ size
  if reqsig && !imgSigned m then some 0x0002
  else if imgSigned m && sigOk && size % 64 == 0 && !signatureGood m sig then some 0x0002
  else if imgF m 0 0 32 != 0x31494C54 || imgF m 4 0 16 != 1 || size % 64 != 0 || size < 128 then some 0x0001
  else if imgWidth m != w || imgHeight m != h then some 0x0046
  else if imgTileOff m % 64 != 0 || imgTileOff m < 128 || imgLimit m ≤ imgTileOff m then some 0x0001
  else if imgSigned m && !sigOk then some 0x0001
  else if !imgSigned m && sig != 0 then some 0x0001
  else if ((imgRecs m).2.map (fun e => decide (imgLimit m < e))).getD false then some 0x0001
  else none

/-- The checks of the header as record 0 in stage 2. NAME is not checked, and counts out of their range are fields out of range
(log entry 81). -/
def headerAlone (m : List Unit64) : List LoadFault :=
  flt (imgF m 4 17 15 != 0) 6 0x0004 ++ flt (imgF m 0x0C 9 23 != 0) 0x0D 0x0004
    ++ flt (imgNtile m == 0 || 2048 < imgNtile m) 0x10 0x0004 ++ flt (512 < imgNsk m) 0x12 0x0004
    ++ flt (imgF m 0x14 16 16 != 0) 0x16 0x0004
    ++ (List.range 8).flatMap (fun n => routeFaults m 0 (0x40 + 8 * n))

/-! ## Tile records alone (R61 to R63) -/

/-- The cell of a record lies outside the extent. -/
def outside (m : List Unit64) (r : Rec) : List LoadFault := flt (imgWidth m ≤ r.x || imgHeight m ≤ r.y) 0 0x0003

/-- The tile header (R61). DESIGN CHOICE (log entry 89): VALID bits [15:8] of a memory tile, which it does not use, must be zero. -/
def tileHead (m : List Unit64) (r : Rec) : List LoadFault :=
  let a := r.off
  outside m r ++ flt (r.kind == 9) 1 0x0004 ++ flt (imgF m a 11 5 != 0) 1 0x0004
    ++ flt (r.kind == 2 && imgF m a 24 8 != 0) 3 0x0004
    ++ flt (if r.kind = 0 then 5 ≤ imgF m a 32 3 else imgF m a 32 3 != 0) 4 0x0004
    ++ flt (r.kind != 0 && imgF m a 35 1 != 0) 4 0x0004 ++ flt (imgF m a 36 28 != 0) 4 0x0004
    ++ flt (imgF m (a + 8) 0 32 != tileLen r.kind) 8 0x0004 ++ flt (imgF m (a + 8) 32 32 != 0) 12 0x0004
    ++ zeroFrom m a 0x10 0x40

/-- A chain of counters that comes back to a counter on it (09 R203). -/
def chainLoops (m : List Unit64) (a : Nat) : Nat → Nat → List Nat → Bool
  | 0, _, _ => true
  | fuel + 1, k, seen =>
    if seen.contains k then true
    else if imgF m (a + 0xC0 + 16 * k) 35 1 = 0 then false
    else chainLoops m a fuel (imgF m (a + 0xC0 + 16 * k) 32 3) (k :: seen)

/-- Counter descriptors (R62; 12 R249). -/
def counterFaults (m : List Unit64) (r : Rec) : List LoadFault :=
  (List.range 8).flatMap (fun k =>
    let o := 0xC0 + 16 * k
    let a := r.off + o
    flt (chainLoops m r.off 9 k []) (o + 4) 0x0004 ++ flt (r.kind == 1 && imgF m a 36 1 != 0) (o + 4) 0x0004
      ++ flt (imgF m a 37 11 != 0) (o + 4) 0x0004 ++ flt (imgF m a 36 1 == 0 && imgF m a 48 16 != 0) (o + 6) 0x0004
      ++ flt (imgW m (a + 8) != 0) (o + 8) 0x0004)

/-- Virtual-channel entries (R61; 01 R30). -/
def vchanFaults (m : List Unit64) (r : Rec) : List LoadFault :=
  (List.range 32).flatMap (fun n =>
    let o := 0x140 + 4 * n
    let a := r.off + o
    let f := imgF m a 0 3
    let blk := imgF m a 3 1
    flt (blk != imgF m a 9 1) o 0x0004 ++ flt (f == 3 && blk == 0) o 0x0004
      ++ flt (blk == 1 && f != 1 && f != 2 && f != 3) o 0x0004 ++ flt (imgF m a 10 22 != 0) (o + 1) 0x0004)

/-- Constant n of a record. -/
def recConst (m : List Unit64) (r : Rec) (n : Nat) : Word := imgW m (r.off + 0x40 + 8 * n)

/-- The valid rules of a record: pool index and word. -/
def recRules (m : List Unit64) (r : Rec) : List (Nat × Word) :=
  let base := if r.kind = 0 then 0x200 else 0x380
  (List.range 16).filterMap (fun i =>
    if imgF m r.off (16 + i) 1 = 1 then some (i, imgW m (r.off + base + 8 * i)) else none)

/-- Rule words (R61; 02 R48 to R52). -/
def poolFaults (m : List Unit64) (r : Rec) : List LoadFault :=
  let base := if r.kind = 0 then 0x200 else 0x380
  (List.range 16).flatMap (fun i =>
    let o := base + 8 * i
    let w := imgW m (r.off + o)
    if imgF m r.off (16 + i) 1 = 0 then flt (w != 0) o 0x0018
    else (ruleFaults (r.kind == 1) w).map (fun f => (o + f.1, f.2)))

/-- The matrix control template of MCTL (10 R213, R214). -/
def mctlBad (t : Word) : Bool :=
  let op := mOp t
  let z (lo n : Nat) : Bool := bitsN t lo n == 0
  let rangesMeet (a la b lb : Nat) : Bool := a ≤ b + lb && b ≤ a + la
  if op = opMMA then
    !z 20 12 || mBw t == 3 || (mmaKtag t && (mRt t || mCount t != 0)) || (!mRt t && !mCountOk t)
      || 7 < mAch t + mAw t || 7 < mBch t + mBw t || rangesMeet (mAch t) (mAw t) (mBch t) (mBw t)
  else if op = opMDRN then !z 23 9 || mdrnFmt t == 3 || (!mRt t && !mCountOk t)
  else if op = opMCLR then !z 10 22 || mRt t || mCount t != 0
  else if op = opMSWP then !z 9 23 || mBank t != 0 || mRt t || mCount t != 0
  else if op = opMLDC then !z 13 3 || !z 23 9 || (!mRt t && !mCountOk t)
  else true

/-- A constant that a compute rule's form restricts (09 R187, R188, R190, R192, R193, R207; 10 R214). -/
def constBad (op : Nat) (q : Word) : Bool :=
  match op with
  | 0x2B => bitsN q 6 58 != 0 || bitsN q 0 3 == 3
  | 0x32 => bitsN q 7 57 != 0
  | 0x34 => bitsN q 1 63 != 0
  | 0x36 => bitsN q 17 15 != 0 || bitsN q 48 16 != 0
  | 0x37 => bitsN q 6 58 != 0
  | 0x50 => mctlBad q
  | 0x5C => bitsN q 14 50 != 0
  | _ => false

/-- The field of a compute rule that names such a constant. -/
def constField (op : Nat) (u : Rule) : BitVec 6 := if op = 0x50 || op = 0x5C then u.srcA else u.srcB

/-- The constant that operand code c names: its byte offset in a record. -/
def constAt (c : BitVec 6) : Nat := 0x40 + 8 * (c.toNat - 48)

/-- The matrix control templates of a compute record, with the offsets of their constants. -/
def recMctl (m : List Unit64) (r : Rec) : List (Nat × Word) :=
  (recRules m r).filterMap (fun e => if (ruleOp e.2).toNat = 0x50 then
    some (constAt (ruleOf e.2).srcA, recConst m r ((ruleOf e.2).srcA.toNat - 48)) else none)

/-- The lowest byte offset of those that a check reads (R42). -/
def lowestOf (a : Nat) (l : List Nat) : Nat := l.foldl min a

/-- Output channels a compute rule emits on: STEER and VQNT have a second one. -/
def ruleOuts (m : List Unit64) (r : Rec) (w : Word) : List Nat :=
  let u := ruleOf w
  let d := u.dst.toNat
  let o := if 24 ≤ d && d < 32 then [d - 24] else []
  match (ruleOp w).toNat with
  | 0x45 => o ++ o.map (· + 1)
  | 0x37 => o ++ [bitsN (recConst m r (u.srcB.toNat - 48)) 3 3]
  | _ => o

/-- Rules that touch the node's channels (10 R215), and rules with a constant out of place. These read one record (log entry 81). -/
def computeRuleFaults (m : List Unit64) (r : Rec) : List LoadFault :=
  let ts := recMctl m r
  (recRules m r).flatMap (fun e =>
    let u := ruleOf e.2
    let op := (ruleOp e.2).toNat
    let q := (constField op u).toNat
    let used : List Nat :=
      (if bitB u.ca 6 then [bitsN u.ca 3 3] else []) ++ (if bitB u.cb 6 then [bitsN u.cb 3 3] else [])
        ++ (if 24 ≤ u.srcA.toNat && u.srcA.toNat < 32 then [u.srcA.toNat - 24] else [])
        ++ (if 24 ≤ u.srcB.toNat && u.srcB.toNat < 32 then [u.srcB.toNat - 24] else [])
    flt (48 ≤ q && constBad op (recConst m r (q - 48))) (0x40 + 8 * (q - 48)) 0x0015
      ++ flt (op == 0x50 && 48 ≤ q && !mRt (recConst m r (q - 48)) && u.srcB != 0) (0x40 + 8 * (q - 48)) 0x0017
      ++ ts.flatMap (fun t => flt (used.any (mIns t.2).contains || (ruleOuts m r e.2).any (mOuts t.2).contains)
        (lowestOf t.1 (if op = 0x37 then [constAt u.srcB] else [])) 0x0015))

/-- Fields of template g of a record. -/
def tmF (m : List Unit64) (r : Rec) (g off lo w : Nat) : Nat := imgF m (r.off + 0x180 + 128 * g + off) lo w
def tmValid (m : List Unit64) (r : Rec) (g : Nat) : Bool := tmF m r g 0 0 1 == 1

/-- Template records (R63); those of write templates have one PHASE (11 R235), a check of one record (log entry 81). -/
def templateFaults (m : List Unit64) (r : Rec) : List LoadFault :=
  (List.range 4).flatMap (fun g =>
    let o := 0x180 + 128 * g
    let f := tmF m r g
    if !tmValid m r g then
      flt ((List.range 16).any (fun i => imgW m (r.off + o + 8 * i) != 0)) o 0x0018
    else
      let space := f 0 2 2
      flt (space == 3) o 0x0004 ++ flt (f 0 12 3 < 2) (o + 1) 0x0004
        ++ flt (f 0 1 1 == 1 && (List.range g).any (fun h => tmValid m r h && tmF m r h 0 1 1 == 1 && tmF m r h 0 15 2 != f 0 15 2)) (o + 1) 0x0004
        ++ flt (f 0 21 1 == 1 && f 0 17 4 != 0) (o + 2) 0x0004 ++ flt (f 0 23 41 != 0) (o + 2) 0x0004
        ++ flt (space != 0 && f 8 0 11 != 0) (o + 8) 0x0004 ++ flt (f 8 11 21 != 0) (o + 9) 0x0004
        ++ flt (f 8 46 1 == 1 && (f 8 41 2 == 3 || (f 8 41 2 == 2 && 4 ≤ f 8 43 3))) (o + 13) 0x0004
        ++ flt (f 8 47 17 != 0) (o + 13) 0x0004 ++ flt (f 0x30 12 20 != 0) (o + 0x31) 0x0004
        ++ zeroFrom m r.off (o + 0x48) (o + 0x80))

/-- The template a rule names fits its form (11 R230), and its constant is in range (R231, R234, R236). DESIGN CHOICE (log entry 89): a
rule that names an invalid template, or a CPY whose second one is invalid, is refused with 0x0016. -/
def agRuleFaults (m : List Unit64) (r : Rec) : List LoadFault :=
  (recRules m r).flatMap (fun e =>
    let u := ruleOf e.2
    let op := (ruleOp e.2).toNat
    let g := u.srcB.toNat - 44
    let named : Bool := 44 ≤ u.srcB.toNat && u.srcB.toNat < 48
    let dir (h : Nat) : Nat := tmF m r h 0 1 1
    let space (h : Nat) : Nat := tmF m r h 0 2 2
    let fits : Bool := match op with
      | 0x01 => dir g == 0 && space g != 2
      | 0x03 => dir g == 0 && space g != 2
      | 0x02 => dir g == 1 && space g != 2
      | 0x04 => dir g == 1 && space g != 2
      | 0x05 => dir g == 0 && space g != 2 && tmValid m r (g + 1) && dir (g + 1) == 1 && space (g + 1) != 2
      | 0x06 => space g == 2
      | 0x07 => dir g == 0 && space g == 0
      | 0x08 => dir g == 1 && space g != 2
      | 0x18 => tmF m r g 0 21 1 == 1
      | 0x19 => dir g == 1 && space g == 0
      | _ => true
    let q := if op = 0x11 then u.srcB.toNat else u.srcA.toNat
    let c := recConst m r (q - 48)
    let bad : Bool := match op with
      | 0x07 => bitsN c 1 63 != 0
      | 0x08 => 8 < bitsN c 0 4 || 4 < bitsN c 4 3 || bitsN c 7 57 != 0
      | 0x11 => 4 < bitsN c 0 3 || bitsN c 3 61 != 0
      | _ => false
    flt (named && (!tmValid m r g || !fits)) (0x180 + 128 * g) 0x0016
      ++ flt (48 ≤ q && bad) (0x40 + 8 * (q - 48)) 0x0015)

/-- The port table (R54; 11 R238, R239): words, then what carrying them out in order finds. -/
def portFaults (m : List Unit64) (r : Rec) : List LoadFault :=
  let word (i : Nat) : Word := imgW m (r.off + 0x80 + 8 * i)
  let valid (i : Nat) : Bool := imgF m r.off (16 + i) 1 == 1
  let role (p n : Nat) : Nat := (List.range n).foldl (fun (a : Nat) i =>
    let op := bitsN (word i) 58 6
    if valid i && bitsN (word i) 56 2 == p && (op == 1 || op == 2 || op == 3 || op == 6 || op == 8 || op == 12) then op else a) 0
  (List.range 8).flatMap (fun i =>
    let o := 0x80 + 8 * i
    let w := word i
    let op := bitsN w 58 6
    let p := bitsN w 56 2
    if !valid i then flt (w != 0) o 0x0018
    else
      (match portFault w with
        | some c => [(o, c)]
        | none => [])
        ++ flt (match attrRole op with
            | some k => role p i != k
            | none => false) o 0x0022
        ++ flt ((op == 2 || (op == 3 && bitB w 39) || (op == 5 && bitB w 37) || op == 10) && imgF m (r.off + 0x40 + 8 * p) 0 1 == 0)
            (0x40 + 8 * p) 0x0022)

/-! ## Skerry and collective sections alone (R64; 19 R324, R327) -/

/-- Words of kernel n of a section. -/
def skCode (m : List Unit64) (off n : Nat) : List (BitVec 32) :=
  (List.range (skLen m off n)).map (fun i => BitVec.ofNat 32 (imgF m (skCodeAt m off n + 4 * i) 0 32))

/-- The most DUP and EMIT on a path from each instruction of a code, first to last (R324). -/
def skPaths : List SkInstr → List Nat
  | [] => []
  | i :: rest =>
    let t := skPaths rest
    let own := match i with | .dup _ => 1 | .emit _ _ => 1 | _ => 0
    let next (k : Nat) : Nat := t.getD k 0
    let c := match i with
      | .brf _ _ _ o => max (next 0) (next (o.toNat - 1))
      | .fwd _ => 0
      | .drp => 0
      | .fin => 0
      | .trapk _ => 0
      | _ => next 0
    (own + c) :: t

/-- A decoded instruction passes verification at its place among n (R324). -/
def SkInstr.verified (k : SkInstr) (i n : Nat) : Bool :=
  (match k with
    | .brf _ _ _ o => 1 ≤ o.toNat && i + o.toNat < n
    | .ldf _ f => f.toNat ≤ 15
    | .stf f _ => [2, 3, 4, 5, 6, 7, 8, 10, 11].contains f.toNat
    | _ => true)
  && (i + 1 != n || (match k with
    | .fin => true
    | .fwd _ => true
    | .drp => true
    | .trapk _ => true
    | _ => false))

/-- The faults of a kernel's code that starts at an offset of its section: each word at its own place, and its paths, which
are judged once every word decodes, at the first (log entry 81). -/
def kernelFaults (code : List (BitVec 32)) (at_ : Nat) : List LoadFault :=
  let dec := code.map decodeSkerry
  let plain : List SkInstr := dec.filterMap (fun e => match e with | .ok i => some i | .error _ => none)
  flt (plain.length == code.length && 4 < (skPaths plain).headD 0) at_ 0x0033
    ++ (dec.mapIdx (fun i e => match e with
      | .error c => [(at_ + 4 * i, c)]
      | .ok k => flt (!k.verified i code.length) (at_ + 4 * i) 0x0033)).flatten

/-- A skerry section. The word of a kernel it does not have is reserved (log entry 81). -/
def skerryFaults (m : List Unit64) (r : Rec) : List LoadFault :=
  let a := r.off
  let nk := imgF m a 9 3
  let base (n : Nat) : Nat := imgF m (a + 8 + 8 * n) 7 9
  let limit (n : Nat) : Nat := imgF m (a + 8 + 8 * n) 16 9
  outside m r ++ flt (nk == 0 || 4 < nk) 1 0x0004 ++ flt (imgF m a 12 52 != 0) 1 0x0004
    ++ (List.range 4).flatMap (fun n =>
      let o := 8 + 8 * n
      if skKernels m a ≤ n then flt (imgW m (a + o) != 0) o 0x0004
      else
        flt (limit n < base n || 479 < limit n) o 0x0004
          ++ flt ((List.range n).any (fun k => base k ≤ limit n && base n ≤ limit k)) o 0x0004
          ++ flt (imgF m (a + o) 25 7 != 0) (o + 3) 0x0004 ++ flt (imgF m (a + o) 47 17 != 0) (o + 5) 0x0004
          ++ kernelFaults (skCode m a n) (skCodeAt m a n - a))
    ++ zeroFrom m a 0x28 0x40

/-- A collective section (19 R327). -/
def collFaults (m : List Unit64) (r : Rec) : List LoadFault :=
  let a := r.off
  let kind := imgF m a 12 4
  let p := imgF m (a + 0x10) 0 16
  let rate := imgF m (a + 8) 0 32
  outside m r ++ flt (imgF m a 9 3 != 0) 1 0x0004 ++ flt (7 ≤ kind) 1 0x0004 ++ flt (imgF m a 16 48 != 0) 2 0x0004
    ++ flt (rate == 0 || 1024 < rate) 8 0x0004 ++ flt (imgF m (a + 8) 32 32 != 0) 12 0x0004
    ++ flt (if kind < 5 then p == 0 || 1023 < p else p != 0) 0x10 0x0004 ++ flt (imgF m (a + 0x10) 16 48 != 0) 0x12 0x0004
    ++ zeroFrom m a 0x18 0x40

/-- The checks of stage 2 for one record. -/
def recAlone (m : List Unit64) (r : Rec) : List LoadFault :=
  match r.kind with
  | 0 => tileHead m r ++ counterFaults m r ++ vchanFaults m r
      ++ (List.range 8).flatMap (fun o => routeFaults m r.off (0x1C0 + 8 * o)) ++ poolFaults m r ++ computeRuleFaults m r
  | 1 => tileHead m r ++ counterFaults m r ++ (List.range 8).flatMap (fun o => routeFaults m r.off (0x140 + 8 * o))
      ++ templateFaults m r ++ poolFaults m r ++ agRuleFaults m r
  | 2 => tileHead m r ++ (List.range 4).flatMap (fun o => routeFaults m r.off (0x40 + 8 * o)) ++ zeroFrom m r.off 0x60 0x80
      ++ portFaults m r
  | 3 => skerryFaults m r
  | 4 => collFaults m r
  | _ => tileHead m r

/-! ## Joining checks (R42 stage 3) -/

/-- A route or a template stream: the record that holds it, the byte offset of its entry, its source cell and tile kind (3
for a seed port), its number there, its destination, and what its tokens are. -/
structure Edge where
  ri : Nat
  off : Nat
  sx : Nat
  sy : Nat
  skind : Nat
  num : Nat
  dx : Nat
  dy : Nat
  dkind : Nat
  chan : Nat
  cls : Nat
  vchan : Nat
  bnd : Bool
  scope : Nat
  fmt : Option Nat
  deriving DecidableEq, Repr

/-- The route entry at an offset. -/
def edgeAt (m : List Unit64) (ri base rel sx sy kind num : Nat) : List Edge :=
  let a := base + rel
  if imgF m a 0 1 = 0 then []
  else
    [{ ri := ri, off := rel, sx := sx, sy := sy, skind := kind, num := num, dx := imgF m a 1 5, dy := imgF m a 6 4,
       dkind := imgF m a 10 2, chan := imgF m a 12 3, cls := imgF m a 15 3, vchan := imgF m a 18 5,
       bnd := imgF m a 23 1 == 1, scope := imgF m a 24 3, fmt := none }]

/-- Whether a template is of a stream that carries tokens out: a read, or one in space stream. -/
def tmOut (m : List Unit64) (r : Rec) (g : Nat) : Bool :=
  tmValid m r g && tmF m r g 8 46 1 == 1 && (tmF m r g 0 1 1 == 0 || tmF m r g 0 2 2 == 2)

/-- The stream of a template. -/
def streamAt (m : List Unit64) (ri : Nat) (r : Rec) (g : Nat) : List Edge :=
  if !tmOut m r g then []
  else
    [{ ri := ri, off := 0x180 + 128 * g, sx := r.x, sy := r.y, skind := 1, num := 8 + g, dx := tmF m r g 8 32 5,
       dy := tmF m r g 8 37 4, dkind := tmF m r g 8 41 2, chan := tmF m r g 8 43 3, cls := tmF m r g 0 12 3,
       vchan := tmF m r g 0 7 5, bnd := false, scope := 0, fmt := some (tmF m r g 0 4 3) }]

/-- Routes and streams of one record. -/
def recEdges (m : List Unit64) (ri : Nat) (r : Rec) : List Edge :=
  match r.kind with
  | 0 => (List.range 8).flatMap (fun o => edgeAt m ri r.off (0x1C0 + 8 * o) r.x r.y 0 o)
  | 1 => (List.range 8).flatMap (fun o => edgeAt m ri r.off (0x140 + 8 * o) r.x r.y 1 o)
      ++ (List.range 4).flatMap (fun g => streamAt m ri r g)
  | 2 => (List.range 4).flatMap (fun o => edgeAt m ri r.off (0x40 + 8 * o) r.x r.y 2 o)
  | _ => []

/-- The seed routes, then the routes and streams of the records in order. -/
def imgEdges (m : List Unit64) : List Edge :=
  (List.range 8).flatMap (fun n => edgeAt m 0 0 (0x40 + 8 * n) 0 0 3 n)
    ++ ((imgRecs m).1.mapIdx (fun i r => recEdges m (i + 1) r)).flatten

/-- A fault of a joining check: record, offset, code. -/
abbrev JoinFault := Nat × Nat × Nat

def jflt (bad : Bool) (ri off code : Nat) : List JoinFault := if bad then [(ri, off, code)] else []

/-- The tile record of a cell and kind. -/
def findTile (rs : List Rec) (x y kind : Nat) : Option Rec := rs.find? (fun r => r.kind == kind && r.x == x && r.y == y)

/-- The offset of virtual-channel entry n in a compute record. -/
def entryOff (n : Nat) : Nat := 0x140 + 4 * n

/-- Virtual-channel entry n at a compute tile; without a record every entry is i8 without block. -/
def entryAt (m : List Unit64) (r : Option Rec) (n : Nat) : VChan :=
  match r with
  | none => VChan.reset
  | some r =>
    let a := r.off + entryOff n
    { fmt := BitVec.ofNat 3 (imgF m a 0 3), block := imgF m a 3 1 == 1, comp := BitVec.ofNat 5 (imgF m a 4 5),
      compPresent := imgF m a 9 1 == 1 }

/-- Order and uniqueness of records (0x0003), and cells with two nodes (0x0004, 19 R328). -/
def orderFaults (rs : List Rec) : List JoinFault :=
  let key (r : Rec) : Nat := (r.y * 32 + r.x) * 4 + r.kind
  (rs.mapIdx (fun i r =>
    let before := rs.take i
    jflt (r.kind < 3 && before.any (fun q => q.kind < 3 && key r ≤ key q)) (i + 1) 0 0x0003
      ++ jflt (r.kind == 3 && before.any (fun q => q.kind == 3 && q.x == r.x && q.y == r.y)) (i + 1) 0 0x0003
      ++ jflt (r.kind == 4 && before.any (fun q => q.kind == 4 && q.x == r.x && q.y == r.y)) (i + 1) 0 0x0004)).flatten

/-- Output o of a record's tile has a route. -/
def hasRoute (es : List Edge) (r : Rec) (o : Nat) : Bool :=
  es.any (fun e => e.skind == r.kind && e.sx == r.x && e.sy == r.y && e.num == o)

/-- Outputs a tile uses: its rules, its MDRN templates. Beside each stands the lowest offset that a check of it reads: the output's
route, or the constant that names it. -/
def usedOuts (m : List Unit64) (r : Rec) : List (Nat × Nat) :=
  match r.kind with
  | 0 => (recRules m r).flatMap (fun e =>
        let u := ruleOf e.2
        let first (o : Nat) : Nat := if (ruleOp e.2).toNat = 0x37 && o != u.dst.toNat - 24 then constAt u.srcB else 0x1C0 + 8 * o
        (ruleOuts m r e.2).map (fun o => (first o, o)))
      ++ (recMctl m r).flatMap (fun t => (mOuts t.2).map (fun o => (t.1, o)))
  | 1 => (recRules m r).flatMap (fun e =>
      let d := (ruleOf e.2).dst.toNat
      if 24 ≤ d && d < 32 then [(0x140 + 8 * (d - 24), d - 24)] else [])
  | _ => []

/-- Routes, streams and PSIG targets (0x0042). -/
def routeJoins (m : List Unit64) (rs : List Rec) (es : List Edge) : List JoinFault :=
  let far (x y : Nat) : Bool := imgWidth m ≤ x || imgHeight m ≤ y
  (es.mapIdx (fun i e =>
    jflt (far e.dx e.dy) e.ri e.off 0x0042
      ++ jflt (e.dkind < 2 && (es.take i).any (fun f => f.dx == e.dx && f.dy == e.dy && f.dkind == e.dkind && f.chan == e.chan))
        e.ri e.off 0x0042)).flatten
    ++ (rs.mapIdx (fun i r =>
      (usedOuts m r).flatMap (fun u => jflt (!hasRoute es r u.2) (i + 1) u.1 0x0042)
        ++ (if r.kind = 1 then
            (List.range 4).flatMap (fun g =>
              let x := tmF m r g 8 32 5
              let y := tmF m r g 8 37 4
              let k := tmF m r g 8 41 2
              jflt (tmValid m r g && tmF m r g 8 46 1 == 1 && tmF m r g 0 1 1 == 1 && tmF m r g 0 2 2 != 2
                && (far x y || !es.any (fun e => e.skind == k && e.sx == x && e.sy == y && e.num == tmF m r g 8 43 3)))
                (i + 1) (0x180 + 128 * g) 0x0042)
          else [])
        ++ (if r.kind = 0 then
            (recRules m r).flatMap (fun e =>
              let q := recConst m r ((ruleOf e.2).srcA.toNat - 48)
              jflt ((ruleOp e.2).toNat == 0x5C && far (bitsN q 0 5) (bitsN q 5 4)) (i + 1) (constAt (ruleOf e.2).srcA) 0x0042)
          else []))).flatten

/-- The virtual channel of output o's route, and the entry that it carries in its own tile's table. -/
def outChan (es : List Edge) (r : Rec) (o : Nat) : Option Nat :=
  (es.find? (fun e => e.skind == 0 && e.sx == r.x && e.sy == r.y && e.num == o)).map (·.vchan)
def outEntryAt (m : List Unit64) (es : List Edge) (r : Rec) (o : Nat) : VChan :=
  match outChan es r o with
  | some c => entryAt m (some r) c
  | none => VChan.reset

/-- Formats (0x0041): R30, 04 R94, 09 R187, R193, 10 R215. RETAG passes tokens on (log entry 81). -/
def formatJoins (m : List Unit64) (rs : List Rec) (es : List Edge) : List JoinFault :=
  es.flatMap (fun e =>
    if e.dkind ≠ 0 then []
    else
      let there := entryAt m (findTile rs e.dx e.dy 0) e.vchan
      match e.fmt with
      | some f => jflt (there.fmt.toNat != f) e.ri e.off 0x0041
      | none => if e.skind = 0 then jflt (entryAt m (findTile rs e.sx e.sy 0) e.vchan != there) e.ri (entryOff e.vchan) 0x0041 else [])
    ++ (rs.mapIdx (fun i r =>
      if r.kind ≠ 0 then []
      else
        (recRules m r).flatMap (fun e =>
          let u := ruleOf e.2
          let op := (ruleOp e.2).toNat
          let o := u.dst.toNat - 24
          let toOut : Bool := 24 ≤ u.dst.toNat && u.dst.toNat < 32
          let v := outEntryAt m es r o
          let chanA : Bool := 24 ≤ u.srcA.toNat && u.srcA.toNat < 32
          let passes : Bool := op == 0x37 || (op == 0x40 && chanA) || op == 0x43 || op == 0x44 || op == 0x45 || op == 0x47
          let q := recConst m r (u.srcB.toNat - 48)
          let oc := bitsN q 3 3
          let entry : Nat := match outChan es r o with
            | some c => entryOff c
            | none => 0x1C0 + 8 * o
          jflt (toOut && v.block && !passes) (i + 1) entry 0x0041
            ++ jflt (op == 0x2B && toOut && v.fmt.toNat != bitsN q 0 3) (i + 1) (constAt u.srcB) 0x0041
            ++ jflt (op == 0x37 && !v.block) (i + 1) entry 0x0041
            ++ jflt (op == 0x37 && (oc == o || outChan es r oc != some v.comp.toNat)) (i + 1) (constAt u.srcB) 0x0041)
          ++ (recMctl m r).flatMap (fun t =>
            (mOuts t.2).flatMap (fun o =>
              let v := outEntryAt m es r o
              jflt (v.block || v.fmt.toNat != mdrnFmt t.2) (i + 1) t.1 0x0041)))).flatten

/-- Marks (0x0043, 0x0044) and the data channels of write forms (0x0014, 11 R230). DESIGN CHOICE (log entry 89): SV = 0 is judged here
for every template, although that of g0 and g1 reads no other record. -/
def templateJoins (m : List Unit64) (rs : List Rec) (es : List Edge) : List JoinFault :=
  (rs.mapIdx (fun i r =>
    if r.kind ≠ 1 then []
    else
      let node : Bool := rs.any (fun q => q.kind == 4 && q.x == r.x && q.y == r.y)
      (List.range 4).flatMap (fun g =>
        if !tmValid m r g then []
        else
          let marked : Bool := tmF m r g 0 22 1 == 1
          let k := tmF m r g 0x30 9 3
          let prog : Bool := match findTile rs (tmF m r g 0x30 0 5) (tmF m r g 0x30 5 4) 0 with
            | some q => imgF m (q.off + 0xC0 + 16 * k) 36 1 == 1
            | none => false
          let cls := tmF m r g 0 12 3
          let o := 0x180 + 128 * g
          jflt (marked != (2 ≤ cls && cls ≤ 4)) (i + 1) (o + 1) 0x0044
            ++ jflt (tmF m r g 8 46 1 == 0 && !(node && 2 ≤ g)) (i + 1) (o + 13) 0x0004
            ++ jflt (marked && !prog) (i + 1) (o + 0x30) 0x0043)
        ++ (recRules m r).flatMap (fun e =>
          let u := ruleOf e.2
          let op := (ruleOp e.2).toNat
          let g := u.srcB.toNat - 44
          let here (f : Edge) : Bool := f.dkind == 1 && f.dx == r.x && f.dy == r.y && f.chan == bitsN u.ca 3 3
          let from_ (f : Edge) : Bool := f.skind == tmF m r g 8 41 2 && f.sx == tmF m r g 8 32 5 && f.sy == tmF m r g 8 37 4
            && f.num == tmF m r g 8 43 3
          jflt ((op == 2 || op == 4 || op == 8) && !es.any (fun f => from_ f && here f)) (i + 1) (0x180 + 128 * g + 12) 0x0014
            ++ jflt (op == 6 && !es.any here) (i + 1) (0x380 + 8 * e.1 + 5) 0x0014))).flatten

/-- The scope the loader gives a tile at one of its channels (17 R305): reach, or wider by the constants of an address
generator; a collective node's at its trigger and its done output. -/
def tileScope (m : List Unit64) (rs : List Rec) (x y kind chan : Nat) : Nat :=
  if kind ≠ 1 then 1
  else match (if chan = 7 then findTile rs x y 4 else none), findTile rs x y 1 with
    | some q, _ => if imgF m q.off 12 4 < 5 then 4 else 2
    | none, none => 1
    | none, some r => (recRules m r).foldl (fun (a : Nat) e =>
        let u := ruleOf e.2
        match (ruleOp e.2).toNat with
        | 0x08 => max a (bitsN (recConst m r (u.srcA.toNat - 48)) 4 3)
        | 0x11 => max a (bitsN (recConst m r (u.srcB.toNat - 48)) 0 3)
        | _ => a) 1

/-- The constants of an address generator that its scope is read from. -/
def scopeConsts (m : List Unit64) (rs : List Rec) (x y chan : Nat) : List Nat :=
  match (if chan = 7 then findTile rs x y 4 else none), findTile rs x y 1 with
  | none, some r => (recRules m r).filterMap (fun e => match (ruleOp e.2).toNat with
      | 0x08 => some (constAt (ruleOf e.2).srcA)
      | 0x11 => some (constAt (ruleOf e.2).srcB)
      | _ => none)
  | _, _ => []

/-- Scopes (0x0045). A seed comes at reach scope; a stream is a route of its own tile. -/
def scopeJoins (m : List Unit64) (rs : List Rec) (es : List Edge) : List JoinFault :=
  es.flatMap (fun e =>
    let a := if e.skind = 3 then 1 else tileScope m rs e.sx e.sy e.skind e.num
    let b := tileScope m rs e.dx e.dy e.dkind e.chan
    jflt (a != b && !(e.bnd && e.scope == max a b) && e.fmt.isNone) e.ri
      (if e.skind = 1 then lowestOf e.off (scopeConsts m rs e.sx e.sy e.num) else e.off) 0x0045)

/-- Collective nodes (0x0004, 19 R328). -/
def nodeJoins (m : List Unit64) (rs : List Rec) : List JoinFault :=
  (rs.mapIdx (fun i q =>
    if q.kind ≠ 4 then []
    else match findTile rs q.x q.y 1 with
      | none => [(i + 1, 0, 0x0004)]
      | some r =>
        let kind := imgF m q.off 12 4
        let f := tmF m r
        let strided (g : Nat) : Bool := (List.range 8).any (fun j => f g (0x10 + 4 * j) 0 32 != 0)
        let fs := f 2 0 4 3
        let fd := f 3 0 4 3
        let touched : Bool := (recRules m r).any (fun e =>
          let u := ruleOf e.2
          u.srcB == 46 || u.srcB == 47 || u.srcA == 31 || u.dst == 31 || (bitB u.ca 6 && bitsN u.ca 3 3 == 7)
            || (bitB u.cb 6 && bitsN u.cb 3 3 == 7))
        jflt (!tmValid m r 2 || !tmValid m r 3 || f 2 0 1 1 != 0 || f 3 0 1 1 != 1 || f 2 0 2 2 == 2 || f 3 0 2 2 == 2
          || strided 2 || strided 3 || touched || (kind < 5 && (fs != fd || fs == 3))
          || (kind == 6 && ((fs != 4 && fs != 5 && fs != 6) || fd != 3))) (i + 1) 0 0x0004)).flatten

/-- The joining fault of lowest record, then of lowest offset. -/
def firstJoin (l : List JoinFault) : Option JoinFault :=
  l.foldl (fun m f => match m with
    | none => some f
    | some g => if f.1 < g.1 || (f.1 = g.1 && f.2.1 < g.2.1) then some f else some g) none

/-- Stages 1 to 3 of R42: the record index and the code of a refusal. `bind` is what the launch's binding of collective sections
finds (19 R330). Bytes outside every record may hold anything (log entry 81). -/
def imgRefusal (m : List Unit64) (reqsig : Bool) (w h : Nat) (bind : List JoinFault) : Option (Nat × Nat) :=
  match headerFaults m reqsig w h with
  | some c => some (0, c)
  | none =>
    let rs := (imgRecs m).1
    let alone := (0, firstFault (headerAlone m)) :: rs.mapIdx (fun i r => (i + 1, firstFault (recAlone m r)))
    match alone.findSome? (fun e => e.2.map (fun f => (e.1, f.2))) with
    | some e => some e
    | none =>
      let es := imgEdges m
      (firstJoin (orderFaults rs ++ routeJoins m rs es ++ formatJoins m rs es ++ templateJoins m rs es
        ++ scopeJoins m rs es ++ nodeJoins m rs ++ bind)).map (fun f => (f.1, f.2.2))

end Sys2Proof.Machine
end

