-- ==== Sys2Proof/Machine/Scalar.lean ====
section
/-!
DEFINITION. The scalar family (09 R183).
-/

namespace Sys2Proof.Machine

open Sys2Proof

/-- A scalar form y = f(a, b), with the condition y ≠ 0 (09 R183). -/
def scalarForm (b1 : Bool) (f : CSet → Word → Word → Word) (r : Rule) (s : State) : Host.Outcome State Fault Refusal :=
  s.fireC r .scalar b1 (fun s n cs =>
    let y := f cs (cs.scal r.srcA) (cs.scal r.srcB)
    s.putScalar n cs r y (y != 0))

/-- A truth value as 1 or 0. -/
def truth (b : Bool) : Word := if b then 1 else 0

/-- Number of 1 bits. -/
def popCount (a : Word) : Word := (List.range 64).foldl (fun n i => if bitB a i then n + 1 else n) 0

/-- Smaller and larger, signed. -/
def sMin (a b : Word) : Word := if b.slt a then b else a
def sMax (a b : Word) : Word := if a.slt b then b else a

def execRuleAdd (r : Rule) (s : State) := scalarForm false (fun _ a b => a + b) r s
def execRuleSub (r : Rule) (s : State) := scalarForm false (fun _ a b => a - b) r s
def execRuleMul (r : Rule) (s : State) := scalarForm false (fun _ a b => a * b) r s
def execRuleAnd (r : Rule) (s : State) := scalarForm false (fun _ a b => a &&& b) r s
def execRuleOr (r : Rule) (s : State) := scalarForm false (fun _ a b => a ||| b) r s
def execRuleXor (r : Rule) (s : State) := scalarForm false (fun _ a b => a ^^^ b) r s
def execShl (r : Rule) (s : State) := scalarForm false (fun _ a b => a <<< bitsN b 0 6) r s
def execShr (r : Rule) (s : State) := scalarForm false (fun _ a b => a >>> bitsN b 0 6) r s
def execSar (r : Rule) (s : State) := scalarForm false (fun _ a b => a.sshiftRight (bitsN b 0 6)) r s
def execRuleMin (r : Rule) (s : State) := scalarForm false (fun _ a b => sMin a b) r s
def execRuleMax (r : Rule) (s : State) := scalarForm false (fun _ a b => sMax a b) r s
def execCeq (r : Rule) (s : State) := scalarForm false (fun _ a b => truth (a == b)) r s
def execClt (r : Rule) (s : State) := scalarForm false (fun _ a b => truth (a.slt b)) r s
def execCltu (r : Rule) (s : State) := scalarForm false (fun _ a b => truth (a.ult b)) r s
/-- SEL reads b1, whose null entry nullifies (09 R183). -/
def execSel (r : Rule) (s : State) :=
  scalarForm true (fun cs a b => if ((cs.back 0).val.bits.setWidth 64 : Word) ≠ 0 then a else b) r s
def execMov (r : Rule) (s : State) := scalarForm false (fun _ a _ => a) r s
def execPopc (r : Rule) (s : State) := scalarForm false (fun _ a _ => popCount a) r s

end Sys2Proof.Machine
end

