-- ==== Sys2Proof/Machine/Control.lean ====
section
/-!
DEFINITION. The control core's integer instructions, branches, memory accesses, control and status registers and software
traps (05 R110 to R122, R134, R135), and the events of its contexts. A word runs on the context that the focus names.
-/

namespace Sys2Proof.Machine

open Sys2Proof

/-! ## Shared steps -/

/-- Go on to the next word. -/
def Context.advance (x : Context) : Context := Context.goto { x with st := .ready, wait := .none } (x.pc + 4)
def State.advance (s : State) (c : Nat) : State := s.updCtx c Context.advance

/-- Write a register and go on. -/
def State.retire (s : State) (c : Nat) (d : Reg) (v : Word) : State := s.updCtx c (fun x => (x.setReg d v).advance)

/-- Block the context. An instruction that has begun and waits to issue again keeps its word. -/
def State.block (s : State) (c : Nat) (w : Wait) : State :=
  s.updCtx c (fun x => { x with st := .blocked, wait := w, cur := if w = .access .fence then x.word else x.cur })

/-- The word of an instruction. -/
def wordOf (i : Instr) : BitVec 32 := (encode i).getD 0

/-- An integer instruction: the registers it reads, and its function. -/
def aluForm (f : Word → Word → Word) (d a b : Reg) (s : State) : Host.Outcome State Fault Refusal :=
  let c := s.focus.ctx
  .next (s.retire c d (f ((s.ctx c).reg a) ((s.ctx c).reg b)))
/-- An integer instruction with an immediate operand. -/
def aluImm (f : Word → Word → Word) (d a : Reg) (b : Word) (s : State) : Host.Outcome State Fault Refusal :=
  let c := s.focus.ctx
  .next (s.retire c d (f ((s.ctx c).reg a) b))

/-! ## Integer instructions (05 R118) -/

def fMulh (a b : Word) : Word := BitVec.ofInt 64 (a.toInt * b.toInt / 2 ^ 64)
def fSll (a b : Word) : Word := a <<< bitsN b 0 6
def fSrl (a b : Word) : Word := a >>> bitsN b 0 6
def fSra (a b : Word) : Word := a.sshiftRight (bitsN b 0 6)
def fDivu (a b : Word) : Word := if b = 0 then BitVec.allOnes 64 else a / b
def fRemu (a b : Word) : Word := if b = 0 then a else a % b

def execAdd (d a b : Reg) (s : State) := aluForm (· + ·) d a b s
def execSub (d a b : Reg) (s : State) := aluForm (· - ·) d a b s
def execAnd (d a b : Reg) (s : State) := aluForm (· &&& ·) d a b s
def execOr (d a b : Reg) (s : State) := aluForm (· ||| ·) d a b s
def execXor (d a b : Reg) (s : State) := aluForm (· ^^^ ·) d a b s
def execSll (d a b : Reg) (s : State) := aluForm fSll d a b s
def execSrl (d a b : Reg) (s : State) := aluForm fSrl d a b s
def execSra (d a b : Reg) (s : State) := aluForm fSra d a b s
def execMul (d a b : Reg) (s : State) := aluForm (· * ·) d a b s
def execMulh (d a b : Reg) (s : State) := aluForm fMulh d a b s
def execDivu (d a b : Reg) (s : State) := aluForm fDivu d a b s
def execRemu (d a b : Reg) (s : State) := aluForm fRemu d a b s
def execSlt (d a b : Reg) (s : State) := aluForm (fun x y => truth (x.slt y)) d a b s
def execSltu (d a b : Reg) (s : State) := aluForm (fun x y => truth (x.ult y)) d a b s
def execMin (d a b : Reg) (s : State) := aluForm sMin d a b s
def execMax (d a b : Reg) (s : State) := aluForm sMax d a b s
def execAddi (d a : Reg) (i : BitVec 16) (s : State) := aluImm (· + ·) d a (i.signExtend 64) s
def execAndi (d a : Reg) (i : BitVec 16) (s : State) := aluImm (· &&& ·) d a (i.setWidth 64) s
def execOri (d a : Reg) (i : BitVec 16) (s : State) := aluImm (· ||| ·) d a (i.setWidth 64) s
def execXori (d a : Reg) (i : BitVec 16) (s : State) := aluImm (· ^^^ ·) d a (i.setWidth 64) s
def execSlli (d a : Reg) (sh : BitVec 6) (s : State) := aluImm fSll d a (sh.setWidth 64) s
def execSrli (d a : Reg) (sh : BitVec 6) (s : State) := aluImm fSrl d a (sh.setWidth 64) s
def execSrai (d a : Reg) (sh : BitVec 6) (s : State) := aluImm fSra d a (sh.setWidth 64) s
/-- LUI writes imm16 × 0x1_0000, sign-extended from bit 31 (02 R47). -/
def execLui (d : Reg) (i : BitVec 16) (s : State) := aluImm (fun _ b => b) d 0 ((i ++ 0#16).signExtend 64) s

/-! ## Branches and jumps (05 R119) -/

/-- pc + 4 × off. -/
def target (pc : Word) (off : Word) : Word := pc + 4 * off

/-- A conditional branch. -/
def branch (p : Word → Word → Bool) (a b : Reg) (o : BitVec 16) (s : State) : Host.Outcome State Fault Refusal :=
  let c := s.focus.ctx
  let x := s.ctx c
  if p (x.reg a) (x.reg b) then .next (s.updCtx c (fun x => x.goto (target x.pc (o.signExtend 64))))
  else .next (s.advance c)

def execBeq (a b : Reg) (o : BitVec 16) (s : State) := branch (fun x y => x == y) a b o s
def execBne (a b : Reg) (o : BitVec 16) (s : State) := branch (fun x y => x != y) a b o s
def execBlt (a b : Reg) (o : BitVec 16) (s : State) := branch (fun x y => x.slt y) a b o s
def execBge (a b : Reg) (o : BitVec 16) (s : State) := branch (fun x y => !x.slt y) a b o s
def execBltu (a b : Reg) (o : BitVec 16) (s : State) := branch (fun x y => x.ult y) a b o s
def execBgeu (a b : Reg) (o : BitVec 16) (s : State) := branch (fun x y => !x.ult y) a b o s

/-- JAL links into x31. -/
def execJal (o : BitVec 26) (s : State) : Host.Outcome State Fault Refusal :=
  let c := s.focus.ctx
  .next (s.updCtx c (fun x => (x.setReg 31 (x.pc + 4)).goto (target x.pc (o.signExtend 64))))

/-- JALR reads xa before it writes xd. -/
def execJalr (d a : Reg) (i : BitVec 16) (s : State) : Host.Outcome State Fault Refusal :=
  let c := s.focus.ctx
  let t := (s.ctx c).reg a + i.signExtend 64
  if t &&& 3#64 ≠ 0 then .next (s.syncTrap c 0x02 t 0 0)
  else .next (s.updCtx c (fun x => (x.setReg d (x.pc + 4)).goto t))

/-! ## Memory accesses (05 R113, R115, R116, R120 to R122) -/

/-- The trap of an access that faults: `tk` is 1 fetch, 2 load, 3 store, 4 atomic (05 R113). -/
def State.accessTrap (s : State) (c : Nat) (va : Word) (tk cause code : Nat) (w : Word) : State :=
  if cause = 3 then s.syncTrap c 3 va (BitVec.ofNat 64 tk) (BitVec.ofNat 64 code)
  else s.syncTrap c cause va (BitVec.ofNat 64 (code % 16)) w

/-- Apply one store of a context (05 R116). -/
def State.applyStore (s : State) (c : Nat) (p : Pending) : State := s.writeAt (s.ctx c).job p.va.toNat p.stack p.sa 8 p.v.toNat

/-- Apply all stores of a context, oldest first; none while one waits at a quiesced stack. -/
def State.drain (s : State) (c : Nat) : Option State :=
  let l := (s.ctx c).stores
  if l.all (fun p => s.takesFor (s.ctx c).job p.stack) then
    some ((l.foldl (fun s p => s.applyStore c p) s).updCtx c (fun x => { x with stores := [] }))
  else none

/-- The value a load of a context reads: its own latest store to the word, or memory. -/
def State.loadWord (s : State) (c st sa : Nat) : Word :=
  match (s.ctx c).stores.reverse.find? (fun p => p.stack == st && p.sa == sa) with
  | some p => p.v
  | none => s.hbmWord st sa

/-- LD and LDAQ at an address (05 R120; log entry 5). -/
def State.coreLoad (s : State) (c : Nat) (d : Reg) (va : Word) (w : BitVec 32) : State :=
  if va &&& 7#64 ≠ 0 then s.syncTrap c 0x02 va 0 0
  else
    let r := s.coreReach c va .read
    match r.2 with
    | .fault cause code => r.1.accessTrap c va 2 cause code (w.setWidth 64)
    | .wait => r.1.block c (.access (.load d va w))
    | .at st sa => (r.1.countAccess st sa).retire c d (r.1.loadWord c st sa)

/-- ST at an address: it is queued towards other agents. -/
def State.coreStore (s : State) (c : Nat) (va v : Word) (w : BitVec 32) : State :=
  if va &&& 7#64 ≠ 0 then s.syncTrap c 0x02 va 0 0
  else
    let r := s.coreReach c va .write
    match r.2 with
    | .fault cause code => r.1.accessTrap c va 3 cause code (w.setWidth 64)
    | .wait => r.1.block c (.access (.store va v w))
    | .at st sa => (r.1.updCtx c (fun x => { x with stores := x.stores ++ [⟨va, st, sa, v⟩] })).advance c

/-- The new value of an atomic (05 R121). -/
def amoNew (op : BitVec 4) (old v : Word) : Word :=
  match op.toNat with
  | 0 => v
  | 1 => old + v
  | 2 => old &&& v
  | 3 => old ||| v
  | 4 => old ^^^ v
  | 5 => sMin old v
  | 6 => sMax old v
  | 7 => if v.ult old then v else old
  | _ => if old.ult v then v else old

/-- AMO: after the context's stores, in one step. -/
def State.coreAmo (s : State) (c : Nat) (d : Reg) (va v : Word) (op : BitVec 4) (w : BitVec 32) : State :=
  if va &&& 7#64 ≠ 0 then s.syncTrap c 0x02 va 0 0
  else
    let r := s.coreReach c va .atomic
    match r.2 with
    | .fault cause code => r.1.accessTrap c va 4 cause code (w.setWidth 64)
    | .wait => r.1.block c (.access (.amo d va v op w))
    | .at st sa =>
      match r.1.drain c with
      | none => r.1.block c (.access (.amo d va v op w))
      | some s =>
        let old := s.hbmWord st sa
        (s.writeAt (s.ctx c).job va.toNat st sa 8 (amoNew op old v).toNat).retire c d old

/-- The fetch of the unit at pc (05 R110). A permission fault of a fetch has no instruction word (log entry 13). -/
def State.coreFetch (s : State) (c : Nat) : State :=
  let va := (s.ctx c).pc
  let r := s.coreReach c va .fetch
  match r.2 with
  | .fault cause code => r.1.drawn.accessTrap c va 1 cause code (Config.openWord r.1.freeCount)
  | .wait => r.1.block c (.access (.fetch va))
  | .at st sa =>
    (r.1.countAccess st sa).updCtx c (fun x =>
      { x with st := .ready, wait := .none, fetch := some (BitVec.ofNat 64 (va.toNat / 64 * 64), r.1.hbmUnit st sa) })

/-- Effective address xa + sext(imm16). -/
def State.ea (s : State) (c : Nat) (a : Reg) (i : BitVec 16) : Word := (s.ctx c).reg a + i.signExtend 64

def execLd (d a : Reg) (i : BitVec 16) (s : State) : Host.Outcome State Fault Refusal :=
  .next (s.coreLoad s.focus.ctx d (s.ea s.focus.ctx a i) (wordOf (.ld d a i)))
def execLdaq (d a : Reg) (i : BitVec 16) (s : State) : Host.Outcome State Fault Refusal :=
  .next (s.coreLoad s.focus.ctx d (s.ea s.focus.ctx a i) (wordOf (.ldaq d a i)))
def execSt (d a : Reg) (i : BitVec 16) (s : State) : Host.Outcome State Fault Refusal :=
  .next (s.coreStore s.focus.ctx (s.ea s.focus.ctx a i) ((s.ctx s.focus.ctx).reg d) (wordOf (.st d a i)))
/-- STRL takes effect only after every earlier access of the context. -/
def execStrl (d a : Reg) (i : BitVec 16) (s : State) : Host.Outcome State Fault Refusal :=
  let c := s.focus.ctx
  match s.drain c with
  | none => .next (s.block c (.access .fence))
  | some s' => .next (s'.coreStore c (s.ea c a i) ((s.ctx c).reg d) (wordOf (.strl d a i)))
def execAmo (d a b : Reg) (sc : BitVec 3) (o : BitVec 4) (s : State) : Host.Outcome State Fault Refusal :=
  let x := s.ctx s.focus.ctx
  .next (s.coreAmo s.focus.ctx d (x.reg a) (x.reg b) o (wordOf (.amo d a b sc o)))
/-- FENCE completes when every earlier access of the context has taken effect. -/
def execFence (_sc : BitVec 3) (s : State) : Host.Outcome State Fault Refusal :=
  let c := s.focus.ctx
  match s.drain c with
  | none => .next (s.block c (.access .fence))
  | some s' => .next (s'.advance c)

/-! ## Control and status registers (05 R111, R134) -/

/-- A bit as a word. -/
def bitW (b : Bool) (i : Nat) : Word := if b then BitVec.twoPow 64 i else 0

/-- Monitor entries of a context's core, and of the context (05 R132). -/
def State.monUsed (s : State) (c : Nat) : Nat := (s.core (ctxCore c)).mon.length
def State.monMine (s : State) (c : Nat) : Nat := ((s.core (ctxCore c)).mon.filter (fun m => m.ctx == c)).length

/-- A control and status register as CSRRD reads it. DESIGN CHOICE (log entry 89): cc.handles.LIVE shows a slot from the acceptance of its
launch on. -/
def State.csr (s : State) (c : Nat) (n : BitVec 16) : Word :=
  let x := s.ctx c
  match n.toNat with
  | 0x000 => bitW x.intr 0 ||| bitW x.spur 1 ||| bitW x.glate 2 ||| BitVec.ofNat 64 (c % 8 * 2 ^ 8 + c / 8 % 4 * 2 ^ 11 + c / 32 * 2 ^ 13)
  | 0x001 => x.cause.setWidth 64 ||| bitW x.async 8
  | 0x002 => x.epc
  | 0x003 => x.tvec
  | 0x004 => x.tp0
  | 0x005 => x.tp1
  | 0x006 => x.tp2
  | 0x007 => (x.tukind ++ x.tunit).setWidth 64
  | 0x008 => BitVec.ofNat 64 s.tick
  | 0x009 => BitVec.ofNat 64 (s.cycle - x.started)
  | 0x00A => BitVec.ofNat 64 x.job
  | 0x00B => x.scratch
  | 0x00C => (x.ccount ++ (0#30 ++ x.cstate)).setWidth 64
  | 0x00D => BitVec.ofNat 64 (s.monMine c + s.monUsed c * 2 ^ 8)
  | 0x00E => (List.range 8).foldl (fun v i => v ||| bitW (vget ⟨0, none⟩ x.slots i).reach.isSome i) 0
  | _ => 0

/-- CSRRD; a number the part does not implement is illegal. -/
def execCsrrd (d : Reg) (i : BitVec 16) (s : State) : Host.Outcome State Fault Refusal :=
  let c := s.focus.ctx
  if !csrImplemented i then .next (s.syncTrap c 0x01 ((wordOf (.csrrd d i)).setWidth 64) 0 0)
  else .next (s.retire c d (s.csr c i))

/-- A write of a control and status register under its access codes. -/
def Context.csrWrite (x : Context) (n : BitVec 16) (v : Word) : Context :=
  match n.toNat with
  | 0x000 => { x with spur := x.spur && !bitB v 1, glate := x.glate && !bitB v 2 }
  | 0x002 => { x with epc := v &&& ~~~3#64 }
  | 0x003 => { x with tvec := v &&& ~~~3#64 }
  | 0x00B => { x with scratch := v }
  | _ => x

/-- CSRWR. -/
def execCsrwr (a : Reg) (i : BitVec 16) (s : State) : Host.Outcome State Fault Refusal :=
  let c := s.focus.ctx
  if !csrImplemented i then .next (s.syncTrap c 0x01 ((wordOf (.csrwr a i)).setWidth 64) 0 0)
  else .next (s.updCtx c (fun x => (x.csrWrite i (x.reg a)).advance))

/-! ## Software traps, return and IDLE (05 R114, R133, R135) -/

def execTrap (i : BitVec 16) (s : State) : Host.Outcome State Fault Refusal :=
  .next (s.syncTrap s.focus.ctx 0x00 (i.setWidth 64) 0 0)
def execRett (s : State) : Host.Outcome State Fault Refusal :=
  let c := s.focus.ctx
  if (s.ctx c).intr then .next (s.updCtx c Context.return)
  else .next (s.syncTrap c 0x01 ((wordOf .rett).setWidth 64) 0 0)
def execIdle (s : State) : Host.Outcome State Fault Refusal :=
  .next (s.updCtx s.focus.ctx (fun x => { x with st := .idle }))

/-! ## Waiting (05 R131, R132) -/

/-- The condition of WAITC. -/
def waitHolds (cond : BitVec 2) (v b : Word) : Bool :=
  match cond.toNat with
  | 0 => b.ule v
  | 1 => v == b
  | 2 => v != b
  | _ => false

/-- WAITC: the first read, at once. A first read that has to wait issues the instruction again (log entry 29). -/
def execWaitc (h b : Reg) (k : BitVec 2) (s : State) : Host.Outcome State Fault Refusal :=
  let c := s.focus.ctx
  let va := (s.ctx c).reg h
  let v := (s.ctx c).reg b
  let w := wordOf (.waitc h b k)
  if va &&& 7#64 ≠ 0 then .next (s.syncTrap c 0x02 va 0 0)
  else
    let r := s.coreReach c va .read
    match r.2 with
    | .fault cause code => .next (r.1.accessTrap c va 2 cause code (w.setWidth 64))
    | .wait => .next (r.1.block c (.access .again))
    | .at st sa =>
      let s' := r.1.countAccess st sa
      if waitHolds k (r.1.loadWord c st sa) v then .next (s'.advance c)
      else .next ((s'.block c (.waitc va v k)).updCtx c (fun x => { x with waitcDirty := false, waitcAt := s.cycle }))

/-- A re-check of a blocked WAITC: on a written line, or 1,024 cycles after the last read. A read that cannot be made
leaves it waiting. -/
def execWaitcRecheck (c : Nat) (s : State) : Host.Outcome State Fault Refusal :=
  let x := s.ctx c
  match x.st, x.wait with
  | .blocked, .waitc va v k =>
    if !x.waitcDirty && s.cycle < x.waitcAt + 1024 then .next s
    else
      let r := s.coreReach c va .read
      match r.2 with
      | .at st sa =>
        let s' := r.1.countAccess st sa
        if waitHolds k (r.1.loadWord c st sa) v then .next (s'.advance c)
        else .next (s'.updCtx c (fun x => { x with waitcDirty := false, waitcAt := s.cycle }))
      | _ => .next (r.1.updCtx c (fun x => { x with waitcDirty := false, waitcAt := s.cycle }))
  | _, _ => .next s

/-- Free every monitor entry of a context. -/
def State.freeMon (s : State) (c : Nat) : State :=
  s.updCore (ctxCore c) (fun k => { k with mon := k.mon.filter (fun m => m.ctx != c) })

/-- Whether some entry of a context has fired. -/
def State.monFired (s : State) (c : Nat) : Bool := (s.core (ctxCore c)).mon.any (fun m => m.ctx == c && m.fired)

/-- WAITA: armed, then compared. -/
def execWaita (h b : Reg) (f : BitVec 1) (s : State) : Host.Outcome State Fault Refusal :=
  let c := s.focus.ctx
  let va := (s.ctx c).reg h
  let w := wordOf (.waita h b f)
  let arm : Bool := f == 1
  if va &&& 7#64 ≠ 0 then .next (s.syncTrap c 0x02 va 0 0)
  else if 64 ≤ s.monUsed c then
    let s := (s.updCtx c (fun x => { x with spur := true })).advance c
    .next (if arm then s else s.freeMon c)
  else
    let r := s.coreReach c va .read
    match r.2 with
    | .fault cause code => .next (r.1.accessTrap c va 2 cause code (w.setWidth 64))
    | .wait => .next (r.1.block c (.access .again))
    | .at st sa =>
      let fired := r.1.loadWord c st sa != (s.ctx c).reg b
      let m : Monitor := { line := BitVec.ofNat 64 (va.toNat / 64 * 64), ctx := c, fired := fired, hit := false }
      let s := (r.1.countAccess st sa).updCore (ctxCore c) (fun k => { k with mon := k.mon ++ [m] })
      if arm then .next (s.advance c)
      else if s.monFired c then .next ((s.freeMon c).advance c)
      else .next (s.block c .waita)

/-- Entry n of a core's table fires once its line has been written, and completes its context's WAITA. -/
def execMonitorFire (core n : Nat) (s : State) : Host.Outcome State Fault Refusal :=
  match (s.core core).mon[n]? with
  | none => .next s
  | some m =>
    if !m.hit then .next s
    else
      let s := s.updCore core (fun k => { k with mon := k.mon.set n { m with fired := true, hit := false } })
      match (s.ctx m.ctx).st, (s.ctx m.ctx).wait with
      | .blocked, .waita => .next ((s.freeMon m.ctx).advance m.ctx)
      | _, _ => .next s

/-! ## Events of contexts -/

/-- A word that is not an instruction (02 R39). -/
def execIllegalInstruction (w : BitVec 32) (s : State) : Host.Outcome State Fault Refusal :=
  .next (s.syncTrap s.focus.ctx 0x01 (w.setWidth 64) 0 0)

/-- A context whose buffer does not hold pc's unit fetches it (05 R110). -/
def execInstructionFetch (c : Nat) (s : State) : Host.Outcome State Fault Refusal := .next (s.coreFetch c)

/-- A context's waiting access is tried again (n = 0), or its store n − 1 takes effect (05 R115, R116). Two stores to one
word take effect in program order. -/
def execMemoryAccessComplete (c n : Nat) (s : State) : Host.Outcome State Fault Refusal :=
  let x := s.ctx c
  match n with
  | 0 =>
    match x.st, x.wait with
    | .blocked, .access (.load d va w) => .next (s.coreLoad c d va w)
    | .blocked, .access (.store va v w) => .next (s.coreStore c va v w)
    | .blocked, .access (.amo d va v op w) => .next (s.coreAmo c d va v op w)
    | .blocked, .access (.fetch _) => .next (s.coreFetch c)
    | .blocked, .access .fence =>
      match s.drain c with
      | some s' => .next (s'.updCtx c (fun x => { x with st := .ready }))
      | none => .next s
    | .blocked, .access .again => .next (s.updCtx c (fun x => { x with st := .ready, wait := .none }))
    | _, _ => .next s
  | n + 1 =>
    match x.stores[n]? with
    | none => .next s
    | some p =>
      if !s.takesFor x.job p.stack || (x.stores.take n).any (fun q => q.stack == p.stack && q.sa == p.sa) then .next s
      else .next ((s.applyStore c p).updCtx c (fun x => { x with stores := x.stores.eraseIdx n }))

/-- Whether a context can be interrupted where it stands. An instruction that has begun and is issued again once its context's
stores have taken effect completes first (05 R112). -/
def Context.interruptible (x : Context) : Bool :=
  match x.st, x.wait with
  | .ready, .access .fence => false
  | .ready, _ => true
  | .idle, _ => true
  | .blocked, .waitc _ _ _ => true
  | .blocked, .waita => true
  | .blocked, .access .again => true
  | .blocked, .seed _ _ _ _ _ _ => true
  | _, _ => false

/-- The held trap of lowest cause (05 R112). -/
def Context.nextTrap (x : Context) : Option Trap :=
  x.traps.foldl (fun m t => match m with
    | none => some t
    | some u => if t.cause < u.cause then some t else m) none

/-- A held asynchronous trap is taken between two instructions (05 R112, R113). -/
def execAsyncTrap (c : Nat) (s : State) : Host.Outcome State Fault Refusal :=
  let x := s.ctx c
  if x.intr || !x.interruptible then .next s
  else match x.nextTrap with
    | none => .next s
    | some t =>
      let s := s.updCtx c (fun x => { x with traps := x.traps.filter (fun u => u.cause != t.cause) })
      .next (s.takeTrap c true t x.pc)

/-- The registers a start sets: zero but for those given (05 R110). -/
def Context.start (x : Context) (job : Nat) (pc x1 x2 : Word) (cycle : Nat) : Context :=
  { Context.reset with
    st := .ready, job := job, pc := pc &&& ~~~3#64, x := vset (vset (Vector.replicate 32 0) 1 x1) 2 x2,
    started := cycle, slots := x.slots, stores := x.stores }

/-- The host restarts an idle or halted context (05 R108, R110). DESIGN CHOICE (log entry 89): asynchronous traps that it holds stay. -/
def execContextRestart (c : Nat) (pc : Word) (s : State) : Host.Outcome State Fault Refusal :=
  let x := s.ctx c
  if x.st == .idle || x.st == .halted then .next ((s.freeMon c).updCtx c (fun x => { x.start x.job pc 0 0 s.cycle with traps := x.traps }))
  else .next s

/-- The host starts a free context (05 R108). -/
def execContextStart (c job : Nat) (pc : Word) (s : State) : Host.Outcome State Fault Refusal :=
  if (s.ctx c).st == .free && 1 ≤ job && job ≤ 63 && c < 64 then
    .next (s.updCtx c (fun x => { x.start job pc 0 0 s.cycle with slots := Vector.replicate 8 ⟨0, none⟩, stores := [] }))
  else .next s

end Sys2Proof.Machine
end

