-- ==== Sys2Proof/Machine/Spill.lean ====
section
/-!
DEFINITION. Spill slots (09 R205, R206; 11 R245), the livelock event (08 R173) and parity errors of rule pools and port
tables (02 R53).
-/

namespace Sys2Proof.Machine

open Sys2Proof

/-! ## Spill slots -/

/-- The 128 bytes of a slot: payload, tag, and for an e2m1x value its pairs. -/
def VReg.slotBytes (v : VReg) : Nat := v.bits.toNat + v.tag.toNat * 2 ^ 512 + (if v.tag = 3 then v.pairs.toNat * 2 ^ 520 else 0)

/-- A register from the bytes of a slot. -/
def slotReg (n : Nat) : VReg :=
  { bits := BitVec.ofNat 512 n, tag := BitVec.ofNat 3 (n / 2 ^ 512), pairs := BitVec.ofNat 64 (n / 2 ^ 520) }

/-- Where a slot lies: in the carve-out at an offset of the slice, in the overflow area at an address, or nowhere. -/
inductive SlotAt where
  | carve (off : Nat)
  | over (va : Nat)
  | none
  deriving DecidableEq, Repr

/-- The place of slot t of a cell's compute tile. -/
def State.slotAt (s : State) (n t : Nat) : SlotAt :=
  let sp := (s.cset n).spill
  let m := s.mset n
  if t < 32 * sp then .carve ((s.cset n).carveOut + 128 * t)
  else
    let off := 128 * (t - 32 * sp)
    if off < m.npage.toNat * 0x1000 then .over (m.page.toNat * 0x1000 + off) else .none

def CSet.wrote (cs : CSet) (t : Nat) : CSet :=
  { cs with spillWritten := if cs.spillWritten.contains t then cs.spillWritten else t :: cs.spillWritten }

/-- Write a slot of the carve-out. -/
def State.putSlot (s : State) (n off : Nat) (v : VReg) : State :=
  let b := v.slotBytes
  (s.sramPut n off (BitVec.ofNat 512 b)).sramPut n (off + 64) (BitVec.ofNat 512 (b / 2 ^ 512))

/-- SPL (R206). -/
def execSpl (r : Rule) (s : State) : Host.Outcome State Fault Refusal :=
  s.fireC r .none false (fun s n cs =>
    let t := bitsN (cs.scal r.srcB) 0 16
    let v := match opdOf r.srcA with
      | .v i => vget VReg.reset cs.v i
      | _ => VReg.reset
    match s.slotAt n t with
    | .carve off => .fire ((s.putSlot n off v).updC n (fun c => c.wrote t)) true none
    | .none => .refuseOpen 3 0x0C
    | .over _ =>
      if cs.spillFrz.isSome || 2 ≤ cs.spillBuf.length then .refuse 3
      else .fire (s.updC n (fun c => { c.wrote t with
        spillBuf := c.spillBuf ++ [⟨t, v⟩], spillWant := if c.spillWant = some t then none else c.spillWant,
        spillGot := match c.spillGot with
          | some g => if g.slot = t then none else some g
          | none => none })) true none)

/-- The slot that FIL names, and what the port gives for it: a value, a fetch to start, or nothing yet. -/
inductive Fill where
  | got (v : VReg)
  | want
  | bad (off : Nat)
  | noPointer
  deriving DecidableEq, Repr

def State.fillOf (s : State) (n : Nat) (cs : CSet) (t : Nat) : Fill :=
  match s.slotAt n t with
  | .none => .noPointer
  | .carve off =>
    if !cs.spillWritten.contains t then .got VReg.reset
    else if s.sramBad n off || s.sramBad n (off + 64) then .bad off
    else .got (slotReg ((s.sramUnit n off).toNat + (s.sramUnit n (off + 64)).toNat * 2 ^ 512))
  | .over _ =>
    if !cs.spillWritten.contains t then .got VReg.reset
    else match cs.spillBuf.reverse.find? (fun e => e.slot == t) with
      | some e => .got e.val
      | none =>
        match cs.spillGot with
        | some e => if e.slot = t then .got e.val else .want
        | none => .want

/-- A read of the carve-out that had frozen the port succeeds: its slot closes (21 R347). -/
def State.carveRead (s : State) (n t : Nat) : State :=
  let j := s.reachJob (s.cset n).iss.reach
  match s.slotAt n t, (s.cset n).spillSlot with
  | .carve off, some k =>
    let f := Tbl.get FSlot.reset (s.job j).fslots k
    if f.cause = 0x0F && f.addr.toNat = off then s.thawSpill n (s.cset n).iss.reach else s
  | _, _ => s

/-- FIL (R206). Its first abort starts the fetch of an overflow slot, once no transfer is on its way; an uncorrectable unit of the carve-out freezes the
spill port (14 R279). -/
def execFil (r : Rule) (s : State) : Host.Outcome State Fault Refusal :=
  let n := s.focus.cell
  let cs := s.cset n
  let t := bitsN (cs.scal r.srcA) 0 16
  let f := s.fillOf n cs t
  let offered : Bool := guardCore cs.iss.preds cs.front r && !cs.nullSource r false
  let s := match f with
    | .want => if offered && cs.spillWant.isNone && cs.spillOut.isNone then s.updC n (fun c => { c with spillWant := some t }) else s
    | .bad off =>
      if offered && cs.spillFrz.isNone then s.freezeSpill n cs.iss.reach 5 off 0x0F (memCode 0 0 (tileUnit n 2) off) else s
    | _ => s
  s.fireC r .vector false (fun s n _ =>
    match f with
    | .got v =>
      .fire (match opdOf r.dst with
        | .v i => (s.carveRead n t).updC n (fun c => c.putReg i v)
        | _ => s.carveRead n t) true (some ⟨false, v⟩)
    | .noPointer => .refuseOpen 3 0x0C
    | _ => .refuse 3)

/-! ## Overflow transfers (11 R245) -/

/-- The place of an overflow transfer, by the micro-TLB of the cell's address generator, then its die (R245). -/
def State.spillReach (s : State) (n va : Nat) (k : Kind) : State × Trans :=
  let j := s.reachJob (s.cset n).iss.reach
  match tlbFind (s.cell n).utlb j va k with
  | some e => (s, s.tlbPlace e va k)
  | none =>
    let t := s.dieAccess (cellDie n) j va k
    match t.2.1 with
    | some e => (t.1.updCell n (fun c => { c with utlb := tlbPut c.utlb 32 e }), t.2.2)
    | none => (t.1, t.2.2)

/-- An overflow transfer stands at its stack: class 5, unmarked, with no request number (R245). Its mark names its reach. -/
def State.spillPlaced (s : State) (n id sa : Nat) (write : Bool) : Placed :=
  { cell := n, id := 0, write := write, addr := sa, cls := 5, marked := false, mark := BitVec.ofNat 32 id, mctr := 0,
    slack := slackMax, sent := s.cycle, since := s.cycle }

/-- SPILL_FETCH_DONE: the oldest buffered SPL, or with none the fetch that FIL waits for, is translated and goes to its stack
(R206, R245). A faulting one freezes the port. -/
def execSpillFetchDone (cell : Nat) (s : State) : Host.Outcome State Fault Refusal :=
  let n := cell
  let cs := s.cset n
  let id := cs.iss.reach
  let next : Option (Nat × Bool) := match cs.spillBuf.head?, cs.spillWant with
    | some e, _ => some (e.slot, true)
    | none, some t => some (t, false)
    | none, none => none
  match (if cs.spillFrz.isSome || cs.spillOut.isSome then none else next) with
  | none => .next s
  | some (t, write) =>
    match s.slotAt n t with
    | .over va =>
      let r := s.spillReach n va (if write then .write else .read)
      let acc := if write then 4 else 5
      (match r.2 with
      | .ok st sa =>
        .next ((r.1.updC n (fun c => { c with spillOut := some va })).updStk st (fun k => { k with q := k.q ++ [s.spillPlaced n id sa write] }))
      | .fault cause code => .next (r.1.freezeSpill n id acc va cause code)
      | .bad st sa => .next ((r.1.noteBad st).freezeSpill n id acc va 0x0F (memCode 2 st 0 sa))
      | .tier =>
        .next ((r.1.tierMiss (s.reachJob id) va (whoOf 0 (tileUnit n kindA)) id).updC n (fun c => { c with spillFrz := some .tier }))
      | .wait => .next s)
    | _ => .next s

/-- A stack serves an overflow transfer. A read of an uncorrectable unit freezes the port (14 R279); one whose slot has been spilled
again is dropped. -/
def State.spillServed (s : State) (k : Nat) (p : Placed) : State :=
  let n := p.cell
  let id := p.mark.toNat
  match s.csetOf n id with
  | none => s
  | some cs =>
    match cs.spillOut with
    | none => s
    | some va =>
      let j := s.reachJob id
      let s := s.updCSet n id (fun c => { c with spillOut := none })
      let close (s : State) : State := s.thawSpill n id
      if p.write then
        match cs.spillBuf with
        | [] => s
        | e :: rest =>
          let b := e.val.slotBytes
          close (((s.writeAt j va k p.addr 64 (b % 2 ^ 512)).writeAt j (va + 64) k (p.addr + 64) 64 (b / 2 ^ 512)).updCSet n id (fun c =>
            { c with spillBuf := rest }))
      else
        let s := (s.countAccess k p.addr).countAccess k (p.addr + 64)
        match cs.spillWant with
        | none => s
        | some t =>
          if s.hbmBad k p.addr || s.hbmBad k (p.addr + 64) then
            (s.noteBad k).freezeSpill n id 5 va 0x0F (memCode 1 k 0 va)
          else
            let v := slotReg ((s.hbmUnit k p.addr).toNat + (s.hbmUnit k (p.addr + 64)).toNat * 2 ^ 512)
            close (s.updCSet n id (fun c => { c with spillWant := none, spillGot := some ⟨t, v⟩ }))

/-! ## Livelock and parity -/

/-- LIVELOCK_EVENT: the abort count of rule idx has reached 1,024. -/
def execLivelockEvent (cell kind idx : Nat) (s : State) : Host.Outcome State Fault Refusal :=
  let x := s.issue cell kind
  match x.livelock.find? (fun e => e.1 == idx) with
  | none => .next s
  | some (i, reason) =>
    let w : Word := vget 0 x.pool i
    let s := s.tileEvent cell kind 0x09 (BitVec.ofNat 64 (i + (ruleOp w).toNat * 2 ^ 4 + reason * 2 ^ 14)) 1024 w
    .next (s.updIssue cell kind (fun x => { x with livelock := x.livelock.filter (fun e => e.1 != i) }))

/-- PARITY_FREEZE: a word fails parity when it is read. Kind 0 and 1 are the rule pools of a cell's tiles, kind 2 the port table of
its memory tile (02 R53); in kind 0 index 0x100 + r is row r of the matrix node's bank 0, and 0x200 + r of bank 1 (10 R220). The tile
or the node freezes until its next load: no fault slot opens (log entry 85). The record's other words are free values. -/
def execParityFreeze (cell kind idx : Nat) (s : State) : Host.Outcome State Fault Refusal :=
  let w := Config.openWord s.freeCount
  let t := s.drawn
  if kind = 2 && idx < 8 then
    let id := (s.mset cell).reach
    let t := t.event (s.reachJob id) 0x0F 0 (tileUnit cell 2) (BitVec.ofNat 64 idx) w w (some id)
    .next (t.updM cell (fun m => { m with frozen := true }))
  else if kind < 2 && idx < 16 then
    .next ((t.tileEvent cell kind 0x0F (BitVec.ofNat 64 idx) w w).updIssue cell kind (fun x => { x with frozen := true }))
  else if kind = 0 && (idx / 64 = 4 || idx / 64 = 8) then
    .next ((t.tileEvent cell kind 0x0F (BitVec.ofNat 64 idx) w w).updC cell (fun c => { c with node := { c.node with frozen := true } }))
  else .next s

end Sys2Proof.Machine
end

