-- ==== Sys2Proof/Machine/Load.lean ====
section
/-!
DEFINITION. What the loader makes of an accepted image: conflict matrices (08 R163 to R165, 09 R210, 10 R214), the routes
of a reach (07 R148, R151, R154), and the sets of its tiles and switches (02 R61 to R64, 06 R143).
-/

namespace Sys2Proof.Machine

open Sys2Proof

/-! ## Read and write sets (08 R163)

A piece of state is a number: s 0 to 15, v 16 to 31, predicates from 32, input channels from 48, output channels from 64,
counters from 80, banks from 96, templates from 112, the phase register 128. -/

/-- The piece of state an operand names; constants and back-references never conflict. -/
def pieceOf (isDst : Bool) (c : BitVec 6) : List Nat :=
  match opdOf c with
  | .s n => [n]
  | .v n => [16 + n]
  | .ch n => [(if isDst then 64 else 48) + n]
  | .k n => [80 + n]
  | _ => []

/-- What every rule reads: predicates its guard tests, and channels its conditions name. -/
def guardReads (u : Rule) : List Nat :=
  ((List.range 8).filter (fun i => bitB u.pm i)).map (32 + ·)
    ++ (if bitB u.ca 6 then [48 + bitsN u.ca 3 3] else []) ++ (if bitB u.cb 6 then [48 + bitsN u.cb 3 3] else [])

/-- What every rule writes: its predicate update and the channels it dequeues. -/
def guardWrites (u : Rule) : List Nat :=
  (if bitsN u.pu 3 2 = 0 then [] else [32 + bitsN u.pu 0 3]) ++ u.deqs.map (48 + ·)

/-- The operands a form uses. -/
def formReads (f : Form) (u : Rule) : List Nat :=
  (if f.a = [] || (f.optA && u.srcA = 0) then [] else pieceOf false u.srcA)
    ++ (if f.b = [] || (f.optB && u.srcB = 0) then [] else pieceOf false u.srcB)
def formWrites (f : Form) (u : Rule) : List Nat := if f.dst = [] then [] else pieceOf true u.dst

/-- Banks that a matrix control template reads and writes (10 R214). -/
def mctlReads (t : Word) : List Nat :=
  if mOp t = opMMA then (if mmaZero t then [] else [96 + mBank t])
  else if mOp t = opMDRN then [96 + mBank t]
  else if mOp t = opMSWP then [96, 97]
  else []
def mctlWrites (t : Word) : List Nat :=
  if mOp t = opMDRN then (if mdrnZero t then [96 + mBank t] else [])
  else if mOp t = opMSWP then [96, 97]
  else [96 + mBank t]

/-- The read set of a compute rule (08 R163, 09 R210). -/
def computeReads (x : Issue) (w : Word) : List Nat :=
  let op := (ruleOp w).toNat
  let u := ruleOf w
  let q (c : BitVec 6) : Word := vget 0 x.consts (c.toNat - 48)
  guardReads u ++ (match computeForm op with | some f => formReads f u | none => [])
    ++ (match op with
      | 0x23 => pieceOf true u.dst
      | 0x36 => pieceOf true u.dst ++ (pieceOf true u.dst).map (· + 1)
          ++ (if bitB (q u.srcB) 6 then [80 + bitsN (q u.srcB) 7 3] else [])
      | 0x43 => [u.et.toNat]
      | 0x48 => pieceOf true u.dst
      | 0x4B => pieceOf true u.dst
      | 0x50 => mctlReads (q u.srcA) ++ (if mRt (q u.srcA) then pieceOf false u.srcB else [])
      | _ => [])

/-- The write set of a compute rule. -/
def computeWrites (x : Issue) (w : Word) : List Nat :=
  let op := (ruleOp w).toNat
  let u := ruleOf w
  let q (c : BitVec 6) : Word := vget 0 x.consts (c.toNat - 48)
  let k := u.dst.toNat - 36
  guardWrites u ++ (match computeForm op with | some f => formWrites f u | none => [])
    ++ (if consumes op then pieceOf false u.srcA ++ (if op = 0x41 then [] else pieceOf false u.srcB) else [])
    ++ (match op with
      | 0x36 => (pieceOf true u.dst).map (· + 1)
      | 0x37 => [64 + bitsN (q u.srcB) 3 3]
      | 0x45 => (pieceOf true u.dst).map (· + 1)
      | 0x48 => (x.chainFrom 8 k).map (80 + ·)
      | 0x4B => (x.chainFrom 8 k).map (80 + ·)
      | 0x49 => (x.reachers k).map (80 + ·)
      | 0x50 => mctlWrites (q u.srcA)
      | _ => [])

/-- The single unit a compute rule needs (08 R164): 1 special-function unit, 2 lane network, 3 spill port. -/
def computeUnit (w : Word) : Nat :=
  let op := (ruleOp w).toNat
  if op = 0x28 || op = 0x29 || op = 0x2A then 1
  else if (0x2F ≤ op && op ≤ 0x37) then 2
  else if op = 0x58 || op = 0x59 then 3
  else 0

/-- Counters that issuing on a template may write (08 R163). -/
def templateWrites (x : Issue) (t : Template) : List Nat :=
  ((List.range 8).filter (fun j => vget 0 t.stride j != 0 || vget 0 t.mstep j != 0)).flatMap (fun j => (x.chainFrom 8 j).map (80 + ·))

/-- An opcode that issues on a template. -/
def agIssues (op : Nat) : Bool := 1 ≤ op && op ≤ 8

/-- The read set of an address-generator rule. -/
def agReads (w : Word) : List Nat :=
  let op := (ruleOp w).toNat
  let u := ruleOf w
  let g := u.srcB.toNat - 44
  guardReads u
    ++ (match agForm op with
      | some f => formReads { f with b := if f.b.contains .g then [] else f.b } u ++ (if f.b.contains .g then [112 + g] else [])
      | none => [])
    ++ (if op = 2 || op = 4 || op = 5 then [128] else [])
    ++ (if op = 0x48 then pieceOf true u.dst else [])

/-- The write set of an address-generator rule. -/
def agWrites (x : Issue) (tm : Vector Template 4) (w : Word) : List Nat :=
  let op := (ruleOp w).toNat
  let u := ruleOf w
  let g := u.srcB.toNat - 44
  let k := u.dst.toNat - 36
  guardWrites u ++ (match agForm op with | some f => formWrites f u | none => [])
    ++ (if agIssues op then templateWrites x (vget Template.reset tm g) else [])
    ++ (match op with
      | 0x10 => [128]
      | 0x11 => pieceOf false u.srcA
      | 0x18 => [112 + g]
      | 0x48 => (x.chainFrom 8 k).map (80 + ·)
      | 0x49 => (x.reachers k).map (80 + ·)
      | _ => [])

/-- The request port (08 R164). -/
def agUnit (w : Word) : Nat :=
  let op := (ruleOp w).toNat
  if agIssues op || op = 0x10 || op = 0x11 || op = 0x12 then 4 else 0

/-- The conflict matrix of a pool (08 R165). -/
def conflictRows (pool : Vector Word 16) (valid : BitVec 16) (rd wr : Word → List Nat) (unit_ : Word → Nat) : Vector (BitVec 16) 16 :=
  let info : Vector (List Nat × List Nat × Nat) 16 := pool.map (fun w => (rd w, wr w, unit_ w))
  let meet (a b : List Nat) : Bool := a.any (fun e => b.contains e)
  Vector.ofFn (fun i : Fin 16 =>
    (List.range 16).foldl (fun (row : BitVec 16) j =>
      let a := vget ([], [], 0) info i
      let b := vget ([], [], 0) info j
      let hit : Bool := meet a.2.1 (b.1 ++ b.2.1) || meet b.2.1 (a.1 ++ a.2.1) || (a.2.2 != 0 && a.2.2 == b.2.2)
      if i ≠ j && bitB valid i && bitB valid j && hit then putBit row j true else row) 0)

/-! ## Routes (07 R148, R151, R154) -/

/-- The cell that relative coordinates name in a reach at a corner. -/
def placed (cx cy x y : Nat) : Nat := cellAt (cx + x) (cy + y)

/-- Whether an edge crosses the seam. -/
def Edge.crosses (e : Edge) (cx : Nat) : Bool := (cx + e.sx) / 16 != (cx + e.dx) / 16

/-- The seam link of edge i: routes that cross in one row are numbered in record order (07 R154). -/
def State.edgeLink (s : State) (es : List Edge) (cx cy i : Nat) (e : Edge) : Nat :=
  if !e.crosses cx || e.skind = 3 then 0
  else
    let row := cy + e.sy
    let l0 := bitB s.seamOpen (2 * row)
    let l1 := bitB s.seamOpen (2 * row + 1)
    if l0 && l1 then ((es.take i).filter (fun f => f.skind != 3 && f.crosses cx && f.sy == e.sy)).length % 2
    else if l0 then 0
    else 1

/-- The routes of an image placed at a corner: each edge with its configured route. -/
def State.placeRoutes (s : State) (m : List Unit64) (cx cy : Nat) : List (Edge × Route) :=
  let es := imgEdges m
  es.mapIdx (fun i e => (e,
    { dst := placed cx cy e.dx e.dy, dkind := e.dkind, chan := e.chan, cls := BitVec.ofNat 3 e.cls,
      vchan := BitVec.ofNat 5 e.vchan, bnd := e.bnd, scope := BitVec.ofNat 3 e.scope, link := s.edgeLink es cx cy i e }))

/-- The route of output `num` of a tile. -/
def routeFrom (rs : List (Edge × Route)) (kind x y num : Nat) : Option Route :=
  (rs.find? (fun p => p.1.skind == kind && p.1.sx == x && p.1.sy == y && p.1.num == num)).map (·.2)

/-- Input channels or ports of a tile that something feeds. -/
def fedMask (rs : List (Edge × Route)) (kind x y : Nat) : BitVec 8 :=
  rs.foldl (fun (a : BitVec 8) p => if p.1.dkind = kind && p.1.dx = x && p.1.dy = y then putBit a p.1.chan true else a) 0

/-! ## Sets -/

/-- A counter from its descriptor (02 R62, 12 R251). -/
def loadCounter (m : List Unit64) (a : Nat) : Counter :=
  { Counter.reset with
    bound := BitVec.ofNat 32 (imgF m a 0 32), chain := BitVec.ofNat 3 (imgF m a 32 3), chainEn := imgF m a 35 1 == 1,
    prog := imgF m a 36 1 == 1, hint := BitVec.ofNat 16 (imgF m a 48 16), pace := BitVec.ofNat 16 (imgF m a 48 16) }

/-- The issue state of a tile record: waiting until the flood wave has crossed (06 R143). -/
def loadIssue (m : List Unit64) (rs : List (Edge × Route)) (r : Rec) (reach : Nat) : Issue :=
  let base := if r.kind = 0 then 0x200 else 0x380
  { Issue.reset with
    reach := reach, run := .waiting, before := .running,
    pool := Vector.ofFn (fun i : Fin 16 => imgW m (r.off + base + 8 * i)), valid := BitVec.ofNat 16 (imgF m r.off 16 16),
    consts := Vector.ofFn (fun i : Fin 16 => imgW m (r.off + 0x40 + 8 * i)),
    ctr := Vector.ofFn (fun i : Fin 8 => loadCounter m (r.off + 0xC0 + 16 * i)),
    routes := Vector.ofFn (fun i : Fin 8 => routeFrom rs r.kind r.x r.y i), fed := fedMask rs r.kind r.x r.y }

/-- The issue state of a tile of a reach that has no record. -/
def bareIssue (rs : List (Edge × Route)) (kind x y reach : Nat) : Issue :=
  { Issue.reset with reach := reach, run := .waiting, before := .waiting, fed := fedMask rs kind x y }

/-- A compute tile's set. -/
def loadC (m : List Unit64) (rs : List (Edge × Route)) (r : Rec) (reach spill : Nat) : CSet :=
  let x := loadIssue m rs r reach
  { CSet.reset with
    iss := { x with conf := conflictRows x.pool x.valid (computeReads x) (computeWrites x) computeUnit },
    vch := Vector.ofFn (fun i : Fin 32 => entryAt m (some r) i), rmode := BitVec.ofNat 3 (imgF m r.off 32 3),
    sat := imgF m r.off 35 1 == 1, spill := spill, firstRecord := true }

/-- A template (02 R63) of a reach at a corner. -/
def loadTemplate (m : List Unit64) (rs : List (Edge × Route)) (r : Rec) (cx cy g : Nat) : Template :=
  let f := tmF m r g
  let space : Space := match f 0 2 2 with | 0 => .sram | 1 => .virt | _ => .stream
  let marked : Bool := f 0 22 1 == 1
  { Template.reset with
    valid := f 0 0 1 == 1, write := f 0 1 1 == 1, space := space, fmt := BitVec.ofNat 3 (f 0 4 3),
    vchan := BitVec.ofNat 5 (f 0 7 5), cls := BitVec.ofNat 3 (f 0 12 3), phase := BitVec.ofNat 2 (f 0 15 2), baseq := f 0 17 4,
    runtime := f 0 21 1 == 1, marked := marked, homeCell := f 8 5 4 * 32 + f 8 0 5, homePort := f 8 9 2,
    hasStream := f 8 46 1 == 1, dst := placed cx cy (f 8 32 5) (f 8 37 4), dkind := f 8 41 2, chan := f 8 43 3,
    link := ((routeFrom rs 1 r.x r.y (8 + g)).map (·.link)).getD 0,
    stride := Vector.ofFn (fun j : Fin 8 => BitVec.ofNat 32 (f (0x10 + 4 * j) 0 32)),
    mcell := if marked then placed cx cy (f 0x30 0 5) (f 0x30 5 4) else 0, mctr := f 0x30 9 3,
    mark0 := BitVec.ofNat 32 (f 0x30 32 32), mstep := Vector.ofFn (fun j : Fin 8 => BitVec.ofNat 16 (f (0x38 + 2 * j) 0 16)) }

/-- An address generator's set; its phase register loads from its write templates (11 R235). -/
def loadA (m : List Unit64) (rs : List (Edge × Route)) (r : Rec) (reach cx cy : Nat) : ASet :=
  let x := loadIssue m rs r reach
  let tm : Vector Template 4 := Vector.ofFn (fun g : Fin 4 => loadTemplate m rs r cx cy g)
  { ASet.reset with
    iss := { x with conf := conflictRows x.pool x.valid agReads (agWrites x tm) agUnit }, tm := tm,
    phase := ((tm.toList.find? (fun t => t.valid && t.write)).map (·.phase)).getD 0 }

/-- A switch's kernels (02 R64). -/
def loadK (m : List Unit64) (off reach : Nat) : KSet :=
  { reach := reach, flow := [],
    kernels := (List.range (skKernels m off)).map (fun n =>
      let a := off + 8 + 8 * n
      { code := skCode m off n, drop := imgF m a 6 1 == 1, fbase := imgF m a 7 9, flimit := imgF m a 16 9,
        classes := BitVec.ofNat 8 (imgF m a 32 8), inports := BitVec.ofNat 7 (imgF m a 40 7) }) }

/-- The tree of R330: parent and children. -/
def CNode.parent (d : CNode) : Option Nat := if d.rank = 0 then none else some ((d.rank - 1) / 2)
def CNode.children (d : CNode) : List Nat := [2 * d.rank + 1, 2 * d.rank + 2].filter (· ≤ d.peers)

/-- A collective node (19 R327). Its binding at launch takes its rank and its peers' ports from the job's peer table (R330). -/
def loadNode (m : List Unit64) (a : ASet) (off reach idx rank : Nat) (peers : Tbl (BitVec 28)) : CNode :=
  let d : CNode := {
    reach := reach, idx := idx, kind := imgF m off 12 4, rate := imgF m (off + 8) 0 32, peers := imgF m (off + 0x10) 0 16,
    rank := if imgF m off 12 4 < 5 then rank else 0, gws := [], epoch := 0, enabled := false, limit := 0, cstate := 0, count := 0,
    g2 := a.tmpl 2, g3 := a.tmpl 3, b2 := (a.tmpl 2).base a.iss, b3 := (a.tmpl 3).base a.iss, owed := [], op := none, frz := none,
    slot := none, rd := none, wr := none, flight := [], gate := [], pins := [], slotEnd := none, pinUntil := none }
  { d with gws := (d.parent.toList ++ d.children).map (fun q => bitsN (Tbl.get 0 peers q) 24 3) }

/-- Exchange the two sets of a cell (08 R175). -/
def Cell.swap (c : Cell) : Cell :=
  { c with c := ⟨c.c.ina, c.c.act⟩, a := ⟨c.a.ina, c.a.act⟩, m := ⟨c.m.ina, c.m.act⟩, k := ⟨c.k.ina, c.k.act⟩ }

/-- A memory tile's set: the words of its port table are carried out in index order (11 R238). -/
def State.loadM (s : State) (m : List Unit64) (rs : List (Edge × Route)) (r : Rec) (reach n : Nat) : State :=
  let table : Vector Word 8 := Vector.ofFn (fun i : Fin 8 => imgW m (r.off + 0x80 + 8 * i))
  let valid : BitVec 8 := BitVec.ofNat 8 (imgF m r.off 16 8)
  let s := s.updM n (fun _ => { MSet.reset with
    reach := reach, run := .waiting, table := table, valid := valid,
    routes := Vector.ofFn (fun p : Fin 4 => routeFrom rs 2 r.x r.y p) })
  (List.range 8).foldl (fun s i => if bitB valid i then s.portWord n (vget 0 table i) none else s) s

/-- Configure the active sets of one cell of a reach; what is left of an ended reach is gone. A new configuration of the
memory tile clears its high-water tables (16 R295), and a configuration the counters of 12 R259. -/
def State.loadCell (s : State) (m : List Unit64) (rs : List (Edge × Route)) (r : Reach) (x y : Nat) : State :=
  let n := placed r.cx r.cy x y
  let recs := (imgRecs m).1
  let colls := recs.filter (fun q => q.kind == 4)
  let spill := bitsN r.token 80 10
  let ag : ASet := match findTile recs x y 1 with
    | some q => loadA m rs q r.id r.cx r.cy
    | none => { ASet.reset with iss := bareIssue rs 1 x y r.id }
  let s := s.updCell n (fun c => { c with
    c := { c.c with act := match findTile recs x y 0 with
      | some q => loadC m rs q r.id spill
      | none => { CSet.reset with iss := bareIssue rs 0 x y r.id, spill := spill } }
    a := { c.a with act := ag }
    m := { c.m with act := { MSet.reset with reach := r.id, run := .waiting } }
    k := { c.k with act := match findTile recs x y 3 with
      | some q => loadK m q.off r.id
      | none => { KSet.reset with reach := r.id } }
    hwm := [], damaged := []
    need := { c.need with heldi := 0, holdrel := 0, late := 0 }
    nodes := match colls.findIdx? (fun q => q.x == x && q.y == y), findTile recs x y 4 with
      | some i, some q => c.nodes ++ [loadNode m ag q.off r.id i (s.job r.job).rank.toNat (s.job r.job).peers]
      | _, _ => c.nodes })
  match findTile recs x y 2 with
  | some q => s.loadM m rs q r.id n
  | none => s

/-- Configure every tile of a reach (06 R143): into the inactive sets for a SHADOW launch. -/
def State.configure (s : State) (r : Reach) (m : List Unit64) : State :=
  let rs := s.placeRoutes m r.cx r.cy
  let one (s : State) (e : Nat × Nat) : State :=
    let n := placed r.cx r.cy e.1 e.2
    if r.shadow then ((s.updCell n Cell.swap).loadCell m rs r e.1 e.2).updCell n Cell.swap
    else s.loadCell m rs r e.1 e.2
  let s := ((List.range r.h).flatMap (fun y => (List.range r.w).map (fun x => (x, y)))).foldl one s
  s.updReach r.id (fun r => { r with seedRoutes := Vector.ofFn (fun i : Fin 8 => routeFrom rs 3 0 0 i) })

end Sys2Proof.Machine
end

