-- ==== Sys2Proof/Machine/Tiers.lean ====
section
/-!
DEFINITION. The undertow engine, the frame pool and the working-set record (14 R274 to R277), invalidations (14 R273), the
control blocks of the stacks (14 R266) and their access counters (15 R280).
-/

namespace Sys2Proof.Machine

open Sys2Proof

/-! ## Reading page tables for the engine -/

/-- The leaf that maps an address, read without a walk's updates: the entry's place, its level and the entry. -/
def State.leafFrom (s : State) (va : Nat) : Nat → Nat → Nat → Nat → Option (Nat × Nat × Nat × Word)
  | 0, _, _, _ => none
  | fuel + 1, lv, stack, base =>
    let sa := base + 8 * lvIndex va lv
    if 2 ^ 36 ≤ sa || 12 ≤ stack then none
    else
      let e := s.hbmWord stack sa
      if !pteV e || pteMalformed e lv then none
      else if pteL e then some (stack, sa, lv, e)
      else State.leafFrom s va fuel (lv + 1) (pteStk e) (pteFrame e * 4096)
def State.leafOf (s : State) (j va : Nat) : Option (Nat × Nat × Nat × Word) :=
  s.leafFrom va 4 0 (s.job j).rstk.toNat ((s.job j).roota.toNat * 2 ^ 16)

/-- What the engine finds when it reads the tables: a leaf with its place and level, none, a quiesced stack, or a bad unit. -/
inductive Leaf where
  | none
  | at (stack sa lv : Nat) (e : Word)
  | closed
  | bad (stack sa : Nat)
  deriving DecidableEq, Repr

/-- The engine reads the tables for an address: each read is an access of its stack (15 R281), waits while that is quiesced (R266), and
delivers nothing of an uncorrectable unit (R279). -/
def State.leafRead (s : State) (va : Nat) : Nat → Nat → Nat → Nat → State × Leaf
  | 0, _, _, _ => (s, .none)
  | fuel + 1, lv, stack, base =>
    let sa := base + 8 * lvIndex va lv
    if 2 ^ 36 ≤ sa || 12 ≤ stack then (s, .none)
    else if !s.stackOpen stack then (s, .closed)
    else
      let s := s.countAccess stack sa
      if s.hbmBad stack sa then (s, .bad stack sa)
      else
        let e := s.hbmWord stack sa
        if !pteV e || pteMalformed e lv then (s, .none)
        else if pteL e then (s, .at stack sa lv e)
        else State.leafRead s va fuel (lv + 1) (pteStk e) (pteFrame e * 4096)
def State.engineLeaf (s : State) (j va : Nat) : State × Leaf :=
  s.leafRead va 4 0 (s.job j).rstk.toNat ((s.job j).roota.toNat * 2 ^ 16)

/-- Write a page-table entry as an atomic operation (14 R271), one access. -/
def State.putEntry (s : State) (stack sa : Nat) (e : Word) : State := (s.hbmPut stack sa 8 e.toNat).countAccess stack sa

/-- An entry with a TIER, and with a frame and placement. -/
def pteTierTo (e : Word) (t : Nat) : Word := (e &&& ~~~0x300#64) ||| BitVec.ofNat 64 (t * 2 ^ 8)
def pteFrameTo (e : Word) (frame stk : Nat) : Word :=
  (e &&& ~~~0x0FFFFFFFFFFF3C00#64) ||| BitVec.ofNat 64 (frame % 2 ^ 44 * 2 ^ 16 + stk % 16 * 2 ^ 10)

/-! ## The working-set record (14 R276) -/

/-- Where a job's record begins. -/
def Job.wsBase (b : Job) : Nat := b.wsa.toNat * 2 ^ 21

/-- Entry i of a job's record. -/
def State.wsEntry (s : State) (j i : Nat) : Word := s.hbmWord (s.job j).wstk.toNat ((s.job j).wsBase + 8 * i)

/-- Put an entry in index order. -/
def putInOrder (e : Nat × Nat) : List (Nat × Nat) → List (Nat × Nat)
  | [] => [e]
  | x :: t => if e.1 < x.1 then e :: x :: t else x :: putInOrder e t

/-- The valid entries of a job's record in index order: index and granule. There is no record before WSBASE is written. They are found from the bytes that memory lists: V is bit 0 of
an entry's first byte. -/
def State.wsEntries (s : State) (j : Nat) : List (Nat × Nat) :=
  let b := s.job j
  if !b.wsUsed then [] else
  s.hbm.foldl (fun l c =>
    let sa := s.hbmSa c.1
    if c.1 / 2 ^ 36 = b.wstk.toNat && b.wsBase ≤ sa && sa < b.wsBase + 2 ^ 21 && sa % 8 == 0 && c.2.getLsbD 0 then
      let i := (sa - b.wsBase) / 8
      putInOrder (i, bitsN (s.wsEntry j i) 1 31) l
    else l) []

/-- A page is in TIER 00, as a granule outside the tier range always counts. -/
def State.granuleResident (s : State) (j g : Nat) : Bool :=
  if !(s.job j).inTier (g * 2 ^ 21) then true
  else match s.leafOf j (g * 2 ^ 21) with
    | some (_, _, _, e) => pteTier e == 0
    | none => false

/-- RECB and RESB in units of 2 MiB, which the engine keeps up to date (R276): the valid entries of the table, and those that are
resident. -/
def State.recb (s : State) (j : Nat) : Nat := (s.wsEntries j).length
def State.resb (s : State) (j : Nat) : Nat := ((s.wsEntries j).filter (fun e => s.granuleResident j e.2)).length

/-- Item 4 of 06 R139 (14 R277); a RESTHR above 100 acts as 100. -/
def State.resident (s : State) (j : Nat) : Bool :=
  let thr := min (s.job j).resthr.toNat 100
  thr = 0 || s.recb j = 0 || thr * s.recb j ≤ s.resb j * 100

/-! ## Invalidation (14 R273) -/

/-- An entry of a cache is in the page [va, va + size) of a job, or all is set. -/
def TlbEnt.hit (e : TlbEnt) (j : Nat) (all : Bool) (va size : Nat) : Bool :=
  e.job == j && (all || (e.page * e.size < va + size && va < (e.page + 1) * e.size))

/-- The entries that every cache drops. -/
def State.tlbHits (s : State) (j : Nat) (all : Bool) (va size : Nat) : List TlbEnt :=
  (s.cells.flatMap (fun p => p.2.utlb) ++ s.cores.toList.flatMap (·.utlb) ++ s.dtlb.toList.flatten).filter (fun e => e.hit j all va size)

/-- Drop the matching entries of every cache. -/
def State.dropTlb (s : State) (j : Nat) (all : Bool) (va size : Nat) : State :=
  let keep (t : List TlbEnt) : List TlbEnt := t.filter (fun e => !e.hit j all va size)
  { s with
    cells := s.cells.map (fun p => (p.1, { p.2 with utlb := keep p.2.utlb }))
    cores := s.cores.map (fun c => { c with utlb := keep c.utlb })
    dtlb := s.dtlb.map keep }

/-- What has been sent towards memory through a dropped entry, or through the page: requests that have left their issue stage, stores of contexts, and overflow
transfers (R273). -/
def State.sentThrough (s : State) (j : Nat) (all : Bool) (va size : Nat) : Sent :=
  let dropped := s.tlbHits j all va size
  let within (a : Nat) : Bool := all || (va ≤ a && a < va + size) || dropped.any (fun e => a / e.size == e.page)
  { reqs := (s.job j).cells.flatMap (fun n =>
      ((s.aset n).q.filter (fun q =>
        (q.stage == .placed || q.stage == .cpyWrite) && ((s.aset n).tmpl q.tmplNow).space == .virt && within q.addrNow)).map (fun q => (n, q.id)))
    stores := (List.range 64).flatMap (fun c =>
      if (s.ctx c).job = j then ((s.ctx c).stores.filter (fun p => within p.va.toNat)).map (fun p => (c, p)) else [])
    spills := (s.job j).cells.flatMap (fun n => s.reaches.filterMap (fun r =>
      match (s.csetOf n r.id).bind (·.spillOut) with
      | some a => if r.job = j && within a then some (n, r.id, a) else none
      | none => none)) }

/-- Something of a list is still to be applied. -/
def State.stillOut (s : State) (l : Sent) : Bool :=
  l.reqs.any (fun e => match (s.aset e.1).req? e.2 with
    | some q => q.stage == .placed || q.stage == .cpyWrite
    | none => false)
    || l.stores.any (fun e => (s.ctx e.1).stores.contains e.2)
    || l.spills.any (fun e => (s.csetOf e.1 e.2.1).bind (·.spillOut) == some e.2.2)

/-- Page size of a SIZE code. -/
def invSize (n : Nat) : Nat := match n with | 0 => 2 ^ 12 | 1 => 2 ^ 16 | 2 => 2 ^ 21 | _ => 2 ^ 30

/-- TLBINV: a write with GO starts an invalidation; with one in progress it is ignored (log entry 52). -/
def State.tlbInv (s : State) (j : Nat) (v : Word) : State :=
  if !bitB v 0 || (s.job j).inv.isSome || j = 0 || 63 < j then s
  else
    let all := bitB v 1
    let size := invSize (bitsN v 2 2)
    let va := bitsN v 12 40 * 4096 / size * size
    (s.dropTlb j all va size).updJob j (fun b => { b with inv := some (all, va, size, s.sentThrough j all va size) })
def execTlbinv (job : Nat) (v : Word) (s : State) : Host.Outcome State Fault Refusal := .next (s.tlbInv job v)

/-- TLBINV_DONE: every request through a dropped entry has been applied. -/
def execTlbinvDone (job : Nat) (s : State) : Host.Outcome State Fault Refusal :=
  match (s.job job).inv with
  | none => .next s
  | some (_, _, _, l) =>
    if s.stillOut l then .next s
    else .next (s.updJob job (fun b => { b with inv := none }))

/-! ## The undertow engine (14 R274, R275, R277) -/

/-- The pages of a node's operation in progress, in space V: address and length of its source and its destination. -/
def CNode.pages (d : CNode) : List (Nat × Nat) := match d.op with
  | none => []
  | some o =>
    let range (t : Template) (b : Word) (units : Nat) : List (Nat × Nat) := if t.space = .virt then [(b.toNat, 64 * units)] else []
    range d.g2 d.b2 o.n ++ range d.g3 d.b3 o.total

/-- A page that a running collective uses, or that an aborted one still holds pinned (14 R275, 19 R334). -/
def State.pinned (s : State) (j page : Nat) : Bool :=
  (s.job j).cells.any (fun n => (s.cell n).nodes.any (fun d =>
    (d.pages ++ d.pins).any (fun r => r.1 < (page + 1) * 2 ^ 21 && page * 2 ^ 21 < r.1 + r.2)))

/-- The host home of a page (14 R274). -/
def Job.home (b : Job) (page : Nat) : Nat := b.hbase.toNat / 4096 * 4096 + (page - b.tvlo.toNat) * 2 ^ 21

/-- Set TIER of the page's entry to in transit. -/
def State.inTransit (s : State) (j page : Nat) : State :=
  match s.leafOf j (page * 2 ^ 21) with
  | some (k, sa, _, e) => s.putEntry k sa (pteTierTo e 2)
  | none => s

/-- How a move of a page starts: it does, the page cannot move, or the engine waits. -/
inductive Start where
  | go (s : State)
  | skip (s : State)
  | wait (s : State)

def Start.going : Start → Option State
  | .go s => some s
  | _ => none
def Start.waiting (s : State) : Start → State
  | .wait t => t
  | _ => s

/-- A page that may move: a 2 MiB page of the tier range whose PIN is clear (R274, R275). -/
def State.movable (s : State) (j page lv : Nat) (e : Word) : Bool :=
  (s.job j).inTier (page * 2 ^ 21) && pageSize e lv == 2 ^ 21 && !ptePin e

/-- Start a move up of a page in TIER 01; it waits while the pool is empty, a stack it needs is quiesced, or a word it reads is bad. -/
def State.startUp (s : State) (j page : Nat) : Start :=
  let va := page * 2 ^ 21
  match s.engineLeaf j va with
  | (t, .none) => .skip t
  | (_, .closed) => .wait s
  | (t, .bad k sa) => .wait (s.memError t j va sa 2 k whoUndertow)
  | (t, .at _ _ lv e) =>
    let sa := s.poolBase.toNat * 4096 + 8 * (s.poolN.toNat - 1)
    let k := s.poolStk.toNat
    if pteTier e ≠ 1 || !s.movable j page lv e then .skip t
    else if s.poolN = 0 || !s.stackOpen k then .wait s
    else if s.hbmBad k sa then .wait (s.memError (t.countAccess k sa) j va sa 3 k whoUndertow)
    else
      let t := (t.memErrDone j va whoUndertow).countAccess k sa
      .go { State.inTransit { t with poolN := t.poolN - 1 } j page with
        moves := [{ job := j, page := page, up := true, frame := s.hbmWord k sa, wait := ⟨[], [], []⟩ }] }

/-- Start a move down of a page in TIER 00 that R275 does not exclude: it is invalidated first. -/
def State.startDown (s : State) (j page : Nat) : Start :=
  let va := page * 2 ^ 21
  match s.engineLeaf j va with
  | (t, .none) => .skip t
  | (_, .closed) => .wait s
  | (t, .bad k sa) => .wait (s.memError t j va sa 2 k whoUndertow)
  | (t, .at _ _ lv e) =>
    if pteTier e ≠ 0 || !s.movable j page lv e || s.pinned j page then .skip t
    else
      let t := t.memErrDone j va whoUndertow
      let wait := t.sentThrough j false va (2 ^ 21)
      let f : Word := BitVec.ofNat 64 (pteFrame e * 4096 + pteStk e * 2 ^ 40)
      .go { (t.inTransit j page).dropTlb j false va (2 ^ 21) with moves := [{ job := j, page := page, up := false, frame := f, wait := wait }] }

/-- The move of the oldest miss whose page can be brought. -/
def State.missStart (s : State) : Option State := s.misses.findSome? (fun m => (s.startUp m.job m.page).going)

/-- MOVE_UP: with no move in progress, the oldest miss whose page can be brought starts its move. -/
def execMoveUp (s : State) : Host.Outcome State Fault Refusal :=
  if s.moves ≠ [] then .next s
  else match s.missStart with
    | some s' => .next s'
    | none => .next (s.misses.foldl (fun (s : State) m => (s.startUp m.job m.page).waiting s) s)

/-- Copy the first n units of a page between its host home and its frame (14 R274): each counts at its stack. -/
def State.copyUnits (s : State) (j home frame stk n : Nat) (up : Bool) : State :=
  (List.range n).foldl (fun (s : State) i =>
    match s.place j stk (frame + 64 * i) with
    | none => s
    | some (k, sa) =>
      let s := s.countAccess k sa
      if up then (s.hbmPut k sa 64 (memRead s.host (home + 64 * i) 64)).mend 1 (s.hbmKey k sa / 64)
      else { s with host := memWrite s.host (home + 64 * i) 64 (s.hbmUnit k sa).toNat }) s
def State.copyPage (s : State) (j home frame stk : Nat) (up : Bool) : State := s.copyUnits j home frame stk 32768 up

/-- The stacks a page's units lie on are open. -/
def State.pageOpen (s : State) (j frame stk : Nat) : Bool :=
  (List.range 512).all (fun i => match s.place j stk (frame + 4096 * i) with | some (k, _) => s.stackOpen k | none => true)

/-- The unit at which a copy fails: one with no place, or, for a copy that reads the frame, an uncorrectable one; and its stack
(14 R274, R279). -/
def State.copyFails (s : State) (j frame stk : Nat) (up : Bool) : Option (Nat × Nat) :=
  (List.range 32768).findSome? (fun i => match s.place j stk (frame + 64 * i) with
    | some (k, sa) => if !up && s.hbmBad k sa then some (i, k) else none
    | none => some (i, stk))

/-- Templates, spill ports, nodes and requests that waited for a page go on (21 R348). -/
def State.pageBack (s : State) (j page : Nat) : State :=
  let s := { s with misses := s.misses.filter (fun m => !(m.job == j && m.page == page)) }
  (s.job j).cells.foldl (fun (s : State) n =>
    let s := s.updA n (fun a =>
      let mine (q : Req) : Bool := q.stage == .tier && q.addrNow / 2 ^ 21 == page
      let ids := (a.q.filter mine).map (·.id)
      { a with
        q := a.q.map (fun q => if mine q then { q with stage := q.again } else q)
        tm := a.tm.map (fun t => { t with frozen := t.frozen.filter (fun e => !(e.2 == .tier && ids.contains e.1)) }) })
    let again (x : CSet) : CSet := if x.spillFrz = some .tier then { x with spillFrz := none } else x
    { s.updCell n (fun c => { c with
        nodes := c.nodes.map (fun d => if d.frz = some .tier then { d with frz := none } else d), c := ⟨again c.c.act, again c.c.ina⟩ }) with
      images := s.images.map (fun m => { m with cells := m.cells.map (fun e => if e.cell = n then { e with c := again e.c } else e) }) }) s

/-- A frame goes back to the pool; beyond POOLCAP it is lost to the pool. -/
def State.poolPush (s : State) (f : Word) : State :=
  let k := s.poolStk.toNat
  let sa := s.poolBase.toNat * 4096 + 8 * s.poolN.toNat
  if s.poolCap ≤ s.poolN then s
  else { (s.hbmPut k sa 8 f.toNat).countAccess k sa with poolN := s.poolN + 1 }

/-- A copy that fails at unit i leaves the page in its source tier, and cause 0x0F is written; the frame of a move up goes back to the
pool (14 R274, R279). -/
def State.copyFailed (s : State) (m : Move) (e : Word) (k sa i stk : Nat) : State :=
  let frame := bitsN m.frame 12 28 * 4096
  let s := s.copyUnits m.job ((s.job m.job).home m.page) frame (bitsN m.frame 40 4) i m.up
  let s := if m.up then s.poolPush m.frame
    else match s.place m.job (bitsN m.frame 40 4) (frame + 64 * i) with
      | some (k, sa) => (s.countAccess k sa).noteBad k
      | none => s
  let s := s.putEntry k sa (pteTierTo e (if m.up then 1 else 0))
  let s := s.event m.job 0x0F 2 0x001 (BitVec.ofNat 64 (frame + 64 * i)) (BitVec.ofNat 64 (3 + 16 * stk)) 0x001 none
  { s with moves := [] }.pageBack m.job m.page

/-- The move in progress copies its page and sets its entry e at (k, sa). -/
def State.endMove (s : State) (m : Move) (k sa : Nat) (e : Word) : State :=
  let frame := bitsN m.frame 12 28 * 4096
  let stk := bitsN m.frame 40 4
  match s.copyFails m.job frame stk m.up with
  | some (i, bs) => s.copyFailed m e k sa i bs
  | none =>
    let s := s.copyPage m.job ((s.job m.job).home m.page) frame stk m.up
    if m.up then
      let s := s.putEntry k sa (pteTierTo (pteFrameTo e (frame / 4096) stk) 0)
      let s := s.updJob m.job (fun b => { b with upcnt := b.upcnt + 1 })
      { s with moves := [] }.pageBack m.job m.page
    else
      let s := s.putEntry k sa (pteTierTo (pteFrameTo (e &&& ~~~0x40#64) 0 0) 1)
      let s := s.updJob m.job (fun b => { b with dncnt := b.dncnt + 1 })
      { s.poolPush m.frame with moves := [] }

/-- A stack that the move in progress needs is quiesced, or a request through the page has still to be applied. -/
def State.moveWaits (s : State) (m : Move) : Bool :=
  !s.pageOpen m.job (bitsN m.frame 12 28 * 4096) (bitsN m.frame 40 4) || (!m.up && s.stillOut m.wait) || !s.stackOpen s.poolStk.toNat

/-- PAGE_MOVE_DONE: the engine reads the page's entry again, and the move ends. -/
def execPageMoveDone (s : State) : Host.Outcome State Fault Refusal :=
  match s.moves with
  | [] => .next s
  | m :: _ =>
    let va := m.page * 2 ^ 21
    if s.moveWaits m then .next s
    else match s.engineLeaf m.job va with
      | (t, .none) => .next { t with moves := [] }
      | (_, .closed) => .next s
      | (t, .bad k sa) => .next (s.memError t m.job va sa 2 k whoUndertow)
      | (t, .at k sa _ e) => .next ((t.memErrDone m.job va whoUndertow).endMove m k sa e)

/-- A move that runs when the device is reset ends first (21 R356). -/
def State.finishMove (s : State) : State :=
  match s.moves with
  | [] => s
  | m :: _ => match s.engineLeaf m.job (m.page * 2 ^ 21) with
    | (t, .at k sa _ e) => t.endMove m k sa e
    | _ => { s with moves := [] }

/-- TIER_TIMEOUT: miss n has waited TIERTO since its start or its last event (14 R274). -/
def execTierTimeout (n : Nat) (s : State) : Host.Outcome State Fault Refusal :=
  match s.misses[n]? with
  | none => .next s
  | some m =>
    let limit := (s.job m.job).tierto.toNat
    if limit = 0 || s.tick < m.last + 1000 * limit then .next s
    else
      let s := s.event m.job 0x0D m.ukind.toNat m.unit.toNat m.va (BitVec.ofNat 64 (b2n (s.poolN == 0))) 0
        (if m.reach = 0 then none else some m.reach)
      .next { s with misses := s.misses.map (fun x => if x.job = m.job && x.page = m.page then { x with last := s.tick } else x) }

/-- The command at the head of the engine's queue is this one. -/
def State.tierHead (s : State) (j : Nat) (c : TierCmd) : Option TierJob :=
  match s.tiers with
  | t :: _ => if t.job = j && t.cmd = c && s.moves = [] then some t else none
  | [] => none

/-- Go through entries of the record in index order: the first page whose move starts, or for which the engine waits; a page that cannot
move is passed over, and past the last entry the command is done. Each entry it takes is one access of the record's stack (15 R281; log
entry 87). -/
def State.tierScan (j : Nat) (t : TierJob) (start : State → Nat → Start) : List (Nat × Nat) → State → State
  | [], s => { s with tiers := s.tiers.tail }
  | (i, g) :: l, s =>
    let k := (s.job j).wstk.toNat
    let sa := (s.job j).wsBase + 8 * i
    if s.hbmBad k sa then s.memError (s.countAccess k sa) j sa sa 3 k whoUndertow
    else
      let u := (s.memErrDone j sa whoUndertow).countAccess k sa
      if !(s.job j).inTier (g * 2 ^ 21) then State.tierScan j t start l u
      else match start u g with
        | .go s => { s with tiers := { t with at_ := i + 1 } :: s.tiers.tail }
        | .wait _ => let w := (start s g).waiting s; { w with tiers := { t with at_ := i } :: w.tiers.tail }
        | .skip s => State.tierScan j t start l s

/-- The command at the head goes on from entry `at_`. Misses are served before command work. -/
def State.tierStep (s : State) (j : Nat) (c : TierCmd) (start : State → Nat → Start) : State :=
  match s.tierHead j c with
  | none => s
  | some t =>
    if s.missStart.isSome || !s.stackOpen (s.job j).wstk.toNat then s
    else State.tierScan j t start ((s.wsEntries j).filter (fun e => t.at_ ≤ e.1)) s

/-- DOWN: the command moves down the next page of the record in TIER 00 that R275 does not exclude. -/
def execDown (job : Nat) (s : State) : Host.Outcome State Fault Refusal := .next (s.tierStep job .down (fun s g => s.startDown job g))

/-- UP: the command moves up the next page of the record in TIER 01. It waits while the pool is empty. -/
def execUp (job : Nat) (s : State) : Host.Outcome State Fault Refusal := .next (s.tierStep job .up (fun s g => s.startUp job g))

/-- WSCLR: the command empties the record, one write for each valid entry. -/
def execWsclr (job : Nat) (s : State) : Host.Outcome State Fault Refusal :=
  match s.tierHead job .wsclr with
  | none => .next s
  | some _ =>
    let b := s.job job
    let k := b.wstk.toNat
    if !s.stackOpen k then .next s
    else
      let s := (s.wsEntries job).foldl (fun (s : State) e =>
        (s.countAccess k (b.wsBase + 8 * e.1)).hbmPut k (b.wsBase + 8 * e.1) 8 0) s
      .next { s with tiers := s.tiers.tail }

/-- TIERCMD queues commands; several in one write are queued in the order of their bits. -/
def State.tierCmd (s : State) (j : Nat) (v : Word) : State :=
  let q (b : Nat) (c : TierCmd) : List TierJob := if bitB v b then [{ job := j, cmd := c, at_ := 0 }] else []
  { s with tiers := s.tiers ++ q 0 .down ++ q 1 .up ++ q 2 .wsclr }

/-! ## Stacks (14 R266, 15 R280) -/

/-- IDLE: a quiesced controller with no request outstanding. A request that waits at the fabric edge is not outstanding, and
a controller serves each request it accepts in one step. -/
def Stack.idle (k : Stack) : Bool := k.quiesce

/-- STACK_CONTROL_WRITE: IDLE is judged as it stands before the write. -/
def execStackControlWrite (stack : Nat) (v : Word) (s : State) : Host.Outcome State Fault Refusal :=
  let mask : BitVec 27 := bits v 13 27
  .next (s.updStk stack (fun k =>
    let k' := { k with quiesce := bitB v 63 }
    if mask = k.hmask then k' else if k.idle then { k' with hmask := mask } else { k' with herr := true }))

/-- PCCLR: an access of the cycle counts after the clear, which leaves its counter at 1 (15 R281). -/
def State.pcClear (s : State) (stack : Nat) : State :=
  let mine (p : Nat × BitVec 32) : Bool := stack * 64 ≤ p.1 && p.1 < stack * 64 + 64
  { s with pcreq := (s.pcNow.filter mine).foldl (fun l p => Tbl.set l p.1 (if p.2 = 0 then 0 else 1)) (s.pcreq.filter (fun p => !mine p)) }
def execPcclr (stack : Nat) (v : Word) (s : State) : Host.Outcome State Fault Refusal :=
  .next (if bitB v 0 then s.pcClear stack else s)

end Sys2Proof.Machine
end

