-- ==== Sys2Proof/Machine/Launch.lean ====
section
/-!
DEFINITION. Launch: tokens, the launch sequencer's decisions, image loads, the flood wave and completion (06; 05 R117,
R123, R124), and the host's submissions.
-/

namespace Sys2Proof.Machine

open Sys2Proof

/-! ## Launch tokens (06 R136, R141) -/

/-- Fields of a launch token. -/
def tokF (t : Unit64) (off lo w : Nat) : Nat := bitsN t (8 * off + lo) w
def tokImage (t : Unit64) : Nat := tokF t 0 0 52
def tokRx (t : Unit64) : Nat := tokF t 8 0 5
def tokRy (t : Unit64) : Nat := tokF t 8 5 4
def tokNseed (t : Unit64) : Nat := tokF t 8 12 4
def tokSpill (t : Unit64) : Nat := tokF t 8 16 10
def tokAny (t : Unit64) : Bool := tokF t 8 26 1 == 1
def tokNdep (t : Unit64) : Nat := tokF t 8 27 3
def tokSignal (t : Unit64) : Nat := tokF t 0x10 0 52
def tokCpc (t : Unit64) : Nat := tokF t 0x18 0 52
def tokDaddr (t : Unit64) (d : Nat) : Nat := tokF t (0x20 + 8 * d) 3 49 * 8
def tokDval (t : Unit64) (d : Nat) : Nat := tokF t (0x20 + 8 * d) 52 12

/-- A reserved bit set, an entry past NDEP, or a field out of range (R141, reason 1). NSEED is ignored in a device-side
token. -/
def tokReserved (t : Unit64) (device : Bool) : Bool :=
  tokF t 0 52 12 != 0 || tokF t 8 9 3 != 0 || tokF t 8 30 34 != 0 || tokF t 0x10 52 12 != 0 || tokF t 0x18 52 12 != 0
    || (!device && 8 < tokNseed t) || 512 < tokSpill t || 4 < tokNdep t
    || (List.range 4).any (fun d =>
      if d < tokNdep t then tokF t (0x20 + 8 * d) 0 3 != 0 else tokF t (0x20 + 8 * d) 0 64 != 0)

/-- What a check of a token finds. -/
inductive TokCheck where
  | ok (w h : Nat)
  | reject (reason : Nat)
  | wait
  deriving DecidableEq, Repr

/-- The checks of R141: a partition at all (07 R146), reserved and range, alignment, the home context, the image header, the
rectangle (log entry 53). -/
def State.checkToken (s : State) (j : Nat) (t : Unit64) (device homev : Bool) : State × TokCheck :=
  if !(s.job j).valid then (s, .reject 2)
  else if tokReserved t device then (s, .reject 1)
  else if tokImage t % 64 ≠ 0 then (s, .reject 3)
  else if !device && tokCpc t = 0 && !homev then (s, .reject 5)
  else
    let r := s.sysReach j (tokImage t) .read whoSeq
    match r.2 with
    | .wait => (r.1, .wait)
    | .fault _ _ => (r.1, .reject 6)
    | .at k sa =>
      let m := [r.1.hbmUnit k sa]
      let b := s.job j
      let s := r.1.countAccess k sa
      if b.x1 < b.x0 + tokRx t + imgWidth m - 1 || b.y1 < b.y0 + tokRy t + imgHeight m - 1 then (s, .reject 2)
      else (s, .ok (imgWidth m) (imgHeight m))

/-! ## Completion signals (06 R143) -/

/-- Values of a signal: rejected, refused, cancelled. -/
def sigRejected (reason : Nat) : Word := BitVec.ofNat 64 (0xFFFFFFFF00000000 + reason)
def sigRefused (ri code : Nat) : Word := BitVec.ofNat 64 (0xFFFFFFFE00000000 + ri * 0x10000 + code)
def sigCancelled (reason : Nat) : Word := BitVec.ofNat 64 (0xFFFFFFFD00000000 + reason)

/-- An error value. -/
def sigError (v : Word) : Bool := 0xFFFFFFFD ≤ bitsN v 32 32

/-- Write a value to a signal, or add 1 to it. A write that faults is not made and writes an event. False while the access
waits. The low three bits of a signal's address are ignored (log entry 54). -/
def State.signal (s : State) (j addr : Nat) (add : Bool) (v : Word) : State × Bool :=
  if addr = 0 then (s, true)
  else
    let a := addr / 8 * 8
    let r := s.sysReach j a (if add then .atomic else .write) whoSeq
    match r.2 with
    | .wait => (r.1, false)
    | .fault cause code =>
      (r.1.event j cause 2 0x000 (BitVec.ofNat 64 addr) (if add then 1 else v) (BitVec.ofNat 64 code) none, true)
    | .at k sa => (r.1.writeAt j a k sa 8 (if add then r.1.hbmWord k sa + 1 else v).toNat, true)

/-! ## The end of a launch (05 R117, 06 R143) -/

/-- A task is counted in STARTED once: when its first round fires, or when it ends without starting (06 R137). -/
def State.countStarted (s : State) (r : Reach) : State :=
  if r.device || r.startedCount then s
  else
    let s := s.updReach r.id (fun r => { r with startedCount := true })
    s.updJob r.job (fun b => { b with
      queues := vset b.queues r.queue (let q := vget Queue.reset b.queues r.queue; { q with started := q.started + 1 }) })

/-- The handle slot of a reach is freed. -/
def State.freeHandle (s : State) (r : Reach) : State :=
  if !r.bound then s
  else s.updCtx r.ctx (fun c => { c with
    slots := c.slots.map (fun h => if h.reach = some r.id then { h with reach := none } else h) })

/-- Pending breakwater records of a reach are written (07 R155). -/
def State.closeDrops (s : State) (id : Nat) : State :=
  s.cells.foldl (fun (s : State) p => (List.range 7).foldl (fun (s : State) k =>
    match vget none (s.cell p.1).drops k with
    | some d => if d.reach = id then s.closeDrop p.1 k else s
    | none => s) s) s

/-- Everything that names a reach that has ended goes. -/
def State.dropReach (s : State) (r : Reach) : State :=
  let s := (s.countStarted r).freeHandle r
  let s := s.updJob r.job (fun b => { b with
    queues := b.queues.map (fun q => { q with
      seeds := q.seeds.filter (fun e => e.1 != r.id), seedOwed := q.seedOwed.filter (fun e => e.1 != r.id) }) })
  { s with
    reaches := s.reaches.filter (fun x => x.id != r.id)
    images := s.images.filter (fun x => x.reach != r.id)
    recordsOut := s.recordsOut.filter (fun p => p.2.reach != r.id)
    phaseMsgs := s.phaseMsgs.filter (fun m => m.src / 512 != r.id)
    phaseCnts := s.phaseCnts.filter (fun c => c.src / 512 != r.id)
    cells := s.cells.map (fun p => (p.1, { p.2 with
      records := p.2.records.filter (fun x => x.reach != r.id)
      nodes := p.2.nodes.filter (fun d => d.reach != r.id || d.pinUntil.isSome) })) }

/-- A launch ends with an outcome at its signal. False while the signal's write waits: nothing else is done. -/
def State.endLaunch (s : State) (r : Reach) (add : Bool) (v : Word) : State × Bool :=
  let p := s.signal r.job r.signal add v
  if p.2 then (p.1.dropReach r, true) else p

/-! ## Handles (05 R117) -/

/-- The reach a valid handle names. -/
def Context.handleReach (c : Context) (h : Word) : Option Nat :=
  if bitB h 63 || bitsN h 3 5 ≠ 0 || bitsN h 16 47 ≠ 0 then none
  else
    let e := vget ⟨0, none⟩ c.slots (bitsN h 0 3)
    if e.gen = bits h 8 8 then e.reach else none

/-- The state a handle shows: what the launch asked for until its flood wave has crossed (R124), then its own. -/
def Reach.shows (r : Reach) : RState :=
  match r.st with
  | .shadowed => .shadowed
  | .armed => .armed
  | .running => .running
  | .ebbing => .running
  | .saved => .saved
  | _ => if r.shadow then .shadowed else if r.armedReq then .armed else .running

/-- A permission-fault trap of a CF instruction: its operand, the detail, the word (05 R113, R117). -/
def State.detailTrap (s : State) (c : Nat) (h : Word) (detail : Nat) (w : BitVec 32) : State :=
  s.syncTrap c 0x04 h (BitVec.ofNat 64 detail) (w.setWidth 64)

/-- The free slot of lowest number. -/
def Context.freeSlot (c : Context) : Option Nat := (List.range 8).find? (fun i => (vget ⟨0, none⟩ c.slots i).reach.isNone)

/-- Fill a slot with a reach: the generation grows; the handle. -/
def State.fillHandle (s : State) (c slot id : Nat) : State × Word :=
  let g := (vget ⟨0, none⟩ (s.ctx c).slots slot).gen + 1
  (s.updCtx c (fun x => { x with slots := vset x.slots slot ⟨g, some id⟩ }), BitVec.ofNat 64 (slot + g.toNat * 2 ^ 8))

/-- A launch that has not been admitted. -/
def newLaunch (id job : Nat) (t : Unit64) : Reach :=
  { id := id, job := job, st := .accepted, device := false, queue := 0, ctx := 0, bound := false, slot := 0, handle := 0,
    token := t, shadow := false, armedReq := false, image := tokImage t, cx := 0, cy := 0, w := 1, h := 1,
    signal := tokSignal t, depMet := 0, checked := false, pollDirty := true, pollStuck := false, pollAt := 0, number := 0,
    seedRoutes := Vector.replicate 8 none, reqsig := false, units := [], loaded := false, gang := none, quiet := 0, swDone := false, liveNs := 0,
    wdDone := false, startedCount := false, ebb := .none }

/-! ## LAUNCH (05 R124, 06 R144) -/

/-- LAUNCH: release, read the token, wait for the sequencer. -/
def execLaunch (h b : Reg) (a sh : BitVec 1) (s : State) : Host.Outcome State Fault Refusal :=
  let c := s.focus.ctx
  let w := wordOf (.launch h b a sh)
  let va := (s.ctx c).reg b
  if a = 1 && sh = 1 then .next (s.syncTrap c 0x01 (w.setWidth 64) 0 0)
  else if va &&& 63#64 ≠ 0 then .next (s.syncTrap c 0x02 va 0 0)
  else match s.drain c with
    | none => .next (s.block c (.access .fence))
    | some s =>
      let r := s.coreReach c va .read
      match r.2 with
      | .fault cause code => .next (r.1.accessTrap c va 2 cause code (w.setWidth 64))
      | .wait => .next (r.1.block c (.access .fence))
      | .at k sa => .next ((r.1.countAccess k sa).block c (.launch h (r.1.hbmUnit k sa) (sh == 1) (a == 1)))

/-- LAUNCH_ACCEPT: the sequencer takes the token of a context's LAUNCH, or refuses it. -/
def execLaunchAccept (c : Nat) (s : State) : Host.Outcome State Fault Refusal :=
  let x := s.ctx c
  match x.st, x.wait with
  | .blocked, .launch h t shadow armed =>
    match x.freeSlot with
    | none => .next (s.retire c h 0x8000000000000001)
    | some slot =>
      let j := x.job
      let r := s.checkToken j t true false
      match r.2 with
      | .wait => .next r.1
      | .reject k =>
        let p := r.1.signal j (tokSignal t) false (sigRejected k)
        .next (if p.2 then p.1.retire c h (BitVec.ofNat 64 (0x8000000000000100 + k)) else p.1)
      | .ok w hh =>
        let id := r.1.nextId + 1
        let p := r.1.fillHandle c slot id
        let b := s.job j
        let l : Reach := { newLaunch id j t with
          device := true, ctx := c, bound := true, slot := slot, handle := p.2, shadow := shadow, armedReq := armed,
          cx := b.x0 + tokRx t, cy := b.y0 + tokRy t, w := w, h := hh, checked := true }
        .next ({ p.1 with nextId := id, reaches := p.1.reaches ++ [l] }.retire c h p.2)
  | _, _ => .next s

/-! ## Submissions (06 R137, R138) -/

/-- Tokens of a queue that have not ended, oldest first. -/
def State.queueTokens (s : State) (j q : Nat) : List Reach := s.reaches.filter (fun r => r.job == j && !r.device && r.queue == q)

def State.queue (s : State) (j q : Nat) : Queue := vget Queue.reset (s.job j).queues q
def State.updQueue (s : State) (j q : Nat) (f : Queue → Queue) : State :=
  s.updJob j (fun b => { b with queues := vset b.queues q (f (vget Queue.reset b.queues q)) })

/-- The eight words of a slot as one token. -/
def slotToken (v : Vector Word 8) : Unit64 := BitVec.ofNat 512 (v.toList.foldr (fun w a => w.toNat + a * 2 ^ 64) 0)

/-- LAUNCH_TOKEN_SUBMIT: the word at 0x038 is written and the slot submitted. -/
def execLaunchTokenSubmit (job q : Nat) (v : Word) (s : State) : Host.Outcome State Fault Refusal :=
  if job = 0 || 63 < job || 16 ≤ q then .next s
  else
    let s := s.updQueue job q (fun k => { k with slot := vset k.slot 7 v })
    let k := s.queue job q
    if !k.enable || 64 ≤ (s.queueTokens job q).length then .next (s.updQueue job q (fun k => { k with dropped := k.dropped + 1 }))
    else
      let t := slotToken k.slot
      let id := s.nextId + 1
      let n := tokNseed t
      let s := s.updQueue job q (fun k => { k with
        submitted := k.submitted + 1, seedOwed := if n = 0 || 8 < n then k.seedOwed else k.seedOwed ++ [(id, n)] })
      .next { s with nextId := id, reaches := s.reaches ++ [{ newLaunch id job t with queue := q }] }

/-! ## Candidates and dependences (06 R139) -/

/-- The oldest token of its queue, or an accepted device-side launch. -/
def State.candidate (s : State) (r : Reach) : Bool :=
  r.st == .accepted && (s.job r.job).valid &&
    (r.device || ((s.queueTokens r.job r.queue).head?.map (·.id) == some r.id && (s.queue r.job r.queue).enable))

/-- Read the dependences of a launch, from dependence d on. -/
def State.readDeps (s : State) (r : Reach) : Nat → Nat → BitVec 4 → State × Option (Except Nat (BitVec 4))
  | 0, _, met => (s, some (.ok met))
  | n + 1, d, met =>
    let a := tokDaddr r.token d
    let p := s.sysReach r.job a .read whoSeq
    match p.2 with
    | .wait => (p.1, none)
    | .fault _ _ => (p.1, some (.error 4))
    | .at k sa =>
      let v := p.1.hbmWord k sa
      let s := p.1.countAccess k sa
      if sigError v && !tokAny r.token then (s, some (.error 2))
      else State.readDeps s r n (d + 1) (putBit met d (tokDval r.token d ≤ v.toNat))

/-- A candidate's dependences are read on a written line and every 1,024 cycles. -/
def State.pollDue (s : State) (r : Reach) : Bool :=
  r.checked && s.candidate r && tokNdep r.token != 0 && (r.pollDirty || r.pollAt + 1024 ≤ s.cycle)

/-- DEPENDENCE_POLL: an address that does not translate rejects the token with reason 4; an error value without ANY cancels
it with reason 2 (R141, R143). A read that has to wait is made again. -/
def execDependencePoll (l : Nat) (s : State) : Host.Outcome State Fault Refusal :=
  match s.reach? l with
  | none => .next s
  | some r =>
    if !s.pollDue r then .next s
    else
      let p := s.readDeps r (tokNdep r.token) 0 0
      match p.2 with
      | none => .next (p.1.updReach l (fun r => { r with pollDirty := true, pollStuck := true, pollAt := s.cycle }))
      | some (.error 4) => .next (p.1.endLaunch r false (sigRejected 4)).1
      | some (.error _) => .next (p.1.endLaunch r false (sigCancelled 2)).1
      | some (.ok met) => .next (p.1.updReach l (fun r => { r with depMet := met, pollDirty := false, pollStuck := false, pollAt := s.cycle }))

/-! ## Admission (06 R139, R140, R142; 07 R159; 19 R333; 21 R354) -/

/-- A save image of a reach is valid. -/
def State.imageValid (s : State) (id : Nat) : Bool := s.images.any (fun m => m.reach == id && m.valid)

/-- A live reach stands in the active, or in the inactive, sets of its cells. -/
def Reach.inActive (r : Reach) : Bool :=
  match r.st with
  | .loading => !r.shadow
  | .flooding => !r.shadow
  | .armed => true
  | .running => true
  | .ebbing => true
  | _ => false
def State.inInactive (s : State) (r : Reach) : Bool :=
  match r.st with
  | .loading => r.shadow
  | .flooding => r.shadow
  | .shadowed => !s.imageValid r.id
  | .saved => !s.imageValid r.id
  | _ => false

/-- Two rectangles share a cell. -/
def Reach.overlaps (a b : Reach) : Bool :=
  a.cx < b.cx + b.w && b.cx < a.cx + a.w && a.cy < b.cy + b.h && b.cy < a.cy + a.h

/-- The rectangle is free for a launch (R139, item 3), and none of its cells runs a collective node of another reach. -/
def State.rectFree (s : State) (r : Reach) : Bool :=
  s.reaches.all (fun o => o.id == r.id || o.job != r.job || !o.overlaps r
      || !(if r.shadow then s.inInactive o else o.inActive || s.inInactive o))
    && r.cells.all (fun n => (s.cell n).nodes.all (fun d => d.reach == r.id || d.op.isNone))

/-- The context and handle slot of a launch (R142). -/
def State.contextFor (s : State) (r : Reach) : Option (Nat × Nat) :=
  if r.device then some (r.ctx, r.slot)
  else if tokCpc r.token = 0 then
    let q := s.queue r.job r.queue
    let c := q.home.toNat
    if !q.homev || (s.ctx c).st == .free || (s.ctx c).job ≠ r.job then none
    else (s.ctx c).freeSlot.map (fun k => (c, k))
  else
    let die := cellDie (cellAt r.cx r.cy)
    ((List.range 32).find? (fun i => (s.ctx (die * 32 + i)).st == .free)).map (fun i => (die * 32 + i, 0))

/-- Every dependence has been met. -/
def Reach.depsMet (r : Reach) : Bool := (List.range (tokNdep r.token)).all (fun d => bitB r.depMet d)

/-- The conditions of R139 but the rectangle. -/
def State.readyBut (s : State) (r : Reach) : Bool :=
  s.candidate r && r.checked && r.depsMet && (tokNdep r.token == 0 || !r.pollDirty) && s.resident r.job
    && (s.contextFor r).isSome

/-- PRIO of a launch's queue. -/
def State.prioOf (s : State) (r : Reach) : Nat := (s.queue r.job r.queue).prio.toNat

/-- Cells reserved by a queue head that fails only the rectangle condition (R140). -/
def State.reservedFor (s : State) (r : Reach) : Bool :=
  !r.device && s.reaches.any (fun o =>
    o.id != r.id && o.job == r.job && !o.device && s.prioOf o ≤ s.prioOf r && o.overlaps r && s.readyBut o && !s.rectFree o)

def State.admissible (s : State) (r : Reach) : Bool := s.readyBut r && s.rectFree r && !s.reservedFor r

/-- The order of R140: device-side in the order of acceptance; then by PRIO, round-robin after the queue last admitted. -/
def State.rank (s : State) (r : Reach) : Nat :=
  if r.device then 0
  else 1 + s.prioOf r * 16 + (r.queue + 15 - vget 15 (s.job r.job).lastAdm (s.prioOf r)) % 16

/-- The sequencer has still to read for a launch: a token that has reached its queue's head and is not checked, or a candidate
whose dependences have been written since it read them. A read that has to wait holds up no other launch. -/
def State.unread (s : State) (o : Reach) : Bool :=
  s.candidate o && !o.pollStuck && (!o.checked || (tokNdep o.token != 0 && o.pollDirty))

/-- Launches that R140 may put before, or whose cells it may keep from, a launch. -/
def State.before (s : State) (o r : Reach) : Bool :=
  o.id != r.id && o.job == r.job && (if o.device then !r.device || o.id < r.id else !r.device && s.prioOf o ≤ s.prioOf r)

/-- The launch that R140 admits now. A decision waits for what the sequencer has still to read of the launches before it. -/
def State.firstAdmitted (s : State) (r : Reach) : Bool :=
  s.admissible r && !s.reaches.any (fun o => s.before o r && s.unread o) && s.reaches.all (fun o => o.id == r.id || o.job != r.job || !s.admissible o || s.rank r < s.rank o
    || (r.device && o.device && r.id < o.id))

/-- Bind an admitted launch to its context, and give it its reach number (R142, 16 R295). -/
def State.admitLaunch (s : State) (r : Reach) (c slot : Nat) : State :=
  let p : State × Word := if r.device then (s, r.handle) else s.fillHandle c slot r.id
  let s := p.1
  let s := if r.device || tokCpc r.token = 0 then s
    else s.updCtx c (fun x => { x.start r.job (BitVec.ofNat 64 (tokCpc r.token)) p.2 (BitVec.ofNat 64 r.signal) s.cycle with
      slots := x.slots })
  let n := (s.job r.job).admissions
  let s := s.updJob r.job (fun b => { b with
    admissions := n + 1, lastAdm := if r.device then b.lastAdm else vset b.lastAdm (s.prioOf r) r.queue })
  let s := if r.shadow then
      { s with reaches := s.reaches.map (fun o =>
          if o.job = r.job && o.id ≠ r.id && o.overlaps r && o.st == .shadowed && s.imageValid o.id then { o with st := .saved } else o) }
    else s
  s.updReach r.id (fun r => { r with
    st := .loading, ctx := c, bound := true, slot := slot, handle := p.2, number := n, reqsig := (s.job r.job).reqsig })

/-- ADMIT: a host token that reaches its queue's head is checked, also while ENABLE is 0 (R137, R141); the first launch in the order of R140 whose conditions hold
is admitted. -/
def execAdmit (l : Nat) (s : State) : Host.Outcome State Fault Refusal :=
  match s.reach? l with
  | none => .next s
  | some r =>
    if r.st != .accepted then .next s
    else if !r.checked then
      let q := s.queue r.job r.queue
      if (s.queueTokens r.job r.queue).head?.map (·.id) ≠ some l then .next s
      else
        let p := s.checkToken r.job r.token false q.homev
        match p.2 with
        | .wait => .next (p.1.updReach l (fun r => { r with pollStuck := true }))
        | .reject k => .next (p.1.endLaunch r false (sigRejected k)).1
        | .ok w h =>
          let b := s.job r.job
          .next (p.1.updReach l (fun r => { r with
            checked := true, pollStuck := false, cx := b.x0 + tokRx r.token, cy := b.y0 + tokRy r.token, w := w, h := h }))
    else if !s.firstAdmitted r then .next s
    else match s.contextFor r with
      | none => .next s
      | some (c, k) => .next (s.admitLaunch r c k)

/-! ## Image loads and the configuration cache (02 R40 to R43, 05 R123) -/

/-- Read unit i of an image: its content, or the fault of its page; nothing while the access waits. -/
def State.imageUnit (s : State) (j va i : Nat) : State × Option (Except (Nat × Nat × Nat) Unit64) :=
  let p := s.sysReach j (va + 64 * i) .read whoSeq
  match p.2 with
  | .wait => (p.1, none)
  | .fault cause code => (p.1, some (.error (cause, code, va + 64 * i)))
  | .at k sa => (p.1.countAccess k sa, some (.ok (p.1.hbmUnit k sa)))

/-- Units that an image's header says it has: at least the header's two. -/
def unitsOf (m : List Unit64) : Nat := if imgSize m % 64 = 0 && 128 ≤ imgSize m then imgSize m / 64 else 2

/-- The image in the cache of a cell. -/
def State.cachedAt (s : State) (n j va : Nat) : Option Cached := s.cache.find? (fun e => e.cell == n && e.job == j && e.va == va)

/-- An image held in all the caches of some cells. -/
def State.cachedIn (s : State) (cells : List Nat) (j va : Nat) : Option (List Unit64) :=
  if cells.all (fun n => (s.cachedAt n j va).isSome) then (cells.head?.bind (fun n => s.cachedAt n j va)).map (·.units) else none

/-- An image in use at a cell by a live reach. -/
def State.inUse (s : State) (n va : Nat) : Bool :=
  s.reaches.any (fun r => r.live && r.loaded && r.image == va && r.cells.contains n)

/-- All four images of a cell's cache are in use (0x0005). -/
def State.cacheFull (s : State) (cells : List Nat) (j va : Nat) : Bool :=
  cells.any (fun n => (s.cachedAt n j va).isNone &&
    (let l := s.cache.filter (fun e => e.cell == n); 4 ≤ l.length && l.all (fun e => s.inUse n e.va)))

/-- Put an image into the cache of a cell, in place of the image least recently launched that is not in use. One that the
cell holds keeps the place of its last launch. DESIGN CHOICE (log entry 89): of several that were never launched, the first of the
cache's list goes. -/
def State.cachePut (s : State) (n j va : Nat) (m : List Unit64) : State :=
  let mine := s.cache.filter (fun e => e.cell == n && e.va != va)
  let free := mine.filter (fun e => !s.inUse n e.va)
  let oldest := free.foldl (fun (b : Option Cached) e => match b with
    | none => some e
    | some x => if e.lastUse < x.lastUse then some e else some x) none
  let out : Option Nat := if 4 ≤ mine.length then oldest.map (·.va) else none
  { s with cache := s.cache.filter (fun e => !(e.cell == n && (e.va == va || some e.va == out)))
      ++ [{ cell := n, job := j, va := va, units := m, lastUse := ((s.cachedAt n j va).map (·.lastUse)).getD 0 }] }

/-- Put an image into the caches of those of some cells that its job owns (07 R150). -/
def State.cacheFill (s : State) (cells : List Nat) (j va : Nat) (m : List Unit64) : State :=
  (cells.filter (fun n => s.cellJob n == j)).foldl (fun s n => s.cachePut n j va m) s

/-- A launch uses an image at a cell. Turns number the launches in their order. -/
def State.cacheTouch (s : State) (cells : List Nat) (va : Nat) : State :=
  { s with cache := s.cache.map (fun e => if e.va = va && cells.contains e.cell then { e with lastUse := s.turnNo + 1 } else e) }

/-- The record index of the first collective section whose peers are not bound (19 R330). -/
def State.bindFault (s : State) (j : Nat) (m : List Unit64) : Option Nat :=
  let b := s.job j
  let q := b.rank.toNat
  ((imgRecs m).1.mapIdx (fun i r => (i + 1, r))).findSome? (fun e =>
    if e.2.kind ≠ 4 || 5 ≤ imgF m e.2.off 12 4 then none
    else
      let p := imgF m (e.2.off + 0x10) 0 16
      let ok (k : Nat) : Bool :=
        let w := Tbl.get 0 b.peers k
        bitB w 27 && bitB s.shoreIn (bitsN w 24 3)
      let fam := (if q = 0 then [] else [(q - 1) / 2]) ++ [2 * q + 1, 2 * q + 2].filter (fun k => k ≤ p)
      if p < q || fam.any (fun k => !ok k) then some e.1 else none)

/-- The binding of collective sections at a launch, as a joining fault of stage 3: KIND to P stand at 0x10 of a section. -/
def State.bindJoins (s : State) (j : Nat) (m : List Unit64) : List JoinFault :=
  match s.bindFault j m with
  | some i => [(i, 0x10, 0x0004)]
  | none => []

/-- What a load finds in an image that was read whole. -/
def State.loadRefusal (s : State) (j : Nat) (reqsig : Bool) (m : List Unit64) (w h : Nat) (cells : List Nat) (va : Nat) (launch : Bool) :
    Option (Nat × Nat) :=
  match imgRefusal m reqsig w h (if launch then s.bindJoins j m else []) with
  | some e => some e
  | none => if s.cacheFull cells j va then some (0, 0x0005) else none

/-- CFGLD (05 R123): its rectangle is checked on the header's unit, which the loader has then read. -/
def execCfgld (h b : Reg) (y : BitVec 4) (x : BitVec 5) (s : State) : Host.Outcome State Fault Refusal :=
  let c := s.focus.ctx
  let w := wordOf (.cfgld h b y x)
  let va := (s.ctx c).reg b
  let j := (s.ctx c).job
  if va &&& 63#64 ≠ 0 then .next (s.syncTrap c 0x02 va 0 0)
  else
    let r := s.coreReach c va .read
    match r.2 with
    | .fault cause code => .next (r.1.accessTrap c va 2 cause code (w.setWidth 64))
    | .wait => .next (r.1.block c (.access .fence))
    | .at k sa =>
      let m := [r.1.hbmUnit k sa]
      let p := s.job j
      let s := r.1.countAccess k sa
      if !p.valid || p.x1 < p.x0 + x.toNat + imgWidth m - 1 || p.y1 < p.y0 + y.toNat + imgHeight m - 1 then
        .next (s.detailTrap c va 4 w)
      else
        let id := s.nextId + 1
        let l : Load := { id := id, ctx := c, job := j, va := va.toNat, x := p.x0 + x.toNat, y := p.y0 + y.toNat, word := w, reqsig := p.reqsig, units := m }
        let s : State := { s with nextId := id, loads := s.loads ++ [l] }
        .next (s.block c (.cfgld h id))

/-- The cells of a load. -/
def Load.cells (l : Load) (m : List Unit64) : List Nat := cellsOf l.x l.y (l.x + imgWidth m - 1) (l.y + imgHeight m - 1)

/-- A CFGLD ends. -/
def State.loadEnds (s : State) (l : Load) (v : Word) : State :=
  let s := { s with loads := s.loads.filter (fun x => x.id != l.id) }
  match (s.ctx l.ctx).wait with
  | .cfgld h id => if id = l.id then s.retire l.ctx h v else s
  | _ => s

/-- A CFGLD's image is read, a unit at a time, and checked once its last unit has been read (02 R41). An image already in the
caches is not loaded again. -/
def State.loadDone (s : State) (l : Load) : State :=
  let held := (s.cache.find? (fun e => e.job == l.job && e.va == l.va)).bind (fun e => s.cachedIn (l.cells e.units) l.job l.va)
  if held.isSome then s.loadEnds l (BitVec.ofNat 64 l.va)
  else if l.units.length < unitsOf l.units then
    let p := s.imageUnit l.job l.va l.units.length
    match p.2 with
    | none => p.1
    | some (.error (cause, code, va)) =>
      State.accessTrap { p.1 with loads := s.loads.filter (fun x => x.id != l.id) } l.ctx (BitVec.ofNat 64 va) 2 cause code
        (l.word.setWidth 64)
    | some (.ok u) => { p.1 with loads := s.loads.map (fun x => if x.id = l.id then { x with units := x.units ++ [u] } else x) }
  else
    let cells := l.cells l.units
    match s.loadRefusal l.job l.reqsig l.units (imgWidth l.units) (imgHeight l.units) cells l.va false with
    | some (i, code) => s.loadEnds l (BitVec.ofNat 64 (2 ^ 63 + i * 2 ^ 16 + code))
    | none => (s.cacheFill cells l.job l.va l.units).loadEnds l (BitVec.ofNat 64 l.va)

/-- A launch's image is in the caches: its tiles are configured, and the flood wave is sent (06 R143). -/
def State.launchLoaded (s : State) (r : Reach) (m : List Unit64) : State :=
  let s := s.cacheTouch r.cells r.image
  (s.updReach r.id (fun r => { r with loaded := true, units := [], st := .flooding })).configure r m

/-- The load of an admitted launch (02 R40 to R43): a unit at a time, then the checks. Of an image in the caches only what the
launch adds is checked: its extent, and the binding of its collective sections (19 R330). -/
def State.launchDone (s : State) (r : Reach) : State :=
  match s.cachedIn r.cells r.job r.image with
  | some m =>
    if imgWidth m ≠ r.w || imgHeight m ≠ r.h then (s.endLaunch r false (sigRefused 0 0x0046)).1
    else match s.bindFault r.job m with
      | some i => (s.endLaunch r false (sigRefused i 0x0004)).1
      | none => s.launchLoaded r m
  | none =>
    if r.units.length < unitsOf r.units then
      let p := s.imageUnit r.job r.image r.units.length
      match p.2 with
      | none => p.1
      | some (.error _) => (p.1.endLaunch r false (sigRefused 0 0x0001)).1
      | some (.ok u) => p.1.updReach r.id (fun r => { r with units := r.units ++ [u] })
    else
      match s.loadRefusal r.job r.reqsig r.units r.w r.h r.cells r.image true with
      | some (i, code) => (s.endLaunch r false (sigRefused i code)).1
      | none => (s.cacheFill r.cells r.job r.image r.units).launchLoaded r r.units

/-- CONFIG_LOAD_DONE: load l, of a CFGLD or of an admitted launch, reads its next unit, or ends. -/
def execConfigLoadDone (l : Nat) (s : State) : Host.Outcome State Fault Refusal :=
  match s.loads.find? (fun x => x.id == l) with
  | some x => .next (s.loadDone x)
  | none =>
    match s.reach? l with
    | some r => if r.st == .loading then .next (s.launchDone r) else .next s
    | none => .next s

end Sys2Proof.Machine
end

