-- ==== Sys2Proof/Machine/Drive.lean ====
section
/-!
DEFINITION. A reach that runs: its flood wave and start (06 R143, 05 R127), seeds and ingress tokens (05 R125, 06 R140,
17 R309), progress counters (05 R129), publication (05 R130, 17 R310), its detectors (03 R72, 16 R296, 21 R343) and its
completion (06 R143).
-/

namespace Sys2Proof.Machine

open Sys2Proof

/-! ## The flood wave and the start (06 R143, 08 R160) -/

/-- The flood wave of a reach has crossed. -/
def Reach.crossed (r : Reach) : Bool :=
  match r.st with
  | .accepted => false
  | .loading => false
  | .flooding => false
  | _ => true

/-- A configured tile of a reach begins its rounds in the next cycle of its island. -/
def Issue.start (x : Issue) (id t : Nat) : Issue :=
  if x.reach = id && x.run == .waiting && x.before == .running then { x with run := .running, roundAt := t } else x

/-- The active sets of a cell begin: in the next cycle of the island, or in this one at a GANG's tick (05 R127, 08 R160). The
first broadcast comes with the first round, the first update of the paces 256 cycles after it (12 R250, R251). -/
def State.startCell (s : State) (id n : Nat) (now : Bool) : State :=
  let t := s.islandCycle n - b2n now
  s.updCell n (fun c => { c with
    c := { c.c with act := { c.c.act with iss := c.c.act.iss.start id t, nextRecord := t + 1, nextPace := t + 257 } }
    a := { c.a with act := { c.a.act with iss := c.a.act.iss.start id t } }
    m := { c.m with act := { c.m.act with run := if c.m.act.reach = id && c.m.act.run == .waiting then .running else c.m.act.run } } })

/-- Memory-tile ports serve from the flood wave on; rules start with the reach. -/
def State.startPorts (s : State) (id n : Nat) : State :=
  s.updM n (fun m => { m with run := if m.reach = id && m.run == .waiting then .running else m.run })

/-- A reach starts. -/
def State.startReach (s : State) (r : Reach) (now : Bool) : State :=
  (r.cells.foldl (fun s n => s.startCell r.id n now) s).updReach r.id (fun r => { r with st := .running, quiet := 0, swDone := false })

/-- The inactive sets of a cell stand shadowed. -/
def State.shadowCell (s : State) (id n : Nat) : State :=
  let go (x : Issue) : Issue := if x.reach = id then { x with run := .saved } else x
  s.updCell n (fun c => { c with
    c := { c.c with ina := { c.c.ina with iss := go c.c.ina.iss } }
    a := { c.a with ina := { c.a.ina with iss := go c.a.ina.iss } }
    m := { c.m with ina := { c.m.ina with run := if c.m.ina.reach = id then .saved else c.m.ina.run } } })

/-! ## Seeds (05 R125, 06 R140, 18 R314) -/

/-- A reach whose channels take seeds now. -/
def Reach.takesSeeds (r : Reach) : Bool := r.st == .running || r.st == .armed

/-- A free slot for a token at the end of a seed route: in the channel, or at the switch of a memory tile. -/
def State.seedRoom (s : State) (rt : Route) : Bool :=
  if rt.dkind = 2 then ((s.cell rt.dst).inqAt 0 rt.cls.toNat 0).length < slotsPerClass
  else (vget [] (s.issue rt.dst rt.dkind).chans rt.chan).length < channelSlots

/-- A seed token enters its channel. Towards a memory-tile port it is a packet at the tile's switch that runs no kernel; its
source is left open. -/
def State.seedInto (s : State) (r : Reach) (rt : Route) (t : Token) : State :=
  let k := Config.openWord s.freeCount
  let p := { mkPacket s rt.dst (bitsN k 0 5) r.id rt t with ran := true, src := bits k 5 9 }
  let s := s.drawn
  if rt.dkind = 2 then s.pushPacket rt.dst 0 p
  else
    let s := s.updIssue rt.dst rt.dkind (fun x => { x with chans := vset x.chans rt.chan (vget [] x.chans rt.chan ++ [p]) })
    if rt.dkind = 0 then s.updC rt.dst CSet.settle else s

/-- A seed of a host queue that can be delivered or dropped: its reach's wave has crossed, no earlier seed of its port waits,
and its port is not valid or has room. -/
def State.seedDue (s : State) (l : List (Nat × Nat × BitVec 2 × Word)) (i : Nat) : Bool :=
  match l[i]? with
  | none => false
  | some (id, port, _, _) =>
    match s.reach? id with
    | none => true
    | some r => r.crossed && !(l.take i).any (fun e => e.1 == id && e.2.1 == port) &&
        (match vget none r.seedRoutes port with
        | none => true
        | some rt => r.takesSeeds && s.seedRoom rt)

/-- Deliver the first seed of a queue that is due; one on a port without a valid entry is dropped. -/
def State.queueSeed (s : State) (j q : Nat) : State :=
  let l := (s.queue j q).seeds
  match (List.range l.length).find? (s.seedDue l) with
  | none => s
  | some i =>
    match l[i]? with
    | none => s
    | some (id, port, tag, v) =>
      let s := s.updQueue j q (fun k => { k with seeds := k.seeds.eraseIdx i })
      match s.reach? id with
      | none => s
      | some r =>
        match vget none r.seedRoutes port with
        | none => s.updQueue j q (fun k => { k with seedDrop := k.seedDrop + 1 })
        | some rt => s.seedInto r rt (scalarTok v tag)

/-- SEED_INGRESS: a host write to the SEED word of port n and tag t belongs to the oldest token with seeds outstanding. At
most eight are held for a wave that has not crossed. -/
def execSeedIngress (job q n t : Nat) (v : Word) (s : State) : Host.Outcome State Fault Refusal :=
  if job = 0 || 63 < job || 16 ≤ q || 8 ≤ n || 4 ≤ t then .next s
  else
    let drop (s : State) : State := s.updQueue job q (fun k => { k with seedDrop := k.seedDrop + 1 })
    match (s.queue job q).seedOwed with
    | [] => .next (drop s)
    | (id, k) :: rest =>
      let s := s.updQueue job q (fun z => { z with seedOwed := if k ≤ 1 then rest else (id, k - 1) :: rest })
      let crossed (i : Nat) : Bool := ((s.reach? i).map Reach.crossed).getD false
      if !crossed id && 8 ≤ ((s.queue job q).seeds.filter (fun e => !crossed e.1)).length then .next (drop s)
      else .next ((s.updQueue job q (fun z => { z with seeds := z.seeds ++ [(id, n, BitVec.ofNat 2 t, v)] })).queueSeed job q)

/-- SEED (05 R125): it blocks for the image, judges the port, and blocks for the wave and a slot. -/
def State.trySeed (s : State) (c id port : Nat) (tag : BitVec 2) (v h : Word) (w : BitVec 32) : State :=
  match s.reach? id with
  | none => s.detailTrap c h 1 w
  | some r =>
    if !r.loaded then s.block c (.seed id port tag v h w)
    else match vget none r.seedRoutes port with
      | none => s.detailTrap c h 3 w
      | some rt =>
        if r.takesSeeds && s.seedRoom rt then (s.seedInto r rt (scalarTok v tag)).advance c
        else s.block c (.seed id port tag v h w)

def execSeed (h b : Reg) (t : BitVec 2) (p : BitVec 3) (s : State) : Host.Outcome State Fault Refusal :=
  let c := s.focus.ctx
  let w := wordOf (.seed h b t p)
  let hv := (s.ctx c).reg h
  match ((s.ctx c).handleReach hv).bind s.reach? with
  | none => .next (s.detailTrap c hv 1 w)
  | some r =>
    if r.shows ≠ .running && r.shows ≠ .armed then .next (s.detailTrap c hv 2 w)
    else .next (s.trySeed c r.id p.toNat t ((s.ctx c).reg b) hv w)

/-! ## Ingress windows (17 R309) -/

def State.ingress (s : State) (j c : Nat) : Ingress := vget Ingress.reset (s.job j).ingress c
def State.updIngress (s : State) (j c : Nat) (f : Ingress → Ingress) : State :=
  s.updJob j (fun b => { b with ingress := vset b.ingress c (f (vget Ingress.reset b.ingress c)) })

/-- The oldest task of a window's queue. -/
def State.ingressTask (s : State) (j c : Nat) : Option Reach := (s.queueTokens j (s.ingress j c).iqueue).head?

/-- Deliver the oldest token a window holds, once its task's wave has crossed and its channel has room. -/
def State.ingressToken (s : State) (j c : Nat) : State :=
  let g := s.ingress j c
  match g.heldToks, s.ingressTask j c with
  | (off, len) :: rest, some r =>
    if !r.crossed then s
    else match vget none r.seedRoutes g.iport with
      | none => s.updIngress j c (fun g => { g with heldToks := rest, idrop := satInc g.idrop })
      | some rt =>
        if r.takesSeeds && s.seedRoom rt then
          (s.updIngress j c (fun g => { g with heldToks := rest })).seedInto r rt
            (orderTok 4 (len.setWidth 64 ++ off |>.setWidth 64) 0)
        else s
  | _, _ => s

/-- A write has been applied: its token is sent, held or dropped. -/
def State.raiseIngress (s : State) (j c off len : Nat) : State :=
  let g := s.ingress j c
  let crossed : Bool := ((s.ingressTask j c).map Reach.crossed).getD false
  if !crossed && 64 ≤ g.heldToks.length then s.updIngress j c (fun g => { g with idrop := satInc g.idrop })
  else
    (s.updIngress j c (fun g => { g with heldToks := g.heldToks ++ [(BitVec.ofNat 32 off, BitVec.ofNat 7 len)] })).ingressToken j c

/-- INGRESS_WINDOW_WRITE. A write that has to wait comes again. The other words of a fault's record are left open
(log entry 13). -/
def execIngressWindowWrite (job c off len : Nat) (v : Unit64) (s : State) : Host.Outcome State Fault Refusal :=
  if job = 0 || 63 < job || 8 ≤ c then .next s
  else
    let g := s.ingress job c
    if !g.ien || len < 8 || 64 < len || off % len ≠ 0 || 64 < off % 64 + len || 64 * g.ilen ≤ off then .next s
    else
      let va := g.ibase.toNat + off
      let r := s.sysReach job va .write (whoOf 2 (0x010 + c))
      match r.2 with
      | .wait => .next { r.1 with inputs := .act (.ingressWindowWrite job c off len v) :: r.1.inputs }
      | .fault _ _ =>
        .next (r.1.drawn.event job 0x03 2 (0x010 + c) (Config.openWord s.freeCount) (Config.openWord s.freeCount)
          (Config.openWord s.freeCount) none)
      | .at k sa => .next ((r.1.writeAt job va k sa len (v.toNat % 2 ^ (8 * len))).raiseIngress job c off len)

/-! ## SEED_DELIVER and FLOOD_WAVE_CROSSED -/

/-- The seeds and ingress tokens held for a reach enter its channels as its wave has crossed, before its first round, as far as
the channels have room (R143, step 3). -/
def State.heldSeeds (s : State) (r : Reach) : State :=
  if r.device then s
  else
    let s := ((s.queue r.job r.queue).seeds.filter (fun e => e.1 == r.id)).foldl (fun s _ => s.queueSeed r.job r.queue) s
    (List.range 8).foldl (fun s c =>
      let g := s.ingress r.job c
      if g.iqueue = r.queue then g.heldToks.foldl (fun s _ => s.ingressToken r.job c) s else s) s

/-- SEED_DELIVER: c below 64 is a context blocked in SEED; 64 + 16 × job + q a queue's held seeds; 1,088 + 8 × job + w a
window's held tokens. -/
def execSeedDeliver (c : Nat) (s : State) : Host.Outcome State Fault Refusal :=
  if c < 64 then
    match (s.ctx c).st, (s.ctx c).wait with
    | .blocked, .seed id port tag v h w => .next (s.trySeed c id port tag v h w)
    | _, _ => .next s
  else if c < 1088 then .next (s.queueSeed ((c - 64) / 16) ((c - 64) % 16))
  else .next (s.ingressToken ((c - 1088) / 8) ((c - 1088) % 8))

/-- FLOOD_WAVE_CROSSED: every tile has acted on the marker, which none does in an island transition. The reach runs, stands
armed until GANG, or stays shadowed. -/
def execFloodWaveCrossed (reach : Nat) (s : State) : Host.Outcome State Fault Refusal :=
  match s.reach? reach with
  | none => .next s
  | some r =>
    if r.st != .flooding || r.cells.any (fun n => (s.cell n).island.busy) then .next s
    else if r.shadow then
      .next ((r.cells.foldl (fun s n => s.shadowCell r.id n) s).updReach r.id (fun r => { r with st := .shadowed }))
    else if r.armedReq then
      .next (((r.cells.foldl (fun s n => s.startPorts r.id n) s).updReach r.id (fun r => { r with st := .armed })).heldSeeds r)
    else .next ((s.startReach r false).heldSeeds r)

/-! ## GANG (05 R127) -/

/-- A reach armed with a tick that has come starts. -/
def State.gangDue (s : State) (r : Reach) : Bool :=
  r.st == .armed && (match r.gang with | some t => t.toNat ≤ s.tick | none => false)

/-- GANG: late once the tick has passed. -/
def execGang (h b : Reg) (s : State) : Host.Outcome State Fault Refusal :=
  let c := s.focus.ctx
  let w := wordOf (.gang h b)
  let hv := (s.ctx c).reg h
  let t := (s.ctx c).reg b
  match ((s.ctx c).handleReach hv).bind s.reach? with
  | none => .next (s.detailTrap c hv 1 w)
  | some r =>
    if r.shows ≠ .armed then .next (s.detailTrap c hv 2 w)
    else
      let late : Bool := t.toNat < s.tick
      let s := s.updReach r.id (fun r => { r with gang := some t })
      let s := (s.updCtx c (fun x => { x with glate := x.glate || late })).advance c
      .next (if late && r.st == .armed then s.startReach r true else s)

/-- GANG_START. -/
def execGangStart (reach : Nat) (s : State) : Host.Outcome State Fault Refusal :=
  match s.reach? reach with
  | some r => if s.gangDue r then .next (s.startReach r true) else .next s
  | none => .next s

/-! ## Progress counters (05 R129) -/

/-- The newest record broadcast of a counter: one on its way, one that has arrived at its own cell, or the implicit one
(12 R252). -/
def State.latestRecord (s : State) (id n k : Nat) (hint : BitVec 16) : Record :=
  let mine (r : Record) : Bool := r.reach == id && r.cell == n && r.ctr == k
  match s.recordsOut.reverse.find? (fun p => mine p.2) with
  | some p => p.2
  | none => ((s.cell n).records.find? mine).getD { reach := id, cell := n, ctr := k, value := 0, pace := hint, starving := false }

/-- The checks that PROGRD and PROGWR share: the reach and the counter's cell and set, or the detail of the trap. A reach whose
image has not been loaded does not run yet. -/
def State.progCounter (s : State) (c : Nat) (h : Word) (k y x : Nat) : Except Nat (Reach × Nat × Counter) :=
  match ((s.ctx c).handleReach h).bind s.reach? with
  | none => .error 1
  | some r =>
    if r.shows ≠ .running || !r.loaded then .error 2
    else
      let n := cellAt (r.cx + x) (r.cy + y)
      if r.w ≤ x || r.h ≤ y then .error 6
      else match s.issueOf n kindC r.id with
        | none => .error 6
        | some y =>
          let q := y.counter k
          if q.prog then .ok (r, n, q) else .error 6

def execProgrd (h b : Reg) (k : BitVec 3) (y : BitVec 4) (x : BitVec 5) (s : State) : Host.Outcome State Fault Refusal :=
  let c := s.focus.ctx
  let hv := (s.ctx c).reg b
  match s.progCounter c hv k.toNat y.toNat x.toNat with
  | .error d => .next (s.detailTrap c hv d (wordOf (.progrd h b k y x)))
  | .ok (r, n, q) =>
    let e := s.latestRecord r.id n k.toNat q.hint
    .next (s.retire c h (BitVec.ofNat 64 (e.value.toNat + e.pace.toNat * 2 ^ 32 + b2n e.starving * 2 ^ 48)))

def execProgwr (h b : Reg) (m : BitVec 1) (k : BitVec 3) (y : BitVec 4) (x : BitVec 5) (s : State) :
    Host.Outcome State Fault Refusal :=
  let c := s.focus.ctx
  let hv := (s.ctx c).reg h
  let v := (s.ctx c).reg b
  let trap (d : Nat) : Host.Outcome State Fault Refusal := .next (s.detailTrap c hv d (wordOf (.progwr h b m k y x)))
  match s.progCounter c hv k.toNat y.toNat x.toNat with
  | .error d => trap d
  | .ok (r, n, q) =>
    if q.bound ≠ 0 && (m = 1 || q.bound.toNat ≤ bitsN v 0 32) then trap 6
    else .next (s.block c (.progwr r.id n k.toNat (m == 1) v))

/-- A PROGWR lands: the counter takes its value, and the context goes on. -/
def State.landWrite (s : State) (c id n k : Nat) (add : Bool) (v : Word) (x : Issue) : State :=
  let q := x.counter k
  let v : BitVec 32 := v.setWidth 32
  let q := q.write (if add then q.val + v else v)
  (s.updIssueOf n kindC id (fun x => x.setCtr k q)).advance c

/-- The PROGWR that wait for a set land as it returns, before its next round (08 R176). -/
def State.landWrites (s : State) (id n : Nat) : State :=
  (List.range 64).foldl (fun (s : State) c => match (s.ctx c).st, (s.ctx c).wait, s.issueOf n kindC id with
    | .blocked, .progwr r d k add v, some x => if r = id && d = n then s.landWrite c id n k add v x else s
    | _, _, _ => s) s

/-- PROGWR_LAND: between two rounds of the counter's tile, also in a set that has been swapped out and is still held there. A
write for a set that has streamed out is one of those that the tile holds until the set returns (08 R176); one whose reach has ended
is over. -/
def execProgwrLand (c : Nat) (s : State) : Host.Outcome State Fault Refusal :=
  match (s.ctx c).st, (s.ctx c).wait with
  | .blocked, .progwr id n k add v =>
    (match s.issueOf n kindC id with
    | none => .next (s.advance c)
    | some x =>
      if x.sel ≠ [] || !s.inTile n kindC id then .next s
      else .next (s.landWrite c id n k add v x))
  | _, _ => .next s

/-! ## PUBLISH (05 R130, 17 R310) -/

/-- The units of a window's region. A unit that faults is a free value (log entry 55). -/
def State.readRegion (s : State) (j va : Nat) : Nat → Nat → List Unit64 → State × Option (List Unit64)
  | 0, _, acc => (s, some acc.reverse)
  | n + 1, i, acc =>
    let p := s.sysReach j (va + 64 * i) .read whoSeq
    match p.2 with
    | .wait => (p.1, none)
    | .fault _ _ => State.readRegion p.1.drawn j va n (i + 1) ((Config.openWord p.1.freeCount).setWidth 512 :: acc)
    | .at k sa => State.readRegion (p.1.countAccess k sa) j va n (i + 1) (p.1.hbmUnit k sa :: acc)

/-- Units published: a PLEN outside 1 to 512 acts as 0 (17 R310). -/
def Publish.units (g : Publish) : Nat := if 512 < g.plen then 0 else g.plen

def State.pubWin (s : State) (j w : Nat) : Publish := Tbl.get Publish.reset (s.job j).pub w
def State.updPub (s : State) (j w : Nat) (f : Publish → Publish) : State :=
  s.updJob j (fun b => { b with pub := Tbl.upd Publish.reset b.pub w f })

/-- A PUBLISH of the window runs: it has begun, or has still to swap (17 R310). -/
def Publish.busy (g : Publish) : Bool := g.owner.isSome || g.run.isSome

/-- PUBLISH: the release, then the copy as the instruction leaves memory; the images are exchanged later. One window runs one
PUBLISH at a time. DESIGN CHOICE (log entry 89): tp0 of its detail 7 is the old value of xh, since it names neither an address nor a
handle. -/
def execPublish (h b : Reg) (w : BitVec 6) (s : State) : Host.Outcome State Fault Refusal :=
  let c := s.focus.ctx
  let j := (s.ctx c).job
  let v := (s.ctx c).reg b
  let g := s.pubWin j w.toNat
  let begun (s : State) (o : Option Nat) : State := s.updPub j w.toNat (fun g => { g with owner := o })
  let mine : Bool := g.owner == some c
  if !mine && (!g.pen || g.units = 0) then .next (s.detailTrap c ((s.ctx c).reg h) 7 (wordOf (.publish h b w)))
  else if !mine && g.busy then .next (s.block c (.access .fence))
  else match s.drain c with
    | none => .next ((begun s (some c)).block c (.access .fence))
    | some s =>
      if v.ule g.version then .next ((begun s none).retire c h (g.version ||| 0x8000000000000000#64))
      else
        let p := s.readRegion j g.pbase.toNat g.units 0 []
        match p.2 with
        | none => .next ((begun p.1 (some c)).block c (.access .fence))
        | some us => .next ((p.1.updPub j w.toNat (fun g => { g with run := some v, back := us, owner := none })).retire c h g.version)

/-- PUBLICATION_SWAP: the images are exchanged and VERSION set in one step, and the version word written. -/
def execPublicationSwap (job w : Nat) (s : State) : Host.Outcome State Fault Refusal :=
  let g := s.pubWin job w
  match g.run with
  | none => .next s
  | some v =>
    let s := s.updPub job w (fun g => { g with run := none, front := g.back, back := g.front, version := v })
    .next { s with host := memWrite s.host g.pver.toNat 8 v.toNat }

/-! ## Detectors (03 R72, 16 R296, 21 R343) -/

/-- tp0 of R296. -/
def Reach.name (r : Reach) : Word :=
  BitVec.ofNat 64 (bitsN r.handle 0 16 + cellAt r.cx r.cy * 2 ^ 16 + cellAt (r.cx + r.w - 1) (r.cy + r.h - 1) * 2 ^ 25)

/-- The compute and address-generator sets of a reach, active. -/
def State.issuesOf (s : State) (r : Reach) : List Issue :=
  r.cells.flatMap (fun n => [(s.cell n).c.act.iss, (s.cell n).a.act.iss].filter (fun x => x.reach == r.id))

/-- tp2 of R296: halted tiles, tiles with a non-empty input channel, tiles whose last round aborted a rule. -/
def State.tileCounts (s : State) (r : Reach) : Word :=
  let xs := s.issuesOf r
  let n (p : Issue → Bool) : Nat := (xs.filter p).length % 2 ^ 16
  BitVec.ofNat 64 (n (fun x => x.run == .halted || (x.run == .stopped && x.before == .halted))
    + n (fun x => x.chans.toList.any (fun q => !q.isEmpty)) * 2 ^ 16 + n (fun x => x.aborted != 0) * 2 ^ 32)

/-- The threshold has been reached in this quiescent interval. -/
def State.slackDue (s : State) (r : Reach) : Bool :=
  (r.st == .armed || r.st == .running || r.st == .ebbing) && !r.swDone && (s.job r.job).swthr.toNat ≤ r.quiet

/-- SLACK_WATER_EVENT. -/
def execSlackWaterEvent (reach : Nat) (s : State) : Host.Outcome State Fault Refusal :=
  match s.reach? reach with
  | none => .next s
  | some r =>
    if !s.slackDue r then .next s
    else
      let s := s.event r.job 0x06 1 r.ctx r.name ((s.job r.job).swthr.setWidth 64) (s.tileCounts r) (some r.id)
      let s := s.updJob r.job (fun b => { b with swevt := satInc b.swevt })
      .next (s.updReach r.id (fun r => { r with swDone := true }))

/-- The watchdog limit in force: a change holds from the next µs of the global tick (21 R343). -/
def Job.wdNow (b : Job) (tick : Nat) : BitVec 32 := if tick < b.wdAt then b.wdOld else b.wdlim

/-- A reach has been live, and not saved, for WDLIM µs. -/
def State.watchdogDue (s : State) (r : Reach) : Bool :=
  let lim := (s.job r.job).wdNow s.tick
  r.live && !r.wdDone && lim != 0 && lim.toNat * 1000 ≤ r.liveNs

/-- WATCHDOG: the reach goes on. -/
def execWatchdog (reach : Nat) (s : State) : Host.Outcome State Fault Refusal :=
  match s.reach? reach with
  | none => .next s
  | some r =>
    if !s.watchdogDue r then .next s
    else
      .next ((s.event r.job 0x10 1 r.ctx r.name (((s.job r.job).wdNow s.tick).setWidth 64) 0 (some r.id)).updReach r.id
        (fun r => { r with wdDone := true }))

/-! ## Completion (06 R143) -/

/-- A tile's issue state has ended: halted, or without a record, and no token stands in its channels. -/
def Issue.over (x : Issue) (id : Nat) : Bool :=
  x.reach != id || ((x.run == .halted || (x.run == .waiting && x.before == .waiting))
    && x.chans.toList.all List.isEmpty && x.wave.toList.all List.isEmpty)

/-- A port holds no request, token or store. -/
def MPort.over (p : MPort) : Bool :=
  p.q.isEmpty && p.ldsy.isEmpty && p.reorder.isEmpty && p.fifo.isEmpty && p.spu.isEmpty && p.outq.isEmpty && p.pushq.isNone

/-- Nothing of a reach is outstanding in one of its cells. -/
def State.cellOver (s : State) (id n : Nat) : Bool :=
  let c := s.cell n
  let cs := c.c.act
  let a := c.a.act
  cs.iss.over id && a.iss.over id
    && (cs.iss.reach != id || (cs.node.queue.isEmpty && cs.quant.toList.all (fun q => q.drain.isEmpty)
          && cs.spillBuf.isEmpty && cs.spillWant.isNone))
    && (a.iss.reach != id || (a.q.isEmpty && a.acqs.isEmpty && !a.phases.any (·.closed)))
    && (c.m.act.reach != id || c.m.act.ports.toList.all MPort.over)
    && c.nodes.all (fun d => d.reach != id || (d.op.isNone && d.owed.isEmpty))

/-- No packet of a reach stands in a switch. -/
def State.noPackets (s : State) (id : Nat) : Bool :=
  s.cells.all (fun p => p.2.inq.all (fun e => e.2.all (fun k => k.reach != id)) && p.2.send.all (fun e => e.2.reach != id))

/-- The cell of the tile that a message of the barrier network concerns. -/
def Ctl.tile : Ctl → Nat
  | .arrive t _ _ _ _ _ _ _ => t
  | .reply t _ _ _ _ => t
  | .refusedReply t _ _ => t
  | .advance t _ _ _ => t
  | .release t _ _ _ _ _ => t
  | .reset t _ _ => t

/-- The memory tile's cell, of an arrival. -/
def Ctl.goesTo : Ctl → Option Nat
  | .arrive _ _ m _ _ _ _ _ => some m
  | .reply _ _ _ _ _ => none
  | .refusedReply _ _ _ => none
  | .advance _ _ _ _ => none
  | .release _ _ _ _ _ _ => none
  | .reset _ _ _ => none

/-- Every tile of a reach has halted and nothing of it is outstanding. -/
def State.reachOver (s : State) (r : Reach) : Bool :=
  r.st == .running && r.cells.all (s.cellOver r.id) && s.noPackets r.id
    && !s.ctl.any (fun m => r.cells.contains m.tile)
    && (r.device || ((s.queue r.job r.queue).seeds.all (fun e => e.1 != r.id)
          && (s.job r.job).ingress.toList.all (fun g => g.iqueue != r.queue || g.heldToks.isEmpty)))

/-- REACH_COMPLETE. -/
def execReachComplete (reach : Nat) (s : State) : Host.Outcome State Fault Refusal :=
  match s.reach? reach with
  | some r => if s.reachOver r then .next ((s.closeDrops r.id).endLaunch r true 1).1 else .next s
  | none => .next s

end Sys2Proof.Machine
end

