-- ==== Sys2Proof/Machine/Collective.lean ====
section
/-!
DEFINITION. Collective nodes (19 R327 to R336, 05 R128): triggers, slots, units, the done token, aborts, and the shared
engines with their fallback kernels. Log entry 60 says how the model stands for their transfers and the Strelpel transport.
-/

namespace Sys2Proof.Machine

open Sys2Proof

/-! ## Nodes of a cell -/

/-- The first node of a cell that a test admits, with its place in the cell's list. -/
def State.nodeWhere (s : State) (n : Nat) (ok : CNode → Bool) : Option (Nat × CNode) :=
  let l := (s.cell n).nodes
  (List.range l.length).findSome? (fun k => match l[k]? with
    | some d => if ok d then some (k, d) else none
    | none => none)
/-- The node of a reach in a cell, since no image has two nodes in one cell (R328). An event names it by cell + 512 × reach. -/
def State.nodeOf (s : State) (node : Nat) : Option (Nat × CNode) := s.nodeWhere (node % 512) (fun d => d.reach == node / 512)
def nodeName (cell : Nat) (d : CNode) : Nat := cell + 512 * d.reach
def State.nodeAt (s : State) (n k : Nat) : Option CNode := (s.cell n).nodes[k]?
def State.updNodeAt (s : State) (n k : Nat) (f : CNode → CNode) : State :=
  s.updCell n (fun c => { c with nodes := c.nodes.modify k f })

/-- Kinds 0 to 4 meet their peers; kinds 5 and 6 run on a shared engine (R327). -/
def CNode.shared (d : CNode) : Bool := 5 ≤ d.kind

/-- The tree position of a node at its parent (R331). -/
def CNode.pos (d : CNode) : Nat := if d.rank % 2 = 1 then 1 else 2

/-- The node's address generator stands active and is not stopped by an ebb marker. -/
def State.nodeLive (s : State) (n : Nat) (d : CNode) : Bool :=
  let x := (s.aset n).iss
  x.reach == d.reach && (x.run == .running || x.run == .halted)

/-- The done token of R329. -/
def doneTok (n : Nat) : Token := scalarTok (BitVec.ofNat 64 n) 0

/-! ## Access to memory (R328, R329, R335) -/

/-- The address of unit u from a base. -/
def Template.unitAddr (t : Template) (base : Word) (u : Nat) : Nat :=
  let a := base + BitVec.ofNat 64 (64 * u)
  match t.space with
  | .virt => (a &&& 0xFFFFFFFFFFFFF#64).toNat
  | _ => a.toNat

/-- The counters of issue() for unit u of a node: k7 is u, and the others are 0 (R329). -/
def unitKv (u : Nat) : Vector (BitVec 32) 8 := vset (Vector.replicate 8 0) 7 (BitVec.ofNat 32 u)

/-- A node's template: its destination for writes, and its source. -/
def CNode.tmpl (d : CNode) (wr : Bool) : Template := if wr then d.g3 else d.g2
def CNode.req (d : CNode) (wr : Bool) : Option NodeReq := if wr then d.wr else d.rd
def CNode.setReq (d : CNode) (wr : Bool) (r : Option NodeReq) : CNode := if wr then { d with wr := r } else { d with rd := r }

/-- The address generator accepts the node's next request on a template, for unit u: it takes a number, and, if it is marked, it is
a transfer from now on (12 R260). The unit of an all-gather is that of its rank (R329). -/
def State.acceptUnit (s : State) (n k : Nat) (wr pair : Bool) (u : Nat) : State :=
  match s.nodeAt n k with
  | none => s
  | some d =>
    let t := d.tmpl wr
    let m := match d.op with
      | some o => if d.kind = 4 && wr then u % o.n else u
      | none => u
    let x : Xfer := { g := if wr then 3 else 2, reqno := t.reqno, mark := t.markOf (unitKv m), mcell := t.mcell, mctr := t.mctr,
                      isWrite := wr || pair, late := none }
    let r : NodeReq := { unit := u, since := (s.aset n).nextId + 1, x := x, marked := t.marked, held := 0, heldSeen := false, unheld := false }
    (s.updA n (fun a => { a with nextId := a.nextId + 1 })).updNodeAt n k (fun d =>
      let d := d.setReq wr (some r)
      if wr then { d with g3 := { d.g3 with reqno := d.g3.reqno + 1 } } else { d with g2 := { d.g2 with reqno := d.g2.reqno + 1 } })

/-- A request of a node is complete. -/
def State.unitDone (s : State) (n k : Nat) (wr : Bool) : State :=
  match s.nodeAt n k with
  | some d => (match d.req wr with
    | some r => (s.lateEnd n d.reach r.x false).updNodeAt n k (fun d => d.setReq wr none)
    | none => s)
  | none => s

/-- A node's request freezes its template in a fault slot (21 R344, R345): ACC is 1 for g2 and 2 for g3. A slot that the node holds
open shows the request again. -/
def State.freezeNode (s : State) (n k : Nat) (d : CNode) (wr : Bool) (addr cause code : Nat) : State :=
  let j := s.reachJob d.reach
  let r := d.req wr
  let no : BitVec 32 := (r.map (·.x.reqno)).getD 0
  let f : FSlot := { FSlot.reset with
    cause := BitVec.ofNat 8 cause, tmpl := if wr then 3 else 2, acc := if wr then 2 else 1,
    fcode := if cause = 0x0F then 0 else BitVec.ofNat 6 code, addr := BitVec.ofNat 64 addr,
    reqno := no, issued := no + 1, kv := unitKv ((r.map (·.unit)).getD 0) }
  match (match d.slot with
    | some i => some i
    | none => (s.job j).freeSlot) with
  | some i => (s.updNodeAt n k (fun d => { d with frz := some (.slot i), slot := some i })).fillSlot j n i f code d.reach
  | none => s.updNodeAt n k (fun d => { d with frz := some (.unrecorded code f) })

/-- A node's request has been performed after all. -/
def State.thawNode (s : State) (n k : Nat) (d : CNode) : State :=
  match d.slot with
  | some i => (s.updNodeAt n k (fun d => { d with slot := none })).closeSlot (s.reachJob d.reach) i
  | none => s

/-- Carry out f with the memory-tile set of a reach in the active half of a cell, wherever that set stands: a node's accesses pass
its reach's ports while the reach is shadowed or saved too (R333). None if the reach has no set there. -/
def State.atSet {α : Type} (s : State) (m reach : Nat) (f : State → State × α) : Option (State × α) :=
  let c := s.cell m
  let put (s : State) (x : Two MSet) : State := s.updCell m (fun c => { c with m := x })
  let keep (s : State) (x : MSet) : State := { s with images := s.images.map (fun i =>
    if i.reach = reach then { i with cells := i.cells.map (fun e => if e.cell = m then { e with m := x } else e) } else i) }
  if c.m.act.reach = reach then some (f s)
  else if c.m.ina.reach = reach then
    let r := f (put s ⟨c.m.ina, c.m.act⟩)
    some (keep (put r.1 ⟨c.m.act, r.1.mset m⟩) (r.1.mset m), r.2)
  else match (s.images.flatMap (fun i => if i.reach = reach then i.cells.filter (fun e => e.cell == m) else [])).head? with
    | some e =>
      let r := f (put s ⟨e.m, c.m.ina⟩)
      some (keep (put r.1 c.m) (r.1.mset m), r.2)
    | none => none

/-- A node's access in space V: the place of its unit, or the state that its fault or miss leaves. -/
def State.nodeReach (s : State) (n k : Nat) (d : CNode) (wr : Bool) (va : Nat) : State × Option (Nat × Nat) :=
  let j := s.reachJob d.reach
  let r := s.dieAccess (cellDie n) j va (if wr then .write else .read)
  match r.2.2 with
  | .ok st sa =>
    if !s.takesFor j st then (s, none)
    else if !wr && r.1.hbmBad st sa then
      (((r.1.countAccess st sa).noteBad st).freezeNode n k d wr va 0x0F (memCode 1 st 0 va), none)
    else (r.1.thawNode n k d, some (st, sa))
  | .fault cause code => (r.1.freezeNode n k d wr va cause code, none)
  | .bad st sa => ((r.1.noteBad st).freezeNode n k d wr va 0x0F (memCode 2 st 0 sa), none)
  | .tier =>
    ((r.1.tierMiss j va (whoOf 0 (tileUnit n kindA)) d.reach).updNodeAt n k (fun d => { d with frz := some .tier }), none)
  | .wait => (r.1, none)

/-- Read source unit u. -/
def State.nodeRead (s : State) (n k : Nat) (d : CNode) (u : Nat) : State × Option Unit64 :=
  let a := d.g2.unitAddr d.b2 u
  match d.g2.space with
  | .virt =>
    (match s.nodeReach n k d false a with
    | (s, some (st, sa)) => (s.countAccess st sa, some (s.hbmUnit st sa))
    | (s, none) => (s, none))
  | _ =>
    match s.sramTarget n d.reach (BitVec.ofNat 64 a) with
    | .error c => (s.freezeNode n k d false a c 0, none)
    | .ok (m, off) =>
      (s.atSet m d.reach (fun s =>
        let p := s.port m d.g2.homePort
        if !p.takes .read off then ((s.portRefused m d.g2.homePort).freezeNode n k d false a 0x04 0, none)
        else if s.sramBad m off then (s.freezeNode n k d false a 0x0F (memCode 0 0 (tileUnit m 2) a), none)
        else (s.thawNode n k d, some (s.sramUnit m off)))).getD (s, none)

/-- A node's write at its port, which counts it and fills its full/empty bits: whether it has been applied, or stands in the port's
reorder stage; none while it waits or stands at a fault. -/
def State.nodePut (s : State) (n k : Nat) (d : CNode) (r : NodeReq) (m off a : Nat) (v : Unit64) : State × Option Bool :=
  let h := d.g3.homePort
  let p := s.port m h
  if !p.takes .write off then ((s.portRefused m h).freezeNode n k d true a 0x04 0, none)
  else if p.load ≥ 16 then (s, none)
  else
    let s := s.thawNode n k d
    if p.role = 0x0C then (s, some true)
    else if p.role = 0x08 then (s.writeObj m off v (BitVec.ofNat 64 a) (tileUnit n kindA), some true)
    else
      let mctr : BitVec 12 := BitVec.ofNat 12 (d.g3.mcell + d.g3.mctr * 2 ^ 9)
      let pl : Placed := { cell := n, id := 0, write := true, addr := off, cls := d.g3.cls, marked := r.marked, mark := r.x.mark,
                           mctr := mctr, slack := s.slackAt n r.marked r.x.mark mctr, sent := s.cycle, since := r.since }
      let s := (s.updPort m h (fun p => { p with accept := p.accept + 1 })).plainWrite m h pl d.g3.vchan off v
      (s, some (!(s.port m h).reorder.any (fun e => e.2.2 == pl)))

/-- Write destination unit u: whether it has been applied; none while it waits or stands at a fault. -/
def State.nodeWrite (s : State) (n k : Nat) (d : CNode) (r : NodeReq) (u : Nat) (v : Unit64) : State × Option Bool :=
  let a := d.g3.unitAddr d.b3 u
  match d.g3.space with
  | .virt =>
    (match s.nodeReach n k d true a with
    | (s, some (st, sa)) => (s.writeAt (s.reachJob d.reach) a st sa 64 v.toNat, some true)
    | (s, none) => (s, none))
  | _ =>
    match s.sramTarget n d.reach (BitVec.ofNat 64 a) with
    | .error c => (s.freezeNode n k d true a c 0, none)
    | .ok (m, off) => (s.atSet m d.reach (fun s => s.nodePut n k d r m off a v)).getD (s, none)

/-- A unit has been written: its request is complete, or goes on in the reorder stage of its port. -/
def State.wrote (s : State) (n k : Nat) (d : CNode) (r : NodeReq) (applied : Bool) : State :=
  if applied then (s.lateEnd n d.reach r.x false).updNodeAt n k (fun d => { d with op := d.op.map (fun o => { o with written := o.written + 1 }) })
  else s.updNodeAt n k (fun d => { d with flight := d.flight ++ [r] })

/-! ## COLL (05 R128) -/

/-- The checks of COLL: the node's cell and place, or the detail of its trap; none while the image is on its way. -/
def State.collTarget (s : State) (c : Nat) (h : Word) (i : Nat) : Except Nat (Option (Nat × Nat × CNode)) :=
  match ((s.ctx c).handleReach h).bind s.reach? with
  | none => .error 1
  | some r =>
    if r.shows ≠ .running && r.shows ≠ .armed then .error 2
    else if !r.loaded then .ok none
    else match r.cells.findSome? (fun n => (s.nodeWhere n (fun d => d.reach == r.id && d.idx == i)).map (fun p => (n, p.1, p.2))) with
      | none => .error 2
      | some p => .ok (some p)

def execCollEnable (h b : Reg) (n : BitVec 8) (s : State) : Host.Outcome State Fault Refusal :=
  let c := s.focus.ctx
  let hv := (s.ctx c).reg h
  match s.collTarget c hv n.toNat with
  | .error d => .next (s.detailTrap c hv d (wordOf (.collEnable h b n)))
  | .ok none => .next (s.block c (.access .fence))
  | .ok (some (m, k, _)) =>
    .next ((s.updNodeAt m k (fun d => { d with enabled := true, limit := max 256 (min ((s.ctx c).reg b).toNat 65536) })).advance c)

/-- COLL query. A word whose xb field is not zero is no instruction (02 R39; log entry 61). -/
def execCollQuery (h b : Reg) (n : BitVec 8) (s : State) : Host.Outcome State Fault Refusal :=
  let c := s.focus.ctx
  let hv := (s.ctx c).reg h
  let w := wordOf (.collQuery h b n)
  if b ≠ 0 then .next (s.syncTrap c 0x01 (w.setWidth 64) 0 0)
  else match s.collTarget c hv n.toNat with
    | .error d => .next (s.detailTrap c hv d w)
    | .ok none => .next (s.block c (.access .fence))
    | .ok (some (_, _, d)) =>
      .next ((s.updCtx c (fun x => { x with cstate := BitVec.ofNat 2 d.cstate, ccount := BitVec.ofNat 32 d.count })).advance c)

/-! ## Aborts (R334) -/

/-- Where the address-generator set of a node stands: active, inactive, or in its save image. Take the triggers that wait
at i7; how many there were. -/
def State.takeTriggers (s : State) (n reach : Nat) : State × Nat :=
  let count (x : Issue) : Nat := ((vget [] x.chans 7 ++ vget [] x.wave 7).filter (fun p => !p.tok.isMarker)).length
  let clear (x : Issue) : Issue := { x with chans := vset x.chans 7 ((vget [] x.chans 7).filter (fun p => p.tok.isMarker)), wave := vset x.wave 7 [] }
  match s.issueOf n kindA reach with
  | some x => (s.updIssueOf n kindA reach clear, count x)
  | none => (s, 0)

/-- The aborts that a node sends to its parent and children. -/
def CNode.aborts (d : CNode) (n first reason : Nat) : List Shore :=
  (d.parent.toList ++ d.children).map (fun q => { cell := n, reach := d.reach, epoch := d.epoch, rank := q, unit := first, pos := 0, reason := reason, v := 0 })

/-- A node stops at a unit boundary. Rank `first` aborted first. Pinned pages are held until every peer has acknowledged,
for 1 ms at most. -/
def State.abortNode (s : State) (n k first reason : Nat) : State :=
  match s.nodeAt n k with
  | none => s
  | some d =>
    let j := s.reachJob d.reach
    let p := s.takeTriggers n d.reach
    let s := p.1
    let s : State := { s with shoreOut := s.shoreOut ++ d.aborts n first reason }
    let written := match d.op with | some o => o.written | none => 0
    let s := (d.rd.toList ++ d.wr.toList ++ d.flight).foldl (fun (s : State) r => s.lateEnd n d.reach r.x true) s
    let s := s.updNodeAt n k (fun d => { d with
      op := none, cstate := 3, epoch := d.epoch + 1, frz := none, rd := none, wr := none, flight := [], gate := [], pins := d.pins ++ d.pages,
      pinUntil := some (s.tick + 1000000), owed := d.owed ++ List.replicate (b2n d.op.isSome + p.2) (nullTok 7 0) })
    let s := s.thawNode n k d
    let s := s.updJob j (fun b => { b with cabort := satInc b.cabort })
    s.event j 0x0E 0 (tileUnit n kindA) (BitVec.ofNat 64 (d.idx % 1024 + first % 1024 * 2 ^ 10 + reason % 8 * 2 ^ 20))
      (BitVec.ofNat 64 (written % 2 ^ 24)) (BitVec.ofNat 64 (s.reachNumber d.reach)) (some d.reach)

/-- COLL abort. -/
def execCollAbort (h b : Reg) (n : BitVec 8) (s : State) : Host.Outcome State Fault Refusal :=
  let c := s.focus.ctx
  let hv := (s.ctx c).reg h
  match s.collTarget c hv n.toNat with
  | .error d => .next (s.detailTrap c hv d (wordOf (.collAbort h b n)))
  | .ok none => .next (s.block c (.access .fence))
  | .ok (some (m, k, d)) => .next ((s.abortNode m k d.rank 1).advance c)

/-- COLLECTIVE_ABORT: an abort that a peer sends, a mismatch it reports, or the loss of its connection, at a node. `why` is its reason,
plus 8 times how often the sender had been aborted before: a node that has aborted since does nothing more (log entry 60). -/
def execCollectiveAbort (node rank why : Nat) (s : State) : Host.Outcome State Fault Refusal :=
  match s.nodeOf node with
  | some (k, d) => if d.shared || d.epoch ≠ why / 8 then .next s else .next (s.abortNode (node % 512) k rank (why % 8))
  | none => .next s

/-- PIN_RELEASE: every peer of a node has acknowledged, which can be at any time, or 1 ms has passed. -/
def execPinRelease (node : Nat) (s : State) : Host.Outcome State Fault Refusal :=
  match s.nodeOf node with
  | none => .next s
  | some (k, d) =>
    if d.pinUntil.isNone then .next s else
    let cell := node % 512
    let s := s.updNodeAt cell k (fun d => { d with pinUntil := none, pins := [] })
    .next (s.updCell cell (fun c => { c with nodes := c.nodes.filter (fun d => (s.reach? d.reach).isSome) }))

/-! ## Triggers and the done token (R329, R335) -/

/-- Units a node writes in an operation over N units; none if a quantisation does not fill its tokens (R335). -/
def CNode.totalOf (d : CNode) (n : Nat) : Option Nat :=
  if d.kind = 4 then some ((d.peers + 1) * n)
  else if d.kind = 6 then
    let v := n * lanesOf d.g2.fmt.toNat
    if v % 128 ≠ 0 then none else some (v / 128 + (v / 128 + 7) / 8)
  else some n

/-- An operation has completed. -/
def CNode.finished (d : CNode) (n : Nat) : CNode :=
  { d with op := none, cstate := 2, count := (d.count + 1) % 2 ^ 32, rd := none, wr := none, owed := d.owed ++ [doneTok n] }

/-- COLLECTIVE_TRIGGER: the next token at i7, once the node has neither an operation nor a token to send. -/
def execCollectiveTrigger (cell : Nat) (s : State) : Host.Outcome State Fault Refusal :=
  match s.nodeWhere cell (fun d => s.nodeLive cell d && d.op.isNone && d.owed.isEmpty) with
  | none => .next s
  | some (k, d) =>
    match (s.aset cell).iss.head 7 with
    | none => .next s
    | some t =>
      let s := s.updIssue cell kindA (fun x => x.deq 7)
      let n := bitsN t.payload 0 24
      if t.kind = .null then .next (s.updNodeAt cell k (fun d => { d with owed := [nullTok 7 0] }))
      else if t.kind = .order then .next (s.updNodeAt cell k (fun d => d.finished 0))
      else if n = 0 then .next (s.updNodeAt cell k (fun d => d.finished 0))
      else match d.totalOf n with
        | none =>
          let s := s.updNodeAt cell k (fun d => d.finished n)
          .next (s.drawn.event (s.reachJob d.reach) 0x04 0 (tileUnit cell kindA) (Config.openWord s.freeCount)
            (Config.openWord s.freeCount) (Config.openWord s.freeCount) (some d.reach))
        | some m =>
          .next (s.updNodeAt cell k (fun d => { d with
            cstate := 1, op := some { n := n, total := m, engine := none, own := [], left := [], right := [], result := [],
                                      nextOwn := 0, nextUp := 0, written := 0, took := Vector.replicate 4 0 } }))

/-- The last write of an operation has been applied. -/
def CNode.complete (d : CNode) : Bool := match d.op with
  | some o => o.written == o.total
  | none => false

/-- COLLECTIVE_DONE: the operation ends, and the tokens it owes leave on o7. -/
def execCollectiveDone (cell : Nat) (s : State) : Host.Outcome State Fault Refusal :=
  match s.nodeWhere cell CNode.complete with
  | some (k, _) => .next (s.updNodeAt cell k (fun d => d.finished ((d.op.map (·.n)).getD 0)))
  | none =>
    match s.nodeWhere cell (fun d => s.nodeLive cell d && !d.owed.isEmpty) with
    | none => .next s
    | some (k, d) =>
      let x := (s.aset cell).iss
      match d.owed with
      | [] => .next s
      | t :: rest =>
        if !(s.cell cell).routeFree portA (vget none x.routes 7) then .next s
        else .next ((s.emit cell kindA x 7 t).updNodeAt cell k (fun d => { d with owed := rest }))

/-! ## Slots (R332) -/

/-- A node holds a slot in a cycle. -/
def CNode.holdsSlot (d : CNode) (now : Nat) : Bool := match d.slotEnd with
  | some t => now < t
  | none => false

/-- Another node holds a slot on one of a node's gateway ports. -/
def State.gatewayBusy (s : State) (d : CNode) : Bool :=
  s.cells.any (fun p => p.2.nodes.any (fun e => e.holdsSlot s.cycle && e.gws.any (fun g => d.gws.contains g)))

/-- A node that the tide sequencer may grant a slot. -/
def State.slotEligible (s : State) (d : CNode) : Bool :=
  !d.shared && d.enabled && d.op.isSome && !d.holdsSlot s.cycle && !s.gatewayBusy d

/-- The length of a slot. -/
def CNode.slotLen (d : CNode) : Nat :=
  let rem := match d.op with | some o => o.total - o.written | none => 0
  max 256 (min ((rem * 1024 + d.rate - 1) / d.rate) d.limit)

/-- TIDE_SLOT_GRANT: every 256 cycles, for each eligible node in the order of the cells. -/
def execTideSlotGrant (s : State) : Host.Outcome State Fault Refusal :=
  if s.cycle < s.tide + 256 then .next s
  else
    .next (s.cells.foldl (fun (s : State) p =>
      (List.range p.2.nodes.length).foldl (fun (s : State) k =>
        match s.nodeAt p.1 k with
        | some d => if s.slotEligible d then s.updNodeAt p.1 k (fun d => { d with slotEnd := some (s.cycle + d.slotLen) }) else s
        | none => s) s) { s with tide := s.cycle })

/-- COLLECTIVE_SLOT_END. -/
def execCollectiveSlotEnd (cell : Nat) (s : State) : Host.Outcome State Fault Refusal :=
  match s.nodeWhere cell (fun d => match d.slotEnd with | some t => t ≤ s.cycle | none => false) with
  | some (k, _) => .next (s.updNodeAt cell k (fun d => { d with slotEnd := none }))
  | none => .next s

/-- The node issues requests and takes units now. -/
def State.inSlot (s : State) (d : CNode) : Bool :=
  d.op.isSome && d.frz.isNone && d.holdsSlot s.cycle

/-! ## Units (R329, R331) -/

/-- ⊕ of a reduction: the lane arithmetic of R319 in g2's format. -/
def CNode.combine (d : CNode) (a b : Unit64) : Unit64 :=
  let op : SkLane := match d.kind with | 0 => .add | 1 => .max | _ => .min
  let f := d.g2.fmt.toNat
  op.eval f (bits a 256 256) (bits b 256 256) ++ op.eval f (bits a 0 256) (bits b 0 256)

/-- Units by their index. -/
def unitGet (l : List (Nat × Unit64)) (u : Nat) : Option Unit64 := (l.find? (fun e => e.1 == u)).map (·.2)
def unitDrop (l : List (Nat × Unit64)) (u : Nat) : List (Nat × Unit64) := l.filter (fun e => e.1 != u)

/-- Change the operation in progress. -/
def CNode.updOp (d : CNode) (f : COp → COp) : CNode := { d with op := d.op.map f }

/-- A unit goes on from a node: up to the parent, or, at rank 0, into the result. -/
def State.unitUp (s : State) (n k : Nat) (d : CNode) (u : Nat) (v : Unit64) : State :=
  match d.parent with
  | some q => { s with shoreOut := s.shoreOut ++ [{ cell := n, reach := d.reach, epoch := d.epoch, rank := q, unit := u, pos := d.pos, reason := 0, v := v }] }
  | none => s.updNodeAt n k (fun d => d.updOp (fun o => { o with result := o.result ++ [(u, v)] }))

/-- The next unit of a reduction whose own unit and children's units are here, combined in tree-position order. -/
def CNode.combined (d : CNode) (o : COp) : Option Unit64 :=
  match unitGet o.own o.nextUp with
  | none => none
  | some v =>
    let v : Option Unit64 := if 2 * d.rank + 1 ≤ d.peers then (unitGet o.left o.nextUp).map (d.combine v) else some v
    match v with
    | none => none
    | some v => if 2 * d.rank + 2 ≤ d.peers then (unitGet o.right o.nextUp).map (d.combine v) else some v

/-- Write the first result, and send it down the tree. -/
def State.writeResult (s : State) (n k : Nat) (d : CNode) (r : NodeReq) (u : Nat) (v : Unit64) : State × Bool :=
  match s.nodeWrite n k d r u v with
  | (s, none) => (s, false)
  | (s, some applied) =>
    let s := ((s.updNodeAt n k (fun d => { d with wr := none })).wrote n k d r applied).updNodeAt n k (fun d =>
      d.updOp (fun o => { o with result := o.result.tail }))
    ({ s with shoreOut := s.shoreOut ++ d.children.map (fun q => { cell := n, reach := d.reach, epoch := d.epoch, rank := q, unit := u, pos := 3, reason := 0, v := v }) }, true)

/-- Read the node's next own unit. -/
def State.readOwn (s : State) (n k : Nat) (d : CNode) (o : COp) : State × Bool :=
  match s.nodeRead n k d o.nextOwn with
  | (s, none) => (s, false)
  | (s, some v) =>
    let s := (s.unitDone n k false).updNodeAt n k (fun d => d.updOp (fun o => { o with nextOwn := o.nextOwn + 1 }))
    (if d.kind = 3 then s.unitUp n k d o.nextOwn v
    else if d.kind = 4 then s.unitUp n k d (d.rank * o.n + o.nextOwn) v
    else s.updNodeAt n k (fun d => d.updOp (fun o' => { o' with own := o'.own ++ [(o.nextOwn, v)] })), true)

/-- Kinds 0 to 2, all ranks, and all-gather read their own units; a broadcast only those of rank 0. -/
def CNode.readsOwn (d : CNode) (o : COp) : Bool := o.nextOwn < o.n && (d.kind != 3 || d.rank == 0)

/-- The ranks of a subtree of the tree over 0 to P (R330). -/
def subtree (p : Nat) : Nat → Nat → Nat
  | _, 0 => 0
  | c, fuel + 1 => if p < c then 0 else 1 + subtree p (2 * c + 1) fuel + subtree p (2 * c + 2) fuel

/-- How many units the operation in progress takes from a position: 1 and 2 are the children's, 3 the results (R331). -/
def CNode.expects (d : CNode) (o : COp) (pos : Nat) : Nat :=
  if pos = 3 then (if d.rank = 0 then 0 else o.total)
  else if d.kind < 3 then (if 2 * d.rank + pos ≤ d.peers then o.n else 0)
  else if d.kind = 4 then o.n * subtree d.peers (2 * d.rank + pos) 11
  else 0

/-- The first unit at the gateway that the operation in progress takes. The units of a later operation wait there, and those of one
peer stay in order (R336). -/
def CNode.gateNext (d : CNode) (o : COp) : Option (Nat × Nat × Nat × Unit64) :=
  (List.range d.gate.length).findSome? (fun i => match d.gate[i]? with
    | some (pos, u, v) => if vget 0 o.took pos < d.expects o pos then some (i, pos, u, v) else none
    | none => none)

/-- A unit from a peer: 1 and 2 are the children's, 3 a result. -/
def CNode.takeUnit (d : CNode) (pos u : Nat) (v : Unit64) : CNode :=
  d.updOp (fun o =>
    if pos = 3 || d.rank = 0 && d.kind = 4 then { o with result := o.result ++ [(u, v)] }
    else if pos = 1 then { o with left := o.left ++ [(u, v)] }
    else { o with right := o.right ++ [(u, v)] })

/-- Take unit i of the gateway. All-gather passes its children's units on. -/
def State.takeGate (s : State) (n k i pos u : Nat) (v : Unit64) (d : CNode) : State :=
  let s := s.updNodeAt n k (fun d => { d with gate := d.gate.eraseIdx i }.updOp (fun o =>
    { o with took := vset o.took pos (vget 0 o.took pos + 1) }))
  if d.kind = 4 && pos ≠ 3 && d.rank ≠ 0 then s.unitUp n k d u v else s.updNodeAt n k (fun d => d.takeUnit pos u v)

/-- One action of a node beside its requests: it takes a unit from its gateway, combines one, or has its next request accepted. -/
def State.pumpNode (s : State) (n k : Nat) (d : CNode) (o : COp) : State :=
  match d.gateNext o with
  | some (i, pos, u, v) => s.takeGate n k i pos u v d
  | none =>
    match (if d.kind < 3 then d.combined o else none) with
    | some v =>
      let u := o.nextUp
      let s := s.updNodeAt n k (fun d => d.updOp (fun o => { o with
        own := unitDrop o.own u, left := unitDrop o.left u, right := unitDrop o.right u, nextUp := u + 1 }))
      s.unitUp n k d u v
    | none =>
      match (if d.wr.isNone then o.result.head? else none) with
      | some (u, _) => s.acceptUnit n k true false u
      | none => if d.rd.isNone && d.readsOwn o then s.acceptUnit n k false false o.nextOwn else s

/-- The node can act beside its requests. -/
def CNode.pumps (d : CNode) (o : COp) : Bool :=
  (d.gateNext o).isSome || (d.kind < 3 && (d.combined o).isSome) || (d.wr.isNone && !o.result.isEmpty)
    || (d.rd.isNone && d.readsOwn o)

/-- COLLECTIVE_UNIT at a node: with `from_` 0, one action of the node; else unit u from a peer arrives at the gateway, which holds it back
outside the node's slots. `from_` is the peer's position, plus 4 times how often that peer had been aborted: a unit of an operation that
this node has aborted since goes nowhere (R334, log entry 60). -/
def execCollectiveUnit (node from_ u : Nat) (v : Unit64) (s : State) : Host.Outcome State Fault Refusal :=
  match s.nodeOf node with
  | none => .next s
  | some (k, d) =>
    if d.shared then .next s
    else if from_ % 4 = 0 then
      (match d.op with
      | some o => if s.inSlot d then .next (s.pumpNode (node % 512) k d o) else .next s
      | none => .next s)
    else if d.epoch ≠ from_ / 4 then .next s
    else .next (s.updNodeAt (node % 512) k (fun d => { d with gate := d.gate ++ [(from_ % 4, u, v)] }))

/-! ## Shared engines and fallback kernels (R335) -/

/-- The slack of a command's unit 0 under g3's mark. -/
def State.cmdSlack (s : State) (n : Nat) (d : CNode) : Nat :=
  s.slackAt n d.g3.marked d.g3.mark0 (BitVec.ofNat 12 (d.g3.mcell + d.g3.mctr * 2 ^ 9))

/-- Commands of a kind on the engines that have begun. -/
def State.enginesBusy (s : State) (kind : Nat) : Nat :=
  (s.cells.map (fun p => (p.2.nodes.filter (fun d => d.kind == kind &&
    (match d.op with | some o => o.engine == some true && o.nextOwn != 0 | none => false))).length)).foldl (· + ·) 0

/-- A command may begin on an engine: one of the four is free, and no other waiting command of the kind has less slack. -/
def State.engineFree (s : State) (n : Nat) (d : CNode) : Bool :=
  s.enginesBusy d.kind < 4 && !s.cells.any (fun p => p.2.nodes.any (fun e => e.kind == d.kind
    && (match e.op with | some o => o.engine == some true && o.nextOwn == 0 | none => false)
    && s.cmdSlack p.1 e < s.cmdSlack n d))

/-- Read m source units from unit u. -/
def State.nodeReads (s : State) (n k : Nat) (d : CNode) : Nat → Nat → List Unit64 → State × Option (List Unit64)
  | 0, _, acc => (s, some acc.reverse)
  | m + 1, u, acc => match s.nodeRead n k d u with
    | (s, none) => (s, none)
    | (s, some v) => State.nodeReads s n k d m (u + 1) (v :: acc)

/-- The pairs of data token i of a companion's group, where it has that many (04 R92). -/
def groupPairs (l : List (Nat × Unit64)) (i : Nat) : Nat := match unitGet l i with
  | some v => v.toNat
  | none => 0x807F807F807F807F

/-- The quantised lanes of 128 values, and the pairs of their four blocks (R335, 04 R91). -/
def quantUnit (fmt : Nat) (us : List Unit64) : Unit64 × Unit64 :=
  let q := (blocksOf (us.flatMap (fun v => decodeLanes fmt v (fun _ => none))) 4).map (quantBlock fE2M1X)
  (packLanes 4 (q.map (fun b => b.2.1)).flatten, BitVec.ofNat 512 (packPairs (q.map (·.1))))

/-- The companion unit of group g, from the pairs of its data tokens (04 R92). -/
def companionUnit (pairs : List (Nat × Unit64)) (g : Nat) : Unit64 :=
  BitVec.ofNat 512 ((List.range 8).foldl (fun a i => a + groupPairs pairs (8 * g + i) * 2 ^ (64 * i)) 0)

/-- One unit of a copy, or of a quantisation on an engine; false while it waits or stands at a fault. The pairs of a data token stand in `left`
until its companion is written. -/
def State.engineUnit (s : State) (n k : Nat) (d : CNode) (o : COp) (r : NodeReq) : State × Bool :=
  let u := o.nextOwn
  let put (s : State) (v : Unit64) (f : COp → COp) : State × Bool :=
    match s.nodeWrite n k d r u v with
    | (s, none) => (s, false)
    | (s, some applied) =>
      (((s.updNodeAt n k (fun d => { d with rd := none, wr := none })).wrote n k d r applied).updNodeAt n k (fun d =>
        d.updOp (fun o => f { o with nextOwn := u + 1 })), true)
  if d.kind = 5 then
    match s.nodeRead n k d u with
    | (s, some v) => put s v id
    | (s, none) => (s, false)
  else
    let lanes := lanesOf d.g2.fmt.toNat
    let data := o.n * lanes / 128
    if u < data then
      match s.nodeReads n k d (128 / lanes) (u * (128 / lanes)) [] with
      | (s, none) => (s, false)
      | (s, some us) =>
        let q := quantUnit d.g2.fmt.toNat us
        put s q.1 (fun o => { o with left := o.left ++ [(u, q.2)] })
    else
      let g := u - data
      put s (companionUnit o.left g) (fun o => { o with left := o.left.filter (fun e => 8 * (g + 1) ≤ e.1) })

/-- The next unit that a fallback quantisation passes on from the switch's device kernel: a data unit once its source units have been
read, a companion once the data units are made. The operation goes on with that unit in its result. -/
def CNode.quantNext (d : CNode) (o : COp) : Option COp :=
  let lanes := lanesOf d.g2.fmt.toNat
  let m := 128 / lanes
  let data := o.n * lanes / 128
  let u := o.nextUp
  if o.total ≤ u then none
  else if u < data then
    if o.nextOwn < (u + 1) * m then none
    else
      let q := quantUnit d.g2.fmt.toNat ((List.range m).filterMap (fun i => unitGet o.own (u * m + i)))
      some { o with own := o.own.filter (fun e => (u + 1) * m ≤ e.1), left := o.left ++ [(u, q.2)],
                    result := o.result ++ [(u, q.1)], nextUp := u + 1 }
  else
    let g := u - data
    some { o with left := o.left.filter (fun e => 8 * (g + 1) ≤ e.1), result := o.result ++ [(u, companionUnit o.left g)], nextUp := u + 1 }

/-- One action of a fallback kernel beside its requests (R335, 12 R257): a copy has its next pair accepted, numbered on g2 and
arbitrated as its read; a quantisation forms a unit, or has the write of one or the read of a source unit accepted. -/
def State.pumpFallback (s : State) (n k : Nat) (d : CNode) (o : COp) : State :=
  if d.kind = 5 then (if d.rd.isNone && o.nextOwn < o.total then s.acceptUnit n k false true o.nextOwn else s)
  else match d.quantNext o with
    | some o' => s.updNodeAt n k (fun d => { d with op := some o' })
    | none =>
      match (if d.wr.isNone then o.result.head? else none) with
      | some (u, _) => s.acceptUnit n k true false u
      | none => if d.rd.isNone && o.nextOwn < o.n then s.acceptUnit n k false false o.nextOwn else s

/-- ENGINE_COMMAND at a node: the sequencer chooses where a command of kind 5 or 6 runs; then each event has its next unit
accepted, or makes one on an engine. The units of a fallback kernel leave through the issue stage. Only a marked command can miss its
deadline. -/
def execEngineCommand (node : Nat) (fallback : Bool) (s : State) : Host.Outcome State Fault Refusal :=
  let cell := node % 512
  match s.nodeOf node with
  | none => .next s
  | some (k, d) =>
    if !d.shared || d.frz.isSome then .next s else
    match d.op with
    | none => .next s
    | some o =>
      match o.engine with
      | none =>
        if fallback && !d.g3.marked then .next s
        else
          let s := s.updJob (s.reachJob d.reach) (fun b =>
            if fallback then { b with fallbk := b.fallbk + 1 } else { b with engcmd := b.engcmd + 1 })
          .next (s.updNodeAt cell k (fun d => d.updOp (fun o => { o with engine := some (!fallback) })))
      | some true =>
        if o.total ≤ o.nextOwn then .next s else
        (match d.wr with
        | none => .next (s.acceptUnit cell k true false o.nextOwn)
        | some r => if o.nextOwn = 0 && !s.engineFree cell d then .next s else .next (s.engineUnit cell k d o r).1)
      | some false => .next (s.pumpFallback cell k d o)

/-! ## A node at its issue stage (12 R257, R258) -/

/-- A request of a node waits at the issue stage: within its slots, or as part of a fallback kernel. -/
def State.nodeStage (s : State) (d : CNode) (wr : Bool) : Option NodeReq :=
  match d.op with
  | none => none
  | some o =>
    if d.frz.isSome then none
    else if d.shared then (if o.engine = some false then d.req wr else none)
    else if s.inSlot d then d.req wr
    else none

/-- Slack of a node's request. -/
def State.unitSlack (s : State) (n : Nat) (d : CNode) (wr : Bool) (r : NodeReq) : Nat :=
  let t := d.tmpl wr
  s.slackAt n r.marked r.x.mark (BitVec.ofNat 12 (t.mcell + t.mctr * 2 ^ 9))

/-- A node's request is held while its slack exceeds its hold limit: that of a write in space S, or of a pair whose write is, is its
port's too. -/
def State.unitHeld (s : State) (n : Nat) (d : CNode) (wr : Bool) (r : NodeReq) : Bool :=
  let port : Option (Nat × Nat) :=
    if r.x.isWrite && d.g3.space = .sram then
      (match s.sramTarget n d.reach (BitVec.ofNat 64 (d.g3.unitAddr d.b3 r.unit)) with
      | .ok (m, _) => some (m, d.g3.homePort)
      | .error _ => none)
    else none
  match s.holdLimit n r.marked port with
  | none => false
  | some h => !r.unheld && s.unitSlack n d wr r != 0 && h < s.unitSlack n d wr r

/-- The requests of a cell's nodes at its issue stage: which node, on which template. -/
def State.nodeRequests (s : State) (n : Nat) : List (Nat × CNode × Bool × NodeReq) :=
  let l := (s.cell n).nodes
  (List.range l.length).flatMap (fun k => match l[k]? with
    | some d => [false, true].filterMap (fun wr => (s.nodeStage d wr).map (fun r => (k, d, wr, r)))
    | none => [])

/-- The issue stage serves a request of a node: it is performed; false while it waits. -/
def State.serveNode (s : State) (n k : Nat) (wr : Bool) : State × Bool :=
  match s.nodeAt n k with
  | none => (s, false)
  | some d =>
    match d.op, s.nodeStage d wr with
    | some o, some r =>
      let p :=
        if d.kind = 5 then s.engineUnit n k d o r
        else if wr then (match o.result with
          | (u, v) :: _ => s.writeResult n k d r u v
          | [] => (s, false))
        else s.readOwn n k d o
      (p.1, p.2 || ((p.1.nodeAt n k).map (fun d => d.frz.isSome)).getD true)
    | _, _ => (s, false)

end Sys2Proof.Machine
end

