-- ==== Sys2Proof/Machine/Requests.lean ====
section
/-!
DEFINITION. The life of a request after its acceptance: the issue stage (12 R257, R258), walks (14 R272, 22 R360), service
at HBM controllers (12 R254) and of atomics (16 R292), delivery (11 R228), releases and acquires (11 R235, R236; 16 R294),
and the resumption of a faulting request (21 R347).
-/

namespace Sys2Proof.Machine

open Sys2Proof

/-! ## The issue stage (12 R257, R258) -/

/-- The oldest request of a template whose walk waits for a walker: each die has 64 (14 R272). -/
def State.walkStall (s : State) (n g : Nat) : Option Nat :=
  let die := cellDie n
  let waiting := (s.walks.filter (fun w => w.die == die)).drop 64
  if waiting.isEmpty then none
  else ((s.aset n).q.find? (fun q => q.g == g && q.stage == .walking
    && waiting.any (fun w => w.reqs.any (fun e => e.1 == n && e.2.2 == q.id)))).map (·.id)

/-- The number of the request that a template stands frozen at: a faulting one, one that waits for its page, or one whose walk
waits for a walker (21 R344, R348). -/
def State.standsAt (s : State) (n g : Nat) : Option Nat :=
  match ((s.aset n).tmpl g).frozenAt, s.walkStall n g with
  | some a, some b => some (min a b)
  | some a, none => some a
  | none, r => r

/-- A set whose rounds have not been stopped by the ebb wave: its issue stage takes new requests (21 R349). -/
def Issue.issuing (x : Issue) : Bool := x.run == .running || x.run == .halted

/-- The issue stage takes a request: the set has not been stopped, or something that the wave waits for was accepted later. -/
def ASet.takes (a : ASet) (q : Req) : Bool := a.iss.issuing || a.q.any (fun p => q.id < p.id && p.counted)

/-- The head of a template's queue. A template that is frozen issues nothing accepted after the request it stands at, but what
had left the queue for translation goes on (21 R344). -/
def State.stageHead (s : State) (n g : Nat) : Option Req :=
  let a := s.aset n
  let k := s.standsAt n g
  a.q.find? (fun q => q.g == g && q.stage == .queued && (q.counted || (a.takes q && (match k with
    | some k => q.id ≤ k
    | none => true))))

/-- The write half of the oldest CPY pair of a template whose writes are not all under way. -/
def ASet.copyHead (a : ASet) (g : Nat) : Option Req :=
  match a.q.find? (fun q => q.g == g && q.kind == .cpy && q.stage != .cpyWrite) with
  | some q => if q.stage == .answered && q.writeHalf then some q else none
  | none => none

/-- An LDSY of a tile waits at its port for its unit to fill; once the unit is full it keeps its place again. -/
def State.ldsyWaits (s : State) (n id : Nat) : Bool :=
  s.cells.any (fun p => p.2.m.act.ports.toList.any (fun q => q.ldsy.any (fun e => e.cell == n && e.id == id
    && (q.feUnit e.addr).any (fun x => !q.feFull x))))

/-- Places a request takes effect at that are not behind it yet: unit, space and port (11 R229). An LDSY that waits at its port for
its unit may wait for a later write of its own tile, as in 18's listing, so it keeps back no request (log entry 68). -/
def ASet.spots (a : ASet) (waits : Nat → Bool) (q : Req) : List (Space × Nat × Nat) :=
  let spot (g addr : Nat) : Space × Nat × Nat :=
    let t := a.tmpl g
    (t.space, addr / 64, if t.space = .sram then t.homePort else 0)
  match q.kind with
  | .cpy => (if q.writeHalf then [] else [spot q.g q.addr]) ++ [spot q.wg q.waddr]
  | .s2s => []
  | .nullRead => []
  | .ldsy _ => if q.stage = .answered || (q.stage = .placed && waits q.id) then [] else [spot q.g q.addr]
  | _ => if q.stage = .answered then [] else [spot q.g q.addr]

/-- A request must wait for an earlier one to the same place, or for an ACQ (11 R229, R236). -/
def State.ordered (s : State) (n : Nat) (q : Req) : Bool :=
  let a := s.aset n
  let mine := a.spots (s.ldsyWaits n) q
  !(a.q.any (fun p => p.id < q.id && (a.spots (s.ldsyWaits n) p).any (fun x => mine.contains x)))
    && !(a.acqs.any (fun c => c.id == q.after))

/-- The memory-tile port whose HOLD a request is held by (R258): that of a write in space S. -/
def State.holdPort (s : State) (n : Nat) (q : Req) : Option (Nat × Nat) :=
  let a := s.aset n
  let port (g addr : Nat) : Option (Nat × Nat) :=
    let t := a.tmpl g
    if t.space = .sram then
      match s.sramTarget n a.iss.reach (BitVec.ofNat 64 addr) with
      | .ok (d, _) => some (d, t.homePort)
      | .error _ => none
    else none
  match q.kind with
  | .write => port q.g q.addr
  | .cpy => port q.wg q.waddr
  | _ => none

/-- Slack of a request at its issue stage. -/
def State.reqSlack (s : State) (n : Nat) (q : Req) : Nat :=
  let t := (s.aset n).tmpl q.g
  s.slackAt n q.marked q.mark (BitVec.ofNat 12 (t.mcell + t.mctr * 2 ^ 9))

/-- A request is held while its slack exceeds its hold limit (R258). -/
def State.isHeld (s : State) (n : Nat) (q : Req) : Bool :=
  match s.holdLimit n q.marked (s.holdPort n q) with
  | none => false
  | some h => !q.unheld && s.reqSlack n q != 0 && h < s.reqSlack n q

/-- A request leaves the request queue for its translation or its place: from then on it is outstanding (21 R344, R345). -/
def ASet.sendOut (a : ASet) (q : Req) (stage : Req → ReqStage) : ASet :=
  let a := a.updReq q.id (fun r => { r with stage := stage r, counted := true })
  if q.counted then a else a.setTmpl q.g (fun t => { t with issued := t.issued + 1 })

/-- Put a request where it is served. -/
def State.placeAt (s : State) (n : Nat) (q : Req) (write : Bool) (dest : Nat) (p : Placed) : State :=
  let s := s.updA n (fun a =>
    let a := a.sendOut q (fun r => if r.writeHalf then .cpyWrite else .placed)
    if write then a.noteDest q.phase dest else a)
  if dest < 4096 then
    s.updPort (dest / 4) (dest % 4) (fun m => { m with q := m.q ++ [p], accept := m.accept + 1 })
  else s.updStk (dest - 4096) (fun k => { k with q := k.q ++ [p] })

/-- A request leaves the issue stage: to its port, to the stack of its page, to a walk, or, for S2S, to its stream. A reduce-store
takes the next number of its tile (11 R246). -/
def State.leave (s : State) (n : Nat) (q : Req) : State :=
  let a := s.aset n
  let t := a.tmpl q.tmplNow
  let write : Bool := q.writeHalf || q.kind == .write
  let j := s.reachJob a.iss.reach
  match t.space with
  | .stream => s.updA n (fun a => a.updReq q.id (fun r =>
      { r with stage := .answered, counted := true, ans := some { q.tok with vchan := t.vchan } }))
  | .sram =>
    match s.sramTarget n a.iss.reach (BitVec.ofNat 64 q.addrNow) with
    | .ok (d, off) =>
      let s := if q.seq.isSome then s.updA n (fun a => { a.updReq q.id (fun r => { r with seq := some (BitVec.ofNat 32 a.seq) }) with seq := a.seq + 1 })
        else s
      s.placeAt n q write (destPort d t.homePort) (s.placedOf n q write off (s.islandCycle d))
    | .error _ => s
  | .virt =>
    match tlbFind (s.cell n).utlb j q.addrNow q.accessNow with
    | none => (s.updA n (fun a => a.sendOut q (fun _ => .walking))).joinWalk n j (q.addrNow / 4096) q.writeHalf q.id
    | some e =>
      match s.tlbPlace e q.addrNow q.accessNow with
      | .ok k sa => s.placeAt n q write (destStack k) (s.placedOf n q write sa s.cycle)
      | .fault cause code => (s.updA n (fun a => a.sendOut q (fun _ => .faulted))).freezeReq n q.id cause code .faulted
      | _ => s

/-- A request's translation, if it needs one, is at hand or can be asked for (11 R226). -/
def State.canLeave (s : State) (n : Nat) (q : Req) : Bool :=
  let j := s.reachJob (s.aset n).iss.reach
  ((s.aset n).tmpl q.tmplNow).space != .virt || (tlbFind (s.cell n).utlb j q.addrNow q.accessNow).isSome
    || s.canMiss n j (q.addrNow / 4096)

/-- Every write of a phase has left for a destination. -/
def Phase.allOut (p : Phase) : Bool := (p.dests.map (·.2)).foldl (· + ·) 0 == p.total

/-- A closed phase whose writes have all left, and whose counts are not yet sent. -/
def ASet.relsHead (a : ASet) : Option Phase := a.phases.find? (fun p => p.closed && !p.complete && !p.sent && p.allOut)

/-- A closed phase sends each of its destinations the count it should hold (11 R235). -/
def State.sendCounts (s : State) (n : Nat) (p : Phase) : State :=
  let s : State := { s with phaseMsgs := s.phaseMsgs ++ p.dests.map (fun d => { dest := d.1, src := s.phaseSrc n, p := p.p, count := d.2 }) }
  s.updA n (fun a => { a with phases := a.phases.map (fun h => if h = p then { h with sent := true } else h) })

/-- The oldest ACQ, once every read that it waits for has delivered its token and the issue stage has still to serve it (11 R236,
12 R257). -/
def ASet.acqHead (a : ASet) : Option Acq :=
  a.acqs.head?.filter (fun c => !c.served && !a.q.any (fun q => c.reads.contains q.id))

/-- What an issue stage serves: a request, a RELS, an ACQ, or a request of collective node k. -/
inductive Staged where
  | request (q : Req)
  | rels
  | acq
  | node (k : Nat) (write : Bool)
  deriving DecidableEq, Repr

/-- What the issue stage of a cell chooses among: the heads of its four queues, in class 5 a RELS and an ACQ, and the requests of
collective nodes as the queues of g2 and g3 (12 R257, 19 R329). -/
def State.stageHeads (s : State) (n : Nat) : List (Staged × Head) :=
  let a := s.aset n
  let next (g id : Nat) : Bool := ((a.q.find? (fun q => q.g == g && q.stage == .queued && id < q.id)).map (fun q => !s.isHeld n q)).getD false
  (List.range 4).filterMap (fun g => match s.stageHead n g with
    | some q =>
      if s.ordered n q && !s.isHeld n q && s.canLeave n q then
        some (.request q, { cls := q.cls.toNat, slack := s.reqSlack n q, since := q.id, src := n, port := g, next := next g q.id })
      else none
    | none => none)
    ++ ((if a.iss.issuing then a.relsHead else none).map (fun p =>
      (Staged.rels, ({ cls := 5, slack := slackMax, since := p.since, src := n, port := 4, next := false } : Head)))).toList
    ++ (a.acqHead.map (fun c => (Staged.acq, ({ cls := 5, slack := slackMax, since := c.id, src := n, port := 4, next := false } : Head)))).toList
    ++ ((s.nodeRequests n).filter (fun e => !s.unitHeld n e.2.1 e.2.2.1 e.2.2.2)).map (fun e =>
      (Staged.node e.1 e.2.2.1, { cls := (e.2.1.tmpl e.2.2.1).cls.toNat, slack := s.unitSlack n e.2.1 e.2.2.1 e.2.2.2, since := e.2.2.2.since, src := n,
                                  port := if e.2.2.1 then 3 else 2, next := false }))

/-- ISSUE_STAGE_DECISION: a CPY write whose data have returned leaves; otherwise the stage serves one head. No decision comes
before a record that is due at the cell (13 R263). -/
def execIssueStageDecision (cell : Nat) (s : State) : Host.Outcome State Fault Refusal :=
  let n := cell
  let a := s.aset n
  if s.recordDue n then .next s
  else match (List.range 4).findSome? (fun g => (a.copyHead g).bind (fun q => if s.canLeave n q then some q else none)) with
    | some q => .next (s.leave n q)
    | none =>
      let hs := s.stageHeads n
      match (s.cell n).aArb.decide (s.cell n).need.qwgt (hs.map (·.2)) with
      | none => .next s
      | some (i, arb) =>
        let t := s.updCell n (fun c => { c with aArb := arb, decided := s.islandCycle n + 1 })
        match hs[i]? with
        | none => .next s
        | some (.request q, _) => .next (t.leave n q)
        | some (.rels, _) => (match a.relsHead with
          | some p => .next (t.sendCounts n p)
          | none => .next s)
        | some (.acq, _) => .next (t.updA n (fun a => { a with acqs := a.acqs.modify 0 (fun c => { c with served := true }) }))
        | some (.node k w, _) => let p := t.serveNode n k w; .next (if p.2 then p.1 else s)

/-- HOLD_RELEASE: the head of a template's queue has been held for HOLDMAX cycles in all; below 64 acts as 64 (R259). -/
def execHoldRelease (cell g : Nat) (s : State) : Host.Outcome State Fault Refusal :=
  let past (marked unheld : Bool) (held : Nat) : Bool := marked && !unheld && max 64 (s.cell cell).need.holdMax ≤ held
  let count (s : State) : State := s.updCell cell (fun c => { c with need := { c.need with holdrel := (c.need.holdrel + 1) % 2 ^ 32 } })
  match (s.stageHead cell g).filter (fun q => past q.marked q.unheld q.held) with
  | some q => .next (count (s.updA cell (fun a => a.updReq q.id (fun r => { r with unheld := true }))))
  | none =>
    match (s.nodeRequests cell).find? (fun e => (if e.2.2.1 then 3 else 2) == g && past e.2.2.2.marked e.2.2.2.unheld e.2.2.2.held) with
    | some (k, _, w, r) => .next (count (s.updNodeAt cell k (fun d => d.setReq w (some { r with unheld := true }))))
    | none => .next s

/-! ## Walks (14 R272, 22 R360) -/

/-- The requests of a walk that its tiles still hold. -/
def State.walkReqs (s : State) (w : Walk) : List (Nat × Req) :=
  w.reqs.filterMap (fun e => ((s.aset e.1).req? e.2.2).bind (fun q => if q.stage = .walking then some (e.1, q) else none))

/-- What the end of a walk made for kind k gives one of its requests: a fault and its code, or none. `e` is the leaf of a walk that
succeeded. -/
def State.walkFault (s : State) (k : Kind) (e : Option TlbEnt) (t : Trans) (q : Req) : Option (Nat × Nat) :=
  match t with
  | .ok _ _ => e.bind (fun e => match s.tlbPlace e q.addrNow q.accessNow with
    | .fault cause code => some (cause, code)
    | _ => none)
  | .fault cause code => if cause = 3 || q.accessNow = k then some (cause, code) else none
  | .bad st sa => some (0x0F, memCode 2 st 0 sa)
  | _ => none

/-- The oldest request of a walk that faults and is of the template of request e, not younger than it. -/
def walkFaulting (rs : List (Nat × Req)) (fault : Req → Option (Nat × Nat)) (e : Nat × Req) : Option Nat :=
  ((rs.filter (fun f => f.1 == e.1 && f.2.g == e.2.g && f.2.id ≤ e.2.id && (fault f.2).isSome)).map (·.2.id)).min?

/-- A walk has ended for its requests: the oldest that faults of each template freezes it, every later one of that template is held
with it, and the others are looked up again (22 R360). -/
def State.walkEnd (s : State) (rs : List (Nat × Req)) (fault : Req → Option (Nat × Nat)) : State :=
  rs.foldl (fun s e =>
    match walkFaulting rs fault e, fault e.2 with
    | some id, f =>
      if id = e.2.id then (match f with
        | some (cause, code) => s.freezeReq e.1 id cause code .faulted
        | none => s)
      else s.updA e.1 (fun a => a.updReq e.2.id (fun q => { q with stage := .faulted, heldBy := id }))
    | none, _ => s.updA e.1 (fun a => a.updReq e.2.id (fun q => { q with stage := q.again }))) s

/-- The micro-TLBs of the tiles that wait take the entry. -/
def State.cacheAt (s : State) (e : TlbEnt) (rs : List (Nat × Req)) : State :=
  rs.foldl (fun s r => s.updCell r.1 (fun c => { c with utlb := tlbPut c.utlb 32 e })) s

/-- The oldest of each template first: whether an earlier request of the list is of the same template. -/
def isLaterOf (rs : List (Nat × Req)) (e : Nat × Req) : Bool :=
  rs.any (fun f => f.1 == e.1 && f.2.g == e.2.g && f.2.id < e.2.id)

/-- WALK_COMPLETE: walk n of the device ends. Each die has 64 walkers, which take walks in arrival order. A unit beside the address
generators that waits for the walk looks its page up again. -/
def execWalkComplete (n : Nat) (s : State) : Host.Outcome State Fault Refusal :=
  match s.walks[n]? with
  | none => .next s
  | some w =>
    if 64 ≤ ((s.walks.take n).filter (fun x => x.die == w.die)).length then .next s
    else
      let rs : List (Nat × Req) := s.walkReqs w
      let ended (s : State) : State := { s with walks := s.walks.eraseIdx n }
      match (rs.head?.map (fun e => (e.2.addrNow, e.2.accessNow))).or w.own with
      | none => .next (ended s)
      | some (va, k) =>
        let t := s.dieTranslate w.die w.job va k
        match t.2.2 with
        | .wait => .next s
        | .tier =>
          .next (rs.foldl (fun s e =>
            if isLaterOf rs e then s.updA e.1 (fun a => a.updReq e.2.id (fun q => { q with stage := .tier }))
            else (s.tierMiss w.job e.2.addrNow (whoOf 0 (tileUnit e.1 kindA)) (s.aset e.1).iss.reach).freezeTier e.1 e.2.id) (ended t.1))
        | r =>
          let s := ended t.1
          let s := match t.2.1 with
            | some e => s.cacheAt e rs
            | none => s
          let s := match r with
            | .bad st _ => if rs.isEmpty then s else s.noteBad st
            | _ => s
          .next (s.walkEnd rs (t.1.walkFault k t.2.1 r))

/-! ## Resumption (21 R347) -/

/-- FAULT_RESUME: ACTION 01 with AGEN equal to GEN. The faulting request is translated again; a memory-tile port that stands
at it reads its unit again. A spill port, or a collective node, whose requests have no number, tries its access again. -/
def execFaultResume (job slot : Nat) (gen : BitVec 16) (s : State) : Host.Outcome State Fault Refusal :=
  let f := Tbl.get FSlot.reset (s.job job).fslots slot
  if !f.isOpen || f.gen ≠ gen then .next s
  else if f.acc = 4 || f.acc = 5 then
    let again (x : CSet) : CSet := if x.spillSlot = some slot then { x with spillFrz := none } else x
    .next { s.updCell f.cell (fun c => { c with c := ⟨again c.c.act, again c.c.ina⟩ }) with
      images := s.images.map (fun m => if m.job = job then { m with cells := m.cells.map (fun e => if e.cell = f.cell then { e with c := again e.c } else e) } else m) }
  else if f.reqId = 0 then
    .next (s.updCell f.cell (fun c => { c with nodes := c.nodes.map (fun d => if d.frz = some (.slot slot) then { d with frz := none } else d) }))
  else
    let n := f.cell
    match (s.aset n).req? f.reqId with
    | none => .next s
    | some q =>
      match q.stage with
      | .faulted => .next (s.updA n (fun a => a.updReq q.id (fun q => { q with stage := q.again })))
      | .placed =>
        match s.sramTarget n (s.aset n).iss.reach (BitVec.ofNat 64 q.addrNow) with
        | .ok (d, _) => .next (s.updPort d ((s.aset n).tmpl q.tmplNow).homePort (fun p => { p with frozen := false }))
        | .error _ => .next s
      | _ => .next s

/-! ## HBM controllers (12 R254; 14 R266) -/

/-- The job that owns a slot of the wheel, 256 slots in all: each job owns RSHARE of them, in the order of the jobs (14 R267; log
entry 87). -/
def State.slotJob (s : State) (i : Nat) : Option Nat :=
  ((List.range 63).foldl (fun (a : Option Nat × Nat) k =>
    let n := (s.job (k + 1)).rshare.toNat
    (a.1.or (if a.2 ≤ i && i < a.2 + n then some (k + 1) else none), a.2 + n)) (none, 0)).1

/-- The request that a controller serves in one slot of its wheel: of the job that owns it; else, unless STRICT is set, of any job. -/
def State.slotPick (s : State) (k i : Nat) : Option (Nat × Placed × State) :=
  let st := s.stk k
  let ok (p : Placed) : Bool := match s.reqOf p with
    | some q => !p.write || s.phaseRoom (destStack k) p.cell q.phase
    | none => true
  let next : Nat := (i + 1) % 256
  let any : Option (Nat × Placed × State) :=
    if s.strict then none
    else (pickPlaced st.arb qwgtReset st.q s.stackSlack true ok).map (fun r => (r.1, r.2.1, s.updStk k (fun st => { st with arb := r.2.2, slot := next })))
  match s.slotJob i with
  | none => any
  | some j =>
    match pickPlaced (Tbl.get Arb.reset st.arbs j) qwgtReset st.q s.stackSlack true (fun p => s.cellJob p.cell == j && ok p) with
    | some r => some (r.1, r.2.1, s.updStk k (fun st => { st with arbs := st.arbs.set j r.2.2, slot := next }))
    | none => any

/-- The request that a controller serves next: in its next slot, or, with STRICT set, in the next slot that is used. A quiesced
controller accepts none. -/
def State.stackPick (s : State) (k : Nat) : Option (Nat × Placed × State) :=
  let st := s.stk k
  if st.quiesce || st.q.isEmpty then none
  else if s.strict then (List.range 256).findSome? (fun d => s.slotPick k ((st.slot + d) % 256))
  else s.slotPick k st.slot
def State.stackTake (s : State) (k i : Nat) : State := s.updStk k (fun st => { st with q := takePlaced st.q i s.cycle })

/-- A controller's read finds an uncorrectable unit. -/
def State.stackBad (s : State) (k : Nat) (p : Placed) (q : Req) : State :=
  (s.noteBad k).freezeReq p.cell q.id 0x0F (memCode 1 k 0 q.addrNow) .faulted

/-- HBM_REQUEST; an atomic is left to ATOM_PERFORMED. -/
def execHbmRequest (stack : Nat) (s : State) : Host.Outcome State Fault Refusal :=
  match s.stackPick stack with
  | none => .next s
  | some (i, p, t) =>
    match s.reqOf p with
    | none =>
      let t := t.stackTake stack i
      .next (if p.id = 0 then t.spillServed stack p else t)
    | some q =>
      let j := s.reachJob (s.aset p.cell).iss.reach
      match q.kind with
      | .atom _ _ _ _ => .next s
      | _ =>
        let t := t.stackTake stack i
        if p.write then
          let u : Unit64 := if q.writeHalf then (q.ans.getD Token.zero).payload else q.tok.payload
          .next ((t.writeAt j q.addrNow stack p.addr 64 u.toNat).applied p.cell q (destStack stack) true)
        else if t.hbmBad stack p.addr then .next ((t.countAccess stack p.addr).stackBad stack p q)
        else
          .next ((t.countAccess stack p.addr).answer p.cell q ((t.aset p.cell).readTok q (t.hbmUnit stack p.addr)))

/-! ## Atomics (11 R234; 16 R288, R292) -/

/-- The token of a performed ATOM. -/
def Req.atomTok (q : Req) (old : Word) : Token :=
  match q.kind with
  | .atom _ scope _ et => orderTok scope old et
  | _ => Token.zero

/-- Perform an ATOM that its place serves next; none if the place serves another. -/
def State.performAtom (s : State) (n : Nat) (q : Req) : Option State :=
  let a := s.aset n
  let t := a.tmpl q.g
  match t.space with
  | .sram =>
    match s.sramTarget n a.iss.reach (BitVec.ofNat 64 q.addr) with
    | .error _ => none
    | .ok (d, _) =>
      match s.portPick d t.homePort with
      | none => none
      | some (i, p, s') =>
        if p.cell ≠ n || p.id ≠ q.id then none
        else if s.sramBad d p.addr then some (s'.portBad d t.homePort q n)
        else if (s.port d t.homePort).role = 0x08 then
          let r := (s'.portTake d t.homePort i).atomObj d p.addr q.atomWord q.tok.word.toNat q.name (tileUnit n kindA)
          some (r.1.answer n q (q.atomTok r.2))
        else
          let key := sramKey d p.addr
          let old := memWord s.sram (key + 8 * q.atomWord)
          let new := amoNew q.atomOp old q.tok.word
          let u := memUnit (memWrite s.sram (key + 8 * q.atomWord) 8 new.toNat) key
          some (((s'.portTake d t.homePort i).sramPut d p.addr u).answer n q (q.atomTok old))
  | .virt =>
    (List.range 12).findSome? (fun k =>
      match s.stackPick k with
      | none => none
      | some (i, p, s') =>
        if p.cell ≠ n || p.id ≠ q.id then none
        else
          let s' := s'.stackTake k i
          if s'.hbmBad k p.addr then some ((s'.countAccess k p.addr).stackBad k p q)
          else
            let w := p.addr + 8 * q.atomWord
            let old := s'.hbmWord k w
            let j := s.reachJob a.iss.reach
            some ((s'.writeAt j (q.addr + 8 * q.atomWord) k w 8 (amoNew q.atomOp old q.tok.word).toNat).answer n q (q.atomTok old)))
  | .stream => none

/-- Emit the token of a performed ATOM when its output has room. -/
def State.emitAtom (s : State) (n : Nat) (id : Nat) : State :=
  let a := s.aset n
  match a.req? id with
  | none => s
  | some q =>
    match q.kind, q.ans, q.stage with
    | .atom _ _ out _, some t, .answered =>
      if (s.cell n).routeFree portA (vget none a.iss.routes out) then
        (s.emit n kindA a.iss out t).updA n (fun a => a.dropReq id)
      else s
    | _, _, _ => s

/-- ATOM_PERFORMED: request n of a cell is performed when its place serves it, and its token leaves. -/
def execAtomPerformed (cell n : Nat) (s : State) : Host.Outcome State Fault Refusal :=
  match (s.aset cell).req? n with
  | none => .next s
  | some q =>
    match q.kind, q.stage with
    | .atom _ _ _ _, .placed =>
      (match s.performAtom cell q with
      | none => .next s
      | some s' => .next (s'.emitAtom cell n))
    | .atom _ _ _ _, .answered => .next (s.emitAtom cell n)
    | _, _ => .next s

/-! ## Delivery (11 R228) -/

/-- The route of a template's stream. -/
def Template.route (t : Template) : Route :=
  { dst := t.dst, dkind := t.dkind, chan := t.chan, cls := t.cls, vchan := t.vchan, bnd := false, scope := 0, link := t.link }

/-- A request whose answer goes to the template's stream. -/
def Req.streams (q : Req) : Bool :=
  match q.kind with
  | .s2s => true
  | _ => q.undelivered

/-- Source kind and channel in the header of a template's packets: the channel is a free value, one for each template (07 R155). -/
def streamSrck (cell g : Nat) : Nat := 1 + 4 * (Config.streamChannel (4 * cell + g)).toNat

/-- READ_DELIVER: the oldest request of a template for its stream is answered and its slot at the switch is free. -/
def execReadDeliver (cell g : Nat) (s : State) : Host.Outcome State Fault Refusal :=
  let a := s.aset cell
  let t := a.tmpl g
  match a.q.find? (fun q => q.g == g && q.streams) with
  | none => .next s
  | some q =>
    match q.stage, q.ans with
    | .answered, some tok =>
      if !t.hasStream then .next (s.updA cell (fun a => a.dropReq q.id))
      else
        let rt := t.route
        if !(s.cell cell).routeFree portA (some rt) then .next s
        else
          let p := mkPacket s cell (streamSrck cell g) a.iss.reach rt tok
          let p := { p with
            marked := q.marked, mark := q.mark, mctr := BitVec.ofNat 12 (t.mcell + t.mctr * 2 ^ 9),
            xfer := if q.marked then some ⟨cell, g, q.reqno.toNat⟩ else none }
          .next ((s.pushPacket cell portA p).updA cell (fun a => (a.dropReq q.id).setTmpl g (fun t =>
            { t with delivered := t.delivered + b2n (q.kind != .s2s) })))
    | _, _ => .next s

/-! ## Releases and acquires (11 R235, R236; 16 R294) -/

/-- RELS_DONE: once every destination's count of a closed phase has matched, its order token leaves. -/
def execRelsDone (cell : Nat) (s : State) : Host.Outcome State Fault Refusal :=
  let a := s.aset cell
  match a.phases.find? (fun p => p.complete && (s.cell cell).routeFree portA (vget none a.iss.routes p.out)) with
  | none => .next s
  | some p =>
    let t := orderTok scopeReach (BitVec.ofNat 64 (p.p.toNat + p.total * 2 ^ 32)) p.et
    .next ((s.emit cell kindA a.iss p.out t).updA cell (fun a => { a with phases := a.phases.erase p }))

/-- PHASE_COUNT: message n completes its pair when the count matches. -/
def execPhaseCount (n : Nat) (s : State) : Host.Outcome State Fault Refusal :=
  match s.phaseMsgs[n]? with
  | none => .next s
  | some m =>
    let same (c : PhaseCnt) : Bool := c.dest == m.dest && c.src == m.src && c.p == m.p
    let held := match s.phaseCnts.find? same with
      | some c => c.n
      | none => 0
    if held < m.count then .next s
    else
      let s : State := { s with phaseMsgs := s.phaseMsgs.eraseIdx n, phaseCnts := s.phaseCnts.filter (fun c => !same c) }
      .next (if s.phaseSrc (m.src % 512) = m.src then s.updA (m.src % 512) (fun a => { a with
        phases := a.phases.map (fun h => if h.p = m.p && h.sent && !h.complete then { h with ackd := m.dest :: h.ackd } else h) }) else s)

/-- ACQ_DONE: the issue stage has served the oldest pending ACQ, and its order token leaves. -/
def execAcqDone (cell : Nat) (s : State) : Host.Outcome State Fault Refusal :=
  let a := s.aset cell
  match a.acqs with
  | [] => .next s
  | c :: rest =>
    if !c.served || !(s.cell cell).routeFree portA (vget none a.iss.routes c.out) then .next s
    else .next ((s.emit cell kindA a.iss c.out (orderTok c.scope 0 c.et)).updA cell (fun a => { a with acqs := rest }))

end Sys2Proof.Machine
end

