-- ==== Sys2Proof/Machine/Ebb.lean ====
section
/-!
DEFINITION. The ebb wave (21 R349 to R352), CFGSW (05 R126), save images, SAVE and RESTORE (21 R353 to R355), and the
teardown of reaches and queues (21 R347, 24 R363 to R367).
-/

namespace Sys2Proof.Machine

open Sys2Proof

/-! ## Markers (21 R349, R350)

A marker is a packet that takes no slot where it is emitted or in a channel; a port serves it in its turn (log entry 62). -/

/-- Emit the ebb marker on outputs of a tile. -/
def State.emitMarkers (s : State) (n kind : Nat) (x : Issue) (outs : List Nat) : State :=
  outs.foldl (fun (s : State) o => s.emit n kind x o (markerTok 2)) s

/-- Emit it on the streams that an address generator feeds. -/
def State.emitStreams (s : State) (n : Nat) (a : ASet) : State :=
  (List.range 4).foldl (fun (s : State) g =>
    let t := a.tmpl g
    if t.valid && t.hasStream && (!t.write || t.space == .stream) then
      s.pushPacket n portA (mkPacket s n (streamSrck n g) a.iss.reach t.route (markerTok 2))
    else s) s

/-- Emit it on the seed ports, behind every token already accepted. -/
def State.emitSeeds (s : State) (r : Reach) : State :=
  r.seedRoutes.toList.foldl (fun (s : State) e => match e with
    | none => s
    | some rt =>
      let k := Config.openWord s.freeCount
      s.drawn.pushPacket rt.dst 0 { mkPacket s rt.dst (bitsN k 0 5) r.id rt (markerTok 2) with ran := true, src := bits k 5 9 }) s

/-! ## Stopping and saving (21 R350 to R352) -/

/-- Every input that something feeds has been reached. -/
def Issue.passed (x : Issue) : Bool := x.fed &&& ~~~x.reached == 0
/-- A tile stops at a round boundary; markers in its channels have been noted. -/
def Issue.stopNow (x : Issue) : Issue :=
  if x.run == .running || x.run == .halted then
    { x with before := x.run, run := .stopped, chans := x.chans.map (fun q => q.filter (fun p => !p.tok.isMarker)) }
  else x
/-- A tile that has sent its markers and been reached by all saves. -/
def Issue.saveIf (x : Issue) : Issue := if x.run == .stopped && x.emitted && x.passed then { x with run := .saved } else x

/-- A compute tile stops, and emits the marker on every output, its node's among them, so that no tile waits on itself (21 R350; log
entry 62). -/
def State.stopC (s : State) (n : Nat) : State :=
  let cs := s.cset n
  if cs.iss.run == .running || cs.iss.run == .halted then
    (s.updIssue n kindC (fun x => { x.stopNow with emitted := true })).emitMarkers n kindC cs.iss (List.range 8)
  else s

/-- A compute set saves as its tile does, and what is left of its pace window stands from then on (12 R251). In a set that does not
run, `nextPace` is one more than what is left of the window, and 0 if it has never run. -/
def CSet.saveIf (x : CSet) (t : Nat) : CSet :=
  if x.iss.saveIf.run = x.iss.run then x else { x with iss := x.iss.saveIf, nextPace := x.nextPace - t + 1 }
/-- A stopped compute tile saves once the marker has reached all of its channels. -/
def State.settleC (s : State) (n : Nat) : State := s.updC n (fun c => c.saveIf (s.islandCycle n))

/-- A tile stops, because a marker has reached the head of one of its channels. -/
def State.stopTile (s : State) (n kind : Nat) : State :=
  if kind = 0 then (s.stopC n).settleC n else s.updIssue n kind (fun x => x.stopNow.saveIf)

/-- A request is outstanding: it has left the issue stage, or nothing keeps its answer from its stream (21 R349). -/
def ASet.outstanding (a : ASet) (q : Req) : Bool :=
  if q.kind == .nullRead then !a.q.any (fun p => p.g == q.g && p.id < q.id && p.stage == .queued && !p.counted)
  else q.counted || q.stage != .queued

/-- Every outstanding request of an address generator has completed, and every release and acquire that waits for nothing that has
not been issued. What has not been issued is saved with the set. -/
def ASet.quiet (a : ASet) : Bool :=
  !a.q.any a.outstanding && a.phases.all (fun p => !p.closed || (!p.sent && p.total != 0))
    && a.acqs.all (fun c => a.q.any (fun q => c.reads.contains q.id))
/-- An address generator of a reach has nothing outstanding: a request of its queue, or overflow traffic that stands at a fault
(21 R344, R352). -/
def State.agQuiet (s : State) (id n : Nat) : Bool :=
  (s.aset n).quiet && ((s.cset n).iss.reach != id || (s.cset n).spillFrz.isNone)

/-- The ports of a memory tile that something of a reach feeds. -/
def State.portsFed (s : State) (r : Reach) (d : Nat) : List Nat :=
  let hits (l : List (Option Route)) : List Nat := l.filterMap (fun e => match e with
    | some rt => if rt.dkind = 2 && rt.dst = d then some rt.chan else none
    | none => none)
  let streams (a : ASet) : List (Option Route) := a.tm.toList.map (fun t => if t.valid && t.hasStream then some t.route else none)
  hits r.seedRoutes.toList ++ r.cells.flatMap (fun n =>
    hits ((s.cset n).iss.routes.toList ++ (s.aset n).iss.routes.toList ++ (s.mset n).routes.toList ++ streams (s.aset n)))

/-- A memory-tile port has nothing left to send. -/
def MPort.sent (p : MPort) : Bool := p.outq.isEmpty && p.pushq.isNone

/-- A memory-tile port emits its marker. -/
def State.stopPort (s : State) (d p : Nat) : State :=
  let q := s.port d p
  if q.reached || !q.sent then s else (s.emitM d p (markerTok 2)).updPort d p (fun q => { q with reached := true })

/-! ## A wave that stands still (log entry 62) -/

/-- A port, template or node of a cell stands frozen by a fault, a memory error or a tier miss (03 R72). -/
def Cell.stuck (c : Cell) : Bool :=
  c.a.act.tm.toList.any (fun t => !t.frozen.isEmpty) || c.c.act.spillFrz.isSome || c.m.act.frozen || c.m.act.ports.toList.any (fun p => p.frozen || p.stopped)
    || c.nodes.any (fun d => d.frz.isSome)
/-- So does a template whose walk waits for a walker (21 R348). -/
def State.stuckAt (s : State) (n : Nat) : Bool := (s.cell n).stuck || (List.range 4).any (fun g => (s.walkStall n g).isSome)

/-- Cycles without a movement after which the tokens that stand in a wave's way are taken to be stuck. -/
def waveStill : Nat := 512
/-- Nothing of a reach has moved for so long, and nothing of it stands frozen. -/
def State.still (s : State) (r : Reach) : Bool :=
  waveStill ≤ r.quiet && !r.cells.any (fun n => s.stuckAt n || (s.cell n).island.busy)

/-- The tile or memory-tile port that a route ends at: its cell, its kind and, of a memory tile, the port. -/
def Route.spot (rt : Route) : Nat × Nat × Nat := (rt.dst, rt.dkind, if rt.dkind = 2 then rt.chan else 0)
/-- Where the routes of a compute tile or of a memory-tile port end. An address generator sends a marker of its own. -/
def State.spotsFrom (s : State) (p : Nat × Nat × Nat) : List (Nat × Nat × Nat) :=
  let outs := if p.2.1 = 0 then (s.cset p.1).iss.routes.toList else if p.2.1 = 2 then [vget none (s.mset p.1).routes p.2.2] else []
  outs.filterMap (fun e => e.map Route.spot)
/-- Where the markers of a reach's ingress points go first: from its seed ports, its address generators, and what no route feeds. -/
def State.firstSpots (s : State) (r : Reach) : List (Nat × Nat × Nat) :=
  let streams (n : Nat) : List (Option Route) := (s.aset n).tm.toList.map (fun t => if t.valid && t.hasStream then some t.route else none)
  let own (n : Nat) : List (Nat × Nat × Nat) := ((s.aset n).iss.routes.toList ++ streams n).filterMap (fun e => e.map Route.spot)
  let free (n : Nat) : List (Nat × Nat × Nat) := (if (s.cset n).iss.fed = 0 then [(n, 0, 0)] else [])
    ++ ((List.range 4).filter (fun p => !(s.portsFed r n).contains p)).map (fun p => (n, 2, p))
  (r.seedRoutes.toList.filterMap (fun e => e.map Route.spot) ++ r.cells.flatMap (fun n => own n ++ (free n).flatMap s.spotsFrom)).eraseDups
/-- Grow a list of spots by what its routes reach, a number of times. -/
def State.spread (s : State) (l : List (Nat × Nat × Nat)) : Nat → List (Nat × Nat × Nat)
  | 0 => l
  | n + 1 => State.spread s (l ++ l.flatMap s.spotsFrom).eraseDups n
/-- A marker of the wave comes to a compute tile, by a route from an ingress point. -/
def State.waveComes (s : State) (r : Reach) (n : Nat) : Bool := (s.spread (s.firstSpots r) (5 * r.cells.length)).contains (n, 0, 0)

/-- A port of a torn-down reach is cleared, with the requests and tokens that it holds; what comes to it then is discarded. -/
def State.clearPort (s : State) (d p : Nat) : State :=
  let q := s.port d p
  (s.forget ((q.q ++ q.ldsy ++ q.reorder.map (·.2.2) ++ q.spu.flatMap (·.reqs)).filter (fun e => e.id != 0))).updPort d p (fun q =>
    { MPort.reset with
      q := q.q.filter (fun e => e.id == 0), accept := q.accept, refused := q.refused, dup := q.dup, discardSeen := q.discardSeen
      reached := q.reached }) |>.updM d (fun m => { m with frozen := false })

/-- The ports of a torn-down reach that would hold up its wave (24 R364): one that stands frozen though no request of the reach
does, by a parity error or at a unit for a reduction, and every one once the wave stands still. -/
def State.clearPorts (s : State) (r : Reach) : State :=
  let asked := r.cells.any (fun n => (s.aset n).tm.toList.any (fun t => !t.frozen.isEmpty))
  let held (n : Nat) (p : MPort) : Bool := s.still r || (!asked && (p.frozen || p.stopped || (s.mset n).frozen))
  r.cells.foldl (fun (t : State) n =>
    if (s.mset n).reach ≠ r.id then t
    else (List.range 4).foldl (fun (t : State) p => if held n (s.port n p) then t.clearPort n p else t) t) s

/-- Every address generator of a reach has sent its markers. -/
def State.agsDone (s : State) (r : Reach) : Bool :=
  r.cells.all (fun n => let x := (s.aset n).iss; x.reach != r.id || x.emitted || x.run == .saved)

/-- A memory tile: the ports that no route feeds follow the address generators (log entry 62); then it may save. -/
def State.stopM (s : State) (r : Reach) (d : Nat) : State :=
  if !s.agsDone r then s
  else
    let fed := s.portsFed r d
    let s := (List.range 4).foldl (fun (s : State) p => if fed.contains p then s else s.stopPort d p) s
    if (List.range 4).all (fun p => (s.port d p).reached) then s.updM d (fun m => { m with run := .saved }) else s

/-! ## Discarding requests (24 R364) -/

/-- A request that a teardown discards: not issued, faulting, waiting for its page, withheld behind a faulting one, or
waiting at a port for its unit to fill (log entry 63). -/
def ASet.discards (a : ASet) (waiting : Nat → Bool) (q : Req) : Bool :=
  (q.stage == .queued && !q.counted) || q.stage == .faulted || q.stage == .tier
    || (a.tmpl q.g).frozen.any (fun e => e.1 == q.id)
    || (q.stage == .answered && (match (a.tmpl q.g).frozenAt with | some k => k < q.id | none => false))
    || (q.stage == .placed && waiting q.id)

/-- Discard the frozen, held and withheld requests of a cell, and close their fault slots. -/
def State.discardReqs (s : State) (n id : Nat) : State :=
  let a := s.aset n
  let j := s.reachJob id
  if a.iss.reach ≠ id then s
  else
    let waiting (k : Nat) : Bool := s.cells.any (fun p => p.2.m.act.ports.toList.any (fun q =>
      q.ldsy.any (fun e => e.cell == n && e.id == k)))
    let gone := a.q.filter (a.discards waiting)
    let ids := gone.map (·.id)
    let slots := a.tm.toList.flatMap (fun t => t.frozen.filterMap (fun e => match e.2 with | .slot k => some k | _ => none))
    let keep (e : Placed) : Bool := !(e.cell == n && ids.contains e.id)
    let port (q : MPort) : MPort :=
      { q with q := q.q.filter keep, ldsy := q.ldsy.filter keep, frozen := q.frozen && q.q.all keep }
    let touched (c : Cell) : Bool := c.m.act.ports.toList.any (fun q => !(q.q.all keep && q.ldsy.all keep))
    let s : State := { s with cells := s.cells.map (fun p =>
      if touched p.2 then (p.1, { p.2 with m := { p.2.m with act := { p.2.m.act with ports := p.2.m.act.ports.map port } } }) else p) }
    let s := s.updA n (fun a => { a with
      q := a.q.filter (fun q => !ids.contains q.id), phases := [], acqs := [], tm := a.tm.map (fun t => { t with frozen := [] }) })
    slots.foldl (fun (s : State) k => s.closeSlot j k) s

/-- The overflow transfers of a reach's compute set end, and the slot of its spill port closes. -/
def State.dropSpill (s : State) (n id : Nat) : State :=
  (s.thawSpill n id).updCSet n id (fun c => { c with spillBuf := [], spillWant := none })

/-- Abort the collectives of a reach: every bound node of kinds 0 to 4, so that no peer waits for its rank, and those of kinds 5 and 6
that run or have triggers pending (19 R334, 03 R68). -/
def State.abortReach (s : State) (r : Reach) (reason : Nat) : State :=
  r.cells.foldl (fun (s : State) n =>
    (List.range (s.cell n).nodes.length).foldl (fun (s : State) k => match s.nodeAt n k with
      | some d =>
        if d.reach = r.id && d.cstate != 3 && (!d.shared || d.op.isSome || (s.takeTriggers n r.id).2 ≠ 0) then s.abortNode n k d.rank reason else s
      | none => s) s) s

/-- Every set of a reach is cleared, with what is left of it in the switches. -/
def State.clearSets (s : State) (r : Reach) : State :=
  let id := r.id
  let keep (p : Packet) : Bool := p.reach != id
  { s with
    images := s.images.filter (fun (m : Image) => m.reach != id)
    cells := s.cells.map (fun p =>
      let c := p.2
      (p.1, { c with
        c := { act := if c.c.act.iss.reach = id then CSet.reset else c.c.act, ina := if c.c.ina.iss.reach = id then CSet.reset else c.c.ina }
        a := { act := if c.a.act.iss.reach = id then ASet.reset else c.a.act, ina := if c.a.ina.iss.reach = id then ASet.reset else c.a.ina }
        m := { act := if c.m.act.reach = id then MSet.reset else c.m.act, ina := if c.m.ina.reach = id then MSet.reset else c.m.ina }
        k := { act := if c.k.act.reach = id then KSet.reset else c.k.act, ina := if c.k.ina.reach = id then KSet.reset else c.k.ina }
        inq := c.inq.map (fun e => (e.1, e.2.filter keep)), send := c.send.filter (fun e => keep e.2) })) }

/-! ## Starting a wave -/

/-- The sequencer starts an ebb wave. -/
def State.startEbb (s : State) (r : Reach) (why : Ebb) : State :=
  let fresh (x : Issue) : Issue := { x with reached := 0, emitted := false }
  let s := r.cells.foldl (fun (s : State) n =>
    ((s.updIssue n kindC fresh).updIssue n kindA fresh).updM n (fun m => { m with ports := m.ports.map (fun p => { p with reached := false }) })) s
  (s.emitSeeds r).updReach r.id (fun r => { r with st := .ebbing, ebb := why })

/-- A running reach is torn down; a wave of its own that has begun goes on as the teardown's. A saved or shadowed one needs no wave,
and its sets go with its last records. -/
def State.tearDown (s : State) (r : Reach) (reason : Nat) : State :=
  let s := r.cells.foldl (fun (s : State) n => s.dropSpill n r.id) s
  let drop (s : State) : State := ((r.cells.foldl (fun (s : State) n => s.discardReqs n r.id) s).clearPorts r).abortReach r 2
  match r.st, r.ebb with
  | .running, _ => (drop s).startEbb r (.teardown reason)
  | .ebbing, .swap o => (drop s).updReach r.id (fun r => { r with ebb := .torn o reason })
  | .ebbing, .save => (drop s).updReach r.id (fun r => { r with ebb := .teardown reason })
  | .ebbing, _ => s
  | .saved, _ => (s.abortReach r 2).updReach r.id (fun r => { r with st := .ebbing, ebb := .teardown reason })
  | .shadowed, _ => (s.abortReach r 2).updReach r.id (fun r => { r with st := .ebbing, ebb := .teardown reason })
  | _, _ => ((s.abortReach r 2).clearSets r).updReach r.id (fun r => { r with st := .ebbing, ebb := .teardown reason })

/-- The shadowed reach of a CFGSW in progress. -/
def State.swapHeld (s : State) (id : Nat) : Bool :=
  s.reaches.any (fun r => r.st == .ebbing && (match r.ebb with
    | .swap o => o == id
    | .torn o _ => o == id
    | _ => false))

/-! ## The end of a wave -/

/-- The reach of a wave is torn down when it is over. -/
def Reach.torn (r : Reach) : Bool := match r.ebb with
  | .teardown _ => true
  | .torn _ _ => true
  | _ => false

/-- Every tile of a reach is saved, and nothing of it is in flight, nor a barrier arrival to one of its memory tiles (16 R287). -/
def State.waveOver (s : State) (r : Reach) : Bool :=
  r.st == .ebbing && r.cells.all (fun n =>
    let c := s.cell n
    (c.c.act.iss.reach != r.id || c.c.act.iss.run == .saved) && (c.a.act.iss.reach != r.id || c.a.act.iss.run == .saved)
      && (c.m.act.reach != r.id || c.m.act.run == .saved)
      && (c.a.act.iss.reach == r.id || c.c.act.iss.reach != r.id || c.c.act.spillFrz.isNone || r.torn))
    && s.noPackets r.id && s.ctl.all (fun m => !m.goesTo.any r.cells.contains)

/-- Predicate writes that came for a set while it was swapped out are applied to it (08 R176). -/
def Issue.applyAll (x : Issue) : Nat → Issue
  | 0 => x
  | fuel + 1 => Issue.applyAll (x.applyWrite 0) fuel

/-- A set goes on: each channel holds its saved contents ahead of any new token. -/
def Issue.resume (x : Issue) (t : Nat) : Issue :=
  { Issue.applyAll { x with run := x.before } 8 with
    roundAt := t, reached := 0, emitted := false, wave := Vector.replicate 8 []
    chans := Vector.ofFn (fun i : Fin 8 => vget [] x.chans i ++ vget [] x.wave i) }

/-- A compute set goes on: its broadcasts count from its first round, its pace window goes on where it stopped, and its first record
has no starving flag (12 R250, R251, R253). -/
def CSet.resume (x : CSet) (id t : Nat) : CSet :=
  if x.iss.reach ≠ id then x
  else CSet.settle { x with
    iss := x.iss.resume t, firstRecord := true, nextRecord := t + 1, nextPace := if x.nextPace = 0 then t + 257 else t + x.nextPace - 1 }
def ASet.resume (x : ASet) (id t : Nat) : ASet := if x.iss.reach ≠ id then x else { x with iss := x.iss.resume t }
def MSet.resume (x : MSet) (id : Nat) : MSet :=
  if x.reach ≠ id then x else { x with run := .running, ports := x.ports.map (fun p => { p with reached := false }) }

/-- The bytes of a memory tile's barrier areas in its slice: from and to (21 R351). -/
def MSet.barRanges (m : MSet) (n : Nat) : List (Nat × Nat) :=
  m.ports.toList.filterMap (fun p => if p.role = 0x08 then some (sramKey n (p.off * 64), sramKey n ((p.off + p.len) * 64)) else none)
def inRanges (l : List (Nat × Nat)) (a : Nat) : Bool := l.any (fun r => r.1 ≤ a && a < r.2)

/-- The barrier objects of a memory tile leave with its set: their bytes are kept, and their entries go. -/
def State.keepBars (s : State) (id n : Nat) : State :=
  let m := s.mset n
  if m.reach ≠ id then s
  else
    let l := m.barRanges n
    let c := s.cell n
    let kept : BarSave :=
      { bytes := s.sram.filter (fun b => inRanges l b.1), ents := c.bars.filter (fun b => inRanges l b.obj)
        refused := c.barRefused.filter (inRanges l) }
    (s.updM n (fun m => { m with kept := some kept })).updCell n (fun c => { c with
      bars := c.bars.filter (fun b => !inRanges l b.obj), barRefused := c.barRefused.filter (fun k => !inRanges l k) })

/-- The barrier objects of a memory tile return with its set; one that has never left has none to return. -/
def State.returnBars (s : State) (id n : Nat) : State :=
  let m := s.mset n
  match (if m.reach = id then m.kept else none) with
  | none => s
  | some k =>
    let l := m.barRanges n
    let s : State := { s with sram := k.bytes.foldl (fun b e => memSet b e.1 e.2) (s.sram.filter (fun b => !inRanges l b.1)) }
    (s.updM n (fun m => { m with kept := none })).updCell n (fun c => { c with
      bars := c.bars ++ k.ents, barRefused := c.barRefused ++ k.refused })

/-- The active sets of a cell that belong to a reach go on. -/
def State.resumeCell (s : State) (id n : Nat) : State :=
  let t := s.islandCycle n
  ((s.returnBars id n).updCell n (fun c => { c with
    c := { c.c with act := c.c.act.resume id t }, a := { c.a with act := c.a.act.resume id t }
    m := { c.m with act := c.m.act.resume id } })).landWrites id n

/-- A reach leaves the active halves: its breakwater records are closed, and the last progress records of its counters stand with
their starving flags cleared (07 R155, 12 R250). -/
def State.leaveReach (s : State) (r : Reach) : State :=
  let calm (x : Record) : Record := if x.reach = r.id then { x with starving := false } else x
  let s := r.cells.foldl (fun (s : State) n => s.keepBars r.id n) (s.closeDrops r.id)
  { s with
    recordsOut := s.recordsOut.map (fun p => (p.1, calm p.2))
    cells := s.cells.map (fun p => (p.1, { p.2 with records := p.2.records.map calm })) }

/-- A reach that a SAVE has still to pre-empt (21 R355): one that runs outside a gang. -/
def Reach.toSave (r : Reach) (j : Nat) : Bool := r.job == j && r.st == .running && r.gang.isNone

/-- What a SAVE of a job waits for: its waves, its images, and the launches whose flood wave has not crossed. -/
def State.saveWaits (s : State) (j : Nat) : Bool :=
  s.reaches.any (fun r => r.toSave j || (r.job == j && (r.st == .ebbing || ((r.st == .loading || r.st == .flooding) && !r.armedReq)
    || ((r.st == .shadowed || r.st == .saved) && !s.imageValid r.id))))

/-- SAVE of a job is over once it waits for nothing. -/
def State.saveSettle (s : State) (j : Nat) : State :=
  if (s.job j).saving && !s.saveWaits j then s.updJob j (fun b => { b with saving := false }) else s

/-- A set of the reach streams out: after a swap, at the end of a SAVE's wave, or while it stands shadowed during a SAVE. -/
def State.streams (s : State) (r : Reach) : Bool :=
  !s.imageValid r.id && (r.st == .saved || (r.st == .shadowed && (s.job r.job).saving) || (r.ebb == .save && s.waveOver r))

/-- SAVEFULL goes once no save of the job waits for room (21 R353). -/
def State.roomSettle (s : State) (j : Nat) : State :=
  if (s.job j).savefull && !s.reaches.any (fun r => r.job == j && s.streams r && !s.images.any (fun m => m.reach == r.id)) then s.updJob j (fun b => { b with savefull := false })
  else s

/-- A GO of REACHTD that was held for a CFGSW goes on; during a SAVE the reach swapped in is pre-empted too. -/
def State.afterSwap (s : State) (x : Reach) : State :=
  match s.reach? x.id with
  | none => s
  | some r =>
    if (s.job r.job).tdHeld = some r.id then
      (s.updJob r.job (fun b => { b with tdHeld := none, reachTd := some r.id })).tearDown r 4
    else if (s.job r.job).saving then s.startEbb r .save
    else s

/-- Swap the sets of every cell of a rectangle: reach o runs, and the contexts blocked in the CFGSW go on. -/
def State.swapIn (s : State) (r : Reach) (o : Nat) : State :=
  let s := r.cells.foldl (fun (s : State) n => (s.updCell n Cell.swap).resumeCell o n) (s.leaveReach r)
  let s : State := { s with images := s.images.filter (fun (m : Image) => m.reach != o) }
  let s := s.updReach o (fun x => { x with st := .running, ebb := .none, quiet := 0, swDone := false })
  { s with ctxs := s.ctxs.map (fun c => match c.wait with
      | .cfgsw _ b => if c.st == .blocked && b == r.id then c.advance else c
      | _ => c) }

/-- The address-generator set of a reach in a cell, wherever it stands. -/
def State.asetOf (s : State) (n reach : Nat) : Option ASet :=
  let c := s.cell n
  let kept := s.images.flatMap (fun m => if m.reach = reach then (m.cells.filter (fun e => e.cell == n)).map (·.a) else [])
  ([c.a.act, c.a.ina] ++ kept).find? (fun x => x.iss.reach == reach && x.iss.run != .off)

/-- Lateness records of a reach that are pending (12 R261). -/
def State.lateLeft (s : State) (r : Reach) : State :=
  r.cells.foldl (fun (s : State) n =>
    (((s.asetOf n r.id).map (·.xfers)).getD []).foldl (fun (s : State) x => s.lateEnd n r.id x true) s) s

/-- A teardown ends: the signal, the records, the sets and the handle slot. -/
def State.tornDown (s : State) (r : Reach) (reason : Nat) : State :=
  let p := s.signal r.job r.signal false (sigCancelled reason)
  if !p.2 then p.1
  else
    let s := (((p.1.lateLeft r).closeDrops r.id).clearSets r).dropReach r
    ((s.updJob r.job (fun b => if b.reachTd = some r.id then { b with reachTd := none } else b)).saveSettle r.job).roomSettle r.job

/-- What a wave that is over leads to. A save goes on with its image. -/
def State.endWave (s : State) (r : Reach) : State :=
  match r.ebb with
  | .swap o =>
    let s := (s.swapIn r o).updReach r.id (fun r => { r with st := .saved, ebb := .none })
    (match s.reach? o with
    | some x => s.afterSwap x
    | none => s)
  | .torn o reason =>
    let s := (((s.lateLeft r).swapIn r o).clearSets r).updReach r.id (fun r => { r with ebb := .teardown reason })
    (match s.reach? o with
    | some x => s.afterSwap x
    | none => s)
  | .teardown reason => s.tornDown r reason
  | _ => s

/-! ## INGRESS_STOP and EBB_MARKER -/

/-- Tokens stand in a channel of a tile. -/
def Issue.holdsTokens (x : Issue) : Bool := !x.chans.toList.all List.isEmpty

/-- A compute tile that no marker comes to, or that has no record, stops with the wave's start; one that holds tokens stops once the
wave stands still (log entry 62). -/
def State.ingressC (s : State) (r : Reach) (n : Nat) : State :=
  let x := (s.cset n).iss
  if x.run = .waiting then s.updIssue n kindC (fun x => { x with run := .saved })
  else if x.sel.isEmpty && (x.fed = 0 || !s.waveComes r n || (x.holdsTokens && s.still r)) then (s.stopC n).settleC n
  else s

/-- An address generator stops between two rounds, and emits its markers once it is quiet. -/
def State.ingressA (s : State) (r : Reach) (n : Nat) : State :=
  let x := (s.aset n).iss
  if x.run = .waiting then s.updIssue n kindA (fun x => { x with run := .saved, emitted := true })
  else if x.run = .running || x.run = .halted then (if x.sel.isEmpty then s.updIssue n kindA Issue.stopNow else s)
  else if x.run = .stopped && !x.emitted then
    let s := if r.torn then (s.dropSpill n r.id).discardReqs n r.id else s
    if !s.agQuiet r.id n then s
    else
      let a := s.aset n
      let s := ((s.emitMarkers n kindA a.iss (List.range 8)).emitStreams n a).updIssue n kindA (fun x => { x with emitted := true })
      s.updIssue n kindA Issue.saveIf
  else s

/-- INGRESS_STOP: kind 0, 1 and 2 are the tiles of a cell; kind 3 is what follows a wave that is over. -/
def execIngressStop (reach cell kind : Nat) (s : State) : Host.Outcome State Fault Refusal :=
  match s.reach? reach with
  | none => .next s
  | some r =>
    if r.st != .ebbing then .next s
    else if kind = 3 then (if s.waveOver r then .next (s.endWave r) else .next s)
    else if (s.cell cell).island.busy then .next s
    else if kind = 0 then (if (s.cset cell).iss.reach = reach then .next (s.ingressC r cell) else .next s)
    else if kind = 1 then (if (s.aset cell).iss.reach = reach then .next (s.ingressA r cell) else .next s)
    else if (s.mset cell).reach = reach && (s.mset cell).run != .saved then .next (State.stopM (if r.torn then s.clearPorts r else s) r cell)
    else .next s

/-- A marker enters a channel of a tile behind the tokens there. A running tile goes on until it stands at the head; one with nothing
before it stops, and so does a halted or frozen one, which runs no rounds (log entry 62). -/
def State.markerIn (s : State) (n kind : Nat) (p : Packet) : State :=
  let x := s.issue n kind
  let ch := bitsN p.dstk 2 3
  if x.reach ≠ p.reach || x.run == .off || x.run == .saved then s
  else
    let s := s.updIssue n kind (fun x => { x with reached := putBit x.reached ch true })
    if x.run == .running && !x.frozen && !(vget [] x.chans ch).isEmpty then s.updIssue n kind (fun x => { x with chans := vset x.chans ch (vget [] x.chans ch ++ [p]) })
    else s.stopTile n kind

/-- EBB_MARKER: the packet that a tile's port serves, if it is a marker for the channel. A tile that holds no set of the marker's
reach discards it. -/
def execEbbMarker (cell kind ch : Nat) (s : State) : Host.Outcome State Fault Refusal :=
  let ok (p : Packet) : Bool := if kind < 2 then s.tileAdmits cell kind p else s.admitsM cell p
  match s.outPick cell (tilePort kind) 0 ok with
  | none => .next s
  | some (sp, p, t) =>
    if !p.tok.isMarker || bitsN p.dstk 2 3 ≠ ch || (s.cell cell).island.busy then .next s
    else
      let t := t.takeSpot cell sp
      if kind < 2 then .next (t.markerIn cell kind p)
      else if (s.mset cell).reach ≠ p.reach then .next t
      else .next (t.stopPort cell ch)

/-! ## CFGSW (05 R126) -/

/-- CFGSW: a reach that a flood or ebb wave still crosses is awaited, and so is one that runs in a gang (03 R68). DESIGN CHOICE (log
entry 89): tp0 of its detail 5, where two handles are involved, is xh's. -/
def execCfgsw (h b : Reg) (s : State) : Host.Outcome State Fault Refusal :=
  let c := s.focus.ctx
  let x := s.ctx c
  let w := wordOf (.cfgsw h b)
  let find (v : Word) : Option Reach := (x.handleReach v).bind s.reach?
  match find (x.reg h), find (x.reg b) with
  | none, _ => .next (s.detailTrap c (x.reg h) 1 w)
  | _, none => .next (s.detailTrap c (x.reg b) 1 w)
  | some o, some r =>
    if o.shows ≠ .shadowed then .next (s.detailTrap c (x.reg h) 2 w)
    else if r.shows ≠ .running then .next (s.detailTrap c (x.reg b) 2 w)
    else if !(o.cx = r.cx && o.cy = r.cy && o.w = r.w && o.h = r.h) then .next (s.detailTrap c (x.reg h) 5 w)
    else if o.st != .shadowed || r.st != .running || s.swapHeld o.id || r.gang.isSome then .next (s.block c (.access .fence))
    else
      let s : State := { s with images := s.images.filter (fun (m : Image) => m.reach != o.id) }
      .next ((s.startEbb r (.swap o.id)).block c (.cfgsw o.id r.id))

/-! ## Save images (21 R353, R354)

Offsets and sizes are in units of 4 KiB. The content of an image's cell records is the model's own (log entry 64). -/

/-- The size of a reach's image. -/
def Reach.imageSize (r : Reach) : Nat := 1 + 48 * (r.w * r.h)

/-- The lowest offset of a job's area with room. -/
def State.imageRoom (s : State) (j size : Nat) : Option Nat :=
  let mine := s.images.filter (fun m => m.job == j)
  let fits (o : Nat) : Bool :=
    o + size ≤ (s.job j).savesize.toNat && mine.all (fun m => o + size ≤ m.off || m.off + m.size ≤ o)
  (0 :: mine.map (fun m => m.off + m.size)).foldl (fun (b : Option Nat) o => if fits o && b.all (o < ·) then some o else b) none

/-- The words at 0x08 and 0x10 of an image's header. -/
def Reach.headerWords (r : Reach) : Nat :=
  bitsN r.handle 0 16 + r.number.toNat * 2 ^ 16 + cellAt r.cx r.cy * 2 ^ 32 + cellAt (r.cx + r.w - 1) (r.cy + r.h - 1) * 2 ^ 41
    + r.image * 2 ^ 64

/-- Write a header at an address. A page that faults is left out. False while the write waits. -/
def State.headerAt (s : State) (j va words state : Nat) : State × Bool :=
  let a := s.sysReach j va .write whoSeq
  match a.2 with
  | .wait => (a.1, false)
  | .fault _ _ => (a.1, true)
  | .at k sa =>
    let v := (0x56454245 + state * 2 ^ 32) + words * 2 ^ 64 + (s.tick % 2 ^ 64) * 2 ^ 192
    (a.1.writeAt j va k sa (if state = 0 then 24 else 32) v, true)

/-- Where an image stands. -/
def State.imageVa (s : State) (r : Reach) (off : Nat) : Nat := ((s.job r.job).savebase.toNat + off) * 4096

/-- The device makes one access of kind k of each 64-byte unit from an address on (15 R281; log entry 64): false while one of them waits.
A page that faults is left out. -/
def State.streamUnits (s : State) (j va : Nat) (k : Kind) (units : List Nat) : State × Bool :=
  let one (q : State × Option Nat) (i : Nat) : State × Option Nat := match q.2 with
    | some _ => q
    | none => match q.1.sysReach j (va + 64 * i) k whoSeq with
      | (u, .at st sa) => (u.countAccess st sa, none)
      | (u, .wait) => (u, some i)
      | (u, .fault _ _) => (u, none)
  let q := units.foldl one (s, none)
  match q.2 with
  | none => (q.1, true)
  | some i => ((s.sysReach j (va + 64 * i) k whoSeq).1, false)

/-- The units of an image's cell records, which follow the header's page. -/
def Reach.recordUnits (r : Reach) : List Nat := (List.range (64 * (r.imageSize - 1))).map (64 + ·)

/-- Write an image's header: STATE becomes valid once the cell records have been written. -/
def State.imageHeader (s : State) (r : Reach) (off state : Nat) : State × Bool :=
  let p := if state = 1 then s.streamUnits r.job (s.imageVa r off) .write r.recordUnits else (s, true)
  if p.2 then p.1.headerAt r.job (s.imageVa r off) r.headerWords state else p

/-- A restore reads an image whole. -/
def State.imageRead (s : State) (m : Image) (r : Reach) : State × Bool := s.streamUnits r.job (s.imageVa r m.off) .read (0 :: r.recordUnits)

/-- What a reach's sets hold, in the active or the inactive halves. -/
def State.snapshot (s : State) (r : Reach) : List CellSave :=
  r.cells.map (fun n =>
    let c := s.cell n
    if r.st == .ebbing then { cell := n, c := c.c.act, a := c.a.act, m := c.m.act, k := c.k.act }
    else { cell := n, c := c.c.ina, a := c.a.ina, m := c.m.ina, k := c.k.ina })

/-- The image is valid: the reach turns shadowed again, or saved if it stood in the active halves. -/
def State.imageDone (s : State) (r : Reach) : State :=
  let s := if r.st == .ebbing then s.leaveReach r else s
  let s : State := { s with images := s.images.map (fun m => if m.reach = r.id then { m with valid := true, cells := s.snapshot r } else m) }
  let s := match r.st with
    | .saved => s.updReach r.id (fun r => { r with st := .shadowed })
    | .ebbing =>
      let m := s.images.filter (fun (m : Image) => m.reach == r.id)
      let s := s.clearSets r
      { s with images := s.images ++ m }.updReach r.id (fun r => { r with st := .saved, ebb := .none })
    | _ => s
  (s.saveSettle r.job).roomSettle r.job

/-- The header of an image that a reset abandoned takes STATE 10 once its page can be written (21 R357). A bad
table entry leaves it out, since the reset writes no event (R356). -/
def State.abandonHeader (s : State) (reach : Nat) : State :=
  match s.abandoned.find? (fun a => a.reach == reach) with
  | none => s
  | some a =>
    let p := match (s.dieAccess 0 a.job a.va .write).2.2 with
      | .bad _ _ => (s, true)
      | _ => s.headerAt a.job a.va a.words 2
    if p.2 then { p.1 with abandoned := p.1.abandoned.erase a } else p.1

/-- SAVE_IMAGE_VALID: first the image takes its room, then it becomes valid. -/
def execSaveImageValid (reach : Nat) (s : State) : Host.Outcome State Fault Refusal :=
  match s.reach? reach with
  | none => .next (s.abandonHeader reach)
  | some r =>
    if !s.streams r then .next s
    else match s.images.find? (fun m => m.reach == reach) with
      | none =>
        (match s.imageRoom r.job r.imageSize with
        | none => .next (s.updJob r.job (fun b => { b with savefull := true }))
        | some o =>
          let p := s.imageHeader r o 0
          if !p.2 then .next p.1
          else
            .next (State.roomSettle { p.1 with
              images := p.1.images ++ [{ reach := reach, job := r.job, off := o, size := r.imageSize, cells := [], valid := false }] } r.job))
      | some m =>
        let p := s.imageHeader r m.off 1
        if p.2 then .next (p.1.imageDone r) else .next p.1

/-! ## SAVE and RESTORE (21 R355) -/

/-- SAVE: every running reach of a job, but those of a running gang, is pre-empted. While it runs, an event pre-empts those whose
flood wave has crossed since. -/
def execSave (job : Nat) (s : State) : Host.Outcome State Fault Refusal :=
  if job = 0 || 63 < job || (s.job job).restoring then .next s
  else
    let s := s.updJob job (fun b => { b with saving := true, everSaved := true })
    .next ((s.reaches.foldl (fun (s : State) r => if r.toSave job then s.startEbb r .save else s) s).saveSettle job)

/-- The saved reaches of a job, in the order of their saving. -/
def State.savedReaches (s : State) (j : Nat) : List (Image × Reach) :=
  s.images.filterMap (fun m => if m.job = j && m.valid then
    (match s.reach? m.reach with
    | some r => if r.st == .saved then some (m, r) else none
    | none => none) else none)

/-- A reach's image goes back into the active halves of its cells, and the reach resumes. -/
def State.restoreReach (s : State) (m : Image) (r : Reach) : State :=
  let s := m.cells.foldl (fun (s : State) e =>
    (s.updCell e.cell (fun c => { c with
      c := { c.c with act := e.c }, a := { c.a with act := e.a }, m := { c.m with act := e.m }, k := { c.k with act := e.k } })).resumeCell r.id e.cell) s
  { s with images := s.images.filter (fun x => x.reach != r.id) }.updReach r.id (fun r =>
    { r with st := .running, quiet := 0, swDone := false })

/-- The active cells of a saved reach are free. -/
def State.canRestore (s : State) (r : Reach) : Bool :=
  s.reaches.all (fun o => o.id == r.id || o.job != r.job || !o.overlaps r || !o.inActive)

/-- RESTORE: each event restores the first saved reach in the order of saving, once its cells are free. -/
def execRestore (job : Nat) (s : State) : Host.Outcome State Fault Refusal :=
  if job = 0 || 63 < job || (s.job job).saving then .next s
  else match s.savedReaches job with
    | [] => .next (s.updJob job (fun b => { b with restoring := false }))
    | (m, r) :: rest =>
      let s := s.updJob job (fun b => { b with restoring := true })
      if !s.canRestore r then .next s
      else
        let p := s.imageRead m r
        if !p.2 then .next p.1
        else .next ((p.1.restoreReach m r).updJob job (fun b => { b with restoring := !rest.isEmpty }))

/-! ## Teardown by the host (21 R347, 24 R363 to R365) -/

/-- A teardown through REACHTD or QTD runs. -/
def Job.tdBusy (b : Job) : Bool := b.reachTd.isSome || b.tdHeld.isSome || b.qtd.isSome

/-- REACH_TEARDOWN: a write of REACHTD. -/
def execReachTeardown (job : Nat) (v : Word) (s : State) : Host.Outcome State Fault Refusal :=
  if job = 0 || 63 < job || (s.job job).tdBusy then .next s
  else
    let s := if bitB v 24 then s.updJob job (fun b => { b with noreach := false }) else s
    if !bitB v 22 then .next s
    else
      let x := s.ctx (bitsN v 16 6)
      let live : Option Reach := if x.st == .free || x.job ≠ job then none else (x.handleReach (BitVec.ofNat 64 (bitsN v 0 16))).bind s.reach?
      match live with
      | none => .next (s.updJob job (fun b => { b with noreach := true }))
      | some r =>
        if !r.live then .next (s.updJob job (fun b => { b with noreach := true }))
        else
          let s := s.updJob job (fun b => { b with noreach := false })
          if s.swapHeld r.id then .next (s.updJob job (fun b => { b with tdHeld := some r.id }))
          else .next ((s.updJob job (fun b => { b with reachTd := some r.id })).tearDown r 4)

/-- One step of a queue's teardown: its live task, then its other tokens, oldest first, then its page. -/
def State.queueTd (s : State) (j : Nat) : State :=
  match (s.job j).qtd with
  | none => s
  | some (q, reset) =>
    let l := s.queueTokens j q
    match l.find? Reach.live with
    | some r => if s.swapHeld r.id then s else s.tearDown r 1
    | none =>
      match l with
      | r :: _ => (s.endLaunch r false (sigCancelled 1)).1
      | [] =>
        let s := if reset then s.updQueue j q (fun _ => Queue.reset) else s
        s.updJob j (fun b => { b with qtd := none })

/-- QUEUE_TEARDOWN: a write of QTD; while one runs, its next step. -/
def execQueueTeardown (job : Nat) (v : Word) (s : State) : Host.Outcome State Fault Refusal :=
  if job = 0 || 63 < job then .next s
  else if (s.job job).qtd.isSome then .next (s.queueTd job)
  else if (s.job job).tdBusy || !bitB v 4 then .next s
  else
    let q := bitsN v 0 4
    let s := s.updQueue job q (fun k => { k with enable := false, seeds := [] })
    let s := s.updJob job (fun b => { b with
      ingress := b.ingress.map (fun g => if g.iqueue = q then { g with heldToks := [] } else g), qtd := some (q, bitB v 5) })
    .next (s.queueTd job)

/-- The reach that a fault slot's request belongs to. -/
def State.slotReach (s : State) (f : FSlot) (job slot : Nat) : Option Reach :=
  let c := s.cell f.cell
  let kept := s.images.flatMap (fun m => (m.cells.filter (fun e => e.cell == f.cell)).map (·.c))
  match c.nodes.find? (fun d => d.slot == some slot && s.reachJob d.reach == job),
      ([c.c.act, c.c.ina] ++ kept).find? (fun x => x.spillSlot == some slot && s.reachJob x.iss.reach == job) with
  | some d, _ => s.reach? d.reach
  | none, some x => s.reach? x.iss.reach
  | none, none => s.reach? c.a.act.iss.reach

/-- FAULT_KILL: ACTION 10 with AGEN equal to GEN. The reach of a CFGSW in progress is awaited. -/
def execFaultKill (job slot : Nat) (gen : BitVec 16) (s : State) : Host.Outcome State Fault Refusal :=
  let f := Tbl.get FSlot.reset (s.job job).fslots slot
  if !f.isOpen || f.gen ≠ gen then .next s
  else match s.slotReach f job slot with
    | none => .next s
    | some r =>
      if s.swapHeld r.id then .next { s with inputs := s.inputs ++ [.act (.faultKill job slot gen)] }
      else .next (s.tearDown r 3)

end Sys2Proof.Machine
end

