-- ==== Sys2Proof/Machine/Partition.lean ====
section
/-!
DEFINITION. Partitions (07 R145 to R147), islands (07 R157) and package power (24 R373).
-/

namespace Sys2Proof.Machine

open Sys2Proof

/-! ## Partitions -/

/-- A collective of a job runs. -/
def State.collectiveRuns (s : State) (j : Nat) : Bool :=
  s.cells.any (fun p => p.2.nodes.any (fun d => d.op.isSome && s.reachJob d.reach == j))

/-- The partition word's fields and its reserved bits. -/
def partX0 (v : Word) : Nat := bitsN v 0 5
def partY0 (v : Word) : Nat := bitsN v 5 4
def partX1 (v : Word) : Nat := bitsN v 16 5
def partY1 (v : Word) : Nat := bitsN v 21 4
def partValid (v : Word) : Bool := bitB v 32
def partReserved (v : Word) : Bool := v &&& 0xFFFFFFFEFE00FE00#64 != 0

/-- A rectangle holds both ends of a row's seam in a row whose links are both closed (07 R153). -/
def State.seamClosed (s : State) (x0 y0 x1 y1 : Nat) : Bool :=
  x0 ≤ 15 && 16 ≤ x1 && (List.range (y1 + 1 - y0)).any (fun i => !bitB s.seamOpen (2 * (y0 + i)) && !bitB s.seamOpen (2 * (y0 + i) + 1))

/-- The first failing check of a write of a partition entry: its bit of PARTERR. A partition that is not valid overlaps
none and spans no seam (log entry 65). -/
def State.partCheck (s : State) (j : Nat) (v : Word) : Option Nat :=
  let x0 := partX0 v
  let y0 := partY0 v
  let x1 := partX1 v
  let y1 := partY1 v
  if x1 < x0 || y1 < y0 || partReserved v then some 0
  else if partValid v && s.jobs.any (fun p => p.1 != j && p.2.valid && p.2.x0 ≤ x1 && x0 ≤ p.2.x1 && p.2.y0 ≤ y1 && y0 ≤ p.2.y1) then
    some 1
  else if s.reaches.any (fun r => r.job == j) || s.collectiveRuns j then some 2
  else if partValid v && s.seamClosed x0 y0 x1 y1 then some 3
  else none

/-- The need-by block's RW fields return to reset, and with them the values the address generators have adopted. -/
def State.resetNeed (s : State) (cells : List Nat) : State :=
  let s := cells.foldl (fun (s : State) n => s.updCell n (fun c => { c with need := { NeedBy.reset with
    heldi := c.need.heldi, holdrel := c.need.holdrel, late := c.need.late } })) s
  { s with cells := s.cells.map (fun p => (p.1, { p.2 with hold := p.2.hold.filter (fun e => !cells.contains (e.1 / 4)), holdSince := if cells.contains p.1 then none else p.2.holdSince })) }

/-- PARTITION_WRITE: refused as a whole, or applied; the cells that leave are cleared before another partition takes them. A write that
moves cells completes with that clearing: until then a further write of an entry, and what the host does after it, wait. -/
def execPartitionWrite (job : Nat) (v : Word) (s : State) : Host.Outcome State Fault Refusal :=
  if job = 0 || 63 < job then .next s
  else match s.partCheck job v with
    | some b => .next { s with partErr := putBit s.partErr b true, partErrJob := BitVec.ofNat 6 job }
    | none =>
      let old := (s.job job).cells
      let t := s.updJob job (fun b => { b with
        x0 := partX0 v, y0 := partY0 v, x1 := partX1 v, y1 := partY1 v, valid := partValid v, bwdrop := 0 })
      let new := (t.job job).cells
      let gone := old.filter (fun n => !new.contains n)
      let come := new.filter (fun n => !old.contains n)
      if !s.clearing.isEmpty then .next { s with inputs := .act (.partitionWrite job v) :: s.inputs }
      else if gone.isEmpty && come.isEmpty then .next t
      else
        let t := (t.resetNeed (gone ++ come)).updJob job (fun b => { b with swthr := Job.reset.swthr })
        .next { t with
          clearing := t.clearing ++ gone
          cache := t.cache.filter (fun e => !(gone.contains e.cell && e.job == job)) }

/-- A cell's tiles, switch, buffers, blocks and scratchpad are cleared; its island stays. -/
def State.clearCell (s : State) (n : Nat) : State :=
  let s := s.updCell n (fun c => { Cell.reset with island := c.island })
  { s with
    sram := memClear s.sram (sramKey n 0) sliceBytes
    bad := s.bad.filter (fun b => !(b.1 == 0 && sramKey n 0 / 64 ≤ b.2 && b.2 < sramKey (n + 1) 0 / 64)) }

/-- PARTITION_CLEAR_DONE. -/
def execPartitionClearDone (s : State) : Host.Outcome State Fault Refusal :=
  .next { s.clearing.foldl (fun (s : State) n => s.clearCell n) s with clearing := [] }

/-! ## Islands (07 R157) -/

/-- An island's step in effect changes, and its transition begins. -/
def State.setStep (s : State) (n f : Nat) : State :=
  let t := s.islandCycle n
  s.updCell n (fun c => { c with island := { c.island with fnow := f, busy := true, base := t, baseAt := s.cycle } })

/-- THROT: islands run below their FSTEP (24 R373). -/
def State.setThrot (s : State) : State :=
  { s with throt := (List.range 512).any (fun n => (s.cell n).island.fnow < (s.cell n).island.fstep) }

/-- ISLAND_WRITE: a round in progress ends first. Its step is in effect from the transition on (log entry 66). -/
def execIslandWrite (cell : Nat) (v : Word) (s : State) : Host.Outcome State Fault Refusal :=
  if 512 ≤ cell then .next s
  else
    let f := min 19 (bitsN v 0 5)
    let s := s.updCell cell (fun c => { c with island := { c.island with fstep := f, vstep := min 70 (bitsN v 5 7), gate := bitB v 12 } })
    .next (s.setStep cell f).setThrot

/-- ISLAND_TRANSITION_DONE. -/
def execIslandTransitionDone (cell : Nat) (s : State) : Host.Outcome State Fault Refusal :=
  if (s.cell cell).island.busy then .next (s.updCell cell (fun c => { c with island := { c.island with busy := false } }))
  else .next s

/-! ## Package power (24 R373) -/

/-- The next ms boundary of the global tick has come. -/
def State.powerDue (s : State) : Bool := (s.powerMs + 1) * 1000000 ≤ s.tick

/-- POWER_CHECK: every island steps down, or up towards its FSTEP. -/
def execPowerCheck (s : State) : Host.Outcome State Fault Refusal :=
  if !s.powerDue then .next s
  else
    let now := Config.powerNow (s.powerMs + 1)
    let lim := min 2400 s.plim.toNat
    let s : State := { s with powerMs := s.powerMs + 1, pnow := now }
    let s := (List.range 512).foldl (fun (s : State) n =>
      let i := (s.cell n).island
      if lim < now.toNat then (if 0 < i.fnow then s.setStep n (i.fnow - 1) else s)
      else if now.toNat * 100 ≤ lim * 95 && i.fnow < i.fstep then s.setStep n (i.fnow + 1)
      else s) s
    .next s.setThrot

end Sys2Proof.Machine
end

