-- ==== Sys2Proof/Machine/Reset.lean ====
section
/-!
DEFINITION. Function-level reset (21 R356, R357), the clear of VF Enable (21 R358), and warm and cold reset (24 R374,
R375).
-/

namespace Sys2Proof.Machine

open Sys2Proof

/-! ## Function-level reset -/

/-- What an FLR leaves of a job: the physical function's registers of it. -/
def Job.flr (b : Job) : Job :=
  { Job.reset with
    x0 := b.x0, y0 := b.y0, x1 := b.x1, y1 := b.y1, valid := b.valid, bwdrop := b.bwdrop, rstk := b.rstk, ten := b.ten,
    roota := b.roota, stkset := b.stkset, hbase := b.hbase, tvlo := b.tvlo, tvhi := b.tvhi, resthr := b.resthr,
    tierto := b.tierto, wstk := b.wstk, wsen := b.wsen, wsa := b.wsa, wslost := b.wslost, wsUsed := b.wsUsed,
    upcnt := b.upcnt, dncnt := b.dncnt, rshare := b.rshare, reqsig := b.reqsig }

/-- Writes on their way to the stacks and stores of contexts are applied or lost, each by a free value; one that waits at a quiesced stack
is lost (log entry 67). -/
def State.flushWrites (s : State) (j : Nat) (cells : List Nat) : State :=
  let keep (s : State) (k : Nat) : State × Bool := (s.drawn, s.stackOpen k && bitB (Config.openWord s.freeCount) 0)
  let s := (List.range 12).foldl (fun (s : State) k =>
    ((s.stk k).q.filter (fun p => cells.contains p.cell && p.write)).foldl (fun (s : State) p =>
      match s.reqOf p with
      | none => s
      | some q =>
        let d := keep s k
        if d.2 then d.1.writeAt j q.addrNow k p.addr 64 (if q.writeHalf then (q.ans.getD Token.zero).payload else q.tok.payload).toNat
        else d.1) s) s
  s.ctxs.toList.foldl (fun (s : State) c =>
    if c.job ≠ j then s
    else c.stores.foldl (fun (s : State) p =>
      let d := keep s p.stack
      if d.2 then d.1.writeAt j p.va.toNat p.stack p.sa 8 p.v.toNat else d.1) s) s

/-- The aborts that the nodes of a job send to their peers: reason 3. -/
def State.abortsOf (s : State) (j : Nat) : List Shore :=
  s.cells.flatMap (fun p => p.2.nodes.flatMap (fun d =>
    if s.reachJob d.reach = j && !d.shared then d.aborts p.1 d.rank 3 else []))

/-- The save images of a job that are not valid have STATE 10 written, at once or as soon as their pages can be written (21 R357). -/
def State.abandonSaves (s : State) (j : Nat) : State :=
  s.images.foldl (fun (s : State) m => match s.reach? m.reach with
    | some r =>
      if m.job = j && !m.valid then
        State.abandonHeader { s with abandoned := s.abandoned ++ [{ job := j, reach := r.id, va := s.imageVa r m.off, words := r.headerWords }] } r.id
      else s
    | none => s) s

/-- A function-level reset of job j. -/
def State.resetJob (s : State) (j : Nat) : State :=
  let cells := (s.job j).cells
  let ids := (s.reaches.filter (fun r => r.job == j)).map (·.id)
  let peers := s.abortsOf j
  let s := (s.flushWrites j cells).abandonSaves j
  let mine (c : Context) : Bool := c.job == j && c.st != .free
  let freed := (List.range 64).filter (fun c => mine (s.ctx c))
  let s : State := { s with
    ctxs := s.ctxs.map (fun c => if mine c then Context.reset else c)
    cores := s.cores.map (fun k => { k with mon := k.mon.filter (fun m => !freed.contains m.ctx) })
    reaches := s.reaches.filter (fun r => r.job != j), loads := s.loads.filter (fun l => l.job != j)
    images := s.images.filter (fun m => m.job != j), cache := s.cache.filter (fun e => e.job != j)
    walks := s.walks.filter (fun w => w.job != j), misses := s.misses.filter (fun m => m.job != j)
    tiers := s.tiers.filter (fun t => t.job != j), memErrs := s.memErrs.filter (fun e => e.1 != j)
    moves := s.moves.map (fun m => if m.job = j then { m with wait := ⟨[], [], []⟩ } else m)
    ctl := s.ctl.filter (fun m => !cells.contains m.tile)
    phaseMsgs := s.phaseMsgs.filter (fun m => !cells.contains (m.src % 512))
    phaseCnts := s.phaseCnts.filter (fun c => !cells.contains (c.src % 512))
    recordsOut := s.recordsOut.filter (fun p => !ids.contains p.2.reach)
    stks := s.stks.map (fun k => { k with q := k.q.filter (fun p => !cells.contains p.cell) })
    shoreOut := s.shoreOut ++ peers }
  let s := cells.foldl (fun (s : State) n => s.clearCell n) s
  let s := s.resetNeed cells
  s.updJob j Job.flr

/-- FLR: the host's function-level reset of a virtual function. -/
def execFlr (job : Nat) (s : State) : Host.Outcome State Fault Refusal :=
  if job = 0 || 63 < job then .next s else .next (s.resetJob job)

/-- FLRs of every virtual function, in ascending order. -/
def State.resetJobs (s : State) : State := (List.range 63).foldl (fun (s : State) i => s.resetJob (i + 1)) s

/-- A virtual function holds live work. -/
def State.liveWork (s : State) : Bool :=
  !s.reaches.isEmpty || !s.loads.isEmpty || s.ctxs.toList.any (fun c => c.st != .free)
    || (List.range 63).any (fun i => s.collectiveRuns (i + 1))

/-- VF_ENABLE_CLEAR. -/
def execVfEnableClear (s : State) : Host.Outcome State Fault Refusal := .next (if s.liveWork then s.resetJobs else s)

/-! ## Warm and cold reset (24 R374, R375) -/

/-- WARM_RESET: memories, training results and firmware stay; the clock and the model's own fields go on. The clearing of cells that
left a partition ends first (07 R147), and so do a page move that runs (21 R356) and the headers of abandoned images (R357). -/
def execWarmReset (s : State) : Host.Outcome State Fault Refusal :=
  let s := s.resetJobs
  let s := s.clearing.foldl (fun (s : State) n => s.clearCell n) s
  let s : State := { s with stks := s.stks.map (fun k => { k with quiesce := false }) }
  let s := s.abandoned.foldl (fun (s : State) a => s.abandonHeader a.reach) s.finishMove
  .next { State.reset with
    cycle := s.cycle, focus := s.focus, schedule := s.schedule, turnNo := s.turnNo, inputs := s.inputs, hbm := s.hbm,
    sram := s.sram, host := s.host, bad := s.bad, bootOk := s.bootOk, coldResets := s.coldResets, seamOpen := s.seamOpen,
    stacksIn := s.stacksIn, shoreIn := s.shoreIn, nextId := s.nextId, tide := s.tide, powerMs := s.powerMs,
    shoreOut := s.shoreOut, msix := s.msix, freeCount := s.freeCount }

/-- COLD_RESET: every register at reset; links, ports and stacks trained again and the firmware verified (log entries 9 and
10). What lies outside the package stays. -/
def execColdReset (s : State) : Host.Outcome State Fault Refusal :=
  let n := s.coldResets + 1
  .next { State.reset with
    cycle := s.cycle, focus := s.focus, schedule := s.schedule, turnNo := s.turnNo, inputs := s.inputs, host := s.host,
    bootOk := Config.firmwareOk n.toNat, coldResets := n, seamOpen := Config.seamTrained n.toNat,
    stacksIn := Config.stacksTrained n.toNat, shoreIn := Config.shoreTrained n.toNat, nextId := s.nextId, tide := s.cycle,
    powerMs := s.tick / 1000000, shoreOut := s.shoreOut, msix := s.msix, freeCount := s.freeCount }

end Sys2Proof.Machine
end

