-- ==== Sys2Proof/Machine/Registers.lean ====
section
/-!
DEFINITION. Writes of the registers in BAR 0 of the physical function and of the virtual functions (00 R15, R16), the event
log's read index (24 R362) and the security mailbox (24 R372). A register whose write has a row of its own acts by that row.
-/

namespace Sys2Proof.Machine

open Sys2Proof

/-! ## The event log's read index -/

/-- A write of RDIDX clears IRQPEND, and sends vector 0 again for a record written since the message. -/
def State.readIndex (s : State) (j : Nat) (v : BitVec 32) : State :=
  let again := (s.job j).irqMore
  let s := s.updJob j (fun b => { b with rdidx := v, irqpend := again, irqMore := false })
  if again then { s with msix := Tbl.upd 0 s.msix j (· + 1) } else s

/-- RDIDX_WRITE. -/
def execRdidxWrite (job : Nat) (v : BitVec 32) (s : State) : Host.Outcome State Fault Refusal :=
  if job = 0 || 63 < job then .next s else .next (s.readIndex job v)

/-! ## The security mailbox (24 R372) -/

/-- The 64 words of a report that are signed: NONCE, the firmware's digest, the key identifiers and the cold resets. -/
def State.report (s : State) : List Word :=
  s.nonce :: (List.range 8).map Config.firmwareDigest ++ (List.range 4).map Config.imageKey ++ [s.coldResets] ++ List.replicate 50 0

/-- Words written to host memory. -/
def hostWords (m : List Host.Cell) : Nat → List Word → List Host.Cell
  | _, [] => m
  | a, w :: t => hostWords (memWrite m a 8 w.toNat) (a + 8) t

/-- ATTESTATION_REPORT: operation 1 of the mailbox. -/
def execAttestationReport (s : State) : Host.Outcome State Fault Refusal :=
  if s.mailRun ≠ 1 then .next s
  else
    let r := s.report
    .next { s with
      mailRun := 0
      host := hostWords s.host s.mailBuf.toNat (r ++ (List.range 64).map (Config.reportSignature r)) }

/-- IDENTITY_CERTIFICATE: operation 2. The certificate's bytes are open (log entry 10). -/
def execIdentityCertificate (s : State) : Host.Outcome State Fault Refusal :=
  if s.mailRun ≠ 2 then .next s
  else .next { s with mailRun := 0, host := hostWords s.host s.mailBuf.toNat ((List.range 512).map Config.identityWord) }

/-- A write of the mailbox's first word. `mailRun` is the operation of the run that goes on, 0 for none: BUSY. -/
def State.mailWrite (s : State) (v : Word) : State :=
  let op : BitVec 8 := bits v 0 8
  if s.mailRun ≠ 0 then (if bitB v 8 then s else { s with mailOp := op })
  else if !bitB v 8 then { s with mailOp := op }
  else if op = 1 || op = 2 then { s with mailOp := op, mailRun := op, mailErr := false }
  else { s with mailOp := op, mailErr := true }

/-! ## Registers of the physical function -/

/-- The undertow engine runs a move or a command; a job's commands are queued or running (14 R277). -/
def State.engBusy (s : State) : Bool := !s.moves.isEmpty || !s.tiers.isEmpty
def State.tierBusy (s : State) (j : Nat) : Bool := s.tiers.any (fun t => t.job == j)

/-- The words that a live reach, a tier command or an invalidation locks (14 R277). -/
def State.tierLocked (s : State) (j : Nat) : Bool :=
  s.reaches.any (fun r => r.job == j && r.live) || s.tierBusy j || (s.job j).inv.isSome

/-- The sum of the RSHAREs of the other jobs (14 R267). -/
def State.sharesBut (s : State) (j : Nat) : Nat :=
  (s.jobs.filter (fun p => p.1 != j)).foldl (fun a p => a + p.2.rshare.toNat) 0

/-- A write of word `w` of job j's block at 0x4_0000 + 0x80 × j (14 R277). -/
def State.tierRegister (s : State) (j w : Nat) (v : Word) : State :=
  let set (f : Job → Job) : State := if s.tierLocked j then s else s.updJob j f
  match w with
  | 0x00 => set (fun b => { b with rstk := bits v 0 4, ten := bitB v 4, roota := bits v 16 24 })
  | 0x08 => set (fun b => { b with stkset := #v[bits v 0 12, bits v 16 12, bits v 32 12] })
  | 0x10 => set (fun b => { b with hbase := v &&& ~~~0xFFF#64 })
  | 0x18 => set (fun b => { b with tvlo := bits v 21 31 })
  | 0x20 => set (fun b => { b with tvhi := bits v 21 31 })
  | 0x28 => s.updJob j (fun b => { b with resthr := bits v 0 7, tierto := bits v 32 32 })
  | 0x30 => s.tierCmd j v
  | 0x48 => set (fun b => { b with wstk := bits v 0 4, wsen := bitB v 4, wsa := bits v 21 19, wsUsed := true })
  | 0x60 => s.tlbInv j v
  | 0x68 => if 256 < s.sharesBut j + bitsN v 0 9 then s else s.updJob j (fun b => { b with rshare := bits v 0 9 })
  | _ => s

/-- A write in BAR 0 of the physical function. -/
def State.pfRegister (s : State) (off : Nat) (v : Word) : Host.Outcome State Fault Refusal :=
  if 0x20000 ≤ off && off < 0x20400 then
    (if off % 16 = 0 then execPartitionWrite ((off - 0x20000) / 16) v s else .next s)
  else if off = 0x20400 then .next { s with partErr := s.partErr &&& ~~~(bits v 0 4) }
  else if 0x30000 ≤ off && off < 0x31000 then execIslandWrite ((off - 0x30000) / 8) v s
  else if off = 0x31000 then .next { s with plim := bits v 0 12 }
  else if off = 0x40000 then .next { s with strict := bitB v 0 }
  else if off = 0x40008 then .next (if s.engBusy then s else { s with poolBase := bits v 12 28, poolStk := bits v 40 4 })
  else if off = 0x40010 then .next (if s.engBusy then s else { s with poolN := bits v 0 32, poolCap := bits v 32 32 })
  else if 0x40080 ≤ off && off < 0x42000 then .next (s.tierRegister ((off - 0x40000) / 0x80) (off % 0x80) v)
  else if 0x50000 ≤ off && off < 0x500C0 then
    (if off % 16 = 0 then execStackControlWrite ((off - 0x50000) / 16) v s
    else .next (s.updStk ((off - 0x50000) / 16) (fun k => { k with herr := k.herr && !bitB v 48 })))
  else if 0x50100 ≤ off && off < 0x50160 then execPcclr ((off - 0x50100) / 8) v s
  else if 0x60010 ≤ off && off < 0x60400 then
    (let j := (off - 0x60000) / 16
     if off % 16 = 8 then .next (s.updJob j (fun b => { b with reqsig := bitB v 0 }))
     else if (s.job j).saving || (s.job j).restoring || (bitB v 0 && bitB v 1) then .next s
     else if bitB v 0 then execSave j s
     else if bitB v 1 then execRestore j s
     else .next s)
  else if off = 0x60800 then (if bitB v 0 then execWarmReset s else .next s)
  else if off = 0x70000 then .next (s.mailWrite v)
  else if off = 0x70008 then .next { s with nonce := v }
  else if off = 0x70010 then .next { s with mailBuf := v &&& ~~~0xFFF#64 }
  else .next s

/-! ## Registers of a virtual function -/

/-- A save or restore of a job runs (21 R353). -/
def State.saveRuns (s : State) (j : Nat) : Bool :=
  (s.job j).saving || (s.job j).restoring || s.images.any (fun m => m.job == j && !m.valid)
    || s.reaches.any (fun r => r.job == j && r.st == .saved && !s.imageValid r.id)

/-- The page of a queue (06 R137). -/
def State.queueRegister (s : State) (j q w : Nat) (v : Word) : Host.Outcome State Fault Refusal :=
  if w = 0x38 then execLaunchTokenSubmit j q v s
  else if w < 0x38 then .next (s.updQueue j q (fun k => { k with slot := vset k.slot (w / 8) v }))
  else if w = 0x50 then
    .next (s.updQueue j q (fun k => { k with prio := bits v 0 2, enable := bitB v 2, home := bits v 3 6, homev := bitB v 9 }))
  else if 0x80 ≤ w && w < 0x180 then execSeedIngress j q (w % 64 / 8) ((w - 0x80) / 64) v s
  else .next s

/-- A cell's status block (08 R174): the sticky flags and trap enables of its compute tile's active set. -/
def State.statusRegister (s : State) (n w : Nat) (v : Word) : State :=
  if w = 0x40 then s.updC n (fun c => { c with flags := c.flags &&& ~~~(bits v 0 3), trapEn := bits v 4 3 }) else s

/-- A cell's need-by block (12 R259). -/
def State.needRegister (s : State) (n w : Nat) (v : Word) : State :=
  let set (f : NeedBy → NeedBy) : State := s.updCell n (fun c => { c with need := f c.need })
  match w with
  | 0x00 => set (fun b => { b with holdIssue := bitsN v 0 24, holdMax := bitsN v 32 16 })
  | 0x08 => (set (fun b => { b with hold := #v[bitsN v 0 16, bitsN v 16 16, bitsN v 32 16, bitsN v 48 16] })).holdWritten n
  | 0x10 => set (fun b => { b with qwgt := v })
  | _ => s

/-- An ingress window's registers (17 R309). -/
def State.ingressRegister (s : State) (j c w : Nat) (v : Word) : State :=
  if w = 0 then s.updIngress j c (fun g => { g with ibase := v &&& 0xFFFFFFFFFFFC0#64, ien := bitB v 52 })
  else s.updIngress j c (fun g => { g with
    ilen := min 16384 (bitsN v 0 16), iqueue := bitsN v 16 4, iport := bitsN v 20 3, idrop := 0 })

/-- A publication window's registers (17 R310). -/
def State.publishRegister (s : State) (j w r : Nat) (v : Word) : State :=
  let run := (s.pubWin j w).busy
  match r with
  | 0x00 => s.updPub j w (fun g => { g with pbase := if run then g.pbase else v &&& 0xFFFFFFFFFFFC0#64, pen := bitB v 52 })
  | 0x08 => if run then s else s.updPub j w (fun g => { g with plen := bitsN v 0 10 })
  | 0x10 => if run then s else s.updPub j w (fun g => { g with pver := v &&& 0xFFFFFFFFFFFF8#64 })
  | _ => s

/-- The event log, masks and save area of a job (21 R341, R353; 24 R362). -/
def State.logRegister (s : State) (j w : Nat) (v : Word) : State :=
  match w with
  | 0x00 => s.updJob j (fun b => { b with elbase := if b.elen then b.elbase else bits v 12 40, elen := bitB v 52 })
  | 0x08 => s.updJob j (fun b => { b with elsize := if b.elen then b.elsize else bits v 0 5 })
  | 0x10 => s.readIndex j (bits v 32 32)
  | 0x18 => s.updJob j (fun b => { b with elfault := b.elfault && !bitB v 32 })
  | 0x20 => s.updJob j (fun b => { b with wdlim := bits v 0 32, wdOld := b.wdNow s.tick, wdAt := (s.tick / 1000 + 1) * 1000 })
  | 0x30 => s.updJob j (fun b => { b with etmask := bits v 0 17 })
  | 0x38 => s.updJob j (fun b => { b with irqmask := bits v 0 17 })
  | 0x80 => if s.saveRuns j then s else s.updJob j (fun b => { b with savebase := bits v 12 40 })
  | 0x88 => if s.saveRuns j then s else s.updJob j (fun b => { b with savesize := bits v 0 32 })
  | _ => s

/-- The peer table (19 R330): ignored while a collective of the job runs. -/
def State.peerRegister (s : State) (j off : Nat) (v : Word) : State :=
  if s.collectiveRuns j then s
  else if off = 0x140000 then s.updJob j (fun b => { b with rank := bits v 0 10 })
  else if 0x140040 ≤ off && off < 0x142040 then
    s.updJob j (fun b => { b with peers := b.peers.set ((off - 0x140040) / 8) (bits v 0 28) })
  else s

/-- A write of ACTION of a fault slot (21 R345, R347). -/
def State.actionRegister (s : State) (j k : Nat) (v : Word) : Host.Outcome State Fault Refusal :=
  match bitsN v 0 2 with
  | 1 => execFaultResume j k (bits v 48 16) s
  | 2 => execFaultKill j k (bits v 48 16) s
  | _ => .next s

/-- A write in BAR 0 of the virtual function of job j. Cells outside its partition ignore it. -/
def State.vfRegister (s : State) (j off : Nat) (v : Word) : Host.Outcome State Fault Refusal :=
  let mine (n : Nat) : Bool := (s.job j).holds n
  if 0x10000 ≤ off && off < 0x20000 then s.queueRegister j ((off - 0x10000) / 0x1000) (off % 0x1000) v
  else if 0x80000 ≤ off && off < 0x100000 then
    (let n := (off - 0x80000) / 0x400
     if mine n then .next (s.statusRegister n (off % 0x400) v) else .next s)
  else if 0x100000 ≤ off && off < 0x108000 then
    (let n := (off - 0x100000) / 0x40
     if mine n then .next (s.needRegister n (off % 0x40) v) else .next s)
  else if 0x110000 ≤ off && off < 0x118000 then
    (let n := (off - 0x110000) / 0x40
     if mine n && off % 0x40 = 0x20 then .next (s.updCell n (fun c => { c with brk := c.brk && !bitB v 0 })) else .next s)
  else if off = 0x118000 then .next (s.updJob j (fun b => { b with swthr := BitVec.ofNat 32 (max 1024 (bitsN v 0 32)) }))
  else if 0x120000 ≤ off && off < 0x120080 then .next (s.ingressRegister j ((off - 0x120000) / 16) (off % 16) v)
  else if 0x130000 ≤ off && off < 0x130800 then .next (s.publishRegister j ((off - 0x130000) / 0x20) (off % 0x20) v)
  else if 0x140000 ≤ off && off < 0x142040 then .next (s.peerRegister j off v)
  else if 0x150000 ≤ off && off < 0x150090 then .next (s.logRegister j (off - 0x150000) v)
  else if 0x160000 ≤ off && off < 0x162000 then
    (if off % 0x80 = 0x78 then s.actionRegister j ((off - 0x160000) / 0x80) v else .next s)
  else if off = 0x170000 then execReachTeardown j v s
  else if off = 0x170008 then (if (s.job j).tdBusy then .next s else execQueueTeardown j v s)
  else .next s

/-- REGISTER_WRITE: a 64-bit word of BAR 0 of a function; 0 is the physical function. Read-only and reserved fields ignore the
write. A part whose firmware has not been verified answers only at its mailbox (24 R370). -/
def execRegisterWrite (fn off : Nat) (v : Word) (s : State) : Host.Outcome State Fault Refusal :=
  if 63 < fn || 0x800000 ≤ off then .fault .outsideBar
  else if off % 8 ≠ 0 then .next s
  else if fn = 0 then
    (if s.bootOk || (0x70000 ≤ off && off < 0x70018) then s.pfRegister off v else .next s)
  else if s.bootOk then s.vfRegister fn off v
  else .next s

end Sys2Proof.Machine
end

