-- ==== Sys2Proof/Machine/Dispatch.lean ====
section
/-!
DEFINITION. The meaning of every instruction, by one direct call.
-/

namespace Sys2Proof.Machine

open Sys2Proof

def exec (i : Instr) (s : State) : Host.Outcome State Fault Refusal :=
  match i with
  | .add d a b => Sys2Proof.Machine.execAdd d a b s
  | .sub d a b => Sys2Proof.Machine.execSub d a b s
  | .and d a b => Sys2Proof.Machine.execAnd d a b s
  | .or d a b => Sys2Proof.Machine.execOr d a b s
  | .xor d a b => Sys2Proof.Machine.execXor d a b s
  | .sll d a b => Sys2Proof.Machine.execSll d a b s
  | .srl d a b => Sys2Proof.Machine.execSrl d a b s
  | .sra d a b => Sys2Proof.Machine.execSra d a b s
  | .mul d a b => Sys2Proof.Machine.execMul d a b s
  | .mulh d a b => Sys2Proof.Machine.execMulh d a b s
  | .divu d a b => Sys2Proof.Machine.execDivu d a b s
  | .remu d a b => Sys2Proof.Machine.execRemu d a b s
  | .slt d a b => Sys2Proof.Machine.execSlt d a b s
  | .sltu d a b => Sys2Proof.Machine.execSltu d a b s
  | .min d a b => Sys2Proof.Machine.execMin d a b s
  | .max d a b => Sys2Proof.Machine.execMax d a b s
  | .addi d a i0 => Sys2Proof.Machine.execAddi d a i0 s
  | .andi d a i0 => Sys2Proof.Machine.execAndi d a i0 s
  | .ori d a i0 => Sys2Proof.Machine.execOri d a i0 s
  | .xori d a i0 => Sys2Proof.Machine.execXori d a i0 s
  | .slli d a s0 => Sys2Proof.Machine.execSlli d a s0 s
  | .srli d a s0 => Sys2Proof.Machine.execSrli d a s0 s
  | .srai d a s0 => Sys2Proof.Machine.execSrai d a s0 s
  | .lui d i0 => Sys2Proof.Machine.execLui d i0 s
  | .ld d a i0 => Sys2Proof.Machine.execLd d a i0 s
  | .st d a i0 => Sys2Proof.Machine.execSt d a i0 s
  | .ldaq d a i0 => Sys2Proof.Machine.execLdaq d a i0 s
  | .strl d a i0 => Sys2Proof.Machine.execStrl d a i0 s
  | .amo d a b s0 o => Sys2Proof.Machine.execAmo d a b s0 o s
  | .beq a b o => Sys2Proof.Machine.execBeq a b o s
  | .bne a b o => Sys2Proof.Machine.execBne a b o s
  | .blt a b o => Sys2Proof.Machine.execBlt a b o s
  | .bge a b o => Sys2Proof.Machine.execBge a b o s
  | .bltu a b o => Sys2Proof.Machine.execBltu a b o s
  | .bgeu a b o => Sys2Proof.Machine.execBgeu a b o s
  | .jal o => Sys2Proof.Machine.execJal o s
  | .jalr d a i0 => Sys2Proof.Machine.execJalr d a i0 s
  | .cfgld h b y x => Sys2Proof.Machine.execCfgld h b y x s
  | .cfgsw h b => Sys2Proof.Machine.execCfgsw h b s
  | .launch h b a s0 => Sys2Proof.Machine.execLaunch h b a s0 s
  | .seed h b t p => Sys2Proof.Machine.execSeed h b t p s
  | .waitc h b c => Sys2Proof.Machine.execWaitc h b c s
  | .waita h b f => Sys2Proof.Machine.execWaita h b f s
  | .fence s0 => Sys2Proof.Machine.execFence s0 s
  | .publish h b w => Sys2Proof.Machine.execPublish h b w s
  | .gang h b => Sys2Proof.Machine.execGang h b s
  | .collEnable h b n => Sys2Proof.Machine.execCollEnable h b n s
  | .collQuery h b n => Sys2Proof.Machine.execCollQuery h b n s
  | .collAbort h b n => Sys2Proof.Machine.execCollAbort h b n s
  | .progrd h b c y x => Sys2Proof.Machine.execProgrd h b c y x s
  | .progwr h b m c y x => Sys2Proof.Machine.execProgwr h b m c y x s
  | .csrrd d i0 => Sys2Proof.Machine.execCsrrd d i0 s
  | .csrwr a i0 => Sys2Proof.Machine.execCsrwr a i0 s
  | .trap i0 => Sys2Proof.Machine.execTrap i0 s
  | .rett => Sys2Proof.Machine.execRett s
  | .idle => Sys2Proof.Machine.execIdle s
  | .illegalInstruction w => Sys2Proof.Machine.execIllegalInstruction w s
  | .instructionFetch c => Sys2Proof.Machine.execInstructionFetch c s
  | .memoryAccessComplete c n => Sys2Proof.Machine.execMemoryAccessComplete c n s
  | .asyncTrap c => Sys2Proof.Machine.execAsyncTrap c s
  | .contextRestart c pc => Sys2Proof.Machine.execContextRestart c pc s
  | .waitcRecheck c => Sys2Proof.Machine.execWaitcRecheck c s
  | .monitorFire core n => Sys2Proof.Machine.execMonitorFire core n s
  | .launchAccept c => Sys2Proof.Machine.execLaunchAccept c s
  | .seedDeliver c => Sys2Proof.Machine.execSeedDeliver c s
  | .progwrLand c => Sys2Proof.Machine.execProgwrLand c s
  | .gangStart reach => Sys2Proof.Machine.execGangStart reach s
  | .ruleNop r => Sys2Proof.Machine.execRuleNop r s
  | .ruleAdd r => Sys2Proof.Machine.execRuleAdd r s
  | .ruleSub r => Sys2Proof.Machine.execRuleSub r s
  | .ruleMul r => Sys2Proof.Machine.execRuleMul r s
  | .ruleAnd r => Sys2Proof.Machine.execRuleAnd r s
  | .ruleOr r => Sys2Proof.Machine.execRuleOr r s
  | .ruleXor r => Sys2Proof.Machine.execRuleXor r s
  | .shl r => Sys2Proof.Machine.execShl r s
  | .shr r => Sys2Proof.Machine.execShr r s
  | .sar r => Sys2Proof.Machine.execSar r s
  | .ruleMin r => Sys2Proof.Machine.execRuleMin r s
  | .ruleMax r => Sys2Proof.Machine.execRuleMax r s
  | .ceq r => Sys2Proof.Machine.execCeq r s
  | .clt r => Sys2Proof.Machine.execClt r s
  | .cltu r => Sys2Proof.Machine.execCltu r s
  | .sel r => Sys2Proof.Machine.execSel r s
  | .mov r => Sys2Proof.Machine.execMov r s
  | .popc r => Sys2Proof.Machine.execPopc r s
  | .vadd r => Sys2Proof.Machine.execVadd r s
  | .vsub r => Sys2Proof.Machine.execVsub r s
  | .vmul r => Sys2Proof.Machine.execVmul r s
  | .vfma r => Sys2Proof.Machine.execVfma r s
  | .vmax r => Sys2Proof.Machine.execVmax r s
  | .vmin r => Sys2Proof.Machine.execVmin r s
  | .vabs r => Sys2Proof.Machine.execVabs r s
  | .vneg r => Sys2Proof.Machine.execVneg r s
  | .vexp2 r => Sys2Proof.Machine.execVexp2 r s
  | .vrcp r => Sys2Proof.Machine.execVrcp r s
  | .vrsq r => Sys2Proof.Machine.execVrsq r s
  | .vcvt r => Sys2Proof.Machine.execVcvt r s
  | .vscale r => Sys2Proof.Machine.execVscale r s
  | .vsel r => Sys2Proof.Machine.execVsel r s
  | .vcmp r => Sys2Proof.Machine.execVcmp r s
  | .vrsum r => Sys2Proof.Machine.execVrsum r s
  | .vrmax r => Sys2Proof.Machine.execVrmax r s
  | .vshuf r => Sys2Proof.Machine.execVshuf r s
  | .vbcast r => Sys2Proof.Machine.execVbcast r s
  | .vpack r => Sys2Proof.Machine.execVpack r s
  | .vunpk r => Sys2Proof.Machine.execVunpk r s
  | .vdot r => Sys2Proof.Machine.execVdot r s
  | .topk r => Sys2Proof.Machine.execTopk r s
  | .vqnt r => Sys2Proof.Machine.execVqnt r s
  | .quantGroupDrain cell o => Sys2Proof.Machine.execQuantGroupDrain cell o s
  | .send r => Sys2Proof.Machine.execSend r s
  | .drop r => Sys2Proof.Machine.execDrop r s
  | .nul r => Sys2Proof.Machine.execNul r s
  | .selt r => Sys2Proof.Machine.execSelt r s
  | .gate r => Sys2Proof.Machine.execGate r s
  | .steer r => Sys2Proof.Machine.execSteer r s
  | .join r => Sys2Proof.Machine.execJoin r s
  | .retag r => Sys2Proof.Machine.execRetag r s
  | .kstep r => Sys2Proof.Machine.execKstep r s
  | .kset r => Sys2Proof.Machine.execKset r s
  | .kbnd r => Sys2Proof.Machine.execKbnd r s
  | .kend r => Sys2Proof.Machine.execKend r s
  | .mctl r => Sys2Proof.Machine.execMctl r s
  | .spl r => Sys2Proof.Machine.execSpl r s
  | .fil r => Sys2Proof.Machine.execFil r s
  | .spillFetchDone cell => Sys2Proof.Machine.execSpillFetchDone cell s
  | .psig r => Sys2Proof.Machine.execPsig r s
  | .bara r => Sys2Proof.Machine.execBara r s
  | .trapt r => Sys2Proof.Machine.execTrapt r s
  | .hlt r => Sys2Proof.Machine.execHlt r s
  | .livelockEvent cell kind idx => Sys2Proof.Machine.execLivelockEvent cell kind idx s
  | .parityFreeze cell kind idx => Sys2Proof.Machine.execParityFreeze cell kind idx s
  | .mma cell w => Sys2Proof.Machine.execMma cell w s
  | .mmaGroup cell => Sys2Proof.Machine.execMmaGroup cell s
  | .mdrn cell w => Sys2Proof.Machine.execMdrn cell w s
  | .mclr cell w => Sys2Proof.Machine.execMclr cell w s
  | .mswp cell w => Sys2Proof.Machine.execMswp cell w s
  | .mldc cell w => Sys2Proof.Machine.execMldc cell w s
  | .agNop r => Sys2Proof.Machine.execAgNop r s
  | .issr r => Sys2Proof.Machine.execIssr r s
  | .issw r => Sys2Proof.Machine.execIssw r s
  | .gatr r => Sys2Proof.Machine.execGatr r s
  | .sctw r => Sys2Proof.Machine.execSctw r s
  | .cpy r => Sys2Proof.Machine.execCpy r s
  | .s2s r => Sys2Proof.Machine.execS2s r s
  | .ldsy r => Sys2Proof.Machine.execLdsy r s
  | .atom r => Sys2Proof.Machine.execAtom r s
  | .rels r => Sys2Proof.Machine.execRels r s
  | .acq r => Sys2Proof.Machine.execAcq r s
  | .mark r => Sys2Proof.Machine.execMark r s
  | .tbase r => Sys2Proof.Machine.execTbase r s
  | .wpt r => Sys2Proof.Machine.execWpt r s
  | .agKstep r => Sys2Proof.Machine.execAgKstep r s
  | .agKset r => Sys2Proof.Machine.execAgKset r s
  | .agKbnd r => Sys2Proof.Machine.execAgKbnd r s
  | .agHlt r => Sys2Proof.Machine.execAgHlt r s
  | .readDeliver cell g => Sys2Proof.Machine.execReadDeliver cell g s
  | .relsDone cell => Sys2Proof.Machine.execRelsDone cell s
  | .acqDone cell => Sys2Proof.Machine.execAcqDone cell s
  | .atomPerformed cell n => Sys2Proof.Machine.execAtomPerformed cell n s
  | .phaseCount n => Sys2Proof.Machine.execPhaseCount n s
  | .hbmRequest stack => Sys2Proof.Machine.execHbmRequest stack s
  | .pbind p => Sys2Proof.Machine.execPbind p s
  | .pfifo p => Sys2Proof.Machine.execPfifo p s
  | .prdx p => Sys2Proof.Machine.execPrdx p s
  | .pfe p => Sys2Proof.Machine.execPfe p s
  | .pwpx p => Sys2Proof.Machine.execPwpx p s
  | .pspu p => Sys2Proof.Machine.execPspu p s
  | .pord p => Sys2Proof.Machine.execPord p s
  | .pbar p => Sys2Proof.Machine.execPbar p s
  | .pspl p => Sys2Proof.Machine.execPspl p s
  | .pcnt p => Sys2Proof.Machine.execPcnt p s
  | .pclr p => Sys2Proof.Machine.execPclr p s
  | .pnul p => Sys2Proof.Machine.execPnul p s
  | .portRequest cell port => Sys2Proof.Machine.execPortRequest cell port s
  | .routeTokenAtPort cell => Sys2Proof.Machine.execRouteTokenAtPort cell s
  | .portControlToken cell => Sys2Proof.Machine.execPortControlToken cell s
  | .fifoSend cell port => Sys2Proof.Machine.execFifoSend cell port s
  | .ldsyRelease cell port n => Sys2Proof.Machine.execLdsyRelease cell port n s
  | .barrierArrival n => Sys2Proof.Machine.execBarrierArrival n s
  | .barrierReply n => Sys2Proof.Machine.execBarrierReply n s
  | .barrierAdvance n => Sys2Proof.Machine.execBarrierAdvance n s
  | .barrierRelease n => Sys2Proof.Machine.execBarrierRelease n s
  | .barrierReset n => Sys2Proof.Machine.execBarrierReset n s
  | .psigApply cell kind n => Sys2Proof.Machine.execPsigApply cell kind n s
  | .tokenArrival cell kind => Sys2Proof.Machine.execTokenArrival cell kind s
  | .switchHop cell port link => Sys2Proof.Machine.execSwitchHop cell port link s
  | .breakwaterRecord cell port => Sys2Proof.Machine.execBreakwaterRecord cell port s
  | .skerryKernel cell => Sys2Proof.Machine.execSkerryKernel cell s
  | .progressBroadcast cell => Sys2Proof.Machine.execProgressBroadcast cell s
  | .paceUpdate cell => Sys2Proof.Machine.execPaceUpdate cell s
  | .progressRecordArrival n => Sys2Proof.Machine.execProgressRecordArrival n s
  | .holdRelease cell g => Sys2Proof.Machine.execHoldRelease cell g s
  | .slackWaterEvent reach => Sys2Proof.Machine.execSlackWaterEvent reach s
  | .watchdog reach => Sys2Proof.Machine.execWatchdog reach s
  | .launchTokenSubmit job q v => Sys2Proof.Machine.execLaunchTokenSubmit job q v s
  | .seedIngress job q n t v => Sys2Proof.Machine.execSeedIngress job q n t v s
  | .ingressWindowWrite job c off len v => Sys2Proof.Machine.execIngressWindowWrite job c off len v s
  | .dependencePoll l => Sys2Proof.Machine.execDependencePoll l s
  | .admitLaunch l => Sys2Proof.Machine.execAdmit l s
  | .configLoadDone l => Sys2Proof.Machine.execConfigLoadDone l s
  | .floodWaveCrossed reach => Sys2Proof.Machine.execFloodWaveCrossed reach s
  | .reachComplete reach => Sys2Proof.Machine.execReachComplete reach s
  | .walkComplete n => Sys2Proof.Machine.execWalkComplete n s
  | .faultResume job slot gen => Sys2Proof.Machine.execFaultResume job slot gen s
  | .faultKill job slot gen => Sys2Proof.Machine.execFaultKill job slot gen s
  | .moveUp => Sys2Proof.Machine.execMoveUp s
  | .pageMoveDone => Sys2Proof.Machine.execPageMoveDone s
  | .tierTimeout n => Sys2Proof.Machine.execTierTimeout n s
  | .down job => Sys2Proof.Machine.execDown job s
  | .up job => Sys2Proof.Machine.execUp job s
  | .wsclr job => Sys2Proof.Machine.execWsclr job s
  | .tlbinv job v => Sys2Proof.Machine.execTlbinv job v s
  | .tlbinvDone job => Sys2Proof.Machine.execTlbinvDone job s
  | .stackControlWrite stack v => Sys2Proof.Machine.execStackControlWrite stack v s
  | .pcclr stack v => Sys2Proof.Machine.execPcclr stack v s
  | .partitionWrite job v => Sys2Proof.Machine.execPartitionWrite job v s
  | .partitionClearDone => Sys2Proof.Machine.execPartitionClearDone s
  | .islandWrite cell v => Sys2Proof.Machine.execIslandWrite cell v s
  | .islandTransitionDone cell => Sys2Proof.Machine.execIslandTransitionDone cell s
  | .powerCheck => Sys2Proof.Machine.execPowerCheck s
  | .ebbMarker cell kind ch => Sys2Proof.Machine.execEbbMarker cell kind ch s
  | .ingressStop reach cell kind => Sys2Proof.Machine.execIngressStop reach cell kind s
  | .save job => Sys2Proof.Machine.execSave job s
  | .restore job => Sys2Proof.Machine.execRestore job s
  | .reachTeardown job v => Sys2Proof.Machine.execReachTeardown job v s
  | .queueTeardown job v => Sys2Proof.Machine.execQueueTeardown job v s
  | .tideSlotGrant => Sys2Proof.Machine.execTideSlotGrant s
  | .collectiveTrigger cell => Sys2Proof.Machine.execCollectiveTrigger cell s
  | .collectiveUnit cell pos u v => Sys2Proof.Machine.execCollectiveUnit cell pos u v s
  | .collectiveDone cell => Sys2Proof.Machine.execCollectiveDone cell s
  | .collectiveAbort cell rank reason => Sys2Proof.Machine.execCollectiveAbort cell rank reason s
  | .pinRelease cell => Sys2Proof.Machine.execPinRelease cell s
  | .engineCommand cell fallback => Sys2Proof.Machine.execEngineCommand cell fallback s
  | .rdidxWrite job v => Sys2Proof.Machine.execRdidxWrite job v s
  | .attestationReport => Sys2Proof.Machine.execAttestationReport s
  | .identityCertificate => Sys2Proof.Machine.execIdentityCertificate s
  | .flr job => Sys2Proof.Machine.execFlr job s
  | .vfEnableClear => Sys2Proof.Machine.execVfEnableClear s
  | .warmReset => Sys2Proof.Machine.execWarmReset s
  | .coldReset => Sys2Proof.Machine.execColdReset s
  | .registerWrite fn off v => Sys2Proof.Machine.execRegisterWrite fn off v s
  | .contextStart c job pc => Sys2Proof.Machine.execContextStart c job pc s
  | .holdAdopt cell => Sys2Proof.Machine.execHoldAdopt cell s
  | .issueStageDecision cell => Sys2Proof.Machine.execIssueStageDecision cell s
  | .bankPortMove cell => Sys2Proof.Machine.execBankPortMove cell s
  | .collectiveSlotEnd cell => Sys2Proof.Machine.execCollectiveSlotEnd cell s
  | .saveImageValid reach => Sys2Proof.Machine.execSaveImageValid reach s
  | .publicationSwap job w => Sys2Proof.Machine.execPublicationSwap job w s

end Sys2Proof.Machine
end

