-- ==== Sys2Proof/Machine/Round.lean ====
section
/-!
DEFINITION. The round of a compute tile or an address generator (08 R160 to R168): which guards hold, which rules are
selected, and what a round begins with; and a compute tile's blocked channels (12 R253).
-/

namespace Sys2Proof.Machine

open Sys2Proof

/-! ## Guards (R162) -/

/-- A VQNT output can take a segment: its stage is not draining and has room (09 R194). -/
def Quant.open (q : Quant) : Bool := q.comp.isNone && q.drain.isEmpty && q.group.length < 32

/-- The outputs that a rule emits on when it fires: STEER's pair, and none of VQNT's, whose stage emits later. -/
def emittedBy (kind : Nat) (w : Word) : List Nat :=
  let op := (ruleOp w).toNat
  match opdOf (ruleOf w).dst with
  | .ch o => if kind = 0 && op = 0x37 then [] else if kind = 0 && op = 0x45 then [o, o + 1] else [o]
  | _ => []

/-- Each of some outputs finds a slot of its own among those of its route's class (R162, 18 R312; log entry 33). -/
def State.slotsFor (s : State) (n kind : Nat) (outs : List Nat) : Bool :=
  let x := s.issue n kind
  let cls (o : Nat) : Option (BitVec 3) := (vget none x.routes o).map (·.cls)
  outs.all (fun o => match cls o with
    | some c => ((s.cell n).inqAt (if kind = 0 then portC else portA) c.toNat 0).length + (outs.filter (fun p => cls p == some c)).length ≤ slotsPerClass
    | none => true)

/-- Every output channel that a rule emits on has a free slot; the node's queue counts as MCTL's output (10 R212). -/
def State.outsFree (s : State) (n kind : Nat) (w : Word) : Bool :=
  let r := ruleOf w
  let op := (ruleOp w).toNat
  if kind = 0 && op = 0x50 then (s.cset n).node.queue.length < 4
  else match opdOf r.dst with
    | .ch o =>
      if kind = 0 && op = 0x37 then
        (vget Quant.reset (s.cset n).quant o).open && s.slotsFor n kind [bitsN (vget 0 (s.issue n kind).consts (r.srcB.toNat - 48)) 3 3]
      else s.slotsFor n kind (emittedBy kind w)
    | _ => true

/-- The rules of a list find slots for all that they emit. -/
def State.roomFor (s : State) (n kind : Nat) (sel : List Nat) : Bool :=
  s.slotsFor n kind (sel.flatMap (fun i => emittedBy kind (vget 0 (s.issue n kind).pool i)))

/-- The head of a channel that a guard sees. -/
def State.guardHead (s : State) (n kind : Nat) : Nat → Option Token := if kind = 0 then (s.cset n).head else (s.aset n).iss.head

/-- A request form finds a free slot of the sixteen (11 R228). -/
def State.requestFree (s : State) (n kind : Nat) (w : Word) : Bool :=
  kind == 0 || !agIssues (ruleOp w).toNat || (s.aset n).slots < 16

/-- holds(i) of R167. -/
def State.holds (s : State) (n kind i : Nat) : Bool :=
  let x := s.issue n kind
  let w := vget 0 x.pool i
  bitB x.valid i && guardCore x.preds (s.guardHead n kind) (ruleOf w) && s.outsFree n kind w && s.requestFree n kind w

/-! ## Selection (R166, R167) -/

/-- Slot classes of R166. -/
inductive SlotClass where
  | s | v | x
  deriving DecidableEq, Repr

def slotClass (op : Nat) : SlotClass :=
  if op ≤ 0x11 || (0x48 ≤ op && op ≤ 0x4B) || op = 0x5E || op = 0x5F then .s
  else if (0x20 ≤ op && op ≤ 0x37) || op = 0x58 || op = 0x59 then .v
  else .x
def SlotClass.limit : SlotClass → Nat
  | .s => 2
  | .v => 2
  | .x => 1

/-- fits(i, sel) of R167. -/
def Issue.fits (x : Issue) (kind i : Nat) (sel : List Nat) : Bool :=
  let cls (k : Nat) : SlotClass := slotClass (ruleOp (vget 0 x.pool k)).toNat
  if kind = 1 then sel.length < 2
  else sel.length < 4 && (sel.filter (fun k => cls k == cls i)).length < (cls i).limit

/-- order() of R167. -/
def Issue.order (x : Issue) (held : Nat → Bool) : List Nat :=
  let l := (List.range 16).filter held
  l.filter (fun i => 16 ≤ vget 0 x.age i) ++ l.filter (fun i => vget 0 x.age i < 16)

/-- The list sel of a round. Rules whose outputs share a class are selected together only as far as it has slots (18 R312; log
entry 33). -/
def Issue.select (x : Issue) (kind : Nat) (held : Nat → Bool) (room : List Nat → Bool) : List Nat :=
  (x.order held).foldl (fun sel i =>
    if x.fits kind i sel && room (sel ++ [i]) && !sel.any (fun j => bitB (vget 0 x.conf i) j) then sel ++ [i] else sel) []

/-- A mask of the rules that a test admits. -/
def ruleMask (p : Nat → Bool) : BitVec 16 := (List.range 16).foldl (fun m i => putBit m i (p i)) 0

/-- What a round begins with: its list, HELD, and the age of a rule that holds and is not selected. -/
def Issue.begin (x : Issue) (sel : List Nat) (held : Nat → Bool) (t : Nat) : Issue :=
  { x with
    sel := sel, held := ruleMask held, fired := 0, aborted := 0, rounds := x.rounds + 1, roundAt := t
    age := Vector.ofFn (fun i : Fin 16 =>
      let a := vget 0 x.age i
      if held i && !sel.contains i then min (a + 1) 31 else a) }

/-! ## Blocked channels (12 R253) -/

/-- Rule i of a compute tile fails only because channels of its conditions are empty. -/
def State.blockedBy (s : State) (n i : Nat) : List Nat :=
  let cs := s.cset n
  let w := vget 0 cs.iss.pool i
  let r := ruleOf w
  let conds := [r.condA, r.condB].filter (·.use)
  let empty := (conds.filter (fun c => (cs.head c.chan).isNone)).map (·.chan)
  let tags := conds.all (fun c => match cs.head c.chan with
    | some t => !c.care || t.tag == c.tag
    | none => true)
  if bitB cs.iss.valid i && (cs.iss.preds &&& r.pm) == (r.pv &&& r.pm) && tags && s.outsFree n kindC w then empty else []

/-- The progress counters in the feed set of an input channel. -/
def State.feedSet (s : State) (n ch : Nat) : List Nat :=
  match s.reach? (s.cset n).iss.reach with
  | none => []
  | some r => r.cells.flatMap (fun m => (s.aset m).tm.toList.filterMap (fun t =>
      if t.valid && t.marked && t.hasStream && (!t.write || t.space == .stream) && t.dst = n && t.dkind = 0 && t.chan = ch && t.mcell = n then some t.mctr else none))

/-- A round boundary counts for the starving flags. -/
def State.starve (s : State) (n : Nat) : State :=
  let cs := s.cset n
  if (List.range 8).any (fun k => (cs.iss.counter k).prog && (cs.iss.counter k).starved) then
    let fed := ((List.range 16).flatMap (s.blockedBy n)).flatMap (s.feedSet n)
    s.updC n (fun c => { c with iss := { c.iss with
      ctr := Vector.ofFn (fun k : Fin 8 => let q := c.iss.counter k; { q with starved := q.starved && fed.contains k }) } })
  else s

/-! ## Rounds -/

/-- The results of the round before enter the history (R168). -/
def CSet.recall (cs : CSet) : CSet := { cs with hist := (cs.newHist.reverse ++ cs.hist).take 4, newHist := [] }

/-- A tile's writes to its own predicates are seen at the next boundary (09 R207). -/
def Issue.applyOwn (x : Issue) (n : Nat) : Nat → Issue
  | 0 => x
  | fuel + 1 => match x.inb.findIdx? (fun w => w.sender == n) with
    | some i => Issue.applyOwn (x.applyWrite i) n fuel
    | none => x

/-- A round begins. -/
def State.beginRound (s : State) (n kind : Nat) : State :=
  let s := if kind = 0 then ((s.updIssue n kind (fun x => x.applyOwn n 8)).updC n CSet.recall).starve n else s
  let held := ruleMask (s.holds n kind)
  let h (i : Nat) : Bool := bitB held i
  let t := s.islandCycle n
  s.updIssue n kind (fun x => x.begin (x.select kind h (s.roomFor n kind)) h t)

/-- An ebb marker stands at the head of a channel (21 R350). -/
def Issue.atMarker (x : Issue) : Bool := x.chans.toList.any (fun q => (q.head?.map (fun p => p.tok.isMarker)).getD false)

/-- A tile has a round to run in this cycle of its island (R160). An update of the paces, and a broadcast, that are due come
first (12 R250). -/
def State.tileDue (s : State) (n kind : Nat) : Bool :=
  let x := s.issue n kind
  x.run == .running && !x.frozen && !(s.cell n).island.busy && x.roundAt < s.islandCycle n && x.livelock.isEmpty
    && (kind != 0 || (!s.paceDue n && !s.broadcastDue n))

/-- The rule at the head of a tile's list is taken from it. -/
def State.popRule (s : State) (n kind i : Nat) : State :=
  { s.updIssue n kind (fun x => { x with sel := x.sel.tail }) with focus := { s.focus with cell := n, idx := i } }

/-- The first firing of a reach counts its task as started (06 R137). -/
def State.noteFired (s : State) (n kind : Nat) : State :=
  let x := s.issue n kind
  if x.fired = 0 then s
  else match s.reach? x.reach with
    | some r => s.countStarted r
    | none => s

end Sys2Proof.Machine
end

