-- ==== Sys2Proof/Machine/Schedule.lean ====
section
/-!
DEFINITION. Whose turn it is: the choice of a core's context (05 R109), the tiles' rounds (08 R160), everything else that
can happen next, the outside world's inputs, and the clock (log entries 3, 4 and 7).
-/

namespace Sys2Proof.Machine

open Sys2Proof

/-! ## Contexts -/

/-- The context a core issues from: ready ones in round-robin order after the last (05 R109). A core issues once a cycle. -/
def State.coreTurn (s : State) (k : Nat) : Option Nat :=
  let core := s.core k
  if core.issuedAt = some s.cycle then none
  else
    ((List.range 8).map (fun i => k * 8 + (core.last + 1 + i) % 8)).find? (fun c => (s.ctx c).st == .ready)

/-- What a ready context does next: a held trap, a fetch, or its word. -/
def State.contextTurn (s : State) (c : Nat) : Instr :=
  let x := s.ctx c
  if !x.intr && x.interruptible && x.nextTrap.isSome then .asyncTrap c
  else match x.word with
    | none => .instructionFetch c
    | some w => match decode w with
      | some i => i
      | none => .illegalInstruction w

/-- A context issues: its core notes it, and the focus names it. -/
def State.issues (s : State) (c : Nat) : State :=
  { s.updCore (ctxCore c) (fun k => { k with last := c % 8, issuedAt := some s.cycle }) with
    focus := { s.focus with ctx := c } }

/-! ## Turns -/

/-- What can happen in a step: a context issues, a tile goes on with its round, an event, an input, or the next cycle. -/
inductive Turn where
  | context (c : Nat)
  | tile (cell kind : Nat)
  | event (i : Instr)
  | input
  | clock
  deriving DecidableEq, Repr

/-- An instruction if a condition holds. -/
def when_ (b : Bool) (i : Instr) : List Instr := if b then [i] else []

/-- One event for each place of a list. -/
def eachOf {α : Type} (l : List α) (f : Nat → Instr) : List Instr := (List.range l.length).map f

/-! ## Events of a cell -/

/-- Some output port of a cell has a packet to serve. -/
def State.serves (s : State) (n port : Nat) : Bool := !(s.outCandidates n port).isEmpty

/-- The channels that ebb markers stand for at a tile's port. -/
def State.markersAt (s : State) (n kind : Nat) : List Instr :=
  ((s.outCandidates n (tilePort kind)).filter (fun e => e.2.1.tok.isMarker)).map (fun e => .ebbMarker n kind (bitsN e.2.1.dstk 2 3))

/-- Events of the switch, and the arrivals at the tiles. -/
def State.switchEvents (s : State) (n : Nat) : List Instr :=
  let c := s.cell n
  if c.inq.all (fun e => e.2.isEmpty) && c.send.isEmpty then []
  else
    when_ c.skerryHead.isSome (.skerryKernel n)
      ++ (List.range 4).flatMap (fun p => if s.serves n p then (List.range 4).map (fun l => .switchHop n p l) else [])
      ++ when_ (s.serves n portC) (.tokenArrival n 0) ++ when_ (s.serves n portA) (.tokenArrival n 1)
      ++ (if s.serves n portM then [.routeTokenAtPort n, .portControlToken n] else [])
      ++ (List.range 3).flatMap (s.markersAt n)

/-- The matrix command that would start next (10 R216). -/
def CSet.commands (cs : CSet) (n : Nat) : List Instr :=
  match cs.node.next?.bind (fun i => cs.node.queue[i]?) with
  | none => []
  | some c =>
    if mOp c.tok = opMMA then [.mma n c.tok]
    else if mOp c.tok = opMDRN then [.mdrn n c.tok]
    else if mOp c.tok = opMCLR then [.mclr n c.tok]
    else if mOp c.tok = opMSWP then [.mswp n c.tok]
    else [.mldc n c.tok]

/-- Events of the compute tile beside its rounds. -/
def State.computeEvents (s : State) (n : Nat) : List Instr :=
  let cs := s.cset n
  eachOf cs.iss.inb (.psigApply n 0)
    ++ (if cs.node.queue.isEmpty then [] else cs.commands n ++ [.mmaGroup n, .bankPortMove n])
    ++ (List.range 8).flatMap (fun o =>
        let q := vget Quant.reset cs.quant o
        when_ (q.comp.isSome || !q.drain.isEmpty) (.quantGroupDrain n o))
    ++ when_ (cs.spillOut.isNone && (cs.spillWant.isSome || !cs.spillBuf.isEmpty)) (.spillFetchDone n)

/-- Events of the address generator beside its rounds. -/
def State.agEvents (s : State) (n : Nat) : List Instr :=
  let a := s.aset n
  eachOf a.iss.inb (.psigApply n 1)
    ++ when_ (!a.q.isEmpty || a.relsHead.isSome || a.acqHead.isSome || !(s.nodeRequests n).isEmpty) (.issueStageDecision n)
    ++ (if a.q.isEmpty then [] else
        (List.range 4).map (fun g => .readDeliver n g)
          ++ a.q.filterMap (fun q => match q.kind with
              | .atom _ _ _ _ => if q.stage = .placed || q.stage = .answered then some (.atomPerformed n q.id) else none
              | _ => none))
    ++ when_ (a.phases.any Phase.complete) (.relsDone n) ++ when_ (a.acqs.head?.any (·.served)) (.acqDone n)

/-- Events of the memory tile's ports. -/
def State.portEvents (s : State) (n : Nat) : List Instr :=
  (List.range 4).flatMap (fun p =>
    let q := s.port n p
    when_ (!q.q.isEmpty || !q.spu.isEmpty) (.portRequest n p)
      ++ when_ (!q.outq.isEmpty || q.pushq.isSome || !q.fifo.isEmpty) (.fifoSend n p)
      ++ ((List.range q.ldsy.length).filter (fun i => q.ldsyDue i && !q.stopped && !(s.mset n).frozen)).map (.ldsyRelease n p))

/-- Events of the collective nodes. -/
def State.nodeEvents (s : State) (n : Nat) : List Instr :=
  let l := (s.cell n).nodes
  if l.isEmpty then []
  else [.collectiveTrigger n, .collectiveDone n]
    ++ l.flatMap (fun d => [.pinRelease (nodeName n d), .engineCommand (nodeName n d) false, .engineCommand (nodeName n d) true,
        .collectiveUnit (nodeName n d) 0 0 0])

/-- The HOLD values that a cell's address generator has not adopted. -/
def State.unadopted (s : State) (n : Nat) : List Nat :=
  (s.job (s.cellJob n)).cells.filter (fun d =>
    (List.range 4).any (fun p => vget 0x2000 (s.cell d).need.hold p != (s.cell n).adopted d p))

/-- What can happen in a cell. One whose island is in transition stalls (07 R157). -/
def State.cellEvents (s : State) (n : Nat) : List Instr :=
  if (s.cell n).island.busy then [.islandTransitionDone n]
  else
    s.switchEvents n ++ s.computeEvents n ++ s.agEvents n ++ s.portEvents n ++ s.nodeEvents n
      ++ when_ (!(s.unadopted n).isEmpty) (.holdAdopt n)

/-! ## Events of contexts, jobs and the device -/

/-- What can happen to a context beside its issue. -/
def State.ctxEvents (s : State) (c : Nat) : List Instr :=
  let x := s.ctx c
  (match x.st, x.wait with
  | .blocked, .access _ => [.memoryAccessComplete c 0]
  | .blocked, .launch _ _ _ _ => [.launchAccept c]
  | .blocked, .seed _ _ _ _ _ _ => [.seedDeliver c]
  | .blocked, .progwr _ _ _ _ _ => [.progwrLand c]
  | .blocked, .waitc _ _ _ => when_ x.waitcDirty (.waitcRecheck c)
  | _, _ => [])
    ++ eachOf x.stores (fun n => .memoryAccessComplete c (n + 1))
    ++ when_ (!x.intr && x.st != .ready && x.interruptible && x.nextTrap.isSome) (.asyncTrap c)

/-- What can happen to a launch or a reach. -/
def State.reachEvents (s : State) (r : Reach) : List Instr :=
  match r.st with
  | .accepted => .admitLaunch r.id :: when_ (s.pollDue r) (.dependencePoll r.id)
  | .loading => [.configLoadDone r.id]
  | .flooding => [.floodWaveCrossed r.id]
  | .running => when_ (s.reachOver r) (.reachComplete r.id)
  | .ebbing =>
    r.cells.flatMap (fun n => [.ingressStop r.id n 0, .ingressStop r.id n 1, .ingressStop r.id n 2])
      ++ when_ (s.waveOver r) (.ingressStop r.id 0 3) ++ when_ (s.streams r) (.saveImageValid r.id)
  | _ => when_ (s.streams r) (.saveImageValid r.id)

/-- What can happen to a job. -/
def State.jobEvents (s : State) (j : Nat) (b : Job) : List Instr :=
  (List.range 16).flatMap (fun q => when_ (!(s.queue j q).seeds.isEmpty) (.seedDeliver (64 + 16 * j + q)))
    ++ (List.range 8).flatMap (fun w => when_ (!(s.ingress j w).heldToks.isEmpty) (.seedDeliver (1088 + 8 * j + w)))
    ++ b.pub.flatMap (fun p => when_ p.2.run.isSome (.publicationSwap j p.1))
    ++ when_ (b.saving && (s.reaches.any (fun r => r.toSave j) || !s.saveWaits j)) (.save j) ++ when_ b.restoring (.restore j) ++ when_ b.qtd.isSome (.queueTeardown j 0) ++ when_ b.inv.isSome (.tlbinvDone j)

/-- The event of a message of the barrier network. -/
def Ctl.event (m : Ctl) (n : Nat) : Instr :=
  match m with
  | .arrive _ _ _ _ _ _ _ _ => .barrierArrival n
  | .reply _ _ _ _ _ => .barrierReply n
  | .refusedReply _ _ _ => .barrierReply n
  | .advance _ _ _ _ => .barrierAdvance n
  | .release _ _ _ _ _ _ => .barrierRelease n
  | .reset _ _ _ => .barrierReset n

/-- The tier command at the head of the engine's queue. -/
def TierJob.event (t : TierJob) : Instr :=
  match t.cmd with
  | .down => .down t.job
  | .up => .up t.job
  | .wsclr => .wsclr t.job

/-- What can happen elsewhere in the device. -/
def State.deviceEvents (s : State) : List Instr :=
  (List.range 8).flatMap (fun k => (List.range (s.core k).mon.length).filterMap (fun n =>
      if ((s.core k).mon[n]?.map (·.hit)).getD false then some (.monitorFire k n) else none))
    ++ eachOf s.phaseMsgs .phaseCount ++ eachOf s.walks .walkComplete
    ++ (List.range 12).flatMap (fun k => when_ (!(s.stk k).q.isEmpty) (.hbmRequest k))
    ++ s.ctl.mapIdx (fun n m => m.event n) ++ eachOf s.recordsOut .progressRecordArrival
    ++ s.loads.map (fun l => .configLoadDone l.id)
    ++ when_ (!s.misses.isEmpty) .moveUp ++ when_ (!s.moves.isEmpty) .pageMoveDone ++ (s.tiers.take 1).map TierJob.event
    ++ when_ (!s.clearing.isEmpty) .partitionClearDone ++ s.abandoned.map (fun a => .saveImageValid a.reach)
    ++ when_ (s.mailRun == 1) .attestationReport ++ when_ (s.mailRun == 2) .identityCertificate

/-- Everything that can happen now, and need not yet. -/
def State.openEvents (s : State) : List Instr :=
  (List.range 64).flatMap s.ctxEvents ++ s.cells.flatMap (fun p => s.cellEvents p.1) ++ s.reaches.flatMap s.reachEvents
    ++ s.jobs.flatMap (fun p => s.jobEvents p.1 p.2) ++ s.deviceEvents

/-! ## Events whose time has come

None of these leaves its own condition true, so the clock goes on. -/

/-- What is due in a cell. -/
def State.cellDue (s : State) (n : Nat) : List Instr :=
  let c := s.cell n
  let cs := c.c.act
  let t := s.islandCycle n
  (List.range 7).flatMap (fun p => match vget none c.drops p with
      | some d => when_ (d.last + 1024 ≤ t) (.breakwaterRecord n p)
      | none => [])
    ++ when_ (s.broadcastDue n && !s.paceDue n && !s.recordsOut.any (fun p => p.2.cell == n)) (.progressBroadcast n)
    ++ when_ (s.paceDue n) (.paceUpdate n)
    ++ (List.range 4).flatMap (fun g => match s.stageHead n g with
        | some q => when_ (q.marked && !q.unheld && max 64 c.need.holdMax ≤ q.held) (.holdRelease n g)
        | none => [])
    ++ (s.nodeRequests n).flatMap (fun e => when_ (e.2.2.2.marked && !e.2.2.2.unheld && max 64 c.need.holdMax ≤ e.2.2.2.held)
        (.holdRelease n (if e.2.2.1 then 3 else 2)))
    ++ when_ (c.holdSince.any (fun h => h + 256 ≤ t)) (.holdAdopt n)
    ++ when_ (c.nodes.any (fun d => match d.slotEnd with | some t => t ≤ s.cycle | none => false)) (.collectiveSlotEnd n)
    ++ c.nodes.filterMap (fun d => match d.pinUntil with
        | some t => if t ≤ s.tick then some (.pinRelease (nodeName n d)) else none
        | none => none)
    ++ cs.iss.livelock.map (fun e => .livelockEvent n 0 e.1) ++ c.a.act.iss.livelock.map (fun e => .livelockEvent n 1 e.1)

/-- What is due of a reach. -/
def State.reachDue (s : State) (r : Reach) : List Instr :=
  when_ (s.slackDue r) (.slackWaterEvent r.id) ++ when_ (s.watchdogDue r) (.watchdog r.id) ++ when_ (s.gangDue r) (.gangStart r.id)
    ++ when_ (s.pollDue r && r.pollAt + 1024 ≤ s.cycle) (.dependencePoll r.id)

/-- Progress records that must arrive before the next broadcast of their cell (12 R250): those of one counter to one cell in the
order they were sent. One whose cell has made its decisions of this cycle comes in the next (13 R263). -/
def State.recordsDue (s : State) : List Instr :=
  ((List.range s.recordsOut.length).filter (fun i => match s.recordsOut[i]? with
    | some p => s.broadcastDue p.2.cell && !s.hasDecided p.1 && !(s.recordsOut.take i).any (fun q => q.1 == p.1 && q.2.reach == p.2.reach && q.2.cell == p.2.cell && q.2.ctr == p.2.ctr)
    | none => false)).map .progressRecordArrival

/-- What is due of a tier miss. -/
def State.missDue (s : State) (n : Nat) : Bool :=
  match s.misses[n]? with
  | some m => (s.job m.job).tierto != 0 && m.last + 1000 * (s.job m.job).tierto.toNat ≤ s.tick
  | none => false

/-- A blocked WAITC is re-read every 1,024 cycles. -/
def State.waitcDue (s : State) (c : Nat) : Bool :=
  match (s.ctx c).st, (s.ctx c).wait with
  | .blocked, .waitc _ _ _ => (s.ctx c).waitcAt + 1024 ≤ s.cycle
  | _, _ => false

/-- Everything whose time has come. -/
def State.dueEvents (s : State) : List Instr :=
  s.cells.flatMap (fun p => s.cellDue p.1) ++ s.reaches.flatMap s.reachDue
    ++ ((List.range s.misses.length).filter s.missDue).map .tierTimeout
    ++ ((List.range 64).filter s.waitcDue).map .waitcRecheck
    ++ when_ s.powerDue .powerCheck ++ when_ (s.tide + 256 ≤ s.cycle) .tideSlotGrant ++ s.recordsDue

/-! ## The turns of a state -/

/-- Tiles that run a round. -/
def State.tileTurns (s : State) : List Turn :=
  s.cells.flatMap (fun p => ([0, 1].filter (s.tileDue p.1)).map (Turn.tile p.1))

/-- The turns that can come next: contexts, tiles, what is due, what else can happen, the next input; and the next cycle,
once no core has a context left to issue and no tile a round left to run in this one, and nothing is due (05 R109). -/
def State.turns (s : State) : List Turn :=
  let cores := ((List.range 8).filterMap s.coreTurn).map Turn.context
  let tiles := s.tileTurns
  let due := s.dueEvents
  cores ++ tiles ++ due.map .event ++ s.openEvents.map .event
    ++ (if s.inputs.isEmpty then [] else [.input]) ++ (if cores.isEmpty && tiles.isEmpty && due.isEmpty then [.clock] else [])

/-! ## Quiescence (03 R71, R72) -/

/-- What changes in a cell when a rule fires or a token moves. -/
def Cell.motion (c : Cell) : List (List (List Packet)) × List (BitVec 16) × List Nat :=
  (([c.c.act.iss, c.a.act.iss].map (fun x => x.chans.toList ++ x.wave.toList)) ++ [c.inq.map (·.2), [c.send.map (·.2)],
      c.m.act.ports.toList.map (·.fifo)],
    [c.c.act.iss.fired, c.a.act.iss.fired],
    c.m.act.ports.toList.map (fun p => p.outq.length + b2n p.pushq.isSome))

/-- What changes in a cell when a request of a reach is issued or delivered: the counts of the templates, the halves of copies and
the streams that have left the issue stage, and the requests of the collective nodes (19 R329). -/
def Cell.traffic (c : Cell) (id : Nat) : List (BitVec 32 × BitVec 32) × List (Nat × ReqStage) × List (List Nat) :=
  (c.a.act.tm.toList.map (fun t => (t.issued, t.delivered)),
    c.a.act.q.filterMap (fun q => if q.counted && (q.stage == .cpyWrite || q.kind == .s2s) then some (q.id, q.stage) else none),
    (c.nodes.filter (fun d => d.reach == id)).map (fun d => (d.rd.toList ++ d.wr.toList ++ d.flight).map (·.since)))

/-- A reach in which something moved between two states begins a new interval; one in which a rule fired or a token moved may
report slack water again. -/
def State.settleQuiet (before after : State) : State :=
  { after with reaches := after.reaches.map (fun r =>
      let any (f : Cell → Cell → Bool) : Bool := r.cells.any (fun n => f (before.cell n) (after.cell n))
      if any (fun b a => b.motion != a.motion) then { r with quiet := 0, swDone := false }
      else if any (fun b a => b.traffic r.id != a.traffic r.id) then { r with quiet := 0 }
      else r) }

/-- The outcome of a turn, with the quiescent intervals it ends. -/
def State.settled (s : State) (o : Host.Outcome State Fault Refusal) : Host.Outcome State Fault Refusal :=
  match o with
  | .next t => .next (s.settleQuiet t)
  | .fault f => .fault f
  | .refused r => .refused r

/-- The detector of a reach counts cycles now; it counts from the crossing of its flood wave on (log entry 84). -/
def State.counting (s : State) (r : Reach) : Bool :=
  (r.st == .armed || r.st == .running || r.st == .ebbing) && !r.cells.any (fun n => s.stuckAt n || (s.cell n).island.busy)

/-! ## The clock (00 R9, R14) -/

/-- An island's cycle ends with this nominal cycle. -/
def State.islandEdge (s : State) (n : Nat) : Bool := s.islandCycle n < { s with cycle := s.cycle + 1 }.islandCycle n

/-- The heads of the queues of an issue stage that are held count their cycle (12 R258, R259). -/
def State.holdCycle (s : State) (n : Nat) : State :=
  let heads := (List.range 4).filterMap (fun g => s.stageHead n g)
  let held := heads.filter (fun q => s.isHeld n q)
  let nodes := (s.nodeRequests n).filter (fun e => s.unitHeld n e.2.1 e.2.2.1 e.2.2.2)
  if (held.isEmpty && nodes.isEmpty) || !s.islandEdge n || (s.cell n).island.busy then s
  else
    let new := (held.filter (fun q => !q.heldSeen)).length + (nodes.filter (fun e => !e.2.2.2.heldSeen)).length
    let s := s.updA n (fun a => held.foldl (fun a q => a.updReq q.id (fun r => { r with held := r.held + 1, heldSeen := true })) a)
    let s := nodes.foldl (fun (s : State) e => s.updNodeAt n e.1 (fun d =>
      d.setReq e.2.2.1 (some { e.2.2.2 with held := e.2.2.2.held + 1, heldSeen := true }))) s
    s.updCell n (fun c => { c with need := { c.need with heldi := (c.need.heldi + new) % 2 ^ 32 } })

/-- A cycle of a reach: its live time (21 R343) and its quiescent interval, in cycles of its corner's island. -/
def State.reachCycle (s : State) (r : Reach) : Reach :=
  let ns := { s with cycle := s.cycle + 1 }.tick - s.tick
  { r with
    liveNs := if r.live && r.st != .saved then r.liveNs + ns else r.liveNs
    quiet := if s.counting r && s.islandEdge (cellAt r.cx r.cy) then r.quiet + 1 else r.quiet }

/-- The next nominal cycle. Records that wait for their page try again. -/
def State.nextCycle (s : State) : State :=
  let s := s.jobs.foldl (fun (s : State) p => if p.2.logq.isEmpty then s else s.flushLog p.1 p.2.logq) s
  let s := s.cells.foldl (fun (s : State) p => s.holdCycle p.1) s
  { s with reaches := s.reaches.map s.reachCycle, pcNow := [], cycle := s.cycle + 1 }

/-! ## Inputs (log entry 7) -/

/-- Rows whose agent is the host, its software, or another package. -/
def external : Instr → Bool
  | .contextRestart _ _ => true
  | .contextStart _ _ _ => true
  | .launchTokenSubmit _ _ _ => true
  | .seedIngress _ _ _ _ _ => true
  | .ingressWindowWrite _ _ _ _ _ => true
  | .faultResume _ _ _ => true
  | .faultKill _ _ _ => true
  | .tlbinv _ _ => true
  | .stackControlWrite _ _ => true
  | .pcclr _ _ => true
  | .partitionWrite _ _ => true
  | .islandWrite _ _ => true
  | .save _ => true
  | .restore _ => true
  | .reachTeardown _ _ => true
  | .queueTeardown _ _ => true
  | .collectiveUnit _ p _ _ => p % 4 != 0
  | .collectiveAbort _ _ _ => true
  | .rdidxWrite _ _ => true
  | .parityFreeze _ _ _ => true
  | _ => false

/-- Resets, and registers that answer before the firmware has been verified (24 R370). -/
def alwaysTaken : Instr → Bool
  | .flr _ => true
  | .vfEnableClear => true
  | .warmReset => true
  | .coldReset => true
  | .registerWrite _ _ _ => true
  | _ => false

/-- The loader writes one byte of a memory; a byte of an unmapped page is dropped. -/
def State.placeByte (s : State) (p : Place) (a : Nat) (b : Byte) : State :=
  match p with
  | .host => { s with host := memSet s.host a b }
  | .sram => State.mend { s with sram := memSet s.sram a b } 0 (a / 64)
  | .hbm => State.mend { s with hbm := memSet s.hbm a b } 1 (a / 64)
  | .virt j =>
    match (s.walk j a .read).2.2.2 with
    | .ok k sa => ((s.hbmPut k sa 1 b.toNat).mend 1 (s.hbmKey k sa / 64)).noteLine j a
    | _ => s

/-- Bytes written from an address on. -/
def State.placeBytes (s : State) (p : Place) : Nat → List Byte → State
  | _, [] => s
  | a, b :: t => State.placeBytes (s.placeByte p a b) p (a + 1) t

/-- The addresses at which n bytes from a begin a unit: each is one write of its stack (15 R281). -/
def unitStarts (a n : Nat) : List Nat := ((List.range (n / 64 + 2)).map (fun i => max a (a / 64 * 64 + 64 * i))).filter (fun x => x < a + n && (x = a || x % 64 = 0))

/-- Where a byte of the loader lies in HBM: none outside HBM or on an unmapped page; `true` while its translation waits. -/
def State.placeKey (s : State) (p : Place) (a : Nat) : Option Nat × Bool :=
  match p with
  | .hbm => (some a, false)
  | .virt j => (match (s.walk j a .read).2.2.2 with
    | .ok k sa => (some (s.hbmKey k sa), false)
    | .wait => (none, true)
    | _ => (none, false))
  | _ => (none, false)

/-- A write of the loader waits while a stack that it needs is quiesced (14 R266). -/
def State.placeWaits (s : State) (p : Place) (a n : Nat) : Bool :=
  (unitStarts a n).any (fun x => let k := s.placeKey p x; k.2 || k.1.any (fun k => !s.stackOpen (k / 2 ^ 36)))

/-- The loader writes bytes, counted. -/
def State.loadBytes (s : State) (p : Place) (a : Nat) (bs : List Byte) : State :=
  State.placeBytes (((unitStarts a bs.length).eraseDups.filterMap (fun x => (s.placeKey p x).1)).foldl State.countKey s) p a bs

/-- The first input happens. An action that has no agent outside the device is dropped. -/
def State.takeInput (s : State) : Host.Outcome State Fault Refusal :=
  match s.inputs with
  | [] => .next s
  | .act i :: rest =>
    let s := { s with inputs := rest }
    if alwaysTaken i || (s.bootOk && external i) then exec i s else .next s
  | .place p a bs :: rest => .next (if s.placeWaits p a bs.length then s else State.loadBytes { s with inputs := rest } p a bs)
  | .upset sp u :: rest => .next { s with inputs := rest, bad := if s.bad.contains (sp, u) then s.bad else s.bad ++ [(sp, u)] }
  | .corrected k :: rest => .next (State.updStk { s with inputs := rest } k (fun t => { t with cecnt := satInc t.cecnt }))
  | .misroute n d k p :: rest => .next (State.updCell { s with inputs := rest } n (fun c => { c with damaged := (d, k, p % 7) :: c.damaged }))

/-! ## A turn -/

/-- The rules of a round are offered one after another, in the order of its list (08 R167, R170). -/
def State.runRules (n kind : Nat) : List Nat → State → Host.Outcome State Fault Refusal
  | [], s => .next s
  | i :: l, s =>
    let t := s.popRule n kind i
    match decodeRule (kind == 1) (vget 0 (s.issue n kind).pool i) with
    | none => State.runRules n kind l t
    | some r =>
      match exec r t with
      | .next u => State.runRules n kind l u
      | o => o

/-- A tile runs a round, unless an ebb marker stands at the head of a channel at this boundary: then it stops (21 R350). -/
def State.tileTurn (s : State) (n kind : Nat) : Host.Outcome State Fault Refusal :=
  if (s.issue n kind).atMarker then .next (s.stopTile n kind)
  else
    let b := s.beginRound n kind
    match b.settled (State.runRules n kind (b.issue n kind).sel b) with
    | .next u => .next (u.noteFired n kind)
    | o => o

/-- What a turn does. -/
def State.turn (s : State) (t : Turn) : Host.Outcome State Fault Refusal :=
  match t with
  | .context c => (s.issues c).settled (exec (s.contextTurn c) (s.issues c))
  | .tile n kind => s.tileTurn n kind
  | .event i => s.settled (exec i s)
  | .input => s.settled s.takeInput
  | .clock => .next s.nextCycle

/-- The number that chooses the turn: the schedule's next, or the count of turns; and the state after the choice. -/
def State.choice (s : State) : Nat :=
  match s.schedule with
  | p :: _ => p
  | [] => s.turnNo
def State.chosen (s : State) : State := { s with schedule := s.schedule.tail, turnNo := s.turnNo + 1 }

/-- The turn that comes next. -/
def State.nextTurn (s : State) : Turn := s.turns.getD (s.choice % s.turns.length) .clock

/-! ## Placing a word (log entry 8) -/

/-- Context 0 stands ready, of job 1 if it had none, with the word at its pc in its fetch buffer and no trap held, and its
core's turn comes first. -/
def State.placeWord (s : State) (w : Nat) : State :=
  let put (x : Context) : Context :=
    { x with
      st := .ready, wait := .none, job := if x.job = 0 then 1 else x.job, traps := []
      fetch := some (BitVec.ofNat 64 (x.pc.toNat / 64 * 64), BitVec.ofNat 512 (w % 2 ^ 32 * 2 ^ (8 * (x.pc.toNat % 64)))) }
  { (s.updCtx 0 put).updCore 0 (fun k => { k with last := 7, issuedAt := none }) with schedule := 0 :: s.schedule }

end Sys2Proof.Machine
end

