-- ==== Sys2Proof/Machine/Step.lean ====
section
/-!
DEFINITION. One step of the machine, and the placing of a word where the next step fetches.
-/

namespace Sys2Proof.Machine

open Sys2Proof

/-- One step: the turn that the schedule chooses. -/
def step (s : State) : Host.Outcome State Fault Refusal := s.chosen.turn s.nextTurn

/-- The state with a control-core word in the fetch buffer of context 0, which has the next turn (log entry 8). -/
def State.withFetchWord (s : State) (_nbits w : Nat) : State := s.placeWord w

end Sys2Proof.Machine
end

