-- ==== Sys2Proof/WellFormed.lean ====
section
/-!
DEFINITION. Well-formed instructions: those whose operands have an encoding that the loader or the control core accepts
(02 R39, R47 to R55; 05 R111, R124, R131), and events whose numbers the device has.
-/

namespace Sys2Proof

/-- A scope: tile, reach, job, device or system (05 R121, R122). -/
def scopeOk (s : BitVec 3) : Bool := s.toNat ≤ 4

/-- The operand restrictions of control-core words. -/
def Instr.controlOk : Instr → Bool
  | .amo _ _ _ s o => scopeOk s && o.toNat ≤ 8
  | .fence s => scopeOk s
  | .launch _ _ a s => a == 0 || s == 0
  | .waitc _ _ c => c != 3
  | .collQuery _ b _ => b == 0
  | .csrrd _ i => csrImplemented i
  | .csrwr _ i => csrImplemented i
  | _ => true

/-- The well-formedness of a rule or port word's fields: those that pass the checks of one word. -/
def Instr.wordOk (i : Instr) : Bool :=
  (match encodeRule false i with | some w => ruleWordOk false w | none => true)
    && (match encodeRule true i with | some w => ruleWordOk true w | none => true)
    && (match encodePort i with | some w => portOperandsOk w | none => true)

/-- Numbers of contexts and cells that exist (00 R4, 05 R108). -/
def Instr.numbersOk : Instr → Bool
  | .instructionFetch c => c < 64
  | .memoryAccessComplete c _ => c < 64
  | .asyncTrap c => c < 64
  | .contextRestart c _ => c < 64
  | .contextStart c j _ => c < 64 && 1 ≤ j && j < 64
  | .hbmRequest k => k < 12
  | .stackControlWrite k _ => k < 12
  | .pcclr k _ => k < 12
  | .islandWrite n _ => n < 512
  | .partitionWrite j _ => 1 ≤ j && j < 64
  | .flr j => 1 ≤ j && j < 64
  | _ => true

/-- A well-formed instruction. -/
def Instr.wf (i : Instr) : Bool := i.controlOk && i.wordOk && i.numbersOk

end Sys2Proof
end

