-- ==== Sys2Proof/Safety.lean ====
section
/-!
DEFINITION. What a safe step is, and the words the statements use: what a step leaves unchanged, how an instruction of the
control core ends, and the invariant of the memories.
-/

namespace Sys2Proof

/-- The destinations a scalar rule may name (09 R180). -/
def Rule.scalarDst (r : Rule) : Prop :=
  r.dst.toNat < 16 ∨ (24 ≤ r.dst.toNat ∧ r.dst.toNat < 32) ∨ (36 ≤ r.dst.toNat ∧ r.dst.toNat < 44) ∨ r.dst.toNat = 47

end Sys2Proof

namespace Sys2Proof.Machine

open Sys2Proof

/-- A step that neither faults nor is refused. -/
def Safe (s : State) : Prop := ∃ t, step s = .next t

/-! ## Frames -/

/-- Every byte of the stacks, of the scratchpads and of host memory reads as before. -/
def SameMemory (s t : State) : Prop :=
  ∀ a, memGet t.hbm a = memGet s.hbm a ∧ memGet t.sram a = memGet s.sram a ∧ memGet t.host a = memGet s.host a

/-- Nothing but context c differs: every other context, every other part of the machine and every byte of memory is as
before. -/
def OnlyCtx (c : Nat) (s t : State) : Prop :=
  t = { s with ctxs := t.ctxs } ∧ (∀ k, k ≠ c → t.ctx k = s.ctx k) ∧ SameMemory s t

/-- Nothing but cell n differs. -/
def OnlyCell (n : Nat) (s t : State) : Prop :=
  t = { s with cells := t.cells } ∧ (∀ k, k ≠ n → t.cell k = s.cell k) ∧ SameMemory s t

/-- The places of the page-table entries that a walk of va reads from the table of a level at (stack, base) on (14 R268). -/
def State.tableKeys (s : State) (va : Nat) : Nat → Nat → Nat → Nat → List Nat
  | 0, _, _, _ => []
  | fuel + 1, lv, stack, base =>
    let sa := base + 8 * lvIndex va lv
    let e := s.hbmWord stack sa
    s.hbmKey stack sa :: State.tableKeys s va fuel (lv + 1) (pteStk e) (pteFrame e * 4096)

/-- The places of the words of the stacks that a translation of va for job j may write: the page-table entries of its walk (14 R271), and
the entry of va in the job's working-set record (14 R276). -/
def State.walkKeys (s : State) (j va : Nat) : List Nat :=
  let b := s.job j
  s.tableKeys va 4 0 b.rstk.toNat (b.roota.toNat * 2 ^ 16)
    ++ [s.hbmKey b.wstk.toNat (b.wsa.toNat * 2 ^ 21 + 8 * (va / 2 ^ 21 % 2 ^ 18))]

/-- The entries of a translation cache of t are those of s, or of job j and the page that holds va. -/
def CacheKeeps (s t : List TlbEnt) (j va : Nat) : Prop := ∀ e ∈ t, e ∈ s ∨ (e.job = j ∧ va / e.size = e.page)

/-- What a translation of va for job j that succeeds may change: bytes of the page-table entries of its walk and of its working-set entry,
and no other byte of the stacks; the counts of the accesses; the job's count of displaced working-set entries; entries of va's page in the
translation caches; and walks and reported errors that are over (14 R270 to R276, R279). -/
def Translates (s t : State) (j va : Nat) : Prop :=
  t = { s with
    hbm := t.hbm, pcreq := t.pcreq, pcNow := t.pcNow, jobs := t.jobs, dtlb := t.dtlb, cores := t.cores, memErrs := t.memErrs
    walks := t.walks } ∧
  (Memory.wf s.hbm = true → ∀ a, (∀ k ∈ s.walkKeys j va, ¬ (k ≤ a ∧ a < k + 8)) → memGet t.hbm a = memGet s.hbm a) ∧
  (∀ q, t.job q = { s.job q with wslost := (t.job q).wslost } ∧ (q ≠ j → t.job q = s.job q)) ∧
  (∀ k, t.core k = { s.core k with utlb := (t.core k).utlb } ∧ CacheKeeps (s.core k).utlb (t.core k).utlb j va) ∧
  (∀ d, d < 2 → CacheKeeps (vget [] s.dtlb d) (vget [] t.dtlb d) j va) ∧
  (∀ w ∈ t.walks, w ∈ s.walks) ∧ (∀ e ∈ t.memErrs, e ∈ s.memErrs)

/-- Bytes `[a, a + n)` of the stacks apart, every byte of memory reads as before. -/
def SameMemoryBut (a n : Nat) (s t : State) : Prop :=
  ∀ b, (¬ (a ≤ b ∧ b < a + n) → memGet t.hbm b = memGet s.hbm b) ∧ memGet t.sram b = memGet s.sram b ∧
    memGet t.host b = memGet s.host b

/-- Contexts after a write of a line by an agent of their job: at most the fetch buffer and the note that a WAITC has a line
to read again differ (05 R110, R131). -/
def OnlyNotes (s t : State) : Prop :=
  ∀ k, t.ctx k = { s.ctx k with fetch := (t.ctx k).fetch, waitcDirty := (t.ctx k).waitcDirty }

/-- The stores of context c have taken effect, in their order: the stacks hold them, their lines are noted, and nothing else
has changed (05 R116). -/
def Drained (s t : State) (c : Nat) : Prop :=
  t.hbm = (s.ctx c).stores.foldl (fun m p => memWrite m (s.hbmKey p.stack p.sa) 8 p.v.toNat) s.hbm ∧
  t = { s with ctxs := t.ctxs, cores := t.cores, reaches := t.reaches, hbm := t.hbm, pcreq := t.pcreq, pcNow := t.pcNow } ∧
  (∀ k, k ≠ c → t.ctx k = { s.ctx k with fetch := (t.ctx k).fetch, waitcDirty := (t.ctx k).waitcDirty }) ∧
  t.ctx c = { s.ctx c with stores := [], fetch := (t.ctx c).fetch, waitcDirty := (t.ctx c).waitcDirty }

/-! ## How an instruction of the control core ends (05 R110, R113) -/

/-- The fetch buffer after pc has moved: kept while pc stays in its unit (05 R110). -/
def keptFetch (f : Option (Word × Unit64)) (pc : Word) : Option (Word × Unit64) :=
  f.filter (fun b => decide (b.1.toNat = pc.toNat / 64 * 64))

/-- A context goes on at pc: xd holds v, which x0 discards, and its other registers, its control and status registers and all
else are as before (05 R110). -/
abbrev Context.GoesTo (x y : Context) (d : Reg) (v pc : Word) : Prop :=
  (∀ r, y.reg r = if r ≠ 0 ∧ r = d then v else x.reg r) ∧
  y = { x with x := y.x, st := .ready, wait := y.wait, pc := pc, fetch := keptFetch x.fetch pc }

/-- Context c goes on, and nothing else changes. -/
abbrev GoesOn (s t : State) (c : Nat) (d : Reg) (v pc : Word) : Prop := OnlyCtx c s t ∧ (s.ctx c).GoesTo (t.ctx c) d v pc

/-- The condition of WAITC (05 R131). -/
def waitCondition (k : BitVec 2) (v b : Word) : Prop :=
  (k = 0 ∧ b.toNat ≤ v.toNat) ∨ (k = 1 ∧ v = b) ∨ (k = 2 ∧ v ≠ b)

/-- The context takes a synchronous trap into its handler: the saved registers, INTR and pc, and nothing else (05 R113). -/
def TakesTrap (s t : State) (c : Nat) (cause : BitVec 8) (tp0 tp1 tp2 : Word) : Prop :=
  OnlyCtx c s t ∧
  t.ctx c = { s.ctx c with
    cause := cause, async := false, epc := (s.ctx c).pc &&& ~~~3#64, tp0 := tp0, tp1 := tp1, tp2 := tp2,
    tunit := BitVec.ofNat 12 c, tukind := 1, intr := true, st := .ready, wait := .none, pc := (s.ctx c).tvec,
    fetch := keptFetch (s.ctx c).fetch (s.ctx c).tvec }

/-- The context halts with one event record of the cause, and no register changes (05 R113). -/
def HaltsWith (s t : State) (c : Nat) (cause : Nat) (tp0 tp1 tp2 : Word) : Prop :=
  t = (s.event (s.ctx c).job cause 1 (c % 4096) tp0 tp1 tp2 none).updCtx c (fun x => { x with st := .halted, wait := .none })

/-- A synchronous trap: the handler runs where there is one and none runs already; otherwise the context halts (05 R113). -/
def Traps (s t : State) (c cause : Nat) (tp0 tp1 tp2 : Word) : Prop :=
  if (s.ctx c).tvec ≠ 0 ∧ (s.ctx c).intr = false then TakesTrap s t c (BitVec.ofNat 8 cause) tp0 tp1 tp2
  else HaltsWith s t c cause tp0 tp1 tp2

/-! ## How a rule fires (08 R162, R167, R168, 09 R180, R184) -/

/-- The guard of the focused compute rule holds on the tokens that a firing finds; it does so whenever the rule was selected (08 R162,
R167; log entry 83). -/
def State.RuleOffered (s : State) (r : Rule) : Prop :=
  guardCore (s.cset s.focus.cell).iss.preds (s.cset s.focus.cell).front r = true

/-- The focused compute rule is offered with its effect: its guard holds and no source of it nullifies; `b1` says that its opcode
also reads b1 (08 R162, 03 R78). -/
def State.RuleReady (s : State) (r : Rule) (b1 : Bool) : Prop :=
  s.RuleOffered r ∧ (s.cset s.focus.cell).nullSource r b1 = false

/-- t is u, the state in which the rule's own effect has been applied, with what every firing does (08 R167, R168). -/
def RuleFires (s u t : State) (r : Rule) (cond : Bool) (res : Option Hist) : Prop :=
  t = u.updC s.focus.cell (fun c => c.finish s.focus.idx r cond res)

/-- The focused address-generator rule is offered: its guard holds (08 R162). -/
def State.RuleReadyA (s : State) (r : Rule) : Prop :=
  guardCore (s.aset s.focus.cell).iss.preds (s.aset s.focus.cell).iss.head r = true

/-- The same for a firing of an address-generator rule (08 R167). -/
def RuleFiresA (s u t : State) (r : Rule) (cond : Bool) : Prop :=
  t = u.updA s.focus.cell (fun a => a.finish s.focus.idx r cond)

/-- A nullified firing of the focused rule: a null token of format f to a destination output, a false condition, and a null result where
the opcode has one (03 R78, 08 R168). -/
def RuleNullified (s t : State) (r : Rule) (f : Nat → BitVec 3) (result : Bool) : Prop :=
  let n := s.focus.cell
  let u : State := if result then (match opdOf r.dst with
    | .ch o => s.emit n 0 (s.cset n).iss o ⟨.null, f o, 0, r.et, 0⟩
    | _ => s) else s
  RuleFires s u t r false (if result then some ⟨true, VReg.reset⟩ else none)

/-- The focused rule aborts with reason 4: no effect but the abort's own, and an event with the mask at the first abort of a run; the
other words of the event are left open (04 R96, 08 R171 to R174; log entry 13). -/
def TrapAborts (s t : State) (mask : Nat) : Prop :=
  let n := s.focus.cell; let x := (s.cset n).iss; let w := Config.openWord s.freeCount
  let u : State := if vget 0 x.runs s.focus.idx = 0 then
      ({ s with freeCount := s.freeCount + 1 } : State).event (s.reachJob x.reach) 0x0B 0 (n % 512) (BitVec.ofNat 64 mask) w w (some x.reach)
    else s
  t = u.updIssue n 0 (fun x => x.abort s.focus.idx 4)

/-- What flags of the matrix node's command i do to v: they are sticky, and the first that is enabled as a trap writes one event, after
which the command goes on (10 R220). -/
def NodeFlags (v t : State) (n i fl step : Nat) : Prop :=
  let cs := v.cset n; let m := fl &&& cs.trapEn.toNat; let w := v.updC n (fun c => c.setFlags fl)
  ∀ c : Cmd, cs.node.queue[i]? = some c →
    t = if fl = 0 then v else if m = 0 ∨ c.trapped = true then w
      else (w.event (v.reachJob cs.iss.reach) 0x0B 0 (n % 512) (BitVec.ofNat 64 m) c.tok (BitVec.ofNat 64 step) (some cs.iss.reach)).updC n
        (fun d => { d with node := d.node.setCmd i { c with trapped := true } })

/-- u is s with a scalar result delivered to the destination of the focused rule (09 R180, R181). -/
def ScalarGoes (s u : State) (r : Rule) (y : Word) : Prop :=
  let n := s.focus.cell
  match opdOf r.dst with
  | .s i => u = s.updC n (fun c => { c with s := vset c.s i y })
  | .k i =>
    let k := (s.cset n).iss.counter i
    if k.bound ≠ 0 ∧ k.bound.toNat ≤ (y.setWidth 32).toNat then
      u = s.updC n (fun c => { c with flags := c.flags ||| 4, iss := c.iss.setCtr i (k.write (k.bound - 1)) })
    else u = s.updC n (fun c => { c with iss := c.iss.setCtr i (k.write (y.setWidth 32)) })
  | .ch o => u = s.emit n 0 (s.cset n).iss o ⟨.data, 7, 0, r.et, y.setWidth 512⟩
  | .null => u = s
  | _ => False

/-- The destinations of a vector rule (09 R184). -/
def CSet.vecDst (cs : CSet) (r : Rule) (f k : Nat) : Prop :=
  match opdOf r.dst with
  | .v _ => lanesOf f = k
  | .ch o => lanesOf (cs.outEntry o).fmt.toNat = k
  | .null => lanesOf f = k
  | _ => False

/-- u is s with the value v of a vector rule delivered to its destination and the flags g set (09 R180, R184, 04 R96). -/
def VectorGoes (s u : State) (r : Rule) (v : VReg) (g : Nat) : Prop :=
  let n := s.focus.cell; let w := s.updC n (fun c => c.setFlags g)
  match opdOf r.dst with
  | .v i => u = w.updC n (fun c => c.putReg i v)
  | .ch o => u = w.emit n 0 (s.cset n).iss o ⟨.data, v.tag, 0, r.et, v.bits⟩
  | .null => u = w
  | _ => False

/-- A vector rule with f32 lanes as its result fires: they are encoded to the output's format, or to the register format f, and go to its
destination, to the history and, unless every lane is ±0, to the predicate update. The flags of the firing are what `fl` makes of the
destination's format and of the flags of that encoding; where one of them is enabled as a trap, the rule aborts instead (09 R184, 04 R96). -/
def VectorFiresBy (s t : State) (r : Rule) (f : Nat) (xs : List FVal) (fl : Nat → Nat → Nat) : Prop :=
  let cs := s.cset s.focus.cell; let d := cs.dstFmt r f
  ∃ v g, encodeReg d cs.rmode.toNat cs.sat xs = some (v, g) ∧
    if fl d g &&& cs.trapEn.toNat ≠ 0 then TrapAborts s t (fl d g &&& cs.trapEn.toNat)
    else ∃ u, VectorGoes s u r v (fl d g) ∧
      RuleFires s u t r (v.lanes.any (fun x => x ≠ .zero false ∧ x ≠ .zero true)) (some ⟨false, v⟩)

/-- The same with the flags of the operation, `fl`, joined to those of the encoding. -/
abbrev VectorFires (s t : State) (r : Rule) (f : Nat) (xs : List FVal) (fl : Nat) : Prop := VectorFiresBy s t r f xs (fun _ g => fl ||| g)

/-- A request on template t with this address is accepted: at a stream, at a port that takes it, or in space V by a hit of the
micro-TLB or by a miss that the tile may leave pending (11 R225, R226). -/
def State.Accepts (s : State) (t : Template) (addr : Word) (k : Kind) (u : PortUse) (miss : Bool) : Prop :=
  let n := s.focus.cell; let a := s.aset n
  match t.space with
  | .stream => miss = false
  | .virt => s.checkV n (s.reachJob a.iss.reach) t addr k = if miss then .miss else .hit
  | .sram => miss = false ∧ ∃ d off, s.checkS n a t.homePort addr u = .ok d off

/-- u is s with request q of template g accepted: it joins the queue, the counters step as c says, and the template's request
number, its transfers and the writes of the open phase count it; a miss joins a walk of its page (11 R227, R228, R235, 12 R260). -/
def RequestQueued (s u : State) (g : Nat) (c : Issued) (q : Req) (write miss : Bool) : Prop :=
  let n := s.focus.cell; let a := s.aset n; let t := a.tmpl g; let b := u.aset n
  let p := s.updA n (fun _ => b)
  u = (if miss then p.joinWalk n (s.reachJob a.iss.reach) (q.addr / 4096) false q.id else p) ∧
  b = { a with
    iss := c.iss, q := a.q ++ [if miss then { q with stage := .walking, counted := true } else q], nextId := a.nextId + 1
    tm := b.tm, xfers := b.xfers, phases := b.phases } ∧
  (∀ k, k < 4 → b.tmpl k = if k = g then { t with reqno := t.reqno + 1, issued := if miss then t.issued + 1 else t.issued }
    else a.tmpl k) ∧
  b.xfers = (if q.marked then a.xfers ++ [⟨g, q.reqno, q.mark, t.mcell, t.mctr, write, none⟩] else a.xfers) ∧
  b.phases = (if write then a.countWrite.phases else a.phases)

/-- At the state w the port of s serves a request that its arbiter picks: no stores stand in its sparse-update window, or R247
lets a request come before them. -/
def PortServes (s : State) (n k : Nat) (w : State) : Prop :=
  ((s.port n k).spu = [] ∧ w = s) ∨
  ((s.port n k).spu ≠ [] ∧ (s.port n k).ord = false ∧ (s.portPick n k).isSome = true ∧
    (Config.openWord s.freeCount).toNat % ((s.port n k).spu.length + 1) = (s.port n k).spu.length ∧ w = s.drawn)

/-! ## The invariant of the memories -/

/-- Every memory is in its canonical form. -/
def State.memOk (s : State) : Prop := Memory.wf s.hbm = true ∧ Memory.wf s.sram = true ∧ Memory.wf s.host = true

end Sys2Proof.Machine
end

