-- ==== Sys2Proof/Certificates/Slice0/Obligations.lean ====
section
/-!
DEFINITION. The statements for the provers, each of the spec's rules that its docstring names; the vocabulary is Safety's.
Where a statement rests on a choice of the model, its entry in OBLIGATIONS.json names the log entry.
-/

open Sys2Proof Sys2Proof.Machine

/-- Reset leaves contexts free, tiles off, memories canonical and registers at their reset columns, with values of log entries 1 and 9 (R374, R362; rests on the model's log entries 1, 2, 9). -/
def Obligations.ResetValues : Prop :=
  State.reset.memOk ∧ State.reset.coldResets = 1 ∧ State.reset.plim = 2400 ∧ State.reset.nonce = 0 ∧ State.reset.reaches = [] ∧
  (∀ c, c < 64 → (State.reset.ctx c).st = .free ∧ (State.reset.ctx c).tvec = 0 ∧ (State.reset.ctx c).intr = false ∧
    ∀ r, (State.reset.ctx c).reg r = 0) ∧
  (∀ k, k < 12 → (State.reset.stk k).hmask = 0x7FFFFC0 ∧ (State.reset.stk k).quiesce = false ∧ (State.reset.stk k).cecnt = 0) ∧
  (∀ n, (State.reset.cell n).island.fstep = 19 ∧ (State.reset.cell n).need.qwgt = 0x0102040102040101 ∧
    (State.reset.cset n).iss.run = .off ∧ (State.reset.cset n).node.mode0 = false ∧ (State.reset.cset n).node.bank0 = []) ∧
  (∀ j, (State.reset.job j).resthr = 90 ∧ (State.reset.job j).tierto = 1000 ∧ (State.reset.job j).swthr = 0x10000 ∧
    (State.reset.job j).elsize = 7 ∧ (State.reset.job j).valid = false)

/-- Control-core words written out from the encoding tables decode to their instructions (R39, R45, R46, R47). -/
def Obligations.WordsDecode : Prop :=
  (∀ e ∈ ([(0x24C00200#32, .lui 6 0x0200), (0x10C60040#32, .ori 6 6 0x0040), (0x08E00200#32, .addi 7 0 0x0200),
      (0x38642821#32, .amo 3 4 5 2 1), (0x4460FFFE#32, .bne 3 0 0xFFFE), (0x18840006#32, .slli 4 4 6),
      (0x30480008#32, .ldaq 2 8 8), (0xC4070003#32, .csrwr 7 3), (0xC0400008#32, .csrrd 2 8), (0xE4000000#32, .rett),
      (0x88A60002#32, .launch 5 6 1 0), (0x8CA70000#32, .seed 5 7 0 0), (0xA0AB0000#32, .gang 5 11),
      (0xA9A50220#32, .progrd 13 5 1 1 0), (0x98000004#32, .fence 4), (0x95090001#32, .waita 8 9 1), (0xE8000000#32, .idle)] :
      List (BitVec 32 × Instr)), decode e.1 = some e.2) ∧
  (∀ e ∈ [0x00000000#32, 0x04000010#32, 0x24C10200#32, 0x91090003#32, 0x88A60003#32, 0xC040000F#32], decode e = none)

/-- A step at a context, a tile or an event is exec of what is decoded there, with what the step adds (R110, R112, R39, R160, R161, R167, R170; rests on the model's log entries 3, 4, 29). -/
def Obligations.StepRunsTheDecodedWord : Prop :=
  ∀ (s : State),
    (∀ c, s.nextTurn = .context c → let x := s.ctx c; let u := s.chosen.issues c
      (∀ t, x.intr = false → x.wait ≠ .access .fence → x.nextTrap = some t → step s = u.settled (exec (.asyncTrap c) u)) ∧
      (x.intr = true ∨ x.traps = [] ∨ x.wait = .access .fence →
        let word := if x.wait = .access .fence then x.cur.or x.fetched else x.fetched
        (word = none → step s = u.settled (exec (.instructionFetch c) u)) ∧
        (∀ w i, word = some w → decode w = some i → step s = u.settled (exec i u)) ∧
        (∀ w, word = some w → decode w = none → step s = u.settled (exec (.illegalInstruction w) u)))) ∧
    (∀ c, let u := s.issues c; u.focus.ctx = c ∧ u = { s with cores := u.cores, focus := u.focus } ∧ ∀ k, u.ctx k = s.ctx k) ∧
    (∀ n kind, s.nextTurn = .tile n kind → let c := s.chosen
      ((c.issue n kind).atMarker = true → step s = .next (c.stopTile n kind)) ∧
      ((c.issue n kind).atMarker = false → let b := c.beginRound n kind
        ∀ t, State.runRules n kind (b.issue n kind).sel b = .next t →
          ∃ u, b.settled (.next t) = .next u ∧ step s = .next (u.noteFired n kind))) ∧
    (∀ (n kind : Nat) (t : State), State.runRules n kind [] t = .next t) ∧
    (∀ (n kind i : Nat) (l : List Nat) (r : Instr) (t : State), kind < 2 →
      decodeRule (kind == 1) (vget 0 (t.issue n kind).pool i) = some r → let u := t.popRule n kind i
      u.focus.cell = n ∧ u.focus.idx = i ∧
      (∀ v, exec r u = .next v → State.runRules n kind (i :: l) t = State.runRules n kind l v)) ∧
    (∀ i, s.nextTurn = .event i → step s = s.chosen.settled (exec i s.chosen)) ∧
    (s.nextTurn = .clock → step s = .next s.chosen.nextCycle) ∧
    (∀ t : State, ∃ u : State, s.settled (.next t) = .next u ∧ u = { t with reaches := u.reaches } ∧
      u.reaches.map (·.id) = t.reaches.map (·.id) ∧
      ∀ (n : Nat) (r : Reach), t.reaches[n]? = some r → ∃ r' : Reach, u.reaches[n]? = some r' ∧ r' = { r with quiet := r'.quiet, swDone := r'.swDone })

/-- Decoding and encoding agree on every control word, rule word and port word, in both directions (R45, R46, R47, R49, R55). -/
def Obligations.DecodingAndEncodingAgree : Prop :=
  (∀ (w : BitVec 32) (i : Instr), decode w = some i ↔ i.wf = true ∧ encode i = some w) ∧
  (∀ (ag : Bool) (w : BitVec 64) (i : Instr), decodeRule ag w = some i ↔ encodeRule ag i = some w) ∧
  (∀ (w : BitVec 64) (i : Instr), decodePort w = some i ↔ encodePort i = some w)

/-- Every step keeps the three memories in their canonical form (R4, R281; rests on the model's log entry 2). -/
def Obligations.MemoriesStayCanonical : Prop := ∀ s t : State, s.memOk → step s = .next t → t.memOk

/-- The ALU group computes xd := f(xa, xb), in register and immediate forms, and changes nothing else (R118). -/
def Obligations.AluOperations : Prop :=
  (∀ (d a b : Reg) (i : BitVec 16) (sh : BitVec 6) (s : State), s.focus.ctx < 64 → (s.ctx s.focus.ctx).st = .ready →
    (∀ e ∈ ([(.add d a b, fun x y => x + y), (.sub d a b, fun x y => x - y), (.and d a b, fun x y => x &&& y),
      (.or d a b, fun x y => x ||| y), (.xor d a b, fun x y => x ^^^ y), (.sll d a b, fun x y => x <<< (y.toNat % 64)),
      (.srl d a b, fun x y => x >>> (y.toNat % 64)), (.sra d a b, fun x y => x.sshiftRight (y.toNat % 64)),
      (.mul d a b, fun x y => BitVec.ofNat 64 (x.toNat * y.toNat)),
      (.mulh d a b, fun x y => BitVec.ofInt 64 (x.toInt * y.toInt / 2 ^ 64)),
      (.divu d a b, fun x y => if y = 0 then 0xFFFFFFFFFFFFFFFF#64 else BitVec.ofNat 64 (x.toNat / y.toNat)),
      (.remu d a b, fun x y => if y = 0 then x else BitVec.ofNat 64 (x.toNat % y.toNat)),
      (.slt d a b, fun x y => if x.toInt < y.toInt then 1 else 0), (.sltu d a b, fun x y => if x.toNat < y.toNat then 1 else 0),
      (.min d a b, fun x y => if x.toInt ≤ y.toInt then x else y), (.max d a b, fun x y => if x.toInt ≤ y.toInt then y else x)] :
      List (Instr × (Word → Word → Word))),
      ∃ t, exec e.1 s = .next t ∧
        GoesOn s t s.focus.ctx d (e.2 ((s.ctx s.focus.ctx).reg a) ((s.ctx s.focus.ctx).reg b)) ((s.ctx s.focus.ctx).pc + 4)) ∧
    (∀ e ∈ ([(.addi d a i, fun x => x + BitVec.ofInt 64 i.toInt), (.andi d a i, fun x => x &&& BitVec.ofNat 64 i.toNat),
      (.ori d a i, fun x => x ||| BitVec.ofNat 64 i.toNat), (.xori d a i, fun x => x ^^^ BitVec.ofNat 64 i.toNat),
      (.slli d a sh, fun x => x <<< sh.toNat), (.srli d a sh, fun x => x >>> sh.toNat),
      (.srai d a sh, fun x => x.sshiftRight sh.toNat), (.lui d i, fun _ => BitVec.ofInt 64 (i.toInt * 0x10000))] :
      List (Instr × (Word → Word))),
      ∃ t, exec e.1 s = .next t ∧
        GoesOn s t s.focus.ctx d (e.2 ((s.ctx s.focus.ctx).reg a)) ((s.ctx s.focus.ctx).pc + 4))) ∧
  (∀ w : BitVec 32, w.toNat / 2 ^ 26 = 0x06 ∨ w.toNat / 2 ^ 26 = 0x07 ∨ w.toNat / 2 ^ 26 = 0x08 →
    w.toNat % 2 ^ 16 / 2 ^ 6 ≠ 0 → decode w = none)

/-- Branches, JAL and JALR set pc and the link register and change nothing else (R119). -/
def Obligations.BranchesAndJumps : Prop :=
  (∀ (s : State), let c := s.focus.ctx; let x := s.ctx c; c < 64 → x.st = .ready →
    (∀ (a b : Reg) (o : BitVec 16),
      ∀ e ∈ ([(.beq a b o, fun x y => decide (x = y)), (.bne a b o, fun x y => decide (x ≠ y)),
        (.blt a b o, fun x y => decide (x.toInt < y.toInt)), (.bge a b o, fun x y => decide (y.toInt ≤ x.toInt)),
        (.bltu a b o, fun x y => decide (x.toNat < y.toNat)), (.bgeu a b o, fun x y => decide (y.toNat ≤ x.toNat))] :
        List (Instr × (Word → Word → Bool))),
      ∃ t, exec e.1 s = .next t ∧
        GoesOn s t c 0 0 (x.pc + if e.2 (x.reg a) (x.reg b) then 4 * BitVec.ofInt 64 o.toInt else 4)) ∧
    (∀ o : BitVec 26, ∃ t, exec (.jal o) s = .next t ∧ GoesOn s t c 31 (x.pc + 4) (x.pc + 4 * BitVec.ofInt 64 o.toInt)) ∧
    (∀ (d a : Reg) (i : BitVec 16), let target := x.reg a + BitVec.ofInt 64 i.toInt
      (target.toNat % 4 = 0 → ∃ t, exec (.jalr d a i) s = .next t ∧ GoesOn s t c d (x.pc + 4) target) ∧
      (target.toNat % 4 ≠ 0 → ∃ t, exec (.jalr d a i) s = .next t ∧ Traps s t c 0x02 target 0 0))) ∧
  (∀ (c : Nat) (s : State), let x := s.ctx c; c < 64 → 2 ^ 52 ≤ x.pc.toNat →
    tlbFind (vget [] s.dtlb (c / 32)) x.job x.pc.toNat .fetch = none →
    ∃ t, exec (.instructionFetch c) s = .next t ∧ Traps { s with freeCount := s.freeCount + 1 } t c 0x03 x.pc 1 3)

/-- LD and LDAQ write xd with the word at their address and change nothing else (R115, R116, R120; rests on the model's log entry 5). -/
def Obligations.LoadsReadMemory : Prop :=
  ∀ (d a : Reg) (i : BitVec 16) (s : State) (st sa : Nat),
    let c := s.focus.ctx
    let va := (s.ctx c).reg a + BitVec.ofInt 64 i.toInt
    let u := (s.coreReach c va .read).1
    let own := (s.ctx c).stores.filter (fun p => p.stack = st ∧ p.sa = sa)
    c < 64 → (s.ctx c).st = .ready → va.toNat % 8 = 0 → (s.coreReach c va .read).2 = .at st sa →
    Translates s u (s.ctx c).job va.toNat ∧
    ∀ e ∈ [Instr.ld d a i, .ldaq d a i], ∃ t, exec e s = .next t ∧
      GoesOn (u.countAccess st sa) t c d
        (match own.getLast? with
        | some p => p.v
        | none => memWord u.hbm (u.hbmKey st sa)) ((s.ctx c).pc + 4)

/-- Misaligned loads, stores, AMO, WAITC, WAITA, LAUNCH and CFGLD take the misaligned trap and do nothing else (R115, R121, R124, R131, R132). -/
def Obligations.MisalignedAccessesTrap : Prop :=
  ∀ (d a b : Reg) (i : BitVec 16) (sc : BitVec 3) (o : BitVec 4) (k : BitVec 2) (f : BitVec 1) (y : BitVec 4) (x : BitVec 5) (s : State),
    let c := s.focus.ctx
    let va := (s.ctx c).reg a + BitVec.ofInt 64 i.toInt
    c < 64 →
    (va.toNat % 8 ≠ 0 → ∀ e ∈ [Instr.ld d a i, .ldaq d a i, .st d a i], ∃ t, exec e s = .next t ∧ Traps s t c 0x02 va 0 0) ∧
    (va.toNat % 8 ≠ 0 → ∀ m, s.drain c = some m → ∃ t, exec (.strl d a i) s = .next t ∧ Traps m t c 0x02 va 0 0) ∧
    (((s.ctx c).reg a).toNat % 8 ≠ 0 → ∀ e ∈ [Instr.amo d a b sc o, .waitc a b k, .waita a b f], ∃ t, exec e s = .next t ∧
      Traps s t c 0x02 ((s.ctx c).reg a) 0 0) ∧
    (((s.ctx c).reg b).toNat % 64 ≠ 0 →
      ∀ e ∈ [Instr.launch d b 0 0, .launch d b 1 0, .launch d b 0 1, .cfgld d b y x], ∃ t, exec e s = .next t ∧
        Traps s t c 0x02 ((s.ctx c).reg b) 0 0)

/-- A translation fault traps with cause 3, a permission fault with cause 4, with the payload of R113 (R113, R115; rests on the model's log entry 20). -/
def Obligations.FaultingAccessesTrap : Prop :=
  ∀ (d a b : Reg) (i : BitVec 16) (sc : BitVec 3) (o : BitVec 4) (s : State),
    let c := s.focus.ctx
    let va := (s.ctx c).reg a + BitVec.ofInt 64 i.toInt
    c < 64 →
    ∀ e ∈ ([(.ld d a i, va, .read, 2), (.ldaq d a i, va, .read, 2), (.st d a i, va, .write, 3),
        (.amo d a b sc o, (s.ctx c).reg a, .atomic, 4)] : List (Instr × Word × Kind × Nat)),
      e.2.1.toNat % 8 = 0 →
      (∀ code, (s.coreReach c e.2.1 e.2.2.1).2 = .fault 3 code → ∃ t, exec e.1 s = .next t ∧
        Traps (s.coreReach c e.2.1 e.2.2.1).1 t c 0x03 e.2.1 (BitVec.ofNat 64 e.2.2.2) (BitVec.ofNat 64 code)) ∧
      (∀ code w, (s.coreReach c e.2.1 e.2.2.1).2 = .fault 4 code → encode e.1 = some w → ∃ t, exec e.1 s = .next t ∧
        Traps (s.coreReach c e.2.1 e.2.2.1).1 t c 0x04 e.2.1 (BitVec.ofNat 64 (code % 16)) (w.setWidth 64))

/-- ST queues its word in program order; STRL does so after every earlier access of the context (R116, R120; rests on the model's log entry 5). -/
def Obligations.StoresAreQueued : Prop :=
  ∀ (d a : Reg) (i : BitVec 16) (s : State) (st sa : Nat),
    let c := s.focus.ctx
    let va := (s.ctx c).reg a + BitVec.ofInt 64 i.toInt
    c < 64 → (s.ctx c).st = .ready → va.toNat % 8 = 0 →
    ∀ e m, (e = Instr.st d a i ∧ m = s) ∨ (e = .strl d a i ∧ s.drain c = some m ∧ Drained s m c) →
      let u := (m.coreReach c va .write).1
      (m.coreReach c va .write).2 = .at st sa →
      Translates m u (m.ctx c).job va.toNat ∧ ∃ t, exec e s = .next t ∧ OnlyCtx c u t ∧
        t.ctx c = { m.ctx c with
          stores := (m.ctx c).stores ++ [⟨va, st, sa, (s.ctx c).reg d⟩], st := .ready, wait := (t.ctx c).wait,
          pc := (s.ctx c).pc + 4, fetch := keptFetch (m.ctx c).fetch ((s.ctx c).pc + 4) }

/-- A queued store that no older store to its address precedes takes effect: its 8 bytes and only they (R116; rests on the model's log entries 5, 87). -/
def Obligations.QueuedStoreTakesEffect : Prop :=
  ∀ (c n : Nat) (p : Pending) (s : State), c < 64 → Memory.wf s.hbm = true → (s.ctx c).stores[n]? = some p →
    s.takesFor (s.ctx c).job p.stack = true → (∀ q ∈ (s.ctx c).stores.take n, ¬ (q.stack = p.stack ∧ q.sa = p.sa)) →
    ∃ t, exec (.memoryAccessComplete c (n + 1)) s = .next t ∧
      memWord t.hbm (s.hbmKey p.stack p.sa) = p.v ∧ SameMemoryBut (s.hbmKey p.stack p.sa) 8 s t ∧
      t = { s with ctxs := t.ctxs, cores := t.cores, reaches := t.reaches, hbm := t.hbm, pcreq := t.pcreq, pcNow := t.pcNow } ∧
      (∀ k, k ≠ c → t.ctx k = { s.ctx k with fetch := (t.ctx k).fetch, waitcDirty := (t.ctx k).waitcDirty }) ∧
      t.ctx c = { s.ctx c with
        stores := (s.ctx c).stores.eraseIdx n, fetch := (t.ctx c).fetch, waitcDirty := (t.ctx c).waitcDirty }

/-- AMO reads, combines and writes the word in one step, and xd takes the old value (R121, R116; rests on the model's log entry 5). -/
def Obligations.AtomicsReadModifyWrite : Prop :=
  (∀ (d a b : Reg) (sc : BitVec 3) (o : BitVec 4) (s m : State) (st sa : Nat),
    let c := s.focus.ctx
    let va := (s.ctx c).reg a
    let v := (s.ctx c).reg b
    let u := (s.coreReach c va .atomic).1
    let old := memWord m.hbm (m.hbmKey st sa)
    c < 64 → va.toNat % 8 = 0 → o.toNat ≤ 8 → Memory.wf m.hbm = true →
    (s.coreReach c va .atomic).2 = .at st sa → u.drain c = some m →
    Translates s u (s.ctx c).job va.toNat ∧ Drained u m c ∧ ∃ t, exec (.amo d a b sc o) s = .next t ∧
      memWord t.hbm (m.hbmKey st sa) = (match o.toNat with
        | 0 => v
        | 1 => old + v
        | 2 => old &&& v
        | 3 => old ||| v
        | 4 => old ^^^ v
        | 5 => if old.toInt ≤ v.toInt then old else v
        | 6 => if old.toInt ≤ v.toInt then v else old
        | 7 => if old.toNat ≤ v.toNat then old else v
        | _ => if old.toNat ≤ v.toNat then v else old) ∧
      SameMemoryBut (m.hbmKey st sa) 8 m t ∧
      t = { m with ctxs := t.ctxs, cores := t.cores, reaches := t.reaches, hbm := t.hbm, pcreq := t.pcreq, pcNow := t.pcNow } ∧
      (∀ k, k ≠ c → t.ctx k = { m.ctx k with fetch := (t.ctx k).fetch, waitcDirty := (t.ctx k).waitcDirty }) ∧
      (∀ r, (t.ctx c).reg r = if r ≠ 0 ∧ r = d then old else (s.ctx c).reg r) ∧
      t.ctx c = { m.ctx c with
        x := (t.ctx c).x, pc := (s.ctx c).pc + 4, st := .ready, wait := (t.ctx c).wait, fetch := (t.ctx c).fetch,
        waitcDirty := (t.ctx c).waitcDirty }) ∧
  (∀ (d a b : Reg) (sc : BitVec 3) (o : BitVec 4) (s : State), let c := s.focus.ctx
    c < 64 → ((s.ctx c).reg a).toNat % 8 ≠ 0 → ∃ t, exec (.amo d a b sc o) s = .next t ∧
      Traps s t c 0x02 ((s.ctx c).reg a) 0 0) ∧
  (∀ (d a b : Reg) (sc : BitVec 3) (o : BitVec 4), (encode (.amo d a b sc o)).map BitVec.toNat =
    some (0x0E * 2 ^ 26 + d.toNat * 2 ^ 21 + a.toNat * 2 ^ 16 + b.toNat * 2 ^ 11 + sc.toNat * 2 ^ 4 + o.toNat)) ∧
  encode (.amo 3 4 5 2 1) = some 0x38642821#32

/-- FENCE completes when every earlier store has taken effect; IDLE stops the context (R116, R122, R133; rests on the model's log entries 5, 29, 87). -/
def Obligations.FenceAndIdle : Prop :=
  ∀ (sc : BitVec 3) (s : State), s.focus.ctx < 64 → (s.ctx s.focus.ctx).st = .ready →
    (∀ m, s.drain s.focus.ctx = some m → Drained s m s.focus.ctx ∧ ∃ t, exec (.fence sc) s = .next t ∧
      GoesOn m t s.focus.ctx 0 0 ((s.ctx s.focus.ctx).pc + 4)) ∧
    ((∀ p ∈ (s.ctx s.focus.ctx).stores, s.takesFor (s.ctx s.focus.ctx).job p.stack = true) → ∃ m, s.drain s.focus.ctx = some m) ∧
    (s.drain s.focus.ctx = none → ∃ t, exec (.fence sc) s = .next t ∧ OnlyCtx s.focus.ctx s t ∧
      t.ctx s.focus.ctx = { s.ctx s.focus.ctx with st := .blocked, wait := .access .fence, cur := (s.ctx s.focus.ctx).word }) ∧
    (∃ t, exec .idle s = .next t ∧ OnlyCtx s.focus.ctx s t ∧ t.ctx s.focus.ctx = { s.ctx s.focus.ctx with st := .idle })

/-- CSRRD reads and CSRWR writes every control register by its access code (R134; rests on the model's log entry 89). -/
def Obligations.CsrAccesses : Prop :=
  (∀ (d : Reg) (s : State), let c := s.focus.ctx; let x := s.ctx c
    c < 64 → x.st = .ready →
    (∀ e ∈ ([(0x000, BitVec.ofNat 64 (b2n x.intr + 2 * b2n x.spur + 4 * b2n x.glate + 2 ^ 8 * (c % 8) + 2 ^ 11 * (c / 8 % 4)
          + 2 ^ 13 * (c / 32))),
        (0x001, BitVec.ofNat 64 (x.cause.toNat + 2 ^ 8 * b2n x.async)), (0x002, x.epc), (0x003, x.tvec), (0x004, x.tp0),
        (0x005, x.tp1), (0x006, x.tp2), (0x007, BitVec.ofNat 64 (x.tunit.toNat + 2 ^ 12 * x.tukind.toNat)),
        (0x008, BitVec.ofNat 64 s.tick), (0x009, BitVec.ofNat 64 (s.cycle - x.started)), (0x00A, BitVec.ofNat 64 x.job),
        (0x00B, x.scratch), (0x00C, BitVec.ofNat 64 (x.cstate.toNat + 2 ^ 32 * x.ccount.toNat))] : List (BitVec 16 × Word)),
      ∃ t, exec (.csrrd d e.1) s = .next t ∧ GoesOn s t c d e.2 (x.pc + 4)) ∧
    (∃ t v, exec (.csrrd d 0x00D) s = .next t ∧ GoesOn s t c d v (x.pc + 4) ∧
      ((s.core (c / 8)).mon.length ≤ 64 →
        bitsN v 0 7 = ((s.core (c / 8)).mon.filter (fun m => m.ctx == c)).length ∧ bitsN v 8 7 = (s.core (c / 8)).mon.length)) ∧
    (∃ t v, exec (.csrrd d 0x00E) s = .next t ∧ GoesOn s t c d v (x.pc + 4) ∧
      ∀ i : Fin 8, bitB v i = (x.slots[i]).reach.isSome)) ∧
  (∀ (a : Reg) (n : BitVec 16) (s : State), let c := s.focus.ctx; let x := s.ctx c; let v := x.reg a
    c < 64 → x.st = .ready → n.toNat ≤ 0x00E →
    ∃ t, exec (.csrwr a n) s = .next t ∧ OnlyCtx c s t ∧
      t.ctx c = { x with
        spur := if n = 0x000 ∧ bitB v 1 = true then false else x.spur,
        glate := if n = 0x000 ∧ bitB v 2 = true then false else x.glate,
        epc := if n = 0x002 then v &&& 0xFFFFFFFFFFFFFFFC#64 else x.epc,
        tvec := if n = 0x003 then v &&& 0xFFFFFFFFFFFFFFFC#64 else x.tvec,
        scratch := if n = 0x00B then v else x.scratch,
        pc := x.pc + 4, wait := .none, fetch := keptFetch x.fetch (x.pc + 4) }) ∧
  (∀ (d : Reg) (n : BitVec 16) (w : BitVec 32) (s : State), s.focus.ctx < 64 → 0x00E < n.toNat →
    ∀ e ∈ [Instr.csrrd d n, .csrwr d n], encode e = some w →
      decode w = none ∧ ∃ t, exec e s = .next t ∧ Traps s t s.focus.ctx 0x01 (BitVec.ofNat 64 w.toNat) 0 0) ∧
  encode (.csrrd 2 0x008) = some 0xC0400008#32

/-- TRAP and illegal words enter the handler, RETT leaves it (R114, R135). -/
def Obligations.TrapsAndReturn : Prop :=
  (∀ (s : State), let c := s.focus.ctx; let x := s.ctx c
    c < 64 →
    (∀ i : BitVec 16, ∃ t, exec (.trap i) s = .next t ∧ Traps s t c 0x00 (BitVec.ofNat 64 i.toNat) 0 0) ∧
    (∀ w : BitVec 32, ∃ t, exec (.illegalInstruction w) s = .next t ∧ Traps s t c 0x01 (BitVec.ofNat 64 w.toNat) 0 0) ∧
    (x.intr = true → ∃ t, exec .rett s = .next t ∧ OnlyCtx c s t ∧
      t.ctx c = { x with intr := false, pc := x.epc, fetch := keptFetch x.fetch x.epc }) ∧
    (x.intr = false → ∃ t, exec .rett s = .next t ∧ Traps s t c 0x01 0xE4000000#64 0 0)) ∧
  (∀ i : BitVec 16, encode (.trap i) = some (0xE0000000#32 + i.setWidth 32)) ∧
  (∀ w : BitVec 32, w.toNat / 2 ^ 26 = 0x38 → w.toNat / 2 ^ 16 % 2 ^ 10 ≠ 0 → decode w = none)

/-- A held asynchronous trap is taken in the order of its cause, with its payload and unit (R112, R113). -/
def Obligations.AsynchronousTrap : Prop :=
  ∀ (c : Nat) (s : State), let x := s.ctx c
    c < 64 → x.intr = false → x.traps ≠ [] → x.interruptible = true →
    ∃ t u, exec (.asyncTrap c) s = .next t ∧ OnlyCtx c s t ∧ u ∈ x.traps ∧ (∀ v ∈ x.traps, u.cause ≤ v.cause) ∧
      (x.tvec ≠ 0 → t.ctx c = { x with
        traps := x.traps.filter (fun v => v.cause != u.cause), cause := BitVec.ofNat 8 u.cause, async := true,
        epc := x.pc &&& 0xFFFFFFFFFFFFFFFC#64, tp0 := u.tp0, tp1 := u.tp1, tp2 := u.tp2, tunit := u.unit, tukind := u.ukind,
        intr := true, st := .ready, wait := .none, pc := x.tvec, fetch := keptFetch x.fetch x.tvec }) ∧
      (x.tvec = 0 → t.ctx c = { x with
        traps := x.traps.filter (fun v => v.cause != u.cause), st := .halted, wait := .none })

/-- The host starts a free context and restarts an idle or halted one (R108, R110; rests on the model's log entries 7, 89). -/
def Obligations.HostStartsContexts : Prop :=
  ∀ (c job : Nat) (pc : Word) (s : State), let x := s.ctx c
    c < 64 →
    (x.st = .free → 1 ≤ job → job ≤ 63 → ∃ t, exec (.contextStart c job pc) s = .next t ∧ OnlyCtx c s t ∧
      (∀ r, (t.ctx c).reg r = 0) ∧
      t.ctx c = { Context.reset with
        st := .ready, job := job, pc := pc &&& 0xFFFFFFFFFFFFFFFC#64, started := s.cycle, x := (t.ctx c).x }) ∧
    (x.st = .idle ∨ x.st = .halted → ∃ t, exec (.contextRestart c pc) s = .next t ∧
      t = { s with ctxs := t.ctxs, cores := t.cores } ∧ (∀ k, k ≠ c → t.ctx k = s.ctx k) ∧ SameMemory s t ∧
      (t.core (c / 8)).mon = (s.core (c / 8)).mon.filter (fun m => m.ctx != c) ∧
      (∀ r, (t.ctx c).reg r = 0) ∧
      t.ctx c = { Context.reset with
        st := .ready, job := x.job, pc := pc &&& 0xFFFFFFFFFFFFFFFC#64, started := s.cycle, x := (t.ctx c).x,
        slots := x.slots, stores := x.stores, traps := x.traps })

/-- WAITC completes when the signal meets its condition and blocks otherwise (R131). -/
def Obligations.WaitcWaits : Prop :=
  ∀ (h b : Reg) (k : BitVec 2) (s : State) (st sa : Nat),
    let c := s.focus.ctx
    let va := (s.ctx c).reg h
    let u := (s.coreReach c va .read).1
    let v := memWord u.hbm (u.hbmKey st sa)
    c < 64 → (s.ctx c).st = .ready → k ≠ 3 → va.toNat % 8 = 0 → (s.coreReach c va .read).2 = .at st sa →
    (∀ p ∈ (s.ctx c).stores, ¬ (p.stack = st ∧ p.sa = sa)) →
    Translates s u (s.ctx c).job va.toNat ∧
    (waitCondition k v ((s.ctx c).reg b) → ∃ t, exec (.waitc h b k) s = .next t ∧
      GoesOn (u.countAccess st sa) t c 0 0 ((s.ctx c).pc + 4)) ∧
    (¬ waitCondition k v ((s.ctx c).reg b) → ∃ t, exec (.waitc h b k) s = .next t ∧ OnlyCtx c (u.countAccess st sa) t ∧
      t.ctx c = { s.ctx c with
        st := .blocked, wait := .waitc va ((s.ctx c).reg b) k, waitcDirty := false, waitcAt := s.cycle })

/-- A blocked WAITC reads again after a write of its line or after 1,024 cycles, and completes only when a read satisfies it (R131). -/
def Obligations.WaitcRechecks : Prop :=
  ∀ (c : Nat) (va b : Word) (k : BitVec 2) (s : State) (st sa : Nat),
    let u := (s.coreReach c va .read).1
    let v := memWord u.hbm (u.hbmKey st sa)
    c < 64 → (s.ctx c).st = .blocked → (s.ctx c).wait = .waitc va b k → k ≠ 3 →
    (s.ctx c).waitcDirty = true ∨ (s.ctx c).waitcAt + 1024 ≤ s.cycle →
    (s.coreReach c va .read).2 = .at st sa → (∀ p ∈ (s.ctx c).stores, ¬ (p.stack = st ∧ p.sa = sa)) →
    Translates s u (s.ctx c).job va.toNat ∧
    (waitCondition k v b → ∃ t, exec (.waitcRecheck c) s = .next t ∧
      GoesOn (u.countAccess st sa) t c 0 0 ((s.ctx c).pc + 4)) ∧
    (¬ waitCondition k v b → ∃ t, exec (.waitcRecheck c) s = .next t ∧ OnlyCtx c (u.countAccess st sa) t ∧
      t.ctx c = { s.ctx c with waitcDirty := false, waitcAt := s.cycle })

/-- WAITA arms a monitor entry, then compares, then completes or blocks (R132; rests on the model's log entry 29). -/
def Obligations.WaitaArms : Prop :=
  ∀ (h b : Reg) (f : BitVec 1) (s : State) (st sa : Nat),
    let c := s.focus.ctx
    let va := (s.ctx c).reg h
    let u := (s.coreReach c va .read).1
    let mon := (s.core (c / 8)).mon
    let e : Monitor := ⟨BitVec.ofNat 64 (va.toNat / 64 * 64), c, memWord u.hbm (u.hbmKey st sa) != (s.ctx c).reg b, false⟩
    c < 64 → (s.ctx c).st = .ready → va.toNat % 8 = 0 →
    (64 ≤ mon.length → ∃ t, exec (.waita h b f) s = .next t ∧ t = { s with ctxs := t.ctxs, cores := t.cores } ∧
      ({ s.ctx c with spur := true } : Context).GoesTo (t.ctx c) 0 0 ((s.ctx c).pc + 4) ∧
      (t.core (c / 8)).mon = if f = 1 then mon else mon.filter (fun m => m.ctx != c)) ∧
    (mon.length < 64 → (s.coreReach c va .read).2 = .at st sa → (∀ p ∈ (s.ctx c).stores, ¬ (p.stack = st ∧ p.sa = sa)) →
      Translates s u (s.ctx c).job va.toNat ∧ ∃ t, exec (.waita h b f) s = .next t ∧
        t = { u with ctxs := t.ctxs, cores := t.cores, pcreq := t.pcreq, pcNow := t.pcNow } ∧ (∀ k, k ≠ c → t.ctx k = s.ctx k) ∧
        (f = 1 → (s.ctx c).GoesTo (t.ctx c) 0 0 ((s.ctx c).pc + 4) ∧ (t.core (c / 8)).mon = mon ++ [e]) ∧
        (f = 0 → (mon ++ [e]).any (fun m => m.ctx == c && m.fired) = true →
          (s.ctx c).GoesTo (t.ctx c) 0 0 ((s.ctx c).pc + 4) ∧
          (t.core (c / 8)).mon = (mon ++ [e]).filter (fun m => m.ctx != c)) ∧
        (f = 0 → (mon ++ [e]).any (fun m => m.ctx == c && m.fired) = false →
          t.ctx c = { s.ctx c with st := .blocked, wait := .waita } ∧ (t.core (c / 8)).mon = mon ++ [e]))

/-- A monitor entry whose line is written fires and wakes its context (R132). -/
def Obligations.MonitorEntryFires : Prop :=
  ∀ (k n : Nat) (m : Monitor) (s : State), k < 8 → m.ctx / 8 = k → (s.core k).mon[n]? = some m → m.hit = true →
    ((s.ctx m.ctx).st = .blocked → (s.ctx m.ctx).wait = .waita →
      ∃ t, exec (.monitorFire k n) s = .next t ∧ t = { s with ctxs := t.ctxs, cores := t.cores } ∧
        (∀ c, c ≠ m.ctx → t.ctx c = s.ctx c) ∧ (s.ctx m.ctx).GoesTo (t.ctx m.ctx) 0 0 ((s.ctx m.ctx).pc + 4) ∧
        (∀ e ∈ (t.core k).mon, e.ctx ≠ m.ctx)) ∧
    ((s.ctx m.ctx).wait ≠ .waita → ∃ t, exec (.monitorFire k n) s = .next t ∧ t = { s with cores := t.cores } ∧
      (t.core k).mon[n]? = some { m with fired := true, hit := false })

/-- Fetches fill the fetch buffer; blocked fetches, loads, stores and fences complete when they can (R110, R113, R115, R116; rests on the model's log entries 5, 29). -/
def Obligations.FetchesAndRetries : Prop :=
  ∀ (c : Nat) (s : State), c < 64 → let x := s.ctx c; let va := x.pc; let f := s.coreReach c va .fetch
    (∀ st sa, f.2 = .at st sa → Translates s f.1 x.job va.toNat ∧
      ∀ e, e = Instr.instructionFetch c ∨ (e = .memoryAccessComplete c 0 ∧ x.st = .blocked ∧ ∃ a, x.wait = .access (.fetch a)) →
        ∃ t, exec e s = .next t ∧ OnlyCtx c (f.1.countAccess st sa) t ∧
          t.ctx c = { x with
            st := .ready, wait := .none
            fetch := some (BitVec.ofNat 64 (va.toNat / 64 * 64), memUnit f.1.hbm (f.1.hbmKey st (sa / 64 * 64))) }) ∧
    (f.2 = .wait → ∃ t, exec (.instructionFetch c) s = .next t ∧ OnlyCtx c f.1 t ∧
      t.ctx c = { f.1.ctx c with st := .blocked, wait := .access (.fetch va) }) ∧
    (∀ code, f.2 = .fault 3 code → ∃ t, exec (.instructionFetch c) s = .next t ∧
      Traps { f.1 with freeCount := f.1.freeCount + 1 } t c 3 va 1 (BitVec.ofNat 64 code)) ∧
    (∀ code, f.2 = .fault 4 code → ∃ t w, exec (.instructionFetch c) s = .next t ∧
      Traps { f.1 with freeCount := f.1.freeCount + 1 } t c 4 va (BitVec.ofNat 64 (code % 16)) w) ∧
    (∀ d a b sc o w, s.focus.ctx = c → x.st = .blocked → x.wait = .access (.amo d (x.reg a) (x.reg b) o w) →
      encode (.amo d a b sc o) = some w → exec (.memoryAccessComplete c 0) s = exec (.amo d a b sc o) s) ∧
    (∀ d a w st sa, x.st = .blocked → x.wait = .access (.load d a w) → a.toNat % 8 = 0 →
      (s.coreReach c a .read).2 = .at st sa → let u := (s.coreReach c a .read).1
      (∀ p ∈ x.stores, ¬ (p.stack = st ∧ p.sa = sa)) →
      Translates s u x.job a.toNat ∧ ∃ t, exec (.memoryAccessComplete c 0) s = .next t ∧
        GoesOn (u.countAccess st sa) t c d (memWord u.hbm (u.hbmKey st sa)) (va + 4)) ∧
    (∀ a v w st sa, x.st = .blocked → x.wait = .access (.store a v w) → a.toNat % 8 = 0 →
      (s.coreReach c a .write).2 = .at st sa → let u := (s.coreReach c a .write).1
      Translates s u x.job a.toNat ∧ ∃ t, exec (.memoryAccessComplete c 0) s = .next t ∧ OnlyCtx c u t ∧
        t.ctx c = { x with
          stores := x.stores ++ [⟨a, st, sa, v⟩], st := .ready, wait := .none, pc := va + 4, fetch := keptFetch x.fetch (va + 4) }) ∧
    (∀ m, x.st = .blocked → x.wait = .access .fence → s.drain c = some m → Drained s m c ∧
      ∃ t, exec (.memoryAccessComplete c 0) s = .next t ∧ OnlyCtx c m t ∧ t.ctx c = { m.ctx c with st := .ready }) ∧
    (x.st = .blocked → x.wait = .access .again → ∃ t, exec (.memoryAccessComplete c 0) s = .next t ∧ OnlyCtx c s t ∧
      t.ctx c = { x with st := .ready, wait := .none })

/-- LAUNCH, its acceptance, CFGLD, the load of an image unit by unit, and CFGSW (R117, R123, R124, R126, R141, R143, R144, R40, R41, R42, R43; rests on the model's log entries 29, 53, 89). -/
def Obligations.LaunchesAndConfigurations : Prop :=
  ∀ (h b : Reg) (s : State), let c := s.focus.ctx; let x := s.ctx c; let va := x.reg b; c < 64 →
    (∀ (a sh : BitVec 1) m st sa, ¬ (a = 1 ∧ sh = 1) → va.toNat % 64 = 0 → s.drain c = some m →
      (m.coreReach c va .read).2 = .at st sa → let u := (m.coreReach c va .read).1
      Drained s m c ∧ Translates m u (m.ctx c).job va.toNat ∧ ∃ t, exec (.launch h b a sh) s = .next t ∧ OnlyCtx c (u.countAccess st sa) t ∧
        t.ctx c = { m.ctx c with
          st := .blocked, wait := .launch h (memUnit u.hbm (u.hbmKey st (sa / 64 * 64))) (sh == 1) (a == 1) }) ∧
    (∀ w, encode (.launch h b 1 1) = some w → ∃ t, exec (.launch h b 1 1) s = .next t ∧ Traps s t c 0x01 (BitVec.ofNat 64 w.toNat) 0 0) ∧
    (∀ tok sh ar, x.st = .blocked → x.wait = .launch h tok sh ar → (∀ i, i < 8 → (vget ⟨0, none⟩ x.slots i).reach.isSome = true) →
      ∃ t, exec (.launchAccept c) s = .next t ∧ GoesOn s t c h 0x8000000000000001 (x.pc + 4)) ∧
    (∀ tok sh ar k, x.st = .blocked → x.wait = .launch h tok sh ar → x.freeSlot.isSome = true →
      (s.checkToken x.job tok true false).2 = .reject k → tokSignal tok = 0 → let u := (s.checkToken x.job tok true false).1
      ∃ t, exec (.launchAccept c) s = .next t ∧ GoesOn u t c h (BitVec.ofNat 64 (0x8000000000000100 + k)) ((u.ctx c).pc + 4)) ∧
    (∀ tok sh ar slot w hh, x.st = .blocked → x.wait = .launch h tok sh ar → x.freeSlot = some slot →
      (s.checkToken x.job tok true false).2 = .ok w hh →
      let u := (s.checkToken x.job tok true false).1; let g := (vget ⟨0, none⟩ (u.ctx c).slots slot).gen + 1
      let hv : Word := BitVec.ofNat 64 (slot + g.toNat * 256)
      ∃ t, exec (.launchAccept c) s = .next t ∧
        t = { u with
          ctxs := t.ctxs, nextId := u.nextId + 1
          reaches := u.reaches ++ [{ newLaunch (u.nextId + 1) x.job tok with
            device := true, ctx := c, bound := true, slot := slot, handle := hv, shadow := sh, armedReq := ar,
            cx := (s.job x.job).x0 + tokRx tok, cy := (s.job x.job).y0 + tokRy tok, w := w, h := hh, checked := true }] } ∧
        (∀ k, k ≠ c → t.ctx k = u.ctx k) ∧
        (∀ r, (t.ctx c).reg r = if r ≠ 0 ∧ r = h then hv else (u.ctx c).reg r) ∧
        t.ctx c = { u.ctx c with
          x := (t.ctx c).x, slots := vset (u.ctx c).slots slot ⟨g, some (u.nextId + 1)⟩, st := .ready, wait := .none,
          pc := (u.ctx c).pc + 4, fetch := keptFetch (u.ctx c).fetch ((u.ctx c).pc + 4) }) ∧
    (∀ (y : BitVec 4) (xx : BitVec 5) st sa, va.toNat % 64 = 0 → (s.coreReach c va .read).2 = .at st sa →
      let u := (s.coreReach c va .read).1; let m := [memUnit u.hbm (u.hbmKey st (sa / 64 * 64))]; let p := s.job x.job
      Translates s u x.job va.toNat ∧
      (p.valid = true → p.x0 + xx.toNat + imgWidth m - 1 ≤ p.x1 → p.y0 + y.toNat + imgHeight m - 1 ≤ p.y1 →
        ∃ t, exec (.cfgld h b y xx) s = .next t ∧
          t = { u.countAccess st sa with
            ctxs := t.ctxs, nextId := u.nextId + 1
            loads := u.loads ++ [⟨u.nextId + 1, c, x.job, va.toNat, p.x0 + xx.toNat, p.y0 + y.toNat, wordOf (.cfgld h b y xx), p.reqsig, m⟩] } ∧
          (∀ k, k ≠ c → t.ctx k = s.ctx k) ∧ t.ctx c = { x with st := .blocked, wait := .cfgld h (u.nextId + 1) }) ∧
      (p.valid = false ∨ p.x1 < p.x0 + xx.toNat + imgWidth m - 1 ∨ p.y1 < p.y0 + y.toNat + imgHeight m - 1 →
        ∀ w, encode (.cfgld h b y xx) = some w → ∃ t, exec (.cfgld h b y xx) s = .next t ∧
          Traps (u.countAccess st sa) t c 4 va 4 (BitVec.ofNat 64 w.toNat))) ∧
    (∀ l, s.loads.find? (fun q => q.id == l.id) = some l → l.ctx < 64 → (s.ctx l.ctx).wait = .cfgld h l.id →
      s.cache.find? (fun e => e.job == l.job && e.va == l.va) = none → let m := l.units
      (m.length < unitsOf m → let z := s.imageUnit l.job l.va m.length
        (z.2 = none → exec (.configLoadDone l.id) s = .next z.1) ∧
        (∀ code a, z.2 = some (.error (3, code, a)) → ∃ t, exec (.configLoadDone l.id) s = .next t ∧
          Traps { z.1 with loads := s.loads.filter (fun q => q.id != l.id) } t l.ctx 3 (BitVec.ofNat 64 a) 2 (BitVec.ofNat 64 code)) ∧
        (∀ code a, z.2 = some (.error (4, code, a)) → ∃ t, exec (.configLoadDone l.id) s = .next t ∧
          Traps { z.1 with loads := s.loads.filter (fun q => q.id != l.id) } t l.ctx 4 (BitVec.ofNat 64 a) (BitVec.ofNat 64 (code % 16))
            (l.word.setWidth 64)) ∧
        (∀ v, z.2 = some (.ok v) → exec (.configLoadDone l.id) s = .next { z.1 with
          loads := s.loads.map (fun q => if q.id = l.id then { q with units := q.units ++ [v] } else q) })) ∧
      (unitsOf m ≤ m.length →
        (∀ i code, s.loadRefusal l.job l.reqsig m (imgWidth m) (imgHeight m) (l.cells m) l.va false = some (i, code) →
          ∃ t, exec (.configLoadDone l.id) s = .next t ∧
            GoesOn { s with loads := s.loads.filter (fun q => q.id != l.id) } t l.ctx h (BitVec.ofNat 64 (2 ^ 63 + i * 2 ^ 16 + code))
              ((s.ctx l.ctx).pc + 4)) ∧
        (s.loadRefusal l.job l.reqsig m (imgWidth m) (imgHeight m) (l.cells m) l.va false = none →
          ∃ t v, exec (.configLoadDone l.id) s = .next t ∧
            v = ((l.cells m).filter (fun n => s.cellJob n == l.job)).foldl (fun v n => v.cachePut n l.job l.va m) s ∧
            GoesOn { v with loads := v.loads.filter (fun q => q.id != l.id) } t l.ctx h (BitVec.ofNat 64 l.va) ((v.ctx l.ctx).pc + 4)))) ∧
    (∀ r, s.loads.find? (fun q => q.id == r.id) = none → s.reach? r.id = some r → r.st = .loading →
      (∀ m, s.cachedIn r.cells r.job r.image = some m → s.bindFault r.job m = none → imgWidth m = r.w → imgHeight m = r.h →
        ∃ t, exec (.configLoadDone r.id) s = .next t ∧ t = ((s.cacheTouch r.cells r.image).updReach r.id
          (fun r => { r with loaded := true, units := [], st := .flooding })).configure r m) ∧
      (s.cachedIn r.cells r.job r.image = none → let m := r.units
        (m.length < unitsOf m → let z := s.imageUnit r.job r.image m.length
          (∀ e, z.2 = some (.error e) → exec (.configLoadDone r.id) s = .next (z.1.endLaunch r false 0xFFFFFFFE00000001).1) ∧
          (∀ v, z.2 = some (.ok v) → exec (.configLoadDone r.id) s = .next (z.1.updReach r.id (fun r => { r with units := r.units ++ [v] })))) ∧
        (unitsOf m ≤ m.length →
          (∀ i code, s.loadRefusal r.job r.reqsig m r.w r.h r.cells r.image true = some (i, code) →
            exec (.configLoadDone r.id) s = .next (s.endLaunch r false (BitVec.ofNat 64 (0xFFFFFFFE00000000 + i * 0x10000 + code))).1) ∧
          (s.loadRefusal r.job r.reqsig m r.w r.h r.cells r.image true = none →
            exec (.configLoadDone r.id) s = .next ((s.cacheFill r.cells r.job r.image m).launchLoaded r m))))) ∧
    (∀ o r, (x.handleReach (x.reg h)).bind s.reach? = some o → (x.handleReach va).bind s.reach? = some r →
      o.st = .shadowed → r.st = .running → o.cx = r.cx → o.cy = r.cy → o.w = r.w → o.h = r.h → s.swapHeld o.id = false → r.gang = none →
      ∃ t, exec (.cfgsw h b) s = .next t ∧
        t = (({ s with images := s.images.filter (fun i => i.reach != o.id) } : State).startEbb r (.swap o.id)).updCtx c
          (fun x => { x with st := .blocked, wait := .cfgsw o.id r.id })) ∧
    (∀ o r w, encode (.cfgsw h b) = some w → (x.handleReach (x.reg h)).bind s.reach? = some o → (x.handleReach va).bind s.reach? = some r →
      (o.shows ≠ .shadowed → ∃ t, exec (.cfgsw h b) s = .next t ∧ Traps s t c 4 (x.reg h) 2 (BitVec.ofNat 64 w.toNat)) ∧
      (o.shows = .shadowed → r.shows ≠ .running → ∃ t, exec (.cfgsw h b) s = .next t ∧ Traps s t c 4 va 2 (BitVec.ofNat 64 w.toNat)) ∧
      (o.shows = .shadowed → r.shows = .running → ¬ (o.cx = r.cx ∧ o.cy = r.cy ∧ o.w = r.w ∧ o.h = r.h) →
        ∃ t, exec (.cfgsw h b) s = .next t ∧ Traps s t c 4 (x.reg h) 5 (BitVec.ofNat 64 w.toNat)))

/-- SEED, GANG, the delivery of blocked, queued and ingress tokens, gang starts, seed ports and ingress windows (R117, R125, R127, R140, R309, R314; rests on the model's log entries 69, 70). -/
def Obligations.SeedsAndGangs : Prop :=
  ∀ (h b : Reg) (tg : BitVec 2) (p : BitVec 3) (s : State), let c := s.focus.ctx; let x := s.ctx c; let hv := x.reg h; c < 64 →
    (∀ r, (x.handleReach hv).bind s.reach? = some r → ∀ w, encode (.seed h b tg p) = some w →
      (r.shows = .running ∨ r.shows = .armed →
        (∀ rt, r.loaded = true → vget none r.seedRoutes p.toNat = some rt →
          (r.takesSeeds = true → s.seedRoom rt = true →
            ∃ t, exec (.seed h b tg p) s = .next t ∧ t = (s.seedInto r rt (scalarTok (x.reg b) tg)).updCtx c Context.advance) ∧
          (r.takesSeeds = false ∨ s.seedRoom rt = false → ∃ t, exec (.seed h b tg p) s = .next t ∧ OnlyCtx c s t ∧
            t.ctx c = { x with st := .blocked, wait := .seed r.id p.toNat tg (x.reg b) hv w })) ∧
        (r.loaded = false → ∃ t, exec (.seed h b tg p) s = .next t ∧ OnlyCtx c s t ∧
          t.ctx c = { x with st := .blocked, wait := .seed r.id p.toNat tg (x.reg b) hv w }) ∧
        (r.loaded = true → vget none r.seedRoutes p.toNat = none →
          ∃ t, exec (.seed h b tg p) s = .next t ∧ Traps s t c 4 hv 3 (BitVec.ofNat 64 w.toNat))) ∧
      (r.shows ≠ .running → r.shows ≠ .armed →
        ∃ t, exec (.seed h b tg p) s = .next t ∧ Traps s t c 4 hv 2 (BitVec.ofNat 64 w.toNat))) ∧
    (∀ r, (x.handleReach hv).bind s.reach? = some r → ∀ w, encode (.gang h b) = some w →
      let u := s.updReach r.id (fun r => { r with gang := some (x.reg b) })
      (r.shows = .armed → s.tick ≤ (x.reg b).toNat → ∃ t, exec (.gang h b) s = .next t ∧ GoesOn u t c 0 0 (x.pc + 4)) ∧
      (r.shows = .armed → (x.reg b).toNat < s.tick → ∃ t v, exec (.gang h b) s = .next t ∧
        v = u.updCtx c (fun x => { x with glate := true, pc := x.pc + 4, wait := .none, st := .ready, fetch := keptFetch x.fetch (x.pc + 4) }) ∧
        t = if r.st = .armed then v.startReach r true else v) ∧
      (r.shows ≠ .armed → ∃ t, exec (.gang h b) s = .next t ∧ Traps s t c 4 hv 2 (BitVec.ofNat 64 w.toNat))) ∧
    ((x.handleReach hv).bind s.reach? = none → ∀ e ∈ [Instr.seed h b tg p, .gang h b], ∀ w, encode e = some w →
      ∃ t, exec e s = .next t ∧ Traps s t c 4 hv 1 (BitVec.ofNat 64 w.toNat)) ∧
    (∀ k id port v hw w r rt, k < 64 → (s.ctx k).st = .blocked → (s.ctx k).wait = .seed id port tg v hw w → s.reach? id = some r →
      r.loaded = true → vget none r.seedRoutes port = some rt → r.takesSeeds = true → s.seedRoom rt = true →
      ∃ t, exec (.seedDeliver k) s = .next t ∧ t = (s.seedInto r rt (scalarTok v tg)).updCtx k Context.advance) ∧
    (∀ j q id port v rest r rt, j < 64 → q < 16 → (s.queue j q).seeds = (id, port, tg, v) :: rest → s.reach? id = some r →
      r.crossed = true → vget none r.seedRoutes port = some rt → r.takesSeeds = true → s.seedRoom rt = true →
      ∃ t, exec (.seedDeliver (64 + 16 * j + q)) s = .next t ∧
        t = (s.updQueue j q (fun k => { k with seeds := rest })).seedInto r rt (scalarTok v tg)) ∧
    (∀ j ch off len rest r rt, j < 64 → ch < 8 → (s.ingress j ch).heldToks = (off, len) :: rest → s.ingressTask j ch = some r →
      r.crossed = true → vget none r.seedRoutes (s.ingress j ch).iport = some rt → r.takesSeeds = true → s.seedRoom rt = true →
      ∃ t, exec (.seedDeliver (1088 + 8 * j + ch)) s = .next t ∧
        t = (s.updIngress j ch (fun g => { g with heldToks := rest })).seedInto r rt
          (orderTok 4 (len.setWidth 64 ++ off |>.setWidth 64) 0)) ∧
    (∀ r rt tok, tok.kind = .data → rt.dkind = 1 → rt.chan < 8 → ∃ pk, pk.tok = { tok with vchan := pk.tok.vchan } ∧ pk.reach = r.id ∧
      vget [] ((s.seedInto r rt tok).aset rt.dst).iss.chans rt.chan = vget [] (s.aset rt.dst).iss.chans rt.chan ++ [pk]) ∧
    (∀ r tk, s.reach? r.id = some r → r.st = .armed → r.gang = some tk → tk.toNat ≤ s.tick →
      ∃ t, exec (.gangStart r.id) s = .next t ∧ t = s.startReach r true ∧ (t.reach? r.id).map (·.st) = some .running) ∧
    (∀ job q n v, 1 ≤ job → job ≤ 63 → q < 16 → n < 8 →
      ((s.queue job q).seedOwed = [] → ∃ t, exec (.seedIngress job q n tg.toNat v) s = .next t ∧
        t = s.updQueue job q (fun k => { k with seedDrop := k.seedDrop + 1 })) ∧
      (∀ id k rest r, (s.queue job q).seedOwed = (id, k) :: rest → s.reach? id = some r →
        let u := s.updQueue job q (fun z => { z with seedOwed := if k ≤ 1 then rest else (id, k - 1) :: rest })
        (r.crossed = true → ∃ t, exec (.seedIngress job q n tg.toNat v) s = .next t ∧
          t = (u.updQueue job q (fun z => { z with seeds := z.seeds ++ [(id, n, tg, v)] })).queueSeed job q) ∧
        (r.crossed = false → 8 ≤ ((u.queue job q).seeds.filter (fun e => !((s.reach? e.1).map Reach.crossed).getD false)).length →
          ∃ t, exec (.seedIngress job q n tg.toNat v) s = .next t ∧ t = u.updQueue job q (fun k => { k with seedDrop := k.seedDrop + 1 })))) ∧
    (∀ job ch off len v st sa, 1 ≤ job → job ≤ 63 → ch < 8 → let g := s.ingress job ch
      g.ien = true → 8 ≤ len → len ≤ 64 → off % len = 0 → off % 64 + len ≤ 64 → off < 64 * g.ilen →
      (s.sysReach job (g.ibase.toNat + off) .write (whoOf 2 (0x010 + ch))).2 = .at st sa →
      ∃ t, exec (.ingressWindowWrite job ch off len v) s = .next t ∧
        t = ((s.sysReach job (g.ibase.toNat + off) .write (whoOf 2 (0x010 + ch))).1.writeAt job (g.ibase.toNat + off) st sa len
          (v.toNat % 2 ^ (8 * len))).raiseIngress job ch off len)

/-- PROGRD, PROGWR and PUBLISH, the landing of a progress write and the publication swap (R117, R129, R130, R310, R252; rests on the model's log entries 29, 55, 71, 89). -/
def Obligations.ProgressAndPublication : Prop :=
  ∀ (h b : Reg) (k : BitVec 3) (y : BitVec 4) (xx : BitVec 5) (m : BitVec 1) (w : BitVec 6) (s : State),
    let c := s.focus.ctx; let x := s.ctx c; let v := x.reg b; c < 64 →
    (∀ r n q, s.progCounter c v k.toNat y.toNat xx.toNat = .ok (r, n, q) →
      (∀ (i : Nat) (e : Nat × Record), s.recordsOut[i]? = some e → e.2.reach = r.id → e.2.cell = n → e.2.ctr = k.toNat →
        (∀ (j : Nat) (e' : Nat × Record), i < j → s.recordsOut[j]? = some e' → ¬ (e'.2.reach = r.id ∧ e'.2.cell = n ∧ e'.2.ctr = k.toNat)) →
        ∃ t, exec (.progrd h b k y xx) s = .next t ∧ GoesOn s t c h
          (BitVec.ofNat 64 (e.2.value.toNat + e.2.pace.toNat * 2 ^ 32 + (if e.2.starving then 1 else 0) * 2 ^ 48)) (x.pc + 4)) ∧
      ((∀ e : Record, e ∈ s.recordsOut.map (·.2) ++ (s.cell n).records → ¬ (e.reach = r.id ∧ e.cell = n ∧ e.ctr = k.toNat)) →
        ∃ t, exec (.progrd h b k y xx) s = .next t ∧ GoesOn s t c h (BitVec.ofNat 64 (q.hint.toNat * 2 ^ 32)) (x.pc + 4))) ∧
    (∀ r, (x.handleReach v).bind s.reach? = some r → r.shows = .running → r.loaded = true →
      r.w ≤ xx.toNat ∨ r.h ≤ y.toNat → s.progCounter c v k.toNat y.toNat xx.toNat = .error 6) ∧
    (∀ d e, s.progCounter c v k.toNat y.toNat xx.toNat = .error d → encode (.progrd h b k y xx) = some e →
      ∃ t, exec (.progrd h b k y xx) s = .next t ∧ Traps s t c 4 v (BitVec.ofNat 64 d) (BitVec.ofNat 64 e.toNat)) ∧
    (∀ r n q, s.progCounter c (x.reg h) k.toNat y.toNat xx.toNat = .ok (r, n, q) →
      (q.bound = 0 ∨ (m = 0 ∧ v.toNat % 2 ^ 32 < q.bound.toNat) →
        ∃ t, exec (.progwr h b m k y xx) s = .next t ∧ OnlyCtx c s t ∧
          t.ctx c = { x with st := .blocked, wait := .progwr r.id n k.toNat (m == 1) v }) ∧
      (q.bound ≠ 0 → m = 1 ∨ q.bound.toNat ≤ v.toNat % 2 ^ 32 → ∀ e, encode (.progwr h b m k y xx) = some e →
        ∃ t, exec (.progwr h b m k y xx) s = .next t ∧ Traps s t c 4 (x.reg h) 6 (BitVec.ofNat 64 e.toNat))) ∧
    (∀ i id n j v add, i < 64 → j < 8 → (s.ctx i).st = .blocked → (s.ctx i).wait = .progwr id n j add v →
      (s.issueOf n kindC id = none → exec (.progwrLand i) s = .next (s.updCtx i Context.advance)) ∧
      (∀ z, s.issueOf n kindC id = some z → z.sel = [] → s.inTile n kindC id = true →
        let q := z.counter j; let v32 : BitVec 32 := BitVec.ofNat 32 v.toNat
        ∃ t q', exec (.progwrLand i) s = .next t ∧
          t = (s.updIssueOf n kindC id (fun x => x.setCtr j q')).updCtx i Context.advance ∧
          q'.val = (if add then q.val + v32 else v32) ∧
          q' = { q with val := q'.val, delta := min (q.delta + (q'.val.toNat - q.val.toNat)) 16383, changed := q'.changed } ∧
          (q'.val ≠ q.val → q'.changed = true))) ∧
    (let j := x.job; let g := s.pubWin j w.toNat
      let ready := g.owner = some c ∨ (g.pen = true ∧ g.units ≠ 0 ∧ g.owner = none ∧ g.run = none)
      let z (u : State) : State := (u.readRegion j g.pbase.toNat g.units 0 []).1
      let held (u t : State) : Prop := OnlyCtx c u t ∧ t.ctx c = { u.ctx c with st := .blocked, wait := .access .fence, cur := (u.ctx c).word }
      (∀ u us, ready → s.drain c = some u → g.version.toNat < v.toNat →
        (u.readRegion j g.pbase.toNat g.units 0 []).2 = some us →
        Drained s u c ∧ ∃ t, exec (.publish h b w) s = .next t ∧
          GoesOn ((z u).updPub j w.toNat (fun g => { g with run := some v, back := us, owner := none })) t c h g.version (((z u).ctx c).pc + 4)) ∧
      (∀ u, ready → s.drain c = some u → v.toNat ≤ g.version.toNat →
        ∃ t, exec (.publish h b w) s = .next t ∧
          GoesOn (u.updPub j w.toNat (fun g => { g with owner := none })) t c h (g.version ||| 0x8000000000000000#64) (x.pc + 4)) ∧
      (ready → s.drain c = none → ∃ t, exec (.publish h b w) s = .next t ∧
        held (s.updPub j w.toNat (fun g => { g with owner := some c })) t) ∧
      (∀ u, ready → s.drain c = some u → g.version.toNat < v.toNat → (u.readRegion j g.pbase.toNat g.units 0 []).2 = none →
        ∃ t, exec (.publish h b w) s = .next t ∧ held ((z u).updPub j w.toNat (fun g => { g with owner := some c })) t) ∧
      (g.pen = true → g.units ≠ 0 → g.owner ≠ some c → g.owner ≠ none ∨ g.run ≠ none →
        ∃ t, exec (.publish h b w) s = .next t ∧ held s t) ∧
      (g.owner ≠ none ∨ g.run ≠ none → s.publishRegister j w.toNat 0x008 v = s ∧ s.publishRegister j w.toNat 0x010 v = s ∧
        ((s.publishRegister j w.toNat 0x000 v).pubWin j w.toNat).pbase = g.pbase) ∧
      (g.owner ≠ some c → g.pen = false ∨ g.units = 0 → ∀ e, encode (.publish h b w) = some e →
        ∃ t, exec (.publish h b w) s = .next t ∧ Traps s t c 4 (x.reg h) 7 (BitVec.ofNat 64 e.toNat))) ∧
    (∀ job i v, Memory.wf s.host = true → (s.pubWin job i).run = some v → let g := s.pubWin job i
      ∃ t, exec (.publicationSwap job i) s = .next t ∧ t = { s with jobs := t.jobs, host := t.host } ∧
        t.pubWin job i = { g with run := none, front := g.back, back := g.front, version := v } ∧
        memWord t.host g.pver.toNat = v ∧
        ∀ a, ¬ (g.pver.toNat ≤ a ∧ a < g.pver.toNat + 8) → memGet t.host a = memGet s.host a)

/-- Launch tokens: submission, dependences, admission, the end of the flood, completion, slack water and watchdog (R136, R137, R138, R139, R140, R141, R142, R143, R72, R296, R343; rests on the model's log entries 54, 62, 84). -/
def Obligations.TheLaunchSequencer : Prop :=
  ∀ (s : State) (r : Reach), s.reach? r.id = some r →
    (∀ job q v, 1 ≤ job → job ≤ 63 → q < 16 → let k := s.queue job q; let slot := vset k.slot 7 v; let tok := slotToken slot
      (k.enable = true → (s.queueTokens job q).length < 64 → ∃ t, exec (.launchTokenSubmit job q v) s = .next t ∧
        t = { s with
          jobs := t.jobs, nextId := s.nextId + 1, reaches := s.reaches ++ [{ newLaunch (s.nextId + 1) job tok with queue := q }] } ∧
        t.queue job q = { k with
          slot := slot, submitted := k.submitted + 1
          seedOwed := if 1 ≤ tokNseed tok ∧ tokNseed tok ≤ 8 then k.seedOwed ++ [(s.nextId + 1, tokNseed tok)] else k.seedOwed }) ∧
      (k.enable = false ∨ 64 ≤ (s.queueTokens job q).length → ∃ t, exec (.launchTokenSubmit job q v) s = .next t ∧
        t = { s with jobs := t.jobs } ∧ t.queue job q = { k with slot := slot, dropped := k.dropped + 1 })) ∧
    (s.pollDue r = true → let p := s.readDeps r (tokNdep r.token) 0 0
      (∀ met, p.2 = some (.ok met) → ∃ t, exec (.dependencePoll r.id) s = .next t ∧
        t = p.1.updReach r.id (fun r => { r with depMet := met, pollDirty := false, pollStuck := false, pollAt := s.cycle })) ∧
      (p.2 = some (.error 4) → ∃ t, exec (.dependencePoll r.id) s = .next t ∧
        t = (p.1.endLaunch r false 0xFFFFFFFF00000004).1) ∧
      (p.2 = some (.error 2) → ∃ t, exec (.dependencePoll r.id) s = .next t ∧
        t = (p.1.endLaunch r false 0xFFFFFFFD00000002).1)) ∧
    (∀ w h u, r.st = .accepted → r.checked = false →
      (s.queueTokens r.job r.queue).head?.map (·.id) = some r.id →
      let z := s.checkToken r.job r.token false (s.queue r.job r.queue).homev
      (z = (u, .ok w h) → ∃ t, exec (.admitLaunch r.id) s = .next t ∧ t = u.updReach r.id (fun r => { r with
        checked := true, pollStuck := false, cx := (s.job r.job).x0 + tokRx r.token, cy := (s.job r.job).y0 + tokRy r.token, w := w, h := h })) ∧
      (∀ k, z = (u, .reject k) → ∃ t, exec (.admitLaunch r.id) s = .next t ∧
        t = (u.endLaunch r false (BitVec.ofNat 64 (0xFFFFFFFF00000000 + k))).1)) ∧
    (r.st = .accepted → r.checked = true → s.firstAdmitted r = true → r.shadow = false →
      (∀ c k, s.contextFor r = some (c, k) → r.device = true → ∃ t, exec (.admitLaunch r.id) s = .next t ∧
        t = { s with jobs := t.jobs, reaches := t.reaches } ∧ (t.job r.job).admissions = (s.job r.job).admissions + 1 ∧
        t.reach? r.id = some { r with
          st := .loading, ctx := c, bound := true, slot := k, number := (s.job r.job).admissions, reqsig := (s.job r.job).reqsig }) ∧
      (∀ c k, s.contextFor r = some (c, k) → c < 64 → r.device = false → tokCpc r.token ≠ 0 →
        let hv : Word := BitVec.ofNat 64 (k + ((vget ⟨0, none⟩ (s.ctx c).slots k).gen + 1).toNat * 256)
        ∃ t, exec (.admitLaunch r.id) s = .next t ∧ t = { s with jobs := t.jobs, reaches := t.reaches, ctxs := t.ctxs } ∧
          (∀ i, i ≠ c → t.ctx i = s.ctx i) ∧ (t.ctx c).st = .ready ∧ (t.ctx c).job = r.job ∧
          (t.ctx c).pc = BitVec.ofNat 64 (tokCpc r.token) &&& 0xFFFFFFFFFFFFFFFC#64 ∧
          (t.ctx c).reg 1 = hv ∧ (t.ctx c).reg 2 = BitVec.ofNat 64 r.signal ∧
          t.reach? r.id = some { r with
            st := .loading, ctx := c, bound := true, slot := k, handle := hv, number := (s.job r.job).admissions
            reqsig := (s.job r.job).reqsig })) ∧
    (r.st = .flooding → (∀ n ∈ r.cells, (s.cell n).island.busy = false) →
      (r.shadow = false → r.armedReq = false → ∃ t, exec (.floodWaveCrossed r.id) s = .next t ∧
        t = (s.startReach r false).heldSeeds r ∧
        (s.startReach r false).reach? r.id = some { r with st := .running, quiet := 0, swDone := false }) ∧
      (r.shadow = false → r.armedReq = true → ∃ t, ∃ u : State, exec (.floodWaveCrossed r.id) s = .next t ∧
        t = u.heldSeeds r ∧ u = { s with cells := u.cells, reaches := u.reaches } ∧ u.reach? r.id = some { r with st := .armed }) ∧
      (∀ u : State, r.device = true → u.heldSeeds r = u) ∧
      (r.shadow = true → ∃ t, exec (.floodWaveCrossed r.id) s = .next t ∧
        t = { s with cells := t.cells, reaches := t.reaches } ∧ t.reach? r.id = some { r with st := .shadowed })) ∧
    (s.reachOver r = true → let v := s.closeDrops r.id
      (r.signal = 0 → ∃ t, exec (.reachComplete r.id) s = .next t ∧ t = v.dropReach r ∧ t.reach? r.id = none) ∧
      (∀ st sa, r.signal ≠ 0 → let z := v.sysReach r.job (r.signal / 8 * 8) .atomic whoSeq
        z.2 = .at st sa → ∃ t, exec (.reachComplete r.id) s = .next t ∧
          t = (z.1.writeAt r.job (r.signal / 8 * 8) st sa 8 (memWord z.1.hbm (z.1.hbmKey st sa) + 1).toNat).dropReach r)) ∧
    (let name : Word := BitVec.ofNat 64 (bitsN r.handle 0 16 + (r.cy * 32 + r.cx) * 2 ^ 16 + ((r.cy + r.h - 1) * 32 + (r.cx + r.w - 1)) * 2 ^ 25);
      (s.slackDue r = true → ∃ t, exec (.slackWaterEvent r.id) s = .next t ∧
        t = ((s.event r.job 0x06 1 r.ctx name ((s.job r.job).swthr.setWidth 64) (s.tileCounts r) (some r.id)).updJob r.job
          (fun b => { b with swevt := satInc b.swevt })).updReach r.id (fun r => { r with swDone := true })) ∧
      (s.watchdogDue r = true → ∃ t, exec (.watchdog r.id) s = .next t ∧
        t = (s.event r.job 0x10 1 r.ctx name (((s.job r.job).wdNow s.tick).setWidth 64) 0 (some r.id)).updReach r.id
          (fun r => { r with wdDone := true })))

/-- What every firing does, shown on NOP; what a nullified firing does, for every compute opcode; what an abort does (R167, R168, R37, R78, R171, R172, R173; rests on the model's log entry 83). -/
def Obligations.RuleFiringBookkeeping : Prop :=
  (∀ (s : State) (r : Rule), let n := s.focus.cell; let cs := s.cset n
    s.RuleReady r false → s.focus.idx < 16 →
    ∃ t, exec (.ruleNop r) s = .next t ∧ OnlyCell n s t ∧
      t.cell n = { s.cell n with c := ⟨t.cset n, (s.cell n).c.ina⟩ } ∧
      t.cset n = { cs with iss := (t.cset n).iss, comp := (t.cset n).comp } ∧
      (let x := (t.cset n).iss
       x = { cs.iss with
         chans := x.chans, preds := x.preds, age := vset cs.iss.age s.focus.idx 0, runs := vset cs.iss.runs s.focus.idx 0
         fired := x.fired } ∧
       (∀ k, k < 16 → bitB x.fired k = (bitB cs.iss.fired k || k == s.focus.idx)) ∧
       (∀ k, k < 8 → bitB x.preds k = if r.puMode ≠ 0 ∧ k = r.puIdx then decide (r.puMode ≠ 3) else bitB cs.iss.preds k) ∧
       ((∀ k, (vget VChan.reset cs.vch k).block = false) → (t.cset n).comp = cs.comp ∧
         (r.condA.chan ≠ r.condB.chan ∨ r.dqa = 0 ∨ r.dqb = 0 → ∀ k, k < 8 → vget [] x.chans k =
           if (r.dqa = 1 ∧ k = r.condA.chan) ∨ (r.dqb = 1 ∧ k = r.condB.chan) then (vget [] cs.iss.chans k).tail
           else vget [] cs.iss.chans k)))) ∧
  (∀ (s : State) (r : Rule), let cs := s.cset s.focus.cell
    s.RuleOffered r →
    (cs.nullSource r false = true → ∀ e ∈ [Instr.ruleAdd r, .ruleSub r, .ruleMul r, .ruleAnd r, .ruleOr r, .ruleXor r, .shl r, .shr r,
      .sar r, .ruleMin r, .ruleMax r, .ceq r, .clt r, .cltu r, .mov r, .popc r],
      ∃ t, exec e s = .next t ∧ RuleNullified s t r (fun _ => 7) true) ∧
    (cs.nullSource r true = true → ∃ t, exec (.sel r) s = .next t ∧ RuleNullified s t r (fun _ => 7) true) ∧
    (cs.nullSource r false = true → ∀ e ∈ [Instr.vadd r, .vsub r, .vmul r, .vfma r, .vmax r, .vmin r, .vabs r, .vneg r, .vexp2 r, .vrcp r,
      .vrsq r, .vcvt r, .vpack r, .vunpk r, .vscale r, .vcmp r, .vshuf r, .vbcast r, .vrsum r, .vrmax r, .vdot r, .topk r, .fil r],
      ∃ t, exec e s = .next t ∧ RuleNullified s t r (fun o => (cs.outEntry o).fmt) true) ∧
    (cs.nullSource r true = true → ∃ t, exec (.vsel r) s = .next t ∧ RuleNullified s t r (fun o => (cs.outEntry o).fmt) true) ∧
    (cs.nullSource r false = true → ∀ e ∈ [Instr.ruleNop r, .kstep r, .kend r, .kset r, .kbnd r, .trapt r, .hlt r, .mctl r, .spl r, .psig r,
      .bara r], ∃ t, exec e s = .next t ∧ RuleNullified s t r (fun _ => 0) false)) ∧
  (∀ (x : Issue) (i reason : Nat), i < 16 → let y := x.abort i reason; let k := min (vget 0 x.runs i + 1) 65535
    y = { x with
      runs := vset x.runs i k, age := vset x.age i (min (vget 0 x.age i + 1) 31), aborted := y.aborted, lrule := i, lreason := reason
      livelock := if k = 1024 then x.livelock ++ [(i, reason)] else x.livelock } ∧
    ∀ j, j < 16 → bitB y.aborted j = (bitB x.aborted j || j == i))

/-- The scalar operations compute their 64-bit results and deliver them, or abort where S is enabled as a trap (R180, R181, R183, R96, R171; rests on the model's log entry 13). -/
def Obligations.ScalarRules : Prop :=
  ∀ (s : State) (r : Rule), let n := s.focus.cell; let cs := s.cset n
    let a := cs.scal r.srcA; let b := cs.scal r.srcB
    r.scalarDst →
    ∀ e ∈ ([(.ruleAdd r, false, a + b), (.ruleSub r, false, a - b), (.ruleMul r, false, a * b), (.ruleAnd r, false, a &&& b),
      (.ruleOr r, false, a ||| b), (.ruleXor r, false, a ^^^ b), (.shl r, false, a <<< (b.toNat % 64)),
      (.shr r, false, a >>> (b.toNat % 64)), (.sar r, false, a.sshiftRight (b.toNat % 64)),
      (.ruleMin r, false, if a.toInt ≤ b.toInt then a else b), (.ruleMax r, false, if a.toInt ≤ b.toInt then b else a),
      (.ceq r, false, if a = b then 1 else 0), (.clt r, false, if a.toInt < b.toInt then 1 else 0),
      (.cltu r, false, if a.toNat < b.toNat then 1 else 0),
      (.sel r, true, if (cs.back 0).val.bits.setWidth 64 ≠ (0 : Word) then a else b), (.mov r, false, a),
      (.popc r, false, BitVec.ofNat 64 ((List.range 64).filter (fun k => a.getLsbD k)).length)] :
      List (Instr × Bool × Word)), s.RuleReady r e.2.1 →
    let clamps : Prop := ∃ k, opdOf r.dst = .k k ∧ (cs.iss.counter k).bound ≠ 0 ∧
      (cs.iss.counter k).bound.toNat ≤ (e.2.2.setWidth 32 : BitVec 32).toNat
    (cs.trapEn &&& 4 ≠ 0 → clamps → ∃ t, exec e.1 s = .next t ∧ TrapAborts s t 4) ∧
    (cs.trapEn &&& 4 = 0 ∨ ¬ clamps → ∃ t u, exec e.1 s = .next t ∧ ScalarGoes s u r e.2.2 ∧
      RuleFires s u t r (e.2.2 != 0) (some ⟨false, e.2.2.setWidth 512, 7, 0⟩))

/-- Elementwise vector operations compute each lane in f32 and deliver it in the result format (R184, R185, R189, R97, R98, R96, R171; rests on the model's log entry 13). -/
def Obligations.VectorElementwise : Prop :=
  ∀ (s : State) (r : Rule) (k : Nat), let cs := s.cset s.focus.cell
    let a := cs.vec r.srcA; let b := cs.vec r.srcB; let m := cs.rmode.toNat; let down := cs.rmode == 2
    let xa := a.f32 m cs.sat k; let xb := b.f32 m cs.sat k
    s.RuleReady r false →
    (laneCount a b = none → ∀ e ∈ [Instr.vadd r, .vsub r, .vmul r, .vmax r, .vmin r, .vscale r, .vcmp r],
      ∃ t, exec e s = .next t ∧ TrapAborts s t 8) ∧
    (laneCount a b = some k → cs.vecDst r (resultFmt a b) k →
      ∀ e ∈ ([(.vadd r, addNum down), (.vsub r, fun x y => addNum down x y.neg), (.vmul r, mulNum),
        (.vmax r, fun x y => (maxNum x y, 0)), (.vmin r, fun x y => (minNum x y, 0)),
        (.vscale r, fun x y => if y = .nan then (.nan, 0)
          else (x.scale (max (-512) (min 512 (truncInt (fun neg => if neg then -512 else 512) y))), 0))] :
        List (Instr × (FVal → FVal → FVal × Nat))),
      ∃ t, exec e.1 s = .next t ∧
        let y := joinFlags (List.zipWith (fun x y => roundF32 m (e.2 x y)) xa.1 xb.1)
        VectorFires s t r (resultFmt a b) y.1 (xa.2 ||| xb.2 ||| y.2)) ∧
    (laneCount a b = some k → cs.vecDst r (resultFmt a b) k → ∃ t, exec (.vcmp r) s = .next t ∧
      VectorFiresBy s t r (resultFmt a b) (List.zipWith (fun x y => if x = .nan ∨ y = .nan then .nan
        else if ltNum y x then .fin 1 0 else if ltNum x y then .fin (-1) 0 else .zero false) xa.1 xb.1)
        (fun f g => if f = 0 ∨ f = 7 then g else 0)) ∧
    (k = a.count → cs.vecDst r a.fmtOf k →
      ∀ e ∈ ([(.vabs r, fun x => (x.abs, 0)), (.vneg r, fun x => (x.neg, 0)), (.vexp2 r, fun x => (exp2Num x, 0)),
        (.vrcp r, fun x => (rcpNum x, 0)), (.vrsq r, rsqNum)] : List (Instr × (FVal → FVal × Nat))),
      ∃ t, exec e.1 s = .next t ∧
        let y := joinFlags (xa.1.map (fun x => roundF32 m (e.2 x)))
        VectorFires s t r a.fmtOf y.1 (xa.2 ||| y.2))

/-- VFMA, VCVT, VPACK, VUNPK, VSEL, VSHUF, VBCAST and the reductions (R186, R187, R188, R189, R190, R191, R96, R171; rests on the model's log entry 25). -/
def Obligations.VectorMovesAndReductions : Prop :=
  ∀ (s : State) (r : Rule), let cs := s.cset s.focus.cell
    let a := cs.vec r.srcA; let b := cs.vec r.srcB; let c := cs.vec r.dst; let q := cs.scal r.srcB
    let m := cs.rmode.toNat; let down := cs.rmode == 2
    let xa (k : Nat) := a.f32 m cs.sat k; let xb (k : Nat) := b.f32 m cs.sat k
    let add := fun x y => roundF32 m (addNum down x y)
    (∀ i, s.RuleReady r false → opdOf r.dst = .v i → (match a with | .const _ => True | .lanes _ xs => xs.length = c.count) →
      (match b with | .const _ => True | .lanes _ xs => xs.length = c.count) → lanesOf c.fmtOf = c.count →
      ∃ t, exec (.vfma r) s = .next t ∧
        let y := joinFlags ((List.range c.count).map (fun j => roundF32 m
          (fmaNum cs ((xa c.count).1.getD j .nan) ((xb c.count).1.getD j .nan) ((c.f32 m cs.sat c.count).1.getD j .nan))))
        VectorFires s t r c.fmtOf y.1 ((xa c.count).2 ||| (xb c.count).2 ||| (c.f32 m cs.sat c.count).2 ||| y.2)) ∧
    (s.RuleReady r false → let f := bitsN q 0 3; let k := a.count; let g := bitsN q 3 3
      cs.rawOf r f = none ∨ g ≠ 0 → cs.vecDst r f (lanesOf f) →
      (lanesOf f ≤ k → g < k / lanesOf f → ∃ t, exec (.vcvt r) s = .next t ∧
        VectorFires s t r f (((xa k).1.drop (g * lanesOf f)).take (lanesOf f)) (xa k).2) ∧
      (0 < k → k < lanesOf f → g < lanesOf f / k → ∃ t, exec (.vcvt r) s = .next t ∧
        VectorFires s t r f ((List.range (lanesOf f)).map (fun j =>
          if g * k ≤ j ∧ j < g * k + k then (xa k).1.getD (j - g * k) .nan else .zero false)) (xa k).2)) ∧
    (∀ i v, s.RuleReady r false → bitsN q 3 3 = 0 → opdOf r.dst = .v i → cs.rawOf r (bitsN q 0 3) = some v → ∃ t, exec (.vcvt r) s = .next t ∧
      RuleFires s (s.updC s.focus.cell (fun c => c.putReg i v)) t r (v.lanes.any (fun x => x ≠ .zero false ∧ x ≠ .zero true)) (some ⟨false, v⟩)) ∧
    (∀ k, s.RuleReady r false → laneCount a b = some k → k = 16 ∨ k = 32 → cs.vecDst r (if k = 16 then 4 else 1) (2 * k) →
      ∃ t, exec (.vpack r) s = .next t ∧
        VectorFires s t r (if k = 16 then 4 else 1) ((xa k).1 ++ (xb k).1) ((xa k).2 ||| (xb k).2)) ∧
    (∀ k, s.RuleReady r false → a.count = k → k = 32 ∨ k = 64 ∨ k = 128 →
      let f := if k = 32 then 6 else if k = 64 then 4 else 1
      cs.vecDst r f (k / 2) → ∃ t, exec (.vunpk r) s = .next t ∧
        VectorFires s t r f (if q.getLsbD 0 then (xa k).1.drop (k / 2) else (xa k).1.take (k / 2)) (xa k).2) ∧
    (∀ k, s.RuleReady r true → laneCount a b = some k → (cs.back 0).val.lanes.length = k → cs.vecDst r (resultFmt a b) k →
      ∃ t, exec (.vsel r) s = .next t ∧
        VectorFires s t r (resultFmt a b) ((List.range k).map (fun j =>
          if ltNum (.zero false) ((cs.back 0).val.lanes.getD j .nan) then (xa k).1.getD j .nan else (xb k).1.getD j .nan))
          ((xa k).2 ||| (xb k).2)) ∧
    (∀ k x, s.RuleReady r false → b = .const x → a.count = k → cs.vecDst r a.fmtOf k → 0 < k → ∃ t, exec (.vshuf r) s = .next t ∧
      VectorFires s t r a.fmtOf ((List.range k).map (fun j => (xa k).1.getD ((j + bitsN q 0 7) % k) (.zero false))) (xa k).2) ∧
    (∀ k f ys, s.RuleReady r false → b = .lanes f ys → a.count = k → cs.vecDst r a.fmtOf k → 0 < k →
      ∃ t, exec (.vshuf r) s = .next t ∧
        VectorFires s t r a.fmtOf ((List.range k).map (fun j => (xa k).1.getD
          ((truncInt (fun _ => 0) ((xb ys.length).1.getD (j % ys.length) (.zero false))) % (k : Int)).toNat (.zero false)))
          ((xa k).2 ||| (xb ys.length).2)) ∧
    (s.RuleReady r false → cs.vecDst r a.fmtOf (lanesOf (cs.dstFmt r a.fmtOf)) →
      let all (x : FVal) := List.replicate (lanesOf (cs.dstFmt r a.fmtOf)) x; let x := xa a.count
      (bitsN q 0 7 < a.count → ∃ t, exec (.vbcast r) s = .next t ∧
        VectorFires s t r a.fmtOf (all (x.1.getD (bitsN q 0 7) .nan)) x.2) ∧
      (∃ t, exec (.vrsum r) s = .next t ∧
        let y := treeReduce add 8 x.1 0
        VectorFires s t r a.fmtOf (all y.1) (x.2 ||| y.2)) ∧
      (∃ t, exec (.vrmax r) s = .next t ∧
        VectorFires s t r a.fmtOf (all (treeReduce (fun x y => (maxNum x y, 0)) 8 x.1 0).1) x.2)) ∧
    (∀ k, s.RuleReady r false → laneCount a b = some k → cs.vecDst r (resultFmt a b) (lanesOf (cs.dstFmt r (resultFmt a b))) →
      ∃ t, exec (.vdot r) s = .next t ∧
        let p := joinFlags (List.zipWith mulNum (xa k).1 (xb k).1)
        let y := treeReduce add 8 p.1 0
        VectorFires s t r (resultFmt a b) (List.replicate (lanesOf (cs.dstFmt r (resultFmt a b))) y.1)
          ((xa k).2 ||| (xb k).2 ||| p.2 ||| y.2))

/-- TOPK keeps the k best values with their indices; VQNT quantises blocks and emits groups (R106, R107, R192, R193, R194, R96, R171, R78; rests on the model's log entries 31, 89). -/
def Obligations.RankingAndQuantising : Prop :=
  ∀ (s : State), 
  (∀ (r : Rule) (d : Nat), let n := s.focus.cell; let cs := s.cset n; let q := cs.scal r.srcB; let a := cs.vec r.srcA
    let x := a.f32 cs.rmode.toNat cs.sat a.count
    let k := bitsN q 0 5; let w := if bitsN q 10 7 = 0 then a.count else bitsN q 10 7
    let vr := vget VReg.reset cs.v d; let ir := vget VReg.reset cs.v (d + 1)
    s.RuleReady r false → opdOf r.dst = .v d → 1 ≤ k → k ≤ 16 → w ≤ a.count →
    (bitB q 5 = true ∨ (vr.tag = 6 ∧ ir.tag = 7)) →
    let old : List (FVal × Nat) := if bitB q 5 then List.replicate k (.nan, 0xFFFFFFFF)
      else (List.range (vget 16 cs.ks (d / 2))).map (fun j => (decodeBits 6 (bitsN vr.bits (32 * j) 32), bitsN ir.bits (32 * j) 32))
    let base := bitsN q 32 16 + (if bitB q 6 then (cs.iss.counter (bitsN q 7 3)).val.toNat * w else 0)
    let best := rankTop k old ((List.range w).map (fun j => (x.1.getD j .nan, (base + j) % 2 ^ 32)))
    let new := best ++ List.replicate (k - best.length) (.nan, 0xFFFFFFFF)
    let rv : VReg := ⟨packLanes 32 (new.map (fun c => toBits 6 c.1)), 6, 0⟩
    let ri : VReg := ⟨packLanes 32 (new.map (·.2)), 7, 0⟩
    ∃ t, exec (.topk r) s = .next t ∧
      if x.2 &&& cs.trapEn.toNat ≠ 0 then TrapAborts s t (x.2 &&& cs.trapEn.toNat)
      else RuleFires s (s.updC n (fun c => { c with
        flags := c.flags ||| BitVec.ofNat 3 x.2, v := vset (vset c.v d rv) (d + 1) ri, ks := vset c.ks (d / 2) k })) t r
        (new != old) (some ⟨false, rv⟩)) ∧
  (∀ (r : Rule) (o : Nat), let n := s.focus.cell; let cs := s.cset n; let k := cs.scal r.srcB; let a := cs.vec r.srcA
    let f := (cs.outEntry o).fmt.toNat; let m := a.count; let x := a.f32 cs.rmode.toNat cs.sat m
    let seg := bitsN k 0 3; let q := vget Quant.reset cs.quant o
    let bl : List ((Byte × Byte) × List Nat × Nat) := (blocksOf x.1 (m / 32)).map (quantBlock f)
    let codes : List Nat := (bl.map (fun (b : (Byte × Byte) × List Nat × Nat) => b.2.1)).flatten
    let q' := { q with
      partTok := placeCodes (elemBits f) q.partTok (seg * m) codes
      partPairs := q.partPairs ++ bl.map Prod.fst }
    let fl := x.2 ||| bl.foldl (fun (a : Nat) b => a ||| b.2.2) 0
    s.RuleReady r false → opdOf r.dst = .ch o → m = 32 ∨ m = 64 ∨ m = 128 → seg * m + m ≤ lanesOf f → seg = q.seg →
    ∃ t, exec (.vqnt r) s = .next t ∧
      if fl &&& cs.trapEn.toNat ≠ 0 then TrapAborts s t (fl &&& cs.trapEn.toNat)
      else RuleFires s (s.updC n (fun c => { c with
        flags := c.flags ||| BitVec.ofNat 3 fl
        quant := vset c.quant o (if seg * m + m = lanesOf f then q'.append f r.et (bitsN k 3 3) else { q' with seg := seg + 1 }) }))
        t r (decide (seg * m + m = lanesOf f))
        (some ⟨false, q'.partTok, BitVec.ofNat 3 f, BitVec.ofNat 64 (packPairs (q'.partPairs.take 4))⟩)) ∧
  (∀ (r : Rule) (o : Nat), let n := s.focus.cell; let cs := s.cset n; let k := cs.scal r.srcB
    let f := (cs.outEntry o).fmt.toNat; let m := max 32 (cs.vec r.srcA).count; let q := vget Quant.reset cs.quant o
    let q' := { q with partNull := true, partPairs := q.partPairs ++ List.replicate (m / 32) (0x7F, 0x80) }
    s.RuleOffered r → cs.nullSource r false = true → opdOf r.dst = .ch o → ∃ t, exec (.vqnt r) s = .next t ∧
      RuleFires s (s.updC n (fun c => { c with
        quant := vset c.quant o (if lanesOf f ≤ bitsN k 0 3 * m + m then q'.append f r.et (bitsN k 3 3) else { q' with seg := bitsN k 0 3 + 1 }) }))
        t r false (some ⟨true, VReg.reset⟩)) ∧
  (∀ (n o : Nat), let cs := s.cset n; let q := vget Quant.reset cs.quant o
    cs.iss.run ≠ .stopped → cs.iss.run ≠ .saved →
    (∀ k, q.comp = some k → (s.cell n).routeFree 4 (vget none cs.iss.routes q.compOut) = true →
      ∃ t, exec (.quantGroupDrain n o) s = .next t ∧
        t = (s.emit n 0 cs.iss q.compOut k).updC n (fun c => { c with quant := vset c.quant o { q with comp := none } })) ∧
    (∀ k rest, q.comp = none → q.drain = k :: rest → (s.cell n).routeFree 4 (vget none cs.iss.routes o) = true →
      ∃ t, exec (.quantGroupDrain n o) s = .next t ∧
        t = (s.emit n 0 cs.iss o k).updC n (fun c => { c with quant := vset c.quant o { q with drain := rest } })))

/-- SEND, DROP, NUL, SELT, GATE, STEER, JOIN and RETAG move tokens as their entries say (R195, R196, R197, R198, R199, R200, R201, R300; rests on the model's log entry 30). -/
def Obligations.FlowRules : Prop :=
  ∀ (s : State) (r : Rule), let n := s.focus.cell; let cs := s.cset n; let o := dstOutput r.dst
    let x := cs.headTok r.srcA; let y := cs.headTok r.srcB
    let sends (t : State) (k : Token) (cond : Bool) : Prop := RuleFires s (s.emit n 0 cs.iss o k) t r cond none
    s.RuleOffered r →
    (∀ i, opdOf r.srcA = .ch i → ∃ t, exec (.send r) s = .next t ∧ sends t x (decide (x.kind = .data))) ∧
    (∀ i, opdOf r.srcA = .v i → let v := vget VReg.reset cs.v i
      v.tag ≠ 3 →
      ((cs.outEntry o).fmt = v.tag → ∃ t, exec (.send r) s = .next t ∧ sends t ⟨.data, v.tag, 0, r.et, v.bits⟩ true) ∧
      ((cs.outEntry o).fmt ≠ v.tag → lanesOf (cs.outEntry o).fmt.toNat = v.lanes.length →
        let l := (VOpd.lanes v.tag.toNat v.lanes).f32 cs.rmode.toNat cs.sat v.lanes.length
        ∃ t w g, exec (.send r) s = .next t ∧
          encodeReg (cs.outEntry o).fmt.toNat cs.rmode.toNat cs.sat l.1 = some (w, g) ∧
          if (g ||| l.2) &&& cs.trapEn.toNat ≠ 0 then TrapAborts s t ((g ||| l.2) &&& cs.trapEn.toNat)
          else RuleFires s ((s.updC n (fun c => c.setFlags (g ||| l.2))).emit n 0 cs.iss o ⟨.data, w.tag, 0, r.et, w.bits⟩) t r true
            none)) ∧
    (∀ i, opdOf r.srcA = .s i → (cs.outEntry o).fmt = 7 → ∃ t, exec (.send r) s = .next t ∧
      sends t ⟨.data, 7, 0, r.et, (vget (0 : Word) cs.s i).setWidth 512⟩ true) ∧
    (∃ t, exec (.drop r) s = .next t ∧ RuleFires s s t r (decide (x.kind = .data)) none) ∧
    (∃ t, exec (.nul r) s = .next t ∧ sends t ⟨.null, (cs.outEntry o).fmt, 0, r.et, 0⟩ true) ∧
    (let z := if (vget (0 : Word) cs.s r.et.toNat).getLsbD 0 then x else y
     ∃ t, exec (.selt r) s = .next t ∧ sends t z (decide (z.kind = .data))) ∧
    (y.kind = .null → ∃ t, exec (.gate r) s = .next t ∧ RuleFires s s t r false none) ∧
    (y.kind = .order ∨ (y.kind = .data ∧ y.payload.getLsbD 0 = true) → ∃ t, exec (.gate r) s = .next t ∧ sends t x false) ∧
    (y.kind = .data → y.payload.getLsbD 0 = false → ∃ t, exec (.gate r) s = .next t ∧ sends t { x with tag := 3 } true) ∧
    (let null (o : Nat) : Token := ⟨.null, (cs.outEntry o).fmt, 0, x.tag, 0⟩
     let both (t : State) (a b : Token) (cond : Bool) : Prop :=
       RuleFires s ((s.emit n 0 cs.iss o a).emit n 0 cs.iss (o + 1) b) t r cond none
     (y.kind = .null ∨ y.kind = .order ∨ x.kind = .null → ∃ t, exec (.steer r) s = .next t ∧ both t (null o) (null (o + 1)) false) ∧
     (y.kind = .data → x.kind ≠ .null → y.payload.getLsbD 0 = true → ∃ t, exec (.steer r) s = .next t ∧
       both t x (null (o + 1)) true) ∧
     (y.kind = .data → x.kind ≠ .null → y.payload.getLsbD 0 = false → ∃ t, exec (.steer r) s = .next t ∧
       both t (null o) x false)) ∧
    (let scope (k : Token) : BitVec 3 := if k.kind = .order then k.fmt else 1
     (x.kind = .null → y.kind = .null → ∃ t, exec (.join r) s = .next t ∧ sends t ⟨.null, (cs.outEntry o).fmt, 0, r.et, 0⟩ false) ∧
     (x.kind ≠ .null → y.kind = .null → ∃ t, exec (.join r) s = .next t ∧ sends t ⟨.order, scope x, 0, r.et, 0⟩ true) ∧
     (x.kind = .null → y.kind ≠ .null → ∃ t, exec (.join r) s = .next t ∧ sends t ⟨.order, scope y, 0, r.et, 0⟩ true) ∧
     (x.kind ≠ .null → y.kind ≠ .null → ∃ t, exec (.join r) s = .next t ∧
       sends t ⟨.order, if (scope x).toNat ≤ (scope y).toNat then scope x else scope y, 0, r.et, 0⟩ true)) ∧
    (∃ t, exec (.retag r) s = .next t ∧ sends t { x with tag := r.et } (decide (x.kind = .data)))

/-- KSTEP, KEND, KSET and KBND step chained counters, in both pools (R181, R202, R203, R204, R230, R96, R171). -/
def Obligations.CounterRules : Prop :=
  (∀ (x : Issue) (k fuel : Nat), let c := x.counter k
    let last : Prop := if c.bound = 0 then c.val.toNat + 1 = 2 ^ 32 else c.bound.toNat ≤ (c.val + 1).toNat
    (¬ last → x.stepCtr (fuel + 1) k = (x.setCtr k (c.put (c.val + 1) 1), false)) ∧
    (last → c.chainEn = false → x.stepCtr (fuel + 1) k = (x.setCtr k (c.put 0 1), true)) ∧
    (last → c.chainEn = true → x.stepCtr (fuel + 1) k = (x.setCtr k (c.put 0 1)).stepCtr fuel c.chain.toNat)) ∧
  (∀ (s : State) (r : Rule) (k : Nat), let n := s.focus.cell; let x := (s.cset n).iss; let c := x.counter k
    let y : BitVec 32 := ((s.cset n).scal r.srcA).setWidth 32
    let big : Bool := decide (c.bound ≠ 0 ∧ c.bound.toNat ≤ y.toNat)
    s.RuleReady r false → opdOf r.dst = .k k →
    (∃ t, exec (.kstep r) s = .next t ∧
      RuleFires s (s.updC n (fun c => { c with iss := (x.stepCtr 8 k).1 })) t r (x.stepCtr 8 k).2 none) ∧
    (c.chainEn = false → ∃ t, exec (.kend r) s = .next t ∧
      RuleFires s (s.updC n (fun b => { b with iss := x.setCtr k (c.put 0 1) })) t r true none) ∧
    (c.chainEn = true → ∃ t, exec (.kend r) s = .next t ∧
      let z := (x.setCtr k (c.put 0 1)).stepCtr 8 c.chain.toNat
      RuleFires s (s.updC n (fun b => { b with iss := z.1 })) t r z.2 none) ∧
    ((s.cset n).trapEn &&& 4 ≠ 0 → big = true → ∃ t, exec (.kset r) s = .next t ∧ TrapAborts s t 4) ∧
    ((s.cset n).trapEn &&& 4 = 0 ∨ big = false → ∃ t, exec (.kset r) s = .next t ∧
      let v := if big then c.bound - 1 else y
      RuleFires s (s.updC n (fun b => { b with
        flags := b.flags ||| (if big then 4 else 0), iss := x.ksetTo k v })) t r (v != 0) none) ∧
    (∃ t, exec (.kbnd r) s = .next t ∧
      RuleFires s (s.updC n (fun b => { b with iss := x.kbndTo k y })) t r true none)) ∧
  (∀ (s : State) (r : Rule) (k : Nat), let n := s.focus.cell; let x := (s.aset n).iss; let c := x.counter k
    let y : BitVec 32 := ((s.aset n).value r.srcA).setWidth 32
    s.RuleReadyA r → opdOf r.dst = .k k →
    (∃ t, exec (.agKstep r) s = .next t ∧
      RuleFiresA s (s.updA n (fun a => { a with iss := (x.stepCtr 8 k).1 })) t r (x.stepCtr 8 k).2) ∧
    ((s.aset n).setNull r = false →
      (∃ t, exec (.agKset r) s = .next t ∧
        let v := if c.bound ≠ 0 ∧ c.bound.toNat ≤ y.toNat then c.bound - 1 else y
        RuleFiresA s (s.updA n (fun a => { a with iss := x.ksetTo k v })) t r (v != 0)) ∧
      (∃ t, exec (.agKbnd r) s = .next t ∧
        RuleFiresA s (s.updA n (fun a => { a with iss := x.kbndTo k y })) t r true)) ∧
    ((s.aset n).setNull r = true → ∀ i ∈ [Instr.agKset r, Instr.agKbnd r], ∃ t, exec i s = .next t ∧ RuleFiresA s s t r false)) ∧
  (∀ (x : Issue) (k : Nat) (v : BitVec 32), k < 8 →
    let z := x.ksetTo k v
    z = { x with ctr := z.ctr } ∧ (z.counter k).val = v ∧
    (∀ i, i < 8 → i ≠ k → k ∈ x.chainFrom 8 i → (z.counter i).val = 0) ∧
    (∀ i, i < 8 → i ≠ k → k ∉ x.chainFrom 8 i → z.counter i = x.counter i) ∧
    (let w := x.kbndTo k v
     w = { x with ctr := w.ctr } ∧ (w.counter k).val = 0 ∧ (w.counter k).bound = v ∧
     (∀ i, i ≠ k → w.counter i = x.counter i)))

/-- HLT, TRAPT, MCTL, the address generator's NOP and HLT, the livelock event and the parity freeze (R53, R173, R209, R214, R230; rests on the model's log entries 13, 85). -/
def Obligations.TileControlRules : Prop :=
  ∀ (s : State),
  (∀ (r : Rule), let n := s.focus.cell; let cs := s.cset n; let w := vget (0 : Word) cs.iss.pool s.focus.idx
    let c0 := cs.scal r.srcA
    let c := if c0.getLsbD 8 then (c0 &&& 0xFFFFFFFF#64) ||| ((cs.scal r.srcB) <<< 32) else c0
    s.RuleReady r false →
    (∃ t, exec (.hlt r) s = .next t ∧
      RuleFires s (s.updC n (fun c => { c with iss := { c.iss with run := .halted } })) t r true none) ∧
    (∃ t, exec (.trapt r) s = .next t ∧
      RuleFires s (s.event (s.reachJob cs.iss.reach) 0x00 0 (n % 512) (cs.scal r.srcA) (cs.scal r.srcB) w (some cs.iss.reach))
        t r true none) ∧
    (mCountOk c = false → ∃ t, exec (.mctl r) s = .next t ∧ TrapAborts s t 8) ∧
    (mCountOk c = true → ∃ t, exec (.mctl r) s = .next t ∧
      RuleFires s (s.updC n (fun b => { b with node := { b.node with queue := b.node.queue ++
        [⟨c, false, 0, 0, [], [], 0, if mOp c = 0x51 ∧ mmaKtag c = false then some (mCount c) else none, false⟩] } })) t r true
        none)) ∧
  (∀ (r : Rule), let n := s.focus.cell
    s.RuleReadyA r →
    (∃ t, exec (.agNop r) s = .next t ∧ RuleFiresA s s t r true) ∧
    (∃ t, exec (.agHlt r) s = .next t ∧
      RuleFiresA s (s.updA n (fun a => { a with iss := { a.iss with run := .halted } })) t r true)) ∧
  (∀ (n kind i reason : Nat), let x := s.issue n kind; let w := vget (0 : Word) x.pool i
    kind < 2 → x.livelock = [(i, reason)] → ∃ t, exec (.livelockEvent n kind i) s = .next t ∧
      t = (s.event (s.reachJob x.reach) 0x09 0 (n % 512 + kind * 512)
          (BitVec.ofNat 64 (i + (ruleOp w).toNat * 2 ^ 4 + reason * 2 ^ 14)) 1024 w (some x.reach)).updIssue n kind
        (fun x => { x with livelock := [] })) ∧
  (∀ (n kind i : Nat), let x := s.issue n kind; let w := Config.openWord s.freeCount
    kind < 2 → i < 16 → ∃ t, exec (.parityFreeze n kind i) s = .next t ∧
      t = (({ s with freeCount := s.freeCount + 1 } : State).event (s.reachJob x.reach) 0x0F 0 (n % 512 + kind * 512)
        (BitVec.ofNat 64 i) w w (some x.reach)).updIssue n kind (fun x => { x with frozen := true })) ∧
  (∀ (n b row : Nat), let x := s.issue n 0; let w := Config.openWord s.freeCount
    b < 2 → row < 64 → ∃ t, exec (.parityFreeze n 0 (256 * (b + 1) + row)) s = .next t ∧
      t = (({ s with freeCount := s.freeCount + 1 } : State).event (s.reachJob x.reach) 0x0F 0 (n % 512)
        (BitVec.ofNat 64 (256 * (b + 1) + row)) w w (some x.reach)).updC n (fun c => { c with node := { c.node with frozen := true } })) ∧
  (∀ (n i : Nat), let w := Config.openWord s.freeCount
    i < 8 → ∃ t, exec (.parityFreeze n 2 i) s = .next t ∧
      t = (({ s with freeCount := s.freeCount + 1 } : State).event (s.reachJob (s.mset n).reach) 0x0F 0 (n % 512 + 1024)
        (BitVec.ofNat 64 i) w w (some (s.mset n).reach)).updM n (fun m => { m with ports := m.ports.map (fun p => { p with frozen := true }) }))

/-- SPL stores a vector register into a slot, FIL loads it back (R205, R206, R245). -/
def Obligations.SpillSlots : Prop :=
  ∀ (s : State) (r : Rule) (i : Nat), let n := s.focus.cell; let cs := s.cset n
    s.RuleReady r false →
    (∀ off, opdOf r.srcA = .v i → let k := bitsN (cs.scal r.srcB) 0 16
      s.slotAt n k = .carve off → ∃ t, exec (.spl r) s = .next t ∧
        RuleFires s ((s.putSlot n off (vget VReg.reset cs.v i)).updC n (fun c => c.wrote k)) t r true none) ∧
    (∀ va, opdOf r.srcA = .v i → let k := bitsN (cs.scal r.srcB) 0 16
      s.slotAt n k = .over va → cs.spillFrz = none → cs.spillBuf.length < 2 →
      ∃ t, exec (.spl r) s = .next t ∧
        RuleFires s (s.updC n (fun c => { c.wrote k with
          spillBuf := c.spillBuf ++ [⟨k, vget VReg.reset cs.v i⟩]
          spillWant := if c.spillWant = some k then none else c.spillWant
          spillGot := if (c.spillGot.map (·.slot)) = some k then none else c.spillGot })) t r true none) ∧
    (opdOf r.dst = .v i → let k := bitsN (cs.scal r.srcA) 0 16
      (s.slotAt n k ≠ .none → cs.spillWritten.contains k = false → cs.spillSlot = none →
        ∃ t, exec (.fil r) s = .next t ∧
          RuleFires s (s.updC n (fun c => c.putReg i VReg.reset)) t r true (some ⟨false, VReg.reset⟩)) ∧
      (∀ off, s.slotAt n k = .carve off → cs.spillWritten.contains k = true → s.sramBad n off = false →
        s.sramBad n (off + 64) = false → cs.spillSlot = none →
        let v := slotReg ((s.sramUnit n off).toNat + (s.sramUnit n (off + 64)).toNat * 2 ^ 512)
        ∃ t, exec (.fil r) s = .next t ∧
          RuleFires s (s.updC n (fun c => c.putReg i v)) t r true (some ⟨false, v⟩)) ∧
      (∀ va v, s.slotAt n k = .over va → cs.spillWritten.contains k = true → cs.spillSlot = none →
        (match cs.spillBuf.reverse.find? (fun e => e.slot == k) with | some e => e.val = v | none => cs.spillGot = some ⟨k, v⟩) →
        ∃ t, exec (.fil r) s = .next t ∧
          RuleFires s (s.updC n (fun c => c.putReg i v)) t r true (some ⟨false, v⟩)) ∧
      (∀ va, s.slotAt n k = .over va → cs.spillWritten.contains k = true → cs.spillBuf.any (fun e => e.slot == k) = false →
        (cs.spillGot.map (·.slot)) ≠ some k → cs.spillWant = none → cs.spillOut = none → ∃ t, exec (.fil r) s = .next t ∧
          t = (s.updC n (fun c => { c with spillWant := some k })).abortRule n 0 (.refuse 3)))

/-- An overflow transfer goes to its stack as class 5 traffic and is served there (R206, R245). -/
def Obligations.SpillTransfers : Prop :=
  ∀ (s : State),
  (∀ (n k va st sa : Nat), let cs := s.cset n
    cs.spillFrz = none → cs.spillOut = none → s.slotAt n k = .over va →
    let stands (u : State) (write : Bool) (t : State) : Prop :=
      t = (u.updC n (fun c => { c with spillOut := some va })).updStk st (fun x => { x with q := x.q ++ [s.spillPlaced n cs.iss.reach sa write] })
    (∀ u v rest, cs.spillBuf = ⟨k, v⟩ :: rest → s.spillReach n va .write = (u, .ok st sa) →
      ∃ t, exec (.spillFetchDone n) s = .next t ∧ stands u true t) ∧
    (∀ u, cs.spillBuf = [] → cs.spillWant = some k → s.spillReach n va .read = (u, .ok st sa) →
      ∃ t, exec (.spillFetchDone n) s = .next t ∧ stands u false t)) ∧
  (∀ (k i va : Nat) (p : Placed) (u : State), let n := p.cell; let id := p.mark.toNat; let j := u.reachJob id
    s.stackPick k = some (i, p, u) → s.reqOf p = none → p.id = 0 →
    ∀ cs, (u.stackTake k i).csetOf n id = some cs → cs.spillOut = some va → cs.spillSlot = none →
    let w := (u.stackTake k i).updCSet n id (fun c => { c with spillOut := none })
    let clear (x : State) : State := x.updCSet n id (fun c => { c with spillFrz := none, spillSlot := none })
    (∀ e rest, p.write = true → cs.spillBuf = e :: rest → ∃ t x, exec (.hbmRequest k) s = .next t ∧
      x = (w.writeAt j va k p.addr 64 (e.val.slotBytes % 2 ^ 512)).writeAt j (va + 64) k (p.addr + 64) 64 (e.val.slotBytes / 2 ^ 512) ∧
      t = clear (x.updCSet n id (fun c => { c with spillBuf := rest })) ∧
      t.hbm = memWrite (memWrite s.hbm (s.hbmKey k p.addr) 64 (e.val.slotBytes % 2 ^ 512)) (s.hbmKey k (p.addr + 64)) 64 (e.val.slotBytes / 2 ^ 512)) ∧
    (∀ slot, p.write = false → cs.spillWant = some slot → w.hbmBad k p.addr = false → w.hbmBad k (p.addr + 64) = false →
      ∃ t, exec (.hbmRequest k) s = .next t ∧
      t = clear (((w.countAccess k p.addr).countAccess k (p.addr + 64)).updCSet n id (fun c => { c with
        spillWant := none
        spillGot := some ⟨slot, slotReg ((s.hbmUnit k p.addr).toNat + (s.hbmUnit k (p.addr + 64)).toNat * 2 ^ 512)⟩ }))))

/-- PSIG sends a predicate signal; BARA sends an arrival at a barrier object (R207, R208, R282, R286, R337; rests on the model's log entries 44, 76). -/
def Obligations.SignalAndBarrierRules : Prop :=
  ∀ (s : State) (r : Rule), let n := s.focus.cell; let cs := s.cset n; let id := cs.iss.reach
    let a := cs.scal r.srcA; let k := cs.scal r.srcB
    s.RuleReady r false →
    (∀ rr x, s.reach? id = some rr →
      let d := cellAt (rr.cx + bitsN a 0 5) (rr.cy + bitsN a 5 4); let kind := bitsN a 9 1
      s.issueOf d kind id = some x →
      (x.run = .halted ∨ s.writesHeld d kind id x < 8 → ∃ t, exec (.psig r) s = .next t ∧
        RuleFires s (s.updIssueOf d kind id (fun x => if x.run = .halted then x else
          { x with inb := x.inb ++ [⟨n, bits a 10 3, bitB a 13⟩] })) t r true none) ∧
      (x.run ≠ .halted → 8 ≤ s.writesHeld d kind id x → ∃ t, exec (.psig r) s = .next t ∧ t = s.abortRule n 0 (.refuse 5))) ∧
    (64 ≤ k.toNat → ∃ t, exec (.bara r) s = .next t ∧ TrapAborts s t 8) ∧
    (∀ d off, k.toNat < 64 → s.sramTarget n id a = .ok (d, off) →
      let p := bitsN k 0 2; let wait := bitB k 2; let w : BitVec 3 := bits k 3 3
      let e (o : Window) : Window := { o with
        obj := a, valid := true, inflight := true, used := s.turnNo, waitp := o.waitp || wait, w := if wait then w else o.w }
      ((s.barPort d off).isNone = true → ∃ t, exec (.bara r) s = .next t ∧ t = s.abortRule n 0 (.refuseEvent 2 0x04 a)) ∧
      (∀ i, (s.barPort d off).isSome = true → cs.winAt a = none → cs.freeWin = some i → ∃ t, exec (.bara r) s = .next t ∧
        RuleFires s ((s.updC n (fun c => { c with win := vset c.win i (e Window.reset) })).send (.arrive n id d a none p wait w)) t r true
          none) ∧
      (∀ i, (s.barPort d off).isSome = true → cs.winAt a = some i →
        let o := vget Window.reset cs.win i
        let g := genAt (match o.cur with | some c => genMax c o.genk | none => o.genk) p
        (o.inflight = false → (wait = false ∨ o.waitp = false) → (g - o.genk).toNat < 4 → ∃ t, exec (.bara r) s = .next t ∧
          RuleFires s ((s.updC n (fun c => { c with win := vset c.win i (e o) })).send (.arrive n id d a (some g) p wait w)) t r true
            none) ∧
        (o.inflight = true ∨ (wait = true ∧ o.waitp = true) ∨ 4 ≤ (g - o.genk).toNat → ∃ t, exec (.bara r) s = .next t ∧
          t = s.abortRule n 0 (.refuse 2))))

/-- Arrivals, replies, advances, releases and resets of barrier objects, and applied signals (R282, R284, R285, R286, R287, R290; rests on the model's log entries 44, 76). -/
def Obligations.BarrierMessages : Prop :=
  (∀ (s : State) (n tile id mem : Nat) (addr : Word) (g : BitVec 32) (wait : Bool) (w : BitVec 3),
    let off := bitsN addr 0 22; let key := mem * 2 ^ 22 + off; let p := g.toNat % 4
    Memory.wf s.sram = true → s.ctl[n]? = some (.arrive tile id mem addr (some g) p wait w) → ∀ q, s.barPort mem off = some q →
    s.portStands mem q = false → (s.port mem q).stopped = false → s.bad.contains (0, key / 64) = false →
    let u := ({ s with ctl := s.ctl.eraseIdx n } : State).updPort mem q (fun q => { q with stopped := false })
    s.objValid key = true → s.objBroken key = false → (g - s.objGen key).toNat < 4 → s.objArrived key p ≠ s.objExpect key p →
    (s.objGen key = g → wait = false → ∃ t, exec (.barrierArrival n) s = .next t ∧
      let v := ((u.setObjWord key (1 + p) (objSlot (s.objExpect key p) (s.objArrived key p + 1))).putEnt mem key).completeObj mem key 5
      t = v.send (.reply tile id addr g (v.objGen key))) ∧
    (s.objGen key ≠ g ∨ wait = true → ∃ t, ∃ v : State, exec (.barrierArrival n) s = .next t ∧
      t = (v.completeObj mem key 5).send (.reply tile id addr g ((v.completeObj mem key 5).objGen key)) ∧
      (∃ e ∈ (v.cell mem).bars, e.tile = tile ∧ e.reach = id ∧ e.obj = key ∧ (wait = true → e.wait = some (g, w))) ∧
      v.objArrived key p = (s.objArrived key p + 1) % 2 ^ 16 ∧ v.objGen key = s.objGen key)) ∧
  (∀ (s : State) (n tile id mem : Nat) (addr : Word) (g : Option (BitVec 32)) (p : Nat) (w : BitVec 3),
    let off := bitsN addr 0 22; let key := mem * 2 ^ 22 + off; let u := { s with ctl := s.ctl.eraseIdx n }
    s.ctl[n]? = some (.arrive tile id mem addr g p false w) →
    (s.barPort mem off = none →
      ∃ t, exec (.barrierArrival n) s = .next t ∧ t = (u.send (.refusedReply tile id addr)).refuseArrival mem key addr 0 tile) ∧
    (∀ q, s.barPort mem off = some q →
      (s.portStands mem q = true → exec (.barrierArrival n) s = .next s) ∧
      (s.portStands mem q = false → (s.port mem q).stopped = false → s.bad.contains (0, key / 64) = true →
        ∃ t, exec (.barrierArrival n) s = .next t ∧ t = (s.updPort mem q (fun q => { q with stopped := true })).event
          (s.reachJob (s.mset mem).reach) 0x0F 0 (mem % 512 + 1024) addr 0 (BitVec.ofNat 64 (tile % 512)) (some (s.mset mem).reach)) ∧
      (s.portStands mem q = false → (s.port mem q).stopped = false → s.bad.contains (0, key / 64) = false →
        s.objValid key = false ∨ s.objBroken key = true →
        ∃ t, exec (.barrierArrival n) s = .next t ∧
          t = ((u.updPort mem q (fun q => { q with stopped := false })).send (.refusedReply tile id addr)).refuseArrival mem key addr 0 tile))) ∧
  (∀ (s : State) (d key : Nat), Memory.wf s.sram = true → (s.endGeneration d key).objGen key = s.objGen key + 1 ∧
    (s.endGeneration d key).objArrived key ((s.objGen key).toNat % 4) = 0) ∧
  (∀ (s : State) (n tl id : Nat) (o : Word), let u := { s with ctl := s.ctl.eraseIdx n }
    let entry (v : State) (f : Window → Window) : Prop := v = u.updCSet tl id (fun c => c.updWin o f)
    let known (e : Window) (gen : BitVec 32) : BitVec 32 := if e.cur.isNone then gen else genMax e.genk gen
    s.ctlFirst n = true →
    (∀ g gen, s.ctl[n]? = some (.reply tl id o g gen) → ∃ v, exec (.barrierReply n) s = .next v ∧
      entry v (fun e => { e with cur := some g, genk := known e gen, inflight := false })) ∧
    (s.ctl[n]? = some (.refusedReply tl id o) → ∃ v, exec (.barrierReply n) s = .next v ∧
      v = (u.updCSet tl id (fun c => c.updWin o (fun e =>
        if e.waitp then { e with inflight := false, refused := true } else Window.reset))).updCell tl (fun c => { c with brk := true })) ∧
    (∀ gen, s.ctl[n]? = some (.advance tl id o gen) → ∃ v, exec (.barrierAdvance n) s = .next v ∧
      entry v (fun e => { e with genk := known e gen })) ∧
    (∀ w gen broken, s.ctl[n]? = some (.release tl id o w gen broken) →
      (∀ x, s.issueOf tl 0 id = some x → x.run = .halted ∨ s.writesHeld tl 0 id x < 8) →
      ∃ v z, exec (.barrierRelease n) s = .next v ∧
      z = u.updCSet tl id (fun c =>
        let c : CSet := if c.iss.run = .halted then c
          else { c with iss := { c.iss with inb := c.iss.inb ++ [⟨512 + bitsN o 22 9, w, true⟩] } }
        if broken then c.updWin o (fun _ => Window.reset)
        else c.updWin o (fun e => if e.refused then Window.reset else { e with genk := known e gen, waitp := false })) ∧
      v = if broken then z.updCell tl (fun c => { c with brk := true }) else z) ∧
    (∀ w gen broken x, s.ctl[n]? = some (.release tl id o w gen broken) → s.issueOf tl 0 id = some x → x.run ≠ .halted →
      8 ≤ s.writesHeld tl 0 id x → exec (.barrierRelease n) s = .next s) ∧
    (s.ctl[n]? = some (.reset tl id o) → ∃ v, exec (.barrierReset n) s = .next v ∧ entry v (fun _ => Window.reset))) ∧
  (∀ (s : State) (c kind n : Nat) (q : Inbound), let x := s.issue c kind
    x.inb[n]? = some q → x.sel = [] → (x.inb.take n).all (fun v => v.sender != q.sender) = true →
    ∃ t, exec (.psigApply c kind n) s = .next t ∧
      t = s.updIssue c kind (fun x => { x with
        inb := x.inb.eraseIdx n
        preds := if x.run = .halted ∨ (x.run = .stopped ∧ x.before = .halted) then x.preds else putBit x.preds q.pred.toNat q.val }))

/-- MMA, MDRN, MCLR, MSWP and MLDC start on the matrix node (R212, R216, R217, R218, R222). -/
def Obligations.MatrixCommandsStart : Prop :=
  ∀ (s : State) (n i : Nat) (w : Word), let x := (s.cset n).node; let b := mBank w
    let only (t : State) (y : Node) : Prop := t = s.updC n (fun c => { c with node := y })
    let started : List Cmd := x.queue.modify i (fun c => { c with started := true })
    (s.startable n 0x51 w = some i → ∃ t y, exec (.mma n w) s = .next t ∧ only t y ∧
      y = { x with queue := started, bank0 := y.bank0, bank1 := y.bank1 } ∧
      (∀ e, Tbl.get 0 (y.bank b) e = if mmaZero w then 0 else Tbl.get 0 (x.bank b) e) ∧ y.bank (1 - b) = x.bank (1 - b)) ∧
    (s.startable n 0x52 w = some i → ∃ t y, exec (.mdrn n w) s = .next t ∧ only t y ∧ y = { x with queue := started }) ∧
    (s.startable n 0x53 w = some i → ∃ t y, exec (.mclr n w) s = .next t ∧ only t y ∧
      (∀ e, Tbl.get 0 (y.bank b) e = 0) ∧ y.mode b = mclrMode w ∧ y.bank (1 - b) = x.bank (1 - b) ∧
      y.mode (1 - b) = x.mode (1 - b) ∧ y.queue = x.queue.eraseIdx i ∧ y.done = x.done + 1) ∧
    (s.startable n 0x54 w = some i → ∃ t y, exec (.mswp n w) s = .next t ∧ only t y ∧
      y = { x with
        bank0 := x.bank1, bank1 := x.bank0, mode0 := x.mode1, mode1 := x.mode0, queue := x.queue.eraseIdx i
        done := x.done + 1 }) ∧
    (s.startable n 0x55 w = some i → ∃ t y, exec (.mldc n w) s = .next t ∧ only t y ∧
      y.queue = started ∧ y.done = x.done ∧ y.mode b = mldcMode w ∧ y.mode (1 - b) = x.mode (1 - b) ∧
      (∀ e, Tbl.get 0 (y.bank b) e = if x.mode b = mldcMode w then Tbl.get 0 (x.bank b) e else 0) ∧
      y.bank (1 - b) = x.bank (1 - b))

/-- A group of MMA adds its products into the 64 × 96 bank (R217, R219, R103, R104, R105; rests on the model's log entries 15, 35). -/
def Obligations.MatrixAccumulates : Prop :=
  ∀ (s : State) (n i : Nat) (c : Cmd), let cs := s.cset n; let x := cs.node; let b := mBank c.tok
    cs.nodeRuns = true → s.nodeHeld n = false → x.running (· == 0x51) = some (i, c) →
    (∀ g, c.groupSize = some g → ∃ t u v, exec (.mmaGroup n) s = .next t ∧ OnlyCell n s v ∧
      let y := (v.cset n).node
      let r (e : Nat) : BitVec 32 × Nat := (if x.mode b then accI32 else accF32) (Tbl.get 0 (x.bank b) e) ((List.range g).map (fun j =>
        (c.aEl.getD (64 * j + e / 96) ⟨0, 0, none, true⟩, c.bEl.getD (96 * j + e % 96) ⟨0, 0, none, true⟩)))
      (∀ e, e < 6144 → Tbl.get 0 (y.bank b) e = (r e).1) ∧ v.cset n = { cs with node := y } ∧
      y.bank (1 - b) = x.bank (1 - b) ∧ y.groups = x.groups + 1 ∧ y.mode0 = x.mode0 ∧ y.mode1 = x.mode1 ∧ y.done = x.done ∧
      y.queue = x.queue.set i { c with k := c.k + g, aEl := c.aEl.drop (64 * g), bEl := c.bEl.drop (96 * g) } ∧
      NodeFlags v u n i ((List.range 6144).foldl (fun f e => f ||| (r e).2) 0) c.k ∧
      t = if c.kEnd = some (c.k + g) then u.updC n (fun d => { d with node := d.node.complete i }) else u) ∧
    (∀ z, cs.takeA c = some z → z.2.aEl.length ≤ 256 ∨ (c.groupSize = none ∧ (cs.feedB c).stops c.bEl.length 384 = true)) ∧
    (∀ z, cs.takeB c = some z → z.2.bEl.length ≤ 384 ∨ (c.groupSize = none ∧ (cs.feedA c).stops c.aEl.length 256 = true)) ∧
    (c.groupSize = none → ∃ t, exec (.mmaGroup n) s = .next t ∧
      let a := (cs.takeA c).getD (cs, c)
      let d := (a.1.takeB a.2).getD a
      t = s.updC n (fun _ => { d.1 with node := d.1.node.setCmd i d.2 }))

/-- MDRN drains rows as tokens and MLDC loads them (R218, R219). -/
def Obligations.BankPortMoves : Prop :=
  ∀ (s : State) (n i : Nat) (c : Cmd), let cs := s.cset n; let x := cs.node; let w := c.tok; let b := mBank w
    cs.nodeRuns = true → s.nodeHeld n = false → x.running (fun o => o == 0x52 || o == 0x55) = some (i, c) →
    (mOp w = 0x52 → cs.iss.run ≠ .stopped → (s.cell n).routeFree 4 (vget none cs.iss.routes (mChan w)) = true →
      let l := lanesOf (mdrnFmt w); let rows := mCount w; let per := (96 + l - 1) / l
      let first := if mRowtag w then c.k / per * 96 + c.k % per * l else c.k * l
      let stop := if mRowtag w then c.k / per * 96 + 96 else rows * 96
      let total := if mRowtag w then rows * per else (rows * 96 + l - 1) / l
      let lane (j : Nat) : Nat × Nat := if first + j < stop then
        drainElem (x.mode b) (mdrnFmt w) cs.rmode.toNat cs.sat (Tbl.get 0 (x.bank b) (mFirst w * 96 + first + j)) else (0, 0)
      let tag : BitVec 2 := if c.k + 1 = total then 3 else if mRowtag w ∧ (c.k + 1) % per = 0 then 1 else 0
      ∃ t u, exec (.bankPortMove n) s = .next t ∧
        NodeFlags ((s.emit n 0 cs.iss (mChan w)
          ⟨.data, BitVec.ofNat 3 (mdrnFmt w), 0, tag, packLanes (elemBits (mdrnFmt w)) ((List.range l).map (fun j => (lane j).1))⟩).updC n
            (fun d => { d with node := d.node.setCmd i { c with k := c.k + 1 } })) u n i
          ((List.range l).foldl (fun f j => f ||| (lane j).2) 0) (mFirst w + first / 96) ∧
        (c.k + 1 ≠ total → t = u) ∧
        (c.k + 1 = total → let y := (t.cset n).node
          t = u.updC n (fun d => { d with node := y }) ∧ y.queue = x.queue.eraseIdx i ∧ y.done = x.done + 1 ∧ y.bank (1 - b) = x.bank (1 - b) ∧
          ∀ e, Tbl.get 0 (y.bank b) e = if mdrnZero w ∧ mFirst w * 96 ≤ e ∧ e < mFirst w * 96 + rows * 96 then 0 else Tbl.get 0 (x.bank b) e)) ∧
    (mOp w = 0x52 → cs.iss.run = .stopped → exec (.bankPortMove n) s = .next s) ∧
    (mOp w = 0x55 → ∀ k, cs.head (mChan w) = some k → ∃ t u v, exec (.bankPortMove n) s = .next t ∧ OnlyCell n s v ∧
      let es := cs.elems k
      let m := if mRowtag w then min (96 - c.k % 96) es.length else min (mCount w * 96 - c.k) es.length
      let base := mFirst w * 96 + c.k
      let y := (v.cset n).node
      v.cset n = { cs.deq (mChan w) with node := y } ∧ y.bank (1 - b) = x.bank (1 - b) ∧ y.done = x.done ∧
      (∀ e, e < 6144 → Tbl.get 0 (y.bank b) e =
        if base ≤ e ∧ e < base + m then (loadElem (mldcMode w) (es.getD (e - base) ⟨0, 0, none, true⟩)).1
        else Tbl.get 0 (x.bank b) e) ∧
      y.queue = x.queue.set i { c with k := c.k + m } ∧
      NodeFlags v u n i ((es.take m).foldl (fun f e => f ||| (loadElem (mldcMode w) e).2) 0) (mFirst w + c.k / 96) ∧
      t = if c.k + m = mCount w * 96 then u.updC n (fun d => { d with node := d.node.complete i }) else u)

/-- ISSR, GATR, S2S, ISSW, LDSY, SCTW, CPY and ATOM put a request in the queue and step the template (R227, R228, R230, R231, R232, R233, R234). -/
def Obligations.RequestRules : Prop :=
  ∀ (s : State) (r : Rule) (miss : Bool), let n := s.focus.cell; let a := s.aset n; let g := tmplOf r.srcB; let t := a.tmpl g
    let c := t.issue a.iss none; let ci := t.issue a.iss (some (a.index r)); let x := a.data r
    s.RuleReadyA r → g < 4 →
    (∀ e ∈ ([(.issr r, c, a.newReq g .read t c, Kind.read, PortUse.read, false),
        (.gatr r, ci, a.newReq g .read t ci, .read, .read, false),
        (.s2s r, c, { a.newReq g .s2s t c with tok := x }, .read, .read, false),
        (.issw r, c, { a.newReq g .write t c with tok := x }, .write, .write, true)] :
        List (Instr × Issued × Req × Kind × PortUse × Bool)),
      a.srcNull r = false → (e.2.2.2.2.2 = true → x.nullish = false) → s.Accepts t e.2.1.addr e.2.2.2.1 e.2.2.2.2.1 miss →
      ∃ v u, exec e.1 s = .next v ∧ RequestQueued s u g e.2.1 e.2.2.1 e.2.2.2.2.2 miss ∧ RuleFiresA s u v r e.2.1.carry) ∧
    (let clear : Bool := match opdOf r.srcA with | .q k => (vget (0 : Word) a.iss.consts k).getLsbD 0 | _ => false
     s.Accepts t c.addr .read .read miss → ∃ v u, exec (.ldsy r) s = .next v ∧
      RequestQueued s u g c (a.newReq g (.ldsy clear) t c) false miss ∧
      RuleFiresA s u v r c.carry) ∧
    (a.srcNull r = false → x.nullish = false → t.space ≠ .sram ∨
        (∃ d off, s.checkS n a t.homePort ci.addr .reduce = .ok d off ∧ (s.port d t.homePort).role ≠ 6) →
      s.Accepts t ci.addr .write .reduce miss → ∃ v u, exec (.sctw r) s = .next v ∧
      RequestQueued s u g ci { a.newReq g .write t ci with tok := x } true miss ∧ RuleFiresA s u v r ci.carry) ∧
    (a.srcNull r = false → x.nullish = false → t.space = .sram →
      ∀ d off, s.checkS n a t.homePort ci.addr .reduce = .ok d off → (s.port d t.homePort).role = 6 →
      ∃ v u, exec (.sctw r) s = .next v ∧
        RequestQueued s u g ci { a.newReq g .write t ci with tok := x, seq := some 0 } true false ∧
        RuleFiresA s u v r ci.carry) ∧
    (let w := a.tmpl (g + 1); let wa := w.addrOf (w.base a.iss) c.kv
     a.srcNull r = false → (w.space = .sram → ∃ d off, s.checkS n a w.homePort wa .write = .ok d off) →
      (w.space = .virt → wa.toNat % 64 = 0) → s.Accepts t c.addr .read .read miss → ∃ v u, exec (.cpy r) s = .next v ∧
      RequestQueued s u g c { a.newReq g .cpy t c with wg := g + 1, waddr := wa.toNat, wmark := w.markOf c.kv } true miss ∧
      RuleFiresA s u v r c.carry) ∧
    (∀ k o y, opdOf r.srcA = .q k → opdOf r.dst = .ch o → a.iss.head r.condB.chan = some y → x.kind ≠ .null → y.kind ≠ .null →
      let q := vget (0 : Word) a.iss.consts k
      s.Accepts t c.addr .atomic (.atom (bits q 0 4) (bitsN x.payload 64 3) x.word) miss → ∃ v u, exec (.atom r) s = .next v ∧
      RequestQueued s u g c { a.newReq g (.atom (bits q 0 4) (bits q 4 3) o r.et) t c with tok := x, marked := false } false miss ∧
      RuleFiresA s u v r true)

/-- Nullified requests and null data: the template steps, a read answers null, a write writes nothing, ATOM sends null (R79, R227, R231, R232, R234; rests on the model's log entry 49). -/
def Obligations.NullifiedRequests : Prop :=
  ∀ (s : State) (r : Rule), let n := s.focus.cell; let a := s.aset n; let g := tmplOf r.srcB; let t := a.tmpl g
    let c := t.issue a.iss none; let ci := t.issue a.iss (some (a.index r))
    let stepped (c : Issued) (b : ASet) : ASet := { (b.setTmpl g (fun t => { t with reqno := t.reqno + 1 })) with iss := c.iss }
    s.RuleReadyA r →
    (a.srcNull r = true → ∀ e ∈ ([(.issr r, c), (.gatr r, ci), (.s2s r, c)] : List (Instr × Issued)), ∃ v, exec e.1 s = .next v ∧
      let q : Req := { a.newReq g .nullRead t e.2 with
        marked := false, stage := .answered, ans := some ⟨.null, t.fmt, t.vchan, e.2.tag, 0⟩ }
      RuleFiresA s (s.updA n (fun b => { stepped e.2 b with q := a.q ++ [q], nextId := a.nextId + 1 })) v r e.2.carry) ∧
    (a.srcNull r = true → ∃ v, exec (.cpy r) s = .next v ∧ RuleFiresA s (s.updA n (stepped c)) v r c.carry) ∧
    (a.srcNull r = true ∨ (a.data r).kind = .null ∨ (a.data r).kind = .order →
      ∀ e ∈ ([(.issw r, c), (.sctw r, ci)] : List (Instr × Issued)), ∃ v, exec e.1 s = .next v ∧
        RuleFiresA s (s.updA n (stepped e.2)) v r e.2.carry) ∧
    (∀ o x, opdOf r.dst = .ch o → a.iss.head r.condB.chan = some x → (a.data r).kind = .null ∨ x.kind = .null →
      ∃ v, exec (.atom r) s = .next v ∧
        RuleFiresA s ((s.updA n (stepped c)).emit n 1 a.iss o ⟨.null, 0, 0, r.et, 0⟩) v r true)

/-- The address, the mark, the tag and the carry of a template (R227). -/
def Obligations.TemplateAddresses : Prop :=
  ∀ (t : Template) (x : Issue) (idx : Option (BitVec 32)), let c := t.issue x idx
    let k (j : Nat) : BitVec 32 := match idx with | some i => if j = 7 then i else (x.counter j).val | none => (x.counter j).val
    let sum : Int := ((List.range 8).map (fun j => (vget 0 t.stride j).toInt * (k j).toNat)).sum
    let marks : Int := ((List.range 8).map (fun j => (vget 0 t.mstep j).toInt * (k j).toNat)).sum
    (t.space ≠ .virt → c.addr = t.base x + BitVec.ofInt 64 sum) ∧
    (t.space = .virt → c.addr = (t.base x + BitVec.ofInt 64 sum) &&& 0xFFFFFFFFFFFFF#64) ∧
    c.mark = t.mark0 + BitVec.ofInt 32 marks ∧
    (∀ j, t.stepCounter idx.isSome = some j → c.iss = (x.stepCtr 8 j).1 ∧ c.carry = (x.stepCtr 8 j).2 ∧
      c.tag = if (x.stepCtr 8 j).2 then 3 else if 2 ≤ x.wraps 8 j then 2 else if x.wraps 8 j = 1 then 1 else 0) ∧
    (t.stepCounter idx.isSome = none → c.iss = x ∧ c.carry = true ∧ c.tag = 3)

/-- MARK, TBASE, WPT, RELS and ACQ (R235, R236, R237). -/
def Obligations.TemplateAndPhaseRules : Prop :=
  ∀ (s : State) (r : Rule), let n := s.focus.cell; let a := s.aset n; let g := tmplOf r.srcB; let t := a.tmpl g
    s.RuleReadyA r → g < 4 →
    (a.setNull r = false → ∃ v, exec (.mark r) s = .next v ∧
      RuleFiresA s (s.updA n (fun a' => a'.setTmpl g (fun t => { t with mark0 := a.index r }))) v r true) ∧
    (a.setNull r = false → ∃ v, exec (.tbase r) s = .next v ∧
      let b := BitVec.ofNat 64 ((a.value r.srcA).toNat % (if t.space = .sram then 2 ^ 31 else 2 ^ 52))
      RuleFiresA s (s.updA n (fun a => a.setTmpl g (fun t => { t with rbase := b }))) v r true) ∧
    (a.setNull r = true → ∀ i ∈ [Instr.mark r, Instr.tbase r], ∃ v, exec i s = .next v ∧ RuleFiresA s s v r false) ∧
    (∀ rr d, s.reach? a.iss.reach = some rr → rr.absCell t.homeCell = some d → (s.port d t.homePort).wpx = true →
      let full : Bool := decide (t.mirror.toNat = (s.port d t.homePort).wpLen * 64)
      (∀ o, opdOf r.dst = .ch o → ∃ v, exec (.wpt r) s = .next v ∧
        RuleFiresA s (s.emit n 1 a.iss o ⟨.data, 7, 0, r.et, t.mirror.setWidth 512⟩) v r full) ∧
      (∀ k, opdOf r.dst = .k k → let c := a.iss.counter k
        ∃ v, exec (.wpt r) s = .next v ∧
          let m := if c.bound ≠ 0 ∧ c.bound.toNat ≤ t.mirror.toNat then c.bound - 1 else t.mirror
          RuleFiresA s (s.updA n (fun a => { a with iss := a.iss.setCtr k (c.write m) })) v r full) ∧
      (opdOf r.dst = .null → ∃ v, exec (.wpt r) s = .next v ∧ RuleFiresA s s v r full)) ∧
    (∀ rr d, s.reach? a.iss.reach = some rr → rr.absCell t.homeCell = some d → (s.port d t.homePort).wpx = false →
      (∀ o, opdOf r.dst = .ch o → ∃ v, exec (.wpt r) s = .next v ∧ RuleFiresA s (s.emit n 1 a.iss o ⟨.data, 7, 0, r.et, 0⟩) v r false) ∧
      (∀ k, opdOf r.dst = .k k → ∃ v, exec (.wpt r) s = .next v ∧
        RuleFiresA s (s.updA n (fun a => { a with iss := a.iss.setCtr k ((a.iss.counter k).write 0) })) v r false) ∧
      (opdOf r.dst = .null → ∃ v, exec (.wpt r) s = .next v ∧ RuleFiresA s s v r false)) ∧
    (3 ≤ (a.phases.filter (fun p => p.closed && !p.complete)).length → ∃ v, exec (.rels r) s = .next v ∧ v = s.abortRule n 1 (.refuse 2)) ∧
    (∀ o, opdOf r.dst = .ch o → (a.phases.filter (fun p => p.closed && !p.complete)).length < 3 →
      (∀ p rest, a.phases = rest ++ [p] → p.p = a.phase → p.closed = false → (∀ q ∈ rest, q.p ≠ a.phase) →
        ∃ v, exec (.rels r) s = .next v ∧
        RuleFiresA s (s.updA n (fun a => { a with
          phases := rest ++ [{ p with closed := true, out := o, et := r.et, since := a.nextId + 1 }], phase := a.phase + 1
          nextId := a.nextId + 1 })) v r true) ∧
      ((∀ q ∈ a.phases, q.p ≠ a.phase) → ∃ v, exec (.rels r) s = .next v ∧
        RuleFiresA s (s.updA n (fun b => { b with
          phases := a.phases ++ [⟨a.phase, [], 0, true, false, o, r.et, a.nextId + 1, []⟩], phase := a.phase + 1
          nextId := a.nextId + 1 })) v r true)) ∧
    (∀ i o h, opdOf r.srcA = .ch i → opdOf r.dst = .ch o → a.iss.head i = some h →
      let scope : BitVec 3 := match opdOf r.srcB with | .q k => (vget (0 : Word) a.iss.consts k).setWidth 3 | _ => 0
      let q : Acq := ⟨a.nextId + 1, (a.q.filter Req.undelivered).map (·.id), o, r.et, scope, false⟩
      let took : State := if r.deqs.contains i then s else s.updA n (fun b => { b with iss := a.iss.deq i })
      (h.kind = .null → ∃ v, exec (.acq r) s = .next v ∧ RuleFiresA s (took.emit n 1 a.iss o ⟨.null, 0, 0, r.et, 0⟩) v r false) ∧
      (h.kind ≠ .null → ∃ v, exec (.acq r) s = .next v ∧
        RuleFiresA s (took.updA n (fun b => { b with acqs := a.acqs ++ [q], nextId := a.nextId + 1 })) v r true))

/-- A closed phase and an acquire pass the issue stage in class 5 and end with an order token (R235, R236, R257, R294). -/
def Obligations.PhasesAndAcquiresComplete : Prop :=
  ∀ (s : State) (n : Nat), let a := s.aset n
    (∀ p arb, s.recordDue n = false → a.iss.issuing = true → (∀ g, g < 4 → a.copyHead g = none ∧ s.stageHead n g = none) →
      s.nodeRequests n = [] → a.acqHead = none → a.phases.find? (fun p => p.closed && !p.complete && !p.sent && p.allOut) = some p →
      (s.cell n).aArb.decide (s.cell n).need.qwgt [⟨5, slackMax, p.since, n, 4, false⟩] = some (0, arb) →
      ∃ t, exec (.issueStageDecision n) s = .next t ∧
      t = { s with cells := t.cells, phaseMsgs := s.phaseMsgs ++ p.dests.map (fun d => ⟨d.1, s.phaseSrc n, p.p, d.2⟩) } ∧
      t.cell n = { s.cell n with aArb := arb, decided := s.islandCycle n + 1, a := { (s.cell n).a with
        act := { a with phases := a.phases.map (fun h => if h = p then { h with sent := true } else h) } } }) ∧
    (∀ q rest arb, s.recordDue n = false → (∀ g, g < 4 → a.copyHead g = none ∧ s.stageHead n g = none) → s.nodeRequests n = [] →
      (a.iss.issuing = true → a.relsHead = none) → a.acqs = q :: rest → q.served = false → (∀ x ∈ a.q, x.id ∉ q.reads) →
      (s.cell n).aArb.decide (s.cell n).need.qwgt [⟨5, slackMax, q.id, n, 4, false⟩] = some (0, arb) →
      ∃ t, exec (.issueStageDecision n) s = .next t ∧
        t = (s.updCell n (fun c => { c with aArb := arb, decided := s.islandCycle n + 1 })).updA n (fun a => { a with
          acqs := { q with served := true } :: rest })) ∧
    (∀ p rest, a.phases = p :: rest → p.closed = true → p.total = 0 ∨ (p.sent = true ∧ ∀ d ∈ p.dests, p.ackd.contains d.1 = true) →
      (s.cell n).routeFree 6 (vget none a.iss.routes p.out) = true →
      ∃ t, exec (.relsDone n) s = .next t ∧
        t = (s.emit n 1 a.iss p.out ⟨.order, 1, 0, p.et, (BitVec.ofNat 64 (p.p.toNat + p.total * 2 ^ 32)).setWidth 512⟩).updA n
          (fun a => { a with phases := rest })) ∧
    (∀ k m c, s.phaseMsgs[k]? = some m →
      s.phaseCnts.find? (fun c => c.dest == m.dest && c.src == m.src && c.p == m.p) = some c → m.count ≤ c.n →
      ∃ t, exec (.phaseCount k) s = .next t ∧
        t = { s with
          cells := t.cells, phaseMsgs := s.phaseMsgs.eraseIdx k
          phaseCnts := s.phaseCnts.filter (fun c => !(c.dest == m.dest && c.src == m.src && c.p == m.p)) } ∧
        (n < 512 → s.phaseSrc n = m.src → t.aset n = { a with phases := a.phases.map (fun h =>
          if h.p = m.p ∧ h.sent = true ∧ h.complete = false then { h with ackd := m.dest :: h.ackd } else h) }) ∧
        (s.phaseSrc (m.src % 512) ≠ m.src → t.cells = s.cells)) ∧
    (∀ q rest, a.acqs = q :: rest → q.served = true → (s.cell n).routeFree 6 (vget none a.iss.routes q.out) = true →
      ∃ t, exec (.acqDone n) s = .next t ∧
        t = (s.emit n 1 a.iss q.out ⟨.order, q.scope, 0, q.et, 0⟩).updA n (fun a => { a with acqs := rest }))

/-- The issue stage picks a request, holds and releases it, adopts hold figures and completes walks (R226, R257, R258, R263, R272; rests on the model's log entries 6, 36). -/
def Obligations.RequestsLeaveTheIssueStage : Prop :=
  ∀ (s : State) (n g : Nat) (q : Req), let a := s.aset n
    (∀ arb, s.recordDue n = false → (∀ k, k < 4 → a.copyHead k = none) → (∀ k, k < 4 → k ≠ g → s.stageHead n k = none) → g < 4 →
      s.stageHead n g = some q → s.ordered n q = true → s.isHeld n q = false → q.writeHalf = false → ((a.tmpl g).space = .virt →
        (tlbFind (s.cell n).utlb (s.reachJob a.iss.reach) q.addrNow q.accessNow).isSome = true ∨
        s.canMiss n (s.reachJob a.iss.reach) (q.addrNow / 4096) = true) →
      (a.iss.issuing = true → a.relsHead = none) → a.acqHead = none → s.nodeRequests n = [] →
      (s.cell n).aArb.decide (s.cell n).need.qwgt [⟨q.cls.toNat, s.reqSlack n q, q.id, n, g,
        ((a.q.find? (fun x => x.g == g && x.stage == .queued && q.id < x.id)).map (fun x => !s.isHeld n x)).getD false⟩] = some (0, arb) →
      ∃ t, exec (.issueStageDecision n) s = .next t ∧
        t = (s.updCell n (fun c => { c with aArb := arb, decided := s.islandCycle n + 1 })).leave n q) ∧
    (s.recordDue n = false → g < 4 → (∀ k, k < g → a.copyHead k = none) → a.copyHead g = some q → s.canLeave n q = true →
      ∃ t, exec (.issueStageDecision n) s = .next t ∧ t = s.leave n q) ∧
    ((a.tmpl q.tmplNow).space = .stream →
      s.leave n q = s.updA n (fun a => a.updReq q.id (fun r =>
        { r with stage := .answered, counted := true, ans := some { q.tok with vchan := (a.tmpl q.tmplNow).vchan } }))) ∧
    (∀ d off, (a.tmpl q.tmplNow).space = .sram → s.sramTarget n a.iss.reach (BitVec.ofNat 64 q.addrNow) = .ok (d, off) →
      let p := (a.tmpl q.tmplNow).homePort
      d < 512 → p < 4 → ((s.leave n q).port d p).q = (s.port d p).q ++ [s.placedOf n q (q.writeHalf || q.kind == .write) off (s.islandCycle d)] ∧
      ((s.leave n q).port d p).accept = (s.port d p).accept + 1 ∧
      ((s.leave n q).aset n).seq = a.seq + (if q.seq.isSome then 1 else 0)) ∧
    (s.stageHead n g = some q → q.marked = true → q.unheld = false → 64 ≤ q.held → (s.cell n).need.holdMax ≤ q.held →
      ∃ t, exec (.holdRelease n g) s = .next t ∧
        t = (s.updA n (fun a => a.updReq q.id (fun r => { r with unheld := true }))).updCell n (fun c => { c with
          need := { c.need with holdrel := (c.need.holdrel + 1) % 2 ^ 32 } })) ∧
    (∃ t, exec (.holdAdopt n) s = .next t ∧ OnlyCell n s t ∧ t.cell n = { s.cell n with hold := (t.cell n).hold, holdSince := none } ∧
      (∀ d p, d ∈ (s.job (s.cellJob n)).cells → p < 4 → (t.cell n).adopted d p = vget 0x2000 (s.cell d).need.hold p) ∧
      (∀ d p, d ∉ (s.job (s.cellJob n)).cells → p < 4 → (t.cell n).adopted d p = (s.cell n).adopted d p)) ∧
    (∀ k w e st sa, s.walks[k]? = some w → ((s.walks.take k).filter (fun x => x.die == w.die)).length < 64 →
      ∀ rs q0 c0 u, s.walkReqs w = (c0, q0) :: rs → s.dieTranslate w.die w.job q0.addrNow q0.accessNow = (u, some e, .ok st sa) →
      ∃ t, exec (.walkComplete k) s = .next t ∧
        t = (({ u with walks := s.walks.eraseIdx k } : State).cacheAt e ((c0, q0) :: rs)).walkEnd ((c0, q0) :: rs)
          (u.walkFault q0.accessNow (some e) (.ok st sa))) ∧
    (∀ rs f, (∀ e ∈ rs, f e.2 = none) → s.walkEnd rs f =
      rs.foldl (fun (s : State) e => s.updA e.1 (fun a => a.updReq e.2.id (fun q => { q with stage := q.again }))) s) ∧
    (∀ f cause code x, q.g = x.g → q.id < x.id → f q = some (cause, code) → s.walkEnd [(n, q), (n, x)] f =
      (s.freezeReq n q.id cause code .faulted).updA n (fun a => a.updReq x.id (fun r => { r with stage := .faulted, heldBy := q.id }))) ∧
    (∀ k w va kd e st sa u, s.walks[k]? = some w → ((s.walks.take k).filter (fun x => x.die == w.die)).length < 64 →
      s.walkReqs w = [] → w.own = some (va, kd) → s.dieTranslate w.die w.job va kd = (u, some e, .ok st sa) →
      ∃ t, exec (.walkComplete k) s = .next t ∧ t = { u with walks := s.walks.eraseIdx k }) ∧
    (∀ k w cause code, s.walks[k]? = some w → ((s.walks.take k).filter (fun x => x.die == w.die)).length < 64 →
      ∀ c0 u x, s.walkReqs w = [(c0, q)] → s.dieTranslate w.die w.job q.addrNow q.accessNow = (u, x, .fault cause code) →
      ∃ t, exec (.walkComplete k) s = .next t ∧ let v : State := { u with walks := s.walks.eraseIdx k }
        t = (match x with | some e => v.cacheAt e [(c0, q)] | none => v).freezeReq c0 q.id cause code .faulted)

/-- Reads are delivered in order, stack requests are answered or applied, atomics are performed (R228, R254, R292; rests on the model's log entries 6, 13). -/
def Obligations.RequestsAreServed : Prop :=
  ∀ (s : State) (n g : Nat) (q : Req) (tok : Token), let a := s.aset n; let t := a.tmpl g
    (a.q.find? (fun q => q.g == g && q.streams) = some q → q.stage = .answered → q.ans = some tok → t.hasStream = true →
      (s.cell n).routeFree 6 (some t.route) = true → ∃ v p, exec (.readDeliver n g) s = .next v ∧
        p.tok = { tok with vchan := t.vchan } ∧ p.src = BitVec.ofNat 9 n ∧
        p.srck = BitVec.ofNat 5 (1 + 4 * (Config.streamChannel (4 * n + g)).toNat) ∧ p.dst = BitVec.ofNat 9 t.dst ∧
        p.dstk = BitVec.ofNat 5 (t.dkind + t.chan * 4) ∧ p.cls = t.cls ∧ p.marked = q.marked ∧ p.mark = q.mark ∧
        v = (s.pushPacket n 6 p).updA n (fun a =>
          (a.dropReq q.id).setTmpl g (fun t => { t with delivered := t.delivered + (if q.kind = .s2s then 0 else 1) }))) ∧
    (∀ k i p u, s.stackPick k = some (i, p, u) → s.reqOf p = some q → p.cell = n →
      (match q.kind with | .atom _ _ _ _ => False | _ => True) →
      (p.write = false → (u.stackTake k i).hbmBad k p.addr = false → ∃ v, exec (.hbmRequest k) s = .next v ∧
        let w := u.stackTake k i
        v = (w.countAccess k p.addr).answer n q ⟨.data, ((w.aset n).tmpl q.g).fmt, ((w.aset n).tmpl q.g).vchan, q.tag, w.hbmUnit k p.addr⟩) ∧
      (p.write = true → q.writeHalf = false → ∃ v, exec (.hbmRequest k) s = .next v ∧
        v = ((u.stackTake k i).writeAt (s.reachJob (s.aset n).iss.reach) q.addrNow k p.addr 64 q.tok.payload.toNat).applied n q
          (4096 + k) true)) ∧
    (∀ op sc out et, q.kind = .atom op sc out et → a.req? q.id = some q → q.stage = .answered → q.ans = some tok →
      (s.cell n).routeFree 6 (vget none a.iss.routes out) = true → ∃ v, exec (.atomPerformed n q.id) s = .next v ∧
        v = (s.emit n 1 a.iss out tok).updA n (fun a => a.dropReq q.id)) ∧
    (∀ op sc out et d off i p u, q.kind = .atom op sc out et → a.req? q.id = some q → q.stage = .placed →
      (a.tmpl q.g).space = .sram → s.sramTarget n a.iss.reach (BitVec.ofNat 64 q.addr) = .ok (d, off) →
      s.portPick d (a.tmpl q.g).homePort = some (i, p, u) → p.cell = n → p.id = q.id → (s.port d (a.tmpl q.g).homePort).role = 1 →
      s.sramBad d p.addr = false →
      let key := d * 2 ^ 22 + p.addr + 8 * q.atomWord; let old := memWord s.sram key
      ∃ v w, exec (.atomPerformed n q.id) s = .next v ∧ v = w.emitAtom n q.id ∧
        w = ((u.portTake d (a.tmpl q.g).homePort i).sramPut d p.addr
          (memUnit (memWrite s.sram key 8 (amoNew op old (q.tok.payload.setWidth 64)).toNat) (d * 2 ^ 22 + p.addr))).answer n q
            ⟨.order, sc, 0, et, old.setWidth 512⟩)

/-- Progress broadcasts, pace updates and arriving progress records (R250, R251, R253, R261, R263; rests on the model's log entries 4, 18). -/
def Obligations.ProgressPlane : Prop :=
  ∀ (s : State) (n : Nat), let cs := s.cset n; let t := s.islandCycle n
    let takesPart : Prop := cs.iss.run ≠ .off ∧ cs.iss.run ≠ .waiting ∧ cs.iss.run ≠ .saved
    (takesPart → (s.cell n).island.busy = false → cs.nextRecord ≤ t → t < cs.nextPace → (∀ p ∈ s.recordsOut, p.2.cell ≠ n) →
      ∃ v, exec (.progressBroadcast n) s = .next v ∧
      let rec1 (k : Nat) : Record := ⟨cs.iss.reach, n, k, (cs.iss.counter k).val, (cs.iss.counter k).pace,
        cs.iss.run == .running && (cs.iss.counter k).starved && !(cs.iss.counter k).changed && !cs.firstRecord⟩
      v = { s with
        cells := v.cells
        recordsOut := s.recordsOut ++ ((List.range 8).filter (fun k => (cs.iss.counter k).prog)).flatMap (fun k =>
          (s.job (s.reachJob cs.iss.reach)).cells.map (fun d => (d, rec1 k))) } ∧
      v.cset n = { cs with
        firstRecord := false, nextRecord := t + 64
        iss := { cs.iss with ctr := cs.iss.ctr.map (fun k => { k with changed := false, starved := true }) } }) ∧
    (takesPart → cs.nextPace ≤ t → ∃ v, exec (.paceUpdate n) s = .next v ∧ OnlyCell n s v ∧
      v.cset n = { cs with iss := (v.cset n).iss, nextPace := t + 256 } ∧
      (v.cset n).iss = { cs.iss with ctr := (v.cset n).iss.ctr } ∧
      ∀ k, k < 8 → let c := cs.iss.counter k
        (v.cset n).iss.counter k = if c.prog then
          { c with pace := BitVec.ofNat 16 (min (c.pace.toNat - c.pace.toNat / 4 + 4 * c.delta) 65535), delta := 0 } else c) ∧
    (∀ i r, s.recordsOut[i]? = some (n, r) →
      (∀ p ∈ s.recordsOut.take i, ¬ (p.1 = n ∧ p.2.reach = r.reach ∧ p.2.cell = r.cell ∧ p.2.ctr = r.ctr)) →
      (s.cell n).decided ≠ s.islandCycle n + 1 →
      let see (x : Xfer) : Xfer := if x.late = none ∧ x.mcell = r.cell ∧ x.mctr = r.ctr ∧ (r.value - x.mark).toNat < 2 ^ 31
        then { x with late := some (r.value, t) } else x
      let node (q : NodeReq) : NodeReq := if q.marked then { q with x := see q.x } else q
      ∃ v, exec (.progressRecordArrival i) s = .next v ∧ v = { s with cells := v.cells, recordsOut := s.recordsOut.eraseIdx i } ∧
        (v.cell n).records = (s.cell n).records.filter (fun q => !(q.reach == r.reach && q.cell == r.cell && q.ctr == r.ctr)) ++ [r] ∧
        (v.aset n).xfers = (if (s.aset n).iss.reach = r.reach then (s.aset n).xfers.map see else (s.aset n).xfers) ∧
        (v.cell n).nodes = (s.cell n).nodes.map (fun d =>
          if d.reach = r.reach then { d with rd := d.rd.map node, wr := d.wr.map node, flight := d.flight.map node } else d))

/-- The port words PBIND, PFIFO, PRDX, PSPU, PNUL, PBAR, PFE, PWPX, PORD, PCNT, PSPL and PCLR (R238, R242, R243, R245, R247, R248, R289; rests on the model's log entries 16, 42, 56). -/
def Obligations.PortWords : Prop :=
  ∀ (s : State) (w : PortWord), let n := s.focus.cell; let k := w.port.toNat; let m := s.port n k; let q (t : State) := t.port n k
    let u := s.forget (m.reorder.map (·.2.2) ++ m.spu.flatMap (·.reqs)); let p := u.port n k
    let off := bitsN w.ops 0 16; let len := if bitsN w.ops 16 16 = 0 then 65536 else bitsN w.ops 16 16
    let fresh : MPort := { MPort.reset with
      off := off, len := len, q := p.q, ldsy := p.ldsy, outq := p.outq, accept := p.accept
      refused := p.refused + BitVec.ofNat 32 p.fifo.length, dup := p.dup, discardSeen := p.discardSeen, frozen := p.frozen
      reached := p.reached }
    (∀ e ∈ ([(.pbind w, { fresh with role := 1, acc := bits w.ops 32 2 }), (.pfifo w, { fresh with role := 2 }),
        (.prdx w, { fresh with role := 3, op := bits w.ops 32 4, fmt := bits w.ops 36 3, emit := bitB w.ops 39 }),
        (.pspu w, { fresh with role := 6, op := bits w.ops 32 4, fmt := bits w.ops 36 3 }), (.pnul w, { fresh with role := 12 })] :
        List (Instr × MPort)), ∃ t, exec e.1 s = .next t ∧ OnlyCell n u t ∧ q t = e.2) ∧
    (m.reorder = [] → m.spu = [] → u = s) ∧
    (∀ e ∈ ([(.pfe w, 1, { m with fe := true, feOff := off, feLen := len, feInit := bitB w.ops 32, feBits := [] }),
        (.pwpx w, 1, { m with
          wpx := true, wpOff := off, wpLen := len, wtag := bits w.ops 32 5, push := bitB w.ops 37, wp := 0 }),
        (.pord w, 6, { m with ord := bitB w.ops 32 }),
        (.pcnt w, 1, { m with cntTarget := bits w.ops 0 32, cntTag := bits w.ops 32 5, cnt := 0 })] : List (Instr × Nat × MPort)),
      ∃ t, exec e.1 s = .next t ∧ OnlyCell n s t ∧ q t = if m.role = e.2.1 then e.2.2 else m) ∧
    (bitB w.ops 32 = false → ∃ t, exec (.pbar w) s = .next t ∧ OnlyCell n u t ∧ q t = { fresh with role := 8 }) ∧
    (bitB w.ops 32 = true → Memory.wf u.sram = true → ∃ t, exec (.pbar w) s = .next t ∧ (q t).role = 8 ∧
      ∀ i, i < len → let key := n * 2 ^ 22 + (off + i) * 64
        let quiet : Prop := (u.cell n).entriesOf key = [] ∧ ∀ x, x < 4 → u.objArrived key x = 0
        (∀ a, key + 8 ≤ a → a < key + 64 → memGet t.sram a = 0) ∧
        (t.objWord key 0).setWidth 33 = 0 ∧ (t.objBroken key = true ↔ ¬ quiet) ∧ (t.cell n).entriesOf key = []) ∧
    (bitB w.ops 32 = true → Memory.wf u.sram = true → let t := s.doPbar n w none
      (q t).role = 8 ∧ ∀ a, n * 2 ^ 22 + off * 64 ≤ a → a < n * 2 ^ 22 + (off + len) * 64 → memGet t.sram a = 0) ∧
    (∃ t, exec (.pspl w) s = .next t ∧ OnlyCell n s t ∧
      t.mset n = { s.mset n with page := bits w.ops 0 40, npage := bits w.ops 40 16 }) ∧
    (let x := if bitB w.ops 2 then s.forget (m.reorder.map (·.2.2)) else s; let p := x.port n k
      ∃ t, exec (.pclr w) s = .next t ∧ OnlyCell n x t ∧
      q t = { p with
        discardSeen := false, feInit := p.feInit && !(bitB w.ops 0 && p.fe)
        feBits := if bitB w.ops 0 && p.fe then [] else p.feBits, cnt := if bitB w.ops 1 then 0 else p.cnt
        wp := if bitB w.ops 2 then 0 else p.wp, reorder := if bitB w.ops 2 then [] else p.reorder
        fifo := if bitB w.ops 4 then [] else p.fifo
        refused := if bitB w.ops 4 then p.refused + BitVec.ofNat 32 p.fifo.length else p.refused } ∧
      (t.cell n).hwm = if bitB w.ops 3 then (x.cell n).hwm.filter (fun h => h.port != k) else (x.cell n).hwm)

/-- A port serves its requests in its role: reads, writes, copy channels, reduce-stores and their window, LDSY (R239, R241, R242, R246, R247, R248, R279; rests on the model's log entries 38, 41, 46, 48). -/
def Obligations.PortsServeRequests : Prop :=
  (∀ (s : State) (n k i : Nat) (w : State) (p : Placed) (u : State) (q : Req), let m := w.port n k; let v := u.portTake n k i
    let a := v.aset p.cell; let done (x : State) := x.applied p.cell q (4 * n + k) true
    k < 4 → PortServes s n k w → w.portPick n k = some (i, p, u) → w.reqOf p = some q →
    (q.kind ∉ [.ldsy false, .ldsy true] → (∀ op sc out et, q.kind ≠ .atom op sc out et) → p.write = false → w.sramBad n p.addr = false →
      (m.role = 1 ∨ m.role = 3 ∨ m.role = 6 ∨ m.role = 8 → exec (.portRequest n k) s = .next
        (v.answer p.cell q ⟨.data, (a.tmpl q.g).fmt, (a.tmpl q.g).vchan, q.tag, memUnit w.sram (n * 2 ^ 22 + p.addr / 64 * 64)⟩)) ∧
      (m.role = 0 ∨ m.role = 2 ∨ m.role = 12 → exec (.portRequest n k) s = .next
        (v.answer p.cell q ⟨.null, (a.tmpl q.g).fmt, (a.tmpl q.g).vchan, q.tag, 0⟩))) ∧
    (q.kind ∉ [.ldsy false, .ldsy true] → (∀ op sc out et, q.kind ≠ .atom op sc out et) → p.write = false → w.sramBad n p.addr = true →
      exec (.portRequest n k) s = .next (if m.role = 12
        then v.answer p.cell q ⟨.null, (a.tmpl q.g).fmt, (a.tmpl q.g).vchan, q.tag, 0⟩ else u.portBad n k q p.cell)) ∧
    (q.kind ∉ [.ldsy false, .ldsy true] → (∀ op sc out et, q.kind ≠ .atom op sc out et) → p.write = true →
      let data : BitVec 512 := if q.writeHalf then (q.ans.getD Token.zero).payload else q.tok.payload
      let tag := (a.tmpl q.tmplNow).vchan
      let plain (x : State) := done ((x.sramPut n p.addr data).updPort n k (fun m => m.count tag))
      let base := m.wpOff * 64; let off := p.addr - base
      let copy : Prop := m.wpx = true ∧ tag = m.wtag ∧ base ≤ p.addr ∧ p.addr < (m.wpOff + m.wpLen) * 64
      (m.role = 1 → ¬ copy → exec (.portRequest n k) s = .next (plain v)) ∧
      (m.role = 1 → copy → off < m.wp → exec (.portRequest n k) s = .next ((plain v).acknowledge p.cell n k)) ∧
      (m.role = 1 → copy → off = m.wp →
        let x := (((plain v).updPort n k (fun m => { m with wp := m.wp + 64 })).advanceWp n k 17).acknowledge p.cell n k
        exec (.portRequest n k) s = .next (x.updPort n k (fun m => if m.push then { m with pushq := some m.wp } else m))) ∧
      (m.role = 1 → copy → m.wp < off → exec (.portRequest n k) s = .next
        (v.updPort n k (fun m => { m with reorder := m.reorder ++ [(off, data, p)] }))) ∧
      (m.role ∈ [0, 2, 3, 12] → exec (.portRequest n k) s = .next (done v)) ∧
      (m.role = 6 → q.seq = none → exec (.portRequest n k) s = .next (done v)) ∧
      (m.role = 8 → exec (.portRequest n k) s = .next
        (done (v.writeObj n p.addr data (BitVec.ofNat 64 q.addrNow) (p.cell % 512 + 512)))) ∧
      (∀ seq, m.role = 6 → q.seq = some seq → let num := w.reachNumber (w.aset p.cell).iss.reach
        let dup := (w.cell n).hwm.any (fun h => h.port == k && h.reach == num && h.src == p.cell && seq ≤ h.mark)
        (dup = true → exec (.portRequest n k) s = .next (done (v.updPort n k (fun m => { m with dup := m.dup + 1 })))) ∧
        (dup = false → w.hwmFull n k num p.cell = true →
          exec (.portRequest n k) s = .next (done (v.updPort n k (fun m => { m with refused := m.refused + 1 })))) ∧
        (dup = false → w.hwmFull n k num p.cell = false → ∃ t, exec (.portRequest n k) s = .next t ∧
          ⟨k, num, p.cell, seq⟩ ∈ (t.cell n).hwm ∧
          (q.tok.lanes.length = lanesOf m.fmt.toNat → (t.port n k).spu =
            if m.ord = false ∧ ∃ e ∈ m.spu, e.off = p.addr then
              m.spu.map (fun e => if e.off = p.addr then { e with toks := e.toks ++ [q.tok], reqs := e.reqs ++ [p] } else e)
            else m.spu ++ [⟨p.addr, [q.tok], [p]⟩]) ∧
          (q.tok.lanes.length ≠ lanesOf m.fmt.toNat → (t.port n k).spu = m.spu ∧ (t.port n k).refused = m.refused + 1)))) ∧
    (∀ clear, q.kind = .ldsy clear →
      let read (y : State) := y.answer p.cell q ⟨.data, (a.tmpl q.g).fmt, (a.tmpl q.g).vchan, q.tag, memUnit w.sram (n * 2 ^ 22 + p.addr / 64 * 64)⟩
      (m.feUnit p.addr = none → w.sramBad n p.addr = false → m.role = 1 → exec (.portRequest n k) s = .next (read v)) ∧
      ∀ x, m.feUnit p.addr = some x →
        (m.feFull x = false ∨ (∃ l ∈ m.ldsy, l.addr / 64 = p.addr / 64) → exec (.portRequest n k) s = .next
          (v.updPort n k (fun m => { m with ldsy := m.ldsy ++ [p] }))) ∧
        (m.feFull x = true → (∀ l ∈ m.ldsy, l.addr / 64 ≠ p.addr / 64) →
          (w.sramBad n p.addr = true → exec (.portRequest n k) s = .next (u.portBad n k q p.cell)) ∧
          (w.sramBad n p.addr = false → m.role = 1 → exec (.portRequest n k) s = .next
            (if clear then (read v).updPort n k (fun m => { m with feBits := m.feBits.set x false }) else read v))))) ∧
  (∀ (s : State) (n k i : Nat), let m := s.port n k
    k < 4 → m.spu ≠ [] →
    (m.ord = true ∨ s.portPick n k = none → exec (.portRequest n k) s = .next (s.spuApply n k 0)) ∧
    (m.ord = false → (s.portPick n k).isSome = true → i < m.spu.length → (Config.openWord s.freeCount).toNat % (m.spu.length + 1) = i →
      exec (.portRequest n k) s = .next (s.drawn.spuApply n k i)) ∧
    (∀ e first rest, m.spu[i]? = some e → e.toks = first :: rest → s.portStands n k = false → m.stopped = false → s.sramBad n e.off = false →
      let f := m.fmt.toNat; let lane := (pspuOp m.op).lane (isIntFmt f); let resident := memUnit s.sram (n * 2 ^ 22 + e.off / 64 * 64)
      let stored : BitVec 512 :=
        if m.op.toNat = 3 then (first :: rest).foldl (fun u t => u ||| packRne f t.lanes) resident
        else if 4 ≤ m.op.toNat then packRne f (rest.getLastD first).lanes
        else packRne f (List.zipWith lane (decodeLanes f resident (fun _ => none))
          (rest.foldl (fun u t => List.zipWith lane u t.lanes) first.lanes))
      s.spuApply n k i = e.reqs.foldl (fun t r => match t.reqOf r with
        | some q => t.applied r.cell q (4 * n + k) true
        | none => t) ((s.sramPut n e.off stored).updPort n k (fun m => { m with spu := m.spu.eraseIdx i })))) ∧
  (∀ (s : State) (n k f : Nat), let m := s.port n k
    ((∀ e ∈ m.reorder, m.wp < e.1) → s.advanceWp n k f = s) ∧
    (∀ before e after, m.reorder = before ++ e :: after → (∀ b ∈ before, m.wp < b.1) → e.1 = m.wp →
      let x := s.updPort n k (fun m => { m with reorder := before ++ after, wp := m.wp + 64 })
      s.advanceWp n k (f + 1) = State.advanceWp
        ((x.portApply n k e.2.2 m.wtag (m.wpOff * 64 + e.1) e.2.1).acknowledge e.2.2.cell n k) n k f) ∧
    (∀ src r g, s.reach? (s.aset src).iss.reach = some r → g < 4 → let T := (s.aset src).tmpl g
      ((s.acknowledge src n k).aset src).tmpl g =
        if T.homePort = k ∧ r.absCell T.homeCell = some n ∧ T.mirror < BitVec.ofNat 32 m.wp then { T with mirror := BitVec.ofNat 32 m.wp } else T))

/-- Tokens at a port: the FIFO, the reduction, the null role, port-control tokens and what a port sends (R239, R240, R241, R244, R248, R260, R279; rests on the model's log entries 17, 47, 48, 82). -/
def Obligations.PortTokens : Prop :=
  ∀ (s : State) (n : Nat), let m := s.mset n
    (∀ sp p u, s.outPick n 5 0 (s.admitsM n) = some (sp, p, u) →
      let k := bitsN p.dstk 2 3
      let taken := match p.xfer with
        | some r => (u.takeSpot n sp).completeXfer r.cell r.g (BitVec.ofNat 32 r.reqno)
        | none => u.takeSpot n sp
      (m.run = .off → ∃ t, exec (.routeTokenAtPort n) s = .next t ∧ t = u.takeSpot n sp) ∧
      (m.run ≠ .off → p.tok.isMarker = false → p.tok.vchan ≠ 31 →
        (p.tok.nullish = false → s.mergeBad n k = true → ∃ t, exec (.routeTokenAtPort n) s = .next t ∧
          t = (s.updPort n k (fun q => { q with stopped := true })).event (s.reachJob m.reach) 0x0F 0 (n % 512 + 1024)
            (BitVec.ofNat 64 (n * 2 ^ 22 + (s.port n k).mergeOff)) 0 (BitVec.ofNat 64 (p.src.toNat + bitsN p.srck 0 2 * 2 ^ 9)) (some m.reach)) ∧
        (p.tok.nullish = true ∨ s.mergeBad n k = false →
          ((s.port n k).role = 2 → ∃ t, exec (.routeTokenAtPort n) s = .next t ∧
            t = taken.updPort n k (fun q => { q with fifo := q.fifo ++ [p], accept := q.accept + 1 })) ∧
          ((s.port n k).role = 3 → ∃ t, exec (.routeTokenAtPort n) s = .next t ∧
            t = (taken.updPort n k (fun q => { q with stopped := false })).reduceTok n k p) ∧
          ((s.port n k).role = 12 → ∃ t, exec (.routeTokenAtPort n) s = .next t ∧ t = taken) ∧
          ((s.port n k).role ∉ [2, 3, 12] → ∃ t, exec (.routeTokenAtPort n) s = .next t ∧ t = taken.discardTok n k p)))) ∧
    (∀ (d k : Nat) (p : Packet), let q := s.port d k; let off := (q.off + q.cnt.toNat % q.len) * 64
      p.tok.kind = .data → p.tok.lanes.length = lanesOf q.fmt.toNat → q.emit = false →
      (s.reduceTok d k p).sram = memWrite s.sram (d * 2 ^ 22 + off / 64 * 64) 64
        (packRne q.fmt.toNat (List.zipWith ((prdxOp q.op).lane false)
          (decodeLanes q.fmt.toNat (memUnit s.sram (d * 2 ^ 22 + off / 64 * 64)) (fun _ => none)) p.tok.lanes)).toNat) ∧
    (∀ sp p u, let entry : Word := vget 0 m.table (bitsN p.tok.word 0 3)
      let legal : Prop := bitB m.valid (bitsN p.tok.word 0 3) = true ∧ p.tok.word.toNat < 8 ∧
        ∀ r, attrRole (bitsN entry 58 6) = some r → r = (s.port n (bitsN entry 56 2)).role
      s.outPick n 5 0 (s.admitsM n) = some (sp, p, u) → m.run ≠ .off → p.tok.isMarker = false → p.tok.vchan = 31 →
      (legal → ∃ t, exec (.portControlToken n) s = .next t ∧
        t = ((u.takeSpot n sp).updPort n (bitsN p.dstk 2 3) (fun q => { q with accept := q.accept + 1 })).portWord n entry
          (some (tileUnit p.src.toNat (bitsN p.srck 0 2)))) ∧
      (¬ legal → ∃ t, exec (.portControlToken n) s = .next t ∧
        t = ((u.takeSpot n sp).updPort n (bitsN p.dstk 2 3) (fun q => { q with refused := q.refused + 1 })).tokenEvent n
          (bitsN p.dstk 2 3) 0x01 p)) ∧
    (∀ k r, let q := s.port n k
      q.reached = false → m.frozen = false → vget none m.routes k = some r → (s.cell n).routeFree 5 (some r) = true →
      (∀ x rest, q.outq = x :: rest → ∃ t, exec (.fifoSend n k) s = .next t ∧
        t = (s.updPort n k (fun q => { q with outq := rest })).emitM n k x) ∧
      (∀ w, q.outq = [] → q.pushq = some w → ∃ t, exec (.fifoSend n k) s = .next t ∧
        t = (s.updPort n k (fun q => { q with pushq := none })).emitM n k ⟨.data, 7, 0, 0, (BitVec.ofNat 64 w).setWidth 512⟩) ∧
      (∀ x rest, q.outq = [] → q.pushq = none → q.fifo = x :: rest → ∃ t, exec (.fifoSend n k) s = .next t ∧
        t = (s.updPort n k (fun q => { q with fifo := rest })).emitM n k x.tok)) ∧
    (∀ k i p q, let m := s.port n k; let v := s.updPort n k (fun m => { m with ldsy := m.ldsy.eraseIdx i })
      m.ldsy[i]? = some p → m.ldsyDue i = true → m.stopped = false → (s.mset n).frozen = false → s.reqOf p = some q →
      (s.sramBad n p.addr = true → m.role ≠ 12 → exec (.ldsyRelease n k i) s = .next (s.portBad n k q p.cell)) ∧
      (s.sramBad n p.addr = false → m.role = 1 →
      let z := v.answer p.cell q ⟨.data, ((s.aset p.cell).tmpl q.g).fmt, ((s.aset p.cell).tmpl q.g).vchan, q.tag,
        memUnit s.sram (n * 2 ^ 22 + p.addr / 64 * 64)⟩
      ∃ t, exec (.ldsyRelease n k i) s = .next t ∧ t = match q.kind, m.feUnit p.addr with
        | .ldsy true, some x => z.updPort n k (fun m => { m with feBits := m.feBits.set x false })
        | _, _ => z))

/-- A token enters its channel, hops to the neighbour, or is stopped and recorded by a breakwater (R82, R149, R151, R155, R161; rests on the model's log entry 4). -/
def Obligations.SwitchesCarryTokens : Prop :=
  ∀ (s : State) (n : Nat),
    (∀ kind sp p u, let x := s.issue n kind
      kind < 2 → s.outPick n (tilePort kind) 0 (s.tileAdmits n kind) = some (sp, p, u) → p.tok.isMarker = false →
      (x.run = .off → ∃ t, exec (.tokenArrival n kind) s = .next t ∧ t = u.takeSpot n sp) ∧
      (x.run ≠ .off → ∃ t, exec (.tokenArrival n kind) s = .next t ∧
        let v := (u.takeSpot n sp).updIssue n kind (fun x => x.enter (bitsN p.dstk 2 3) p)
        let w := if kind = 0 then v.updC n CSet.settle else v
        t = match p.xfer with
          | some r => w.completeXfer r.cell r.g (BitVec.ofNat 32 r.reqno)
          | none => w)) ∧
    (∀ (x : Issue) (k : Nat) (p : Packet), k < 8 → ((vget [] x.chans k).filter (fun p => !p.tok.isMarker)).length < 4 → (vget [] x.wave k) = [] →
      vget [] (x.enter k p).chans k = vget [] x.chans k ++ [p] ∧ x.enter k p = { x with chans := (x.enter k p).chans } ∧
      ∀ j, j ≠ k → vget [] (x.enter k p).chans j = vget [] x.chans j) ∧
    (∀ port link ok sp p u, port < 4 →
      ok = (fun (p : Packet) => s.linkOf n port p == link && (s.guarded n port || (match neighbour n port with
        | some m => ((s.cell m).inqAt (opposite port) p.cls.toNat link).length < 2
        | none => true))) →
      s.outPick n port link ok = some (sp, p, u) →
      (∀ m, neighbour n port = some m → (u.takeSpot n sp).guarded n port = false → ∃ t, exec (.switchHop n port link) s = .next t ∧
        t = (u.takeSpot n sp).updCell m (fun c => c.setInq (opposite port) p.cls.toNat link
          (c.inqAt (opposite port) p.cls.toNat link ++ [{ p with inport := opposite port, since := s.islandCycle m, ran := false, out := none }]))) ∧
      ((u.takeSpot n sp).guarded n port = true → vget none (s.cell n).drops port = none → ∃ t, exec (.switchHop n port link) s = .next t ∧
        (t.job p.job).bwdrop = satInc (s.job p.job).bwdrop ∧
        vget none (t.cell n).drops port = some ⟨p.job, p.reach, p.src, p.srck, p.dst, p.dstk, p.cls, p.tok.vchan, 1, p.tok.isMarker, s.islandCycle n⟩)) ∧
    (∀ p : Packet, let d := p.dst.toNat
      routedPort n p = if n % 32 < d % 32 then 1 else if d % 32 < n % 32 then 3 else if n / 32 < d / 32 then 2
        else if d / 32 < n / 32 then 0 else tilePort (bitsN p.dstk 0 2)) ∧
    (∀ p : Packet, p.out = none → (s.cell n).damaged = [] → (s.cell n).outPort n p = routedPort n p) ∧
    (∀ port d, vget none (s.cell n).drops port = some d → d.last + 1024 ≤ s.islandCycle n → ∃ t, exec (.breakwaterRecord n port) s = .next t ∧
      t = (s.event d.job 0x07 0 (n % 512 + 1536)
        (BitVec.ofNat 64 (d.src.toNat + bitsN d.srck 0 2 * 2 ^ 9 + bitsN d.srck 2 3 * 2 ^ 11 + d.dst.toNat * 2 ^ 16
          + bitsN d.dstk 0 2 * 2 ^ 25 + bitsN d.dstk 2 3 * 2 ^ 27 + d.cls.toNat * 2 ^ 32 + d.vchan.toNat * 2 ^ 35))
        (BitVec.ofNat 64 (d.count + (if d.marker then 2 ^ 32 else 0))) (BitVec.ofNat 64 (n + port * 2 ^ 9)) (some d.reach)).updCell n
          (fun c => { c with drops := vset c.drops port none }))

/-- A skerry kernel runs on the packet it matches and forwards, drops, redirects or traps (R56, R57, R58, R315, R316, R317, R318, R319, R320, R321, R322, R325). -/
def Obligations.SkerryKernels : Prop :=
  ∀ (s : State) (n key kn : Nat) (p : Packet) (k : Kernel), let c := s.cell n; let u := s.takeSpot n (.queue key)
    let out : Packet := { p with ran := true, since := s.islandCycle n }
    c.send = [] → c.skerryHead = some (key, p) → c.kernelFor (key / 32) p = some kn → c.k.act.kernels[kn]? = some k →
    (k.code = [0xC0000000#32] → ∃ t, exec (.skerryKernel n) s = .next t ∧
      t = u.updCell n (fun c => { c with send := [(c.tablePort n p, out)] })) ∧
    (k.code = [0xA8000000#32] → ∃ t, exec (.skerryKernel n) s = .next t ∧ t = u) ∧
    (k.code = [0xA0000004#32] → ∃ t, exec (.skerryKernel n) s = .next t ∧
      t = u.updCell n (fun c => { c with send := [(4, out)] })) ∧
    (∀ e : BitVec 8, k.code = [0xC4000000#32 + e.setWidth 32] → ∃ t, exec (.skerryKernel n) s = .next t ∧
      let v := u.event (u.cellJob n) 0x08 0 (n % 512 + 1536) (BitVec.ofNat 64 (e.toNat + kn * 2 ^ 9))
        (BitVec.ofNat 64 (p.src.toNat + p.dst.toNat * 2 ^ 9 + p.cls.toNat * 2 ^ 18 + p.tok.vchan.toNat * 2 ^ 21 + p.inport * 2 ^ 26))
        0 (some c.k.act.reach)
      t = v.updCell n (fun c => { c with send := if k.drop then [] else [(c.tablePort n p, { p with ran := true, since := v.islandCycle n })] })) ∧
    (∀ e, k.run s.tick (c.tablePort n p) 65
        ⟨Vector.replicate 16 0, Vector.replicate 4 0, p, c.k.act.flow, [], 0, if isSeam n 1 then 1 else if isSeam n 3 then 3 else 8⟩ = e →
      (∀ o r, e = .send o r → ∃ t, exec (.skerryKernel n) s = .next t ∧
        t = u.updCell n (fun c => { c with
          k := { c.k with act := { c.k.act with flow := r.flow } }
          send := (r.sends ++ [(o, r.p)]).map (fun x => (x.1, { x.2 with ran := true, since := s.islandCycle n })) })) ∧
      (∀ r, e = .drop r → ∃ t, exec (.skerryKernel n) s = .next t ∧
        t = u.updCell n (fun c => { c with
          k := { c.k with act := { c.k.act with flow := r.flow } }
          send := r.sends.map (fun x => (x.1, { x.2 with ran := true, since := s.islandCycle n })) })))

/-- COLL in its three forms, and the triggers, slots, units, engine commands and ends of collective nodes (R128, R327, R328, R329, R330, R331, R332, R333, R334, R335; rests on the model's log entries 60, 61). -/
def Obligations.CollectiveNodes : Prop :=
  (∀ (h b : Reg) (i : BitVec 8) (s : State), let c := s.focus.ctx; let x := s.ctx c; let hv := x.reg h; c < 64 →
    (∀ n k d, s.collTarget c hv i.toNat = .ok (some (n, k, d)) →
      (∃ t, exec (.collEnable h b i) s = .next t ∧
        t = (s.updNodeAt n k (fun d => { d with enabled := true, limit := max 256 (min (x.reg b).toNat 65536) })).updCtx c Context.advance) ∧
      (∃ t, exec (.collQuery h 0 i) s = .next t ∧ OnlyCtx c s t ∧
        t.ctx c = { x with
          cstate := BitVec.ofNat 2 d.cstate, ccount := BitVec.ofNat 32 d.count, st := .ready, wait := .none, pc := x.pc + 4,
          fetch := keptFetch x.fetch (x.pc + 4) }) ∧
      (∃ t, exec (.collAbort h b i) s = .next t ∧ t = (s.abortNode n k d.rank 1).updCtx c Context.advance)) ∧
    (∀ e, s.collTarget c hv i.toNat = .error e → ∀ j ∈ [Instr.collEnable h b i, .collQuery h 0 i, .collAbort h b i], ∀ w,
      encode j = some w → ∃ t, exec j s = .next t ∧ Traps s t c 4 hv (BitVec.ofNat 64 e) (BitVec.ofNat 64 w.toNat)) ∧
    (s.collTarget c hv i.toNat = .ok none → ∀ j ∈ [Instr.collEnable h b i, .collQuery h 0 i, .collAbort h b i],
      ∃ t, exec j s = .next t ∧ t = s.block c (.access .fence)) ∧
    (b ≠ 0 → ∀ w, encode (.collQuery h b i) = some w → ∃ t, exec (.collQuery h b i) s = .next t ∧ Traps s t c 1 (BitVec.ofNat 64 w.toNat) 0 0)) ∧
  (∀ (s : State) (n k : Nat) (d : CNode),
    (∀ tok, s.nodeWhere n (fun d => s.nodeLive n d && d.op.isNone && d.owed.isEmpty) = some (k, d) → (s.aset n).iss.head 7 = some tok →
      let u := s.updIssue n 1 (fun x => x.deq 7); let m := bitsN tok.payload 0 24; let lanes := m * lanesOf d.g2.fmt.toNat
      (tok.kind = .null → ∃ t, exec (.collectiveTrigger n) s = .next t ∧ t = u.updNodeAt n k (fun d => { d with owed := [nullTok 7 0] })) ∧
      (tok.kind = .order ∨ (tok.kind = .data ∧ m = 0) → ∃ t, exec (.collectiveTrigger n) s = .next t ∧
        t = u.updNodeAt n k (fun d => d.finished 0)) ∧
      (tok.kind = .data → m ≠ 0 → (d.kind = 6 → lanes % 128 = 0) → ∃ t, exec (.collectiveTrigger n) s = .next t ∧
        t = u.updNodeAt n k (fun d' => { d' with
          cstate := 1
          op := some ⟨m, if d.kind = 4 then (d.peers + 1) * m else if d.kind = 6 then lanes / 128 + (lanes / 128 + 7) / 8 else m, none,
            [], [], [], [], 0, 0, 0, Vector.replicate 4 0⟩ })) ∧
      (tok.kind = .data → m ≠ 0 → d.kind = 6 → lanes % 128 ≠ 0 → ∃ t, exec (.collectiveTrigger n) s = .next t ∧
        let w := Config.openWord s.freeCount
        t = (({ u with freeCount := s.freeCount + 1 } : State).updNodeAt n k (fun d => d.finished m)).event (s.reachJob d.reach) 0x04 0
          (n % 512 + 512) w w w (some d.reach))) ∧
    (∀ m, d.finished m = { d with
      op := none, cstate := 2, count := (d.count + 1) % 2 ^ 32, rd := none, wr := none
      owed := d.owed ++ [⟨.data, 7, 0, 0, ((BitVec.ofNat 64 m).setWidth 512)⟩] }) ∧
    (s.nodeWhere n CNode.complete = some (k, d) → ∃ t, exec (.collectiveDone n) s = .next t ∧
      t = s.updNodeAt n k (fun d' => d'.finished ((d.op.map (·.n)).getD 0))) ∧
    (∀ tok rest, s.nodeWhere n CNode.complete = none → s.nodeWhere n (fun d => s.nodeLive n d && !d.owed.isEmpty) = some (k, d) →
      d.owed = tok :: rest → (s.cell n).routeFree 6 (vget none (s.aset n).iss.routes 7) = true →
      ∃ t, exec (.collectiveDone n) s = .next t ∧
        t = (s.emit n 1 (s.aset n).iss 7 tok).updNodeAt n k (fun d => { d with owed := rest })) ∧
    (∀ r why, n < 512 → s.nodeOf (n + 512 * d.reach) = some (k, d) → d.shared = false →
      exec (.collectiveAbort (n + 512 * d.reach) r why) s = .next (if d.epoch = why / 8 then s.abortNode n k r (why % 8) else s)) ∧
    (∀ o first reason, s.nodeAt n k = some d → d.op = some o → ∃ d', (s.abortNode n k first reason).nodeAt n k = some d' ∧
      d'.op = none ∧ d'.cstate = 3 ∧ d'.epoch = d.epoch + 1 ∧ d'.slotEnd = d.slotEnd ∧ d'.frz = none ∧ d'.rd = none ∧ d'.wr = none ∧ d'.gate = [] ∧
      d'.pinUntil = some (s.tick + 1000000) ∧ nullTok 7 0 ∈ d'.owed) ∧
    (n < 512 → s.nodeOf (n + 512 * d.reach) = some (k, d) → d.pinUntil.isSome = true →
      ∃ t, exec (.pinRelease (n + 512 * d.reach)) s = .next t ∧ OnlyCell n s t ∧ t.cell n = { s.cell n with
        nodes := ((s.cell n).nodes.modify k (fun d => { d with pinUntil := none, pins := [] })).filter (fun d => (s.reach? d.reach).isSome) })) ∧
  (∀ s : State, s.tide + 256 ≤ s.cycle → ∃ t, exec .tideSlotGrant s = .next t ∧ t = { s with cells := t.cells, tide := s.cycle } ∧
    ∀ n k d, s.nodeAt n k = some d →
      (t.nodeAt n k = some d ∨ t.nodeAt n k = some { d with slotEnd := some (s.cycle + d.slotLen) }) ∧
      (d.kind ≥ 5 ∨ d.enabled = false ∨ d.op = none ∨ (∃ e, d.slotEnd = some e ∧ s.cycle < e) → t.nodeAt n k = some d) ∧
      (d.kind < 5 → d.enabled = true → d.op ≠ none → (∀ e, d.slotEnd = some e → e ≤ s.cycle) → s.gatewayBusy d = false →
        (∀ p ∈ s.cells, ∀ j e, p.2.nodes[j]? = some e → (p.1, j) ≠ (n, k) → ∀ g ∈ e.gws, g ∉ d.gws) →
        t.nodeAt n k = some { d with slotEnd := some (s.cycle + d.slotLen) })) ∧
  (∀ (d : CNode) o, d.op = some o → d.slotLen = max 256 (min (((o.total - o.written) * 1024 + d.rate - 1) / d.rate) d.limit)) ∧
  (∀ (s : State) (n k : Nat) (d : CNode),
    s.nodeWhere n (fun d => match d.slotEnd with | some t => t ≤ s.cycle | none => false) = some (k, d) →
    ∃ t, exec (.collectiveSlotEnd n) s = .next t ∧ t = s.updNodeAt n k (fun d => { d with slotEnd := none })) ∧
  (∀ (s : State) (n k : Nat) (d : CNode) (pos epoch u : Nat) (v : Unit64), 1 ≤ pos → pos ≤ 3 → n < 512 →
    s.nodeOf (n + 512 * d.reach) = some (k, d) → d.shared = false →
    exec (.collectiveUnit (n + 512 * d.reach) (pos + 4 * epoch) u v) s = .next
      (if d.epoch = epoch then s.updNodeAt n k (fun d => { d with gate := d.gate ++ [(pos, u, v)] }) else s)) ∧
  (∀ (s : State) (n k i : Nat) (d : CNode) (o : COp) (x : Unit64), n < 512 → s.nodeOf (n + 512 * d.reach) = some (k, d) →
    d.op = some o → d.kind < 5 → s.inSlot d = true →
    let acts (t : State) : Prop := exec (.collectiveUnit (n + 512 * d.reach) 0 i x) s = .next t
    let up (w : State) (u : Nat) (v : Unit64) : State := if d.rank = 0
      then w.updNodeAt n k (fun d => d.updOp (fun o' => { o' with result := o'.result ++ [(u, v)] }))
      else { w with shoreOut := w.shoreOut ++ [⟨n, d.reach, d.epoch, (d.rank - 1) / 2, u, if d.rank % 2 = 1 then 1 else 2, 0, v⟩] }
    (∀ i pos u v, d.gateNext o = some (i, pos, u, v) → ∃ t, acts t ∧
      let w := s.updNodeAt n k (fun d => { d with
        gate := d.gate.eraseIdx i, op := d.op.map (fun o => { o with took := vset o.took pos (vget 0 o.took pos + 1) }) })
      t = if d.kind = 4 ∧ pos ≠ 3 ∧ d.rank ≠ 0 then up w u v else w.updNodeAt n k (fun d => d.takeUnit pos u v)) ∧
    (∀ v, d.gateNext o = none → d.kind < 3 → d.combined o = some v → ∃ t, acts t ∧
      let w := s.updNodeAt n k (fun d => d.updOp (fun o' => { o' with
        own := unitDrop o'.own o.nextUp, left := unitDrop o'.left o.nextUp, right := unitDrop o'.right o.nextUp, nextUp := o.nextUp + 1 }))
      t = up w o.nextUp v) ∧
    (∀ e rest, d.gateNext o = none → (d.kind < 3 → d.combined o = none) → d.wr = none → o.result = e :: rest → ∃ t, acts t ∧
      t = s.acceptUnit n k true false e.1) ∧
    (d.gateNext o = none → (d.kind < 3 → d.combined o = none) → d.wr ≠ none ∨ o.result = [] → d.rd = none → d.readsOwn o = true →
      ∃ t, acts t ∧ t = s.acceptUnit n k false false o.nextOwn)) ∧
  (∀ (d : CNode) o a l r, unitGet o.own o.nextUp = some a → unitGet o.left o.nextUp = some l → unitGet o.right o.nextUp = some r →
    2 * d.rank + 2 ≤ d.peers → d.combined o = some (d.combine (d.combine a l) r)) ∧
  (∀ (s : State) (n k : Nat) (d : CNode) (o : COp) (fb : Bool),
    n < 512 → s.nodeOf (n + 512 * d.reach) = some (k, d) → 5 ≤ d.kind → d.frz = none → d.op = some o →
    let acts (t : State) : Prop := exec (.engineCommand (n + 512 * d.reach) fb) s = .next t
    (o.engine = none → (fb = true → d.g3.marked = true) → ∃ t, acts t ∧
      t = (s.updJob (s.reachJob d.reach) (fun b => if fb then { b with fallbk := b.fallbk + 1 } else { b with engcmd := b.engcmd + 1 })).updNodeAt
        n k (fun d => d.updOp (fun o => { o with engine := some (!fb) }))) ∧
    (o.engine = none → fb = true → d.g3.marked = false → acts s) ∧
    (o.engine = some true → o.nextOwn < o.total → d.wr = none → ∃ t, acts t ∧ t = s.acceptUnit n k true false o.nextOwn) ∧
    (∀ r, o.engine = some true → o.nextOwn < o.total → d.wr = some r → o.nextOwn ≠ 0 ∨ s.engineFree n d = true → ∃ t, acts t ∧ t = (s.engineUnit n k d o r).1) ∧
    (o.engine = some false → d.kind = 5 → d.rd = none → o.nextOwn < o.total → acts (s.acceptUnit n k false true o.nextOwn)) ∧
    (o.engine = some false → d.kind ≠ 5 →
      (∀ o', d.quantNext o = some o' → acts (s.updNodeAt n k (fun d => { d with op := some o' }))) ∧
      (d.quantNext o = none → ∀ e rest, o.result = e :: rest → d.wr = none → acts (s.acceptUnit n k true false e.1)) ∧
      (d.quantNext o = none → d.wr ≠ none ∨ o.result = [] → d.rd = none → o.nextOwn < o.n → acts (s.acceptUnit n k false false o.nextOwn)))) ∧
  (∀ (d : CNode) (o : COp), let m := 128 / lanesOf d.g2.fmt.toNat; let data := o.n * lanesOf d.g2.fmt.toNat / 128; let u := o.nextUp
    (o.total ≤ u ∨ (u < data ∧ o.nextOwn < (u + 1) * m) → d.quantNext o = none) ∧
    (u < o.total → u < data → (u + 1) * m ≤ o.nextOwn →
      let q := quantUnit d.g2.fmt.toNat ((List.range m).filterMap (fun i => unitGet o.own (u * m + i)))
      ∃ o', d.quantNext o = some o' ∧ o'.result = o.result ++ [(u, q.1)] ∧ o'.left = o.left ++ [(u, q.2)] ∧ o'.nextUp = u + 1) ∧
    (u < o.total → data ≤ u → ∃ o', d.quantNext o = some o' ∧ o'.nextUp = u + 1 ∧
      o'.result = o.result ++ [(u, companionUnit o.left (u - data))])) ∧
  (∀ (s : State) (n k : Nat) (d : CNode) (o : COp) (r : NodeReq) (u w : State) (v : Unit64) (applied : Bool), d.kind = 5 → r.x.g ≠ 3 →
    s.nodeRead n k d o.nextOwn = (u, some v) → u.nodeWrite n k d r o.nextOwn v = (w, some applied) →
    s.engineUnit n k d o r = (((w.updNodeAt n k (fun d => { d with rd := none, wr := none })).wrote n k d r applied).updNodeAt n k (fun d =>
      d.updOp (fun o' => { o' with nextOwn := o.nextOwn + 1 })), true)) ∧
  (∀ (s : State) (n k : Nat) (d : CNode) (wr pair : Bool) (u : Nat), s.nodeAt n k = some d →
    let t := d.tmpl wr; let m := match d.op with | some o => if d.kind = 4 ∧ wr = true then u % o.n else u | none => u
    let q : NodeReq := ⟨u, (s.aset n).nextId + 1, ⟨if wr then 3 else 2, t.reqno, t.markOf (unitKv m), t.mcell, t.mctr, wr || pair, none⟩, t.marked, 0, false, false⟩
    ((s.acceptUnit n k wr pair u).aset n).nextId = (s.aset n).nextId + 1 ∧
    (s.acceptUnit n k wr pair u).nodeAt n k = some (if wr then { d with wr := some q, g3 := { d.g3 with reqno := d.g3.reqno + 1 } }
      else { d with rd := some q, g2 := { d.g2 with reqno := d.g2.reqno + 1 } }))

/-- Fault slots resume or kill; pages move up and down; working sets clear; TLB invalidations complete (R266, R273, R274, R275, R276, R277, R279, R281, R345, R347; rests on the model's log entries 52, 74, 87). -/
def Obligations.FaultsTiersAndInvalidations : Prop :=
  ∀ (s : State),
    (∀ job slot q, let f := Tbl.get FSlot.reset (s.job job).fslots slot
      f.isOpen = true → f.acc ≠ 4 → f.acc ≠ 5 → f.reqId ≠ 0 → (s.aset f.cell).req? f.reqId = some q → q.stage = .faulted →
      ∃ t, exec (.faultResume job slot f.gen) s = .next t ∧
        t = s.updA f.cell (fun a => a.updReq q.id (fun q => { q with stage := if q.writeHalf then .answered else .queued }))) ∧
    (∀ job slot q d off, let f := Tbl.get FSlot.reset (s.job job).fslots slot
      f.isOpen = true → f.acc ≠ 4 → f.acc ≠ 5 → f.reqId ≠ 0 → (s.aset f.cell).req? f.reqId = some q → q.stage = .placed →
      s.sramTarget f.cell (s.aset f.cell).iss.reach (BitVec.ofNat 64 q.addrNow) = .ok (d, off) →
      exec (.faultResume job slot f.gen) s = .next
        (s.updPort d ((s.aset f.cell).tmpl q.tmplNow).homePort (fun p => { p with frozen := false }))) ∧
    (∀ job slot, let f := Tbl.get FSlot.reset (s.job job).fslots slot
      f.isOpen = true →
      (f.acc = 4 ∨ f.acc = 5 → ∃ t, exec (.faultResume job slot f.gen) s = .next t ∧ t = { s with cells := t.cells, images := t.images } ∧
        t.cset f.cell = if (s.cset f.cell).spillSlot = some slot then { s.cset f.cell with spillFrz := none } else s.cset f.cell) ∧
      (f.acc ≠ 4 → f.acc ≠ 5 → f.reqId = 0 → ∃ t, exec (.faultResume job slot f.gen) s = .next t ∧
        t = s.updCell f.cell (fun c => { c with nodes := c.nodes.map (fun d => if d.frz = some (.slot slot) then { d with frz := none } else d) }))) ∧
    (∀ job slot gen, let f := Tbl.get FSlot.reset (s.job job).fslots slot
      f.isOpen = false ∨ f.gen ≠ gen → ∀ e ∈ [Instr.faultResume job slot gen, .faultKill job slot gen], ∃ t, exec e s = .next t ∧ t = s) ∧
    (∀ job slot r, let f := Tbl.get FSlot.reset (s.job job).fslots slot
      f.isOpen = true → s.slotReach f job slot = some r → s.swapHeld r.id = false →
      ∃ t, exec (.faultKill job slot f.gen) s = .next t ∧ t = s.tearDown r 3) ∧
    (∀ m rest k sa lv e w, s.moves = [] → s.misses = m :: rest → s.engineLeaf m.job (m.page * 2 ^ 21) = (w, .at k sa lv e) →
      s.leafOf m.job (m.page * 2 ^ 21) = some (k, sa, lv, e) →
      let top := s.poolBase.toNat * 4096 + 8 * (s.poolN.toNat - 1); let st := s.poolStk.toNat
      pteTier e = 1 → s.movable m.job m.page lv e = true → s.poolN ≠ 0 → s.stackOpen st = true → s.hbmBad st top = false →
      ∃ t, exec .moveUp s = .next t ∧ let u := (w.memErrDone m.job (m.page * 2 ^ 21) whoUndertow).countAccess st top
        t = { ({ u with poolN := s.poolN - 1 } : State).putEntry k sa ((e &&& ~~~0x300#64) ||| 0x200#64) with
          moves := [{ job := m.job, page := m.page, up := true, frame := s.hbmWord st top, wait := ⟨[], [], []⟩ }] }) ∧
    (∀ m w, s.moves = [m] → let va := m.page * 2 ^ 21; let frame := bitsN m.frame 12 28 * 4096; let stk := bitsN m.frame 40 4
      let waits : Prop := s.pageOpen m.job frame stk = false ∨ (m.up = false ∧ s.stillOut m.wait = true) ∨ s.stackOpen s.poolStk.toNat = false
      (waits ∨ s.engineLeaf m.job va = (w, .closed) → exec .pageMoveDone s = .next s) ∧
      (¬ waits → s.engineLeaf m.job va = (w, .none) → exec .pageMoveDone s = .next { w with moves := [] }) ∧
      (∀ k sa, ¬ waits → s.engineLeaf m.job va = (w, .bad k sa) → exec .pageMoveDone s = .next (s.memError w m.job va sa 2 k 0x001)) ∧
      ∀ k sa lv e, ¬ waits → s.engineLeaf m.job va = (w, .at k sa lv e) →
        let v := w.memErrDone m.job va 0x001; let home := (v.job m.job).home m.page
        let bad (u : State) (i bs : Nat) : State := State.pageBack { (u.putEntry k sa (pteTierTo e (if m.up then 1 else 0))).event m.job 0x0F 2 0x001
          (BitVec.ofNat 64 (frame + 64 * i)) (BitVec.ofNat 64 (3 + 16 * bs)) 0x001 none with moves := [] } m.job m.page
        (m.up = true → v.copyFails m.job frame stk true = none → exec .pageMoveDone s = .next (State.pageBack
          { ((v.copyPage m.job home frame stk true).putEntry k sa (pteTierTo (pteFrameTo e (frame / 4096) stk) 0)).updJob m.job
            (fun b => { b with upcnt := b.upcnt + 1 }) with moves := [] } m.job m.page)) ∧
        (∀ i bs, m.up = true → v.copyFails m.job frame stk true = some (i, bs) → exec .pageMoveDone s = .next
          (bad ((v.copyUnits m.job home frame stk i true).poolPush m.frame) i bs)) ∧
        (m.up = false → v.copyFails m.job frame stk false = none → exec .pageMoveDone s = .next
          { (((v.copyPage m.job home frame stk false).putEntry k sa (pteTierTo (pteFrameTo (e &&& ~~~0x40#64) 0 0) 1)).updJob m.job
            (fun b => { b with dncnt := b.dncnt + 1 })).poolPush m.frame with moves := [] }) ∧
        (∀ i bs, m.up = false → v.copyFails m.job frame stk false = some (i, bs) → let u := v.copyUnits m.job home frame stk i false
          (u.place m.job stk (frame + 64 * i) = none → exec .pageMoveDone s = .next (bad u i bs)) ∧
          ∀ k' sa', u.place m.job stk (frame + 64 * i) = some (k', sa') → exec .pageMoveDone s = .next
            (bad ((u.countAccess k' sa').noteBad k') i bs))) ∧
    (∀ (v : State) (f : Word), v.poolN.toNat < v.poolCap.toNat → let sa := v.poolBase.toNat * 4096 + 8 * v.poolN.toNat
      v.poolPush f = { (v.hbmPut v.poolStk.toNat sa 8 f.toNat).countAccess v.poolStk.toNat sa with poolN := v.poolN + 1 }) ∧
    (∀ i m, s.misses[i]? = some m → (s.job m.job).tierto ≠ 0 → m.last + 1000 * (s.job m.job).tierto.toNat ≤ s.tick →
      ∃ t, exec (.tierTimeout i) s = .next t ∧
        let u := s.event m.job 0x0D m.ukind.toNat m.unit.toNat m.va (if s.poolN = 0 then 1 else 0) 0 (if m.reach = 0 then none else some m.reach)
        t = { u with misses := u.misses.map (fun x => if x.job = m.job ∧ x.page = m.page then { x with last := u.tick } else x) }) ∧
    (∀ job a rest c, c = TierCmd.down ∨ c = TierCmd.up → s.misses = [] → s.moves = [] → s.tiers = ⟨job, c, a⟩ :: rest →
      s.stackOpen (s.job job).wstk.toNat = true →
      let run := if c = .down then Instr.down job else .up job
      let start (u : State) (g : Nat) : Start := if c = .down then u.startDown job g else u.startUp job g
      ((s.wsEntries job).filter (fun e => a ≤ e.1) = [] → ∃ t, exec run s = .next t ∧ t = { s with tiers := rest }) ∧
      (∀ i g l v, (s.wsEntries job).filter (fun e => a ≤ e.1) = (i, g) :: l → (s.job job).inTier (g * 2 ^ 21) = true →
        let k := (s.job job).wstk.toNat; let sa := (s.job job).wsa.toNat * 2 ^ 21 + 8 * i
        s.hbmBad k sa = false → start ((s.memErrDone job sa whoUndertow).countAccess k sa) g = .go v →
        ∃ t, exec run s = .next t ∧ t = { v with tiers := ⟨job, c, i + 1⟩ :: v.tiers.tail })) ∧
    (∀ job page k sa lv e w, s.engineLeaf job (page * 2 ^ 21) = (w, .at k sa lv e) →
      (pteTier e ≠ 0 ∨ ptePin e = true ∨ pageSize e lv ≠ 2 ^ 21 ∨ s.pinned job page = true → s.startDown job page = .skip w) ∧
      (pteTier e ≠ 1 ∨ ptePin e = true ∨ pageSize e lv ≠ 2 ^ 21 → s.startUp job page = .skip w)) ∧
    (∀ job i rest, s.moves = [] → s.tiers = ⟨job, .wsclr, i⟩ :: rest → s.stackOpen (s.job job).wstk.toNat = true →
      ∃ t, exec (.wsclr job) s = .next t ∧
        t = { s with tiers := rest, hbm := t.hbm, pcreq := t.pcreq, pcNow := t.pcNow } ∧
        t.hbm = (s.wsEntries job).foldl (fun m e =>
          memWrite m (s.hbmKey (s.job job).wstk.toNat ((s.job job).wsa.toNat * 2 ^ 21 + 8 * e.1)) 8 0) s.hbm) ∧
    (∀ job v, 1 ≤ job → job ≤ 63 → bitB v 0 = true → (s.job job).inv = none →
      let all := bitB v 1; let size := invSize (bitsN v 2 2); let va := bitsN v 12 40 * 4096 / size * size
      ∃ t, exec (.tlbinv job v) s = .next t ∧
        t = { s with cells := t.cells, cores := t.cores, dtlb := t.dtlb, jobs := t.jobs } ∧
        t.job job = { s.job job with inv := some (all, va, size, s.sentThrough job all va size) } ∧
        (∀ n e, (e ∈ (t.cell n).utlb → e ∈ (s.cell n).utlb) ∧ (e ∈ (t.core n).utlb → e ∈ (s.core n).utlb) ∧
          (e ∈ vget [] t.dtlb n → e ∈ vget [] s.dtlb n)) ∧
        (∀ n e, (n < 8 ∧ e ∈ (t.core n).utlb) ∨ (n < 2 ∧ e ∈ vget [] t.dtlb n) ∨ (∃ c, (n, c) ∈ t.cells ∧ e ∈ c.utlb) →
          ¬ (e.job = job ∧ (all = true ∨ (e.page * e.size < va + size ∧ va < (e.page + 1) * e.size))))) ∧
    (∀ job all va size n q, n ∈ (s.job job).cells → q ∈ (s.aset n).q → q.stage = .placed ∨ q.stage = .cpyWrite →
      ((s.aset n).tmpl q.tmplNow).space = .virt → let a := q.addrNow
      (all = true ∨ (va ≤ a ∧ a < va + size) ∨ ∃ e ∈ s.tlbHits job all va size, a / e.size = e.page) →
      (n, q.id) ∈ (s.sentThrough job all va size).reqs) ∧
    (∀ job all va size e, e ∈ s.tlbHits job all va size ↔
      (e.job = job ∧ (all = true ∨ (e.page * e.size < va + size ∧ va < (e.page + 1) * e.size))) ∧
        ((∃ c ∈ s.cells, e ∈ c.2.utlb) ∨ (∃ c ∈ s.cores.toList, e ∈ c.utlb) ∨ ∃ l ∈ s.dtlb.toList, e ∈ l)) ∧
    (∀ job all va size l, (s.job job).inv = some (all, va, size, l) → s.stillOut l = false →
      ∃ t, exec (.tlbinvDone job) s = .next t ∧ t = { s with jobs := t.jobs } ∧ t.job job = { s.job job with inv := none })

/-- Register writes and the platform's own events (R145, R146, R147, R157, R266, R280, R281, R362, R369, R370, R372, R373; rests on the model's log entries 66, 79). -/
def Obligations.PlatformRegisters : Prop :=
  ∀ (s : State) (v : Word),
    (∀ k, k < 12 → ∃ t, exec (.stackControlWrite k v) s = .next t ∧ t = { s with stks := t.stks } ∧ (∀ i, i ≠ k → t.stk i = s.stk i) ∧
      t.stk k = { s.stk k with
        quiesce := bitB v 63
        hmask := if (s.stk k).quiesce then bits v 13 27 else (s.stk k).hmask
        herr := (s.stk k).herr || (!(s.stk k).quiesce && bits v 13 27 != (s.stk k).hmask) }) ∧
    (∀ k, bitB v 0 = true → ∃ t, exec (.pcclr k v) s = .next t ∧ t = { s with pcreq := t.pcreq } ∧
      ((Tbl.keys s.pcNow).Nodup → ∀ i, Tbl.get 0 t.pcreq i =
        if 64 * k ≤ i ∧ i < 64 * k + 64 then (if Tbl.get 0 s.pcNow i = 0 then 0 else 1) else Tbl.get 0 s.pcreq i)) ∧
    (∀ j, 1 ≤ j → j ≤ 63 → s.partCheck j v = none → s.clearing ≠ [] → ∃ t, exec (.partitionWrite j v) s = .next t ∧
      t = { s with inputs := .act (.partitionWrite j v) :: s.inputs }) ∧
    (∀ j b, 1 ≤ j → j ≤ 63 → s.partCheck j v = some b → ∃ t, exec (.partitionWrite j v) s = .next t ∧
      t = { s with partErr := putBit s.partErr b true, partErrJob := BitVec.ofNat 6 j }) ∧
    (∀ j, 1 ≤ j → j ≤ 63 → s.partCheck j v = none → s.clearing = [] → ∃ t, exec (.partitionWrite j v) s = .next t ∧
      (t.job j).x0 = bitsN v 0 5 ∧ (t.job j).y0 = bitsN v 5 4 ∧ (t.job j).x1 = bitsN v 16 5 ∧ (t.job j).y1 = bitsN v 21 4 ∧
      (t.job j).valid = bitB v 32 ∧ (t.job j).bwdrop = 0 ∧ (∀ i, i ≠ j → t.job i = s.job i) ∧
      (∀ n, n ∈ t.clearing ↔ n ∈ (s.job j).cells ∧ n ∉ (t.job j).cells) ∧ SameMemory s t ∧
      ((∃ n, (n ∈ (s.job j).cells ∧ n ∉ (t.job j).cells) ∨ (n ∈ (t.job j).cells ∧ n ∉ (s.job j).cells)) → (t.job j).swthr = 0x10000)) ∧
    (∀ j, (bitsN v 16 5 < bitsN v 0 5 ∨ bitsN v 21 4 < bitsN v 5 4 → s.partCheck j v = some 0)) ∧
    (∀ n, s.clearing = [n] → Memory.wf s.sram = true → ∃ t, exec .partitionClearDone s = .next t ∧ t.clearing = [] ∧
      t.cell n = { Cell.reset with island := (s.cell n).island } ∧ (∀ k, k ≠ n → t.cell k = s.cell k) ∧
      ∀ a, memGet t.sram a = if n * 2 ^ 22 ≤ a ∧ a < n * 2 ^ 22 + 2 ^ 22 then 0 else memGet s.sram a) ∧
    (∀ n, n < 512 → ∃ t, exec (.islandWrite n v) s = .next t ∧ OnlyCell n { s with throt := t.throt } t ∧
      (t.throt = true ↔ ∃ k, k < 512 ∧ (t.cell k).island.fnow < (t.cell k).island.fstep) ∧
      t.cell n = { s.cell n with island := (t.cell n).island } ∧ (t.cell n).island.fstep = min 19 (bitsN v 0 5) ∧
      (t.cell n).island.vstep = min 70 (bitsN v 5 7) ∧ (t.cell n).island.gate = bitB v 12 ∧ (t.cell n).island.busy = true ∧
      (t.cell n).island.fnow = min 19 (bitsN v 0 5)) ∧
    (∀ n, (s.cell n).island.busy = true → ∃ t, exec (.islandTransitionDone n) s = .next t ∧ OnlyCell n s t ∧
      t.cell n = { s.cell n with island := { (s.cell n).island with busy := false } }) ∧
    ((s.powerMs + 1) * 1000000 ≤ s.tick → let now := Config.powerNow (s.powerMs + 1); let lim := min 2400 s.plim.toNat
      ∃ t, exec .powerCheck s = .next t ∧ t.pnow = now ∧ t.powerMs = s.powerMs + 1 ∧ SameMemory s t ∧
        (∀ n, n < 512 → let i := (s.cell n).island
          (t.cell n).island.fnow = if lim < now.toNat then i.fnow - 1
            else if now.toNat * 100 ≤ lim * 95 ∧ i.fnow < i.fstep then i.fnow + 1 else i.fnow) ∧
        (t.throt = true ↔ ∃ n, n < 512 ∧ (t.cell n).island.fnow < (t.cell n).island.fstep)) ∧
    (∀ j (r : BitVec 32), 1 ≤ j → j ≤ 63 → ∃ t, exec (.rdidxWrite j r) s = .next t ∧
      t = { s with jobs := t.jobs, msix := t.msix } ∧
      t.job j = { s.job j with rdidx := r, irqpend := (s.job j).irqMore, irqMore := false } ∧
      Tbl.get 0 t.msix j = Tbl.get 0 s.msix j + (if (s.job j).irqMore then 1 else 0)) ∧
    (s.mailRun = 1 → ∃ t, exec .attestationReport s = .next t ∧
      t = { s with mailRun := 0, host := hostWords s.host s.mailBuf.toNat (s.report ++ (List.range 64).map (Config.reportSignature s.report)) }) ∧
    (s.mailRun = 2 → ∃ t, exec .identityCertificate s = .next t ∧
      t = { s with mailRun := 0, host := hostWords s.host s.mailBuf.toNat ((List.range 512).map Config.identityWord) }) ∧
    (∀ fn off, 63 < fn ∨ 0x800000 ≤ off → exec (.registerWrite fn off v) s = .fault .outsideBar) ∧
    (s.bootOk = true →
      (∃ t, exec (.registerWrite 0 0x31000 v) s = .next t ∧ t = { s with plim := BitVec.ofNat 12 v.toNat }) ∧
      (∃ t, exec (.registerWrite 0 0x20400 v) s = .next t ∧ t = { s with partErr := s.partErr &&& ~~~(BitVec.ofNat 4 v.toNat) }) ∧
      (∀ j, 1 ≤ j → j ≤ 63 → ∃ t, exec (.registerWrite j 0x150020 v) s = .next t ∧ t = { s with jobs := t.jobs } ∧
        t.job j = { s.job j with wdlim := BitVec.ofNat 32 v.toNat, wdOld := (s.job j).wdNow s.tick, wdAt := (s.tick / 1000 + 1) * 1000 } ∧
        (t.job j).wdNow s.tick = (s.job j).wdNow s.tick ∧
        ∀ x, (s.tick / 1000 + 1) * 1000 ≤ x → (t.job j).wdNow x = BitVec.ofNat 32 v.toNat) ∧
      (∀ j, 1 ≤ j → j ≤ 63 → exec (.registerWrite 0 (0x20000 + 16 * j) v) s = exec (.partitionWrite j v) s) ∧
      (∀ n, n < 512 → exec (.registerWrite 0 (0x30000 + 8 * n) v) s = exec (.islandWrite n v) s) ∧
      (∀ j q, 1 ≤ j → j ≤ 63 → q < 16 → exec (.registerWrite j (0x10038 + 0x1000 * q) v) s = exec (.launchTokenSubmit j q v) s)) ∧
    (s.bootOk = false → ∀ fn off, fn ≤ 63 → off < 0x800000 → ¬ (fn = 0 ∧ 0x70000 ≤ off ∧ off < 0x70018) →
      ∃ t, exec (.registerWrite fn off v) s = .next t ∧ t = s)

/-- The ebb wave stops a reach; a swap, a save, a restore or a teardown follows (R347, R349, R350, R351, R352, R353, R354, R355, R363, R365, R366, R367; rests on the model's log entries 62, 63, 64). -/
def Obligations.EbbWavesSavesAndTeardowns : Prop :=
  ∀ (s : State),
    (∀ n kind ch sp p u, kind < 2 → s.outPick n (tilePort kind) 0 (s.tileAdmits n kind) = some (sp, p, u) → p.tok.isMarker = true →
      bitsN p.dstk 2 3 = ch → (s.cell n).island.busy = false →
      let x := s.issue n kind; let w := u.takeSpot n sp
      let z := w.updIssue n kind (fun x => { x with reached := putBit x.reached ch true })
      (x.reach ≠ p.reach ∨ x.run = .off ∨ x.run = .saved → ∃ t, exec (.ebbMarker n kind ch) s = .next t ∧ t = w) ∧
      (x.reach = p.reach → x.run = .running → x.frozen = false → vget [] x.chans ch ≠ [] → ∃ t, exec (.ebbMarker n kind ch) s = .next t ∧
        t = z.updIssue n kind (fun x => { x with chans := vset x.chans ch (vget [] x.chans ch ++ [p]) })) ∧
      (x.reach = p.reach → x.run = .halted ∨ (x.run = .running ∧ (vget [] x.chans ch = [] ∨ x.frozen = true)) → ∃ t, exec (.ebbMarker n kind ch) s = .next t ∧
        t = if kind = 0 then (z.stopC n).settleC n else z.updIssue n kind (fun x => x.stopNow.saveIf))) ∧
    (∀ n ch sp p u, s.outPick n (tilePort 2) 0 (s.admitsM n) = some (sp, p, u) → p.tok.isMarker = true → bitsN p.dstk 2 3 = ch →
      (s.cell n).island.busy = false → (s.mset n).reach = p.reach →
      ∃ t, exec (.ebbMarker n 2 ch) s = .next t ∧ t = (u.takeSpot n sp).stopPort n ch) ∧
    (∀ (x : Issue), x.run = .running ∨ x.run = .halted → x.stopNow = { x with
      run := .stopped, before := x.run, chans := x.chans.map (fun q => q.filter (fun p => !p.tok.isMarker)) }) ∧
    (∀ (x : Issue), x.run = .stopped → x.emitted = true → x.fed &&& ~~~x.reached = 0 → x.saveIf = { x with run := .saved }) ∧
    (∀ (x : Issue) t k, k < 8 → vget [] (x.resume t).chans k = vget [] x.chans k ++ vget [] x.wave k ∧ vget [] (x.resume t).wave k = [] ∧
      (x.resume t).run = x.before) ∧
    (∀ r n, s.reach? r.id = some r → r.st = .ebbing →
      (s.waveOver r = true → ∃ t, exec (.ingressStop r.id 0 3) s = .next t ∧ t = s.endWave r) ∧
      ((s.cell n).island.busy = false → (s.cset n).iss.reach = r.id → (s.cset n).iss.run = .waiting →
        ∃ t, exec (.ingressStop r.id n 0) s = .next t ∧ t = s.updIssue n 0 (fun x => { x with run := .saved })) ∧
      ((s.cell n).island.busy = false → (s.cset n).iss.reach = r.id → (s.cset n).iss.run ≠ .waiting → (s.cset n).iss.sel = [] →
        (s.cset n).iss.fed = 0 ∨ s.waveComes r n = false ∨ ((s.cset n).iss.holdsTokens = true ∧ s.still r = true) →
        ∃ t, exec (.ingressStop r.id n 0) s = .next t ∧ t = (s.stopC n).settleC n) ∧
      ((s.cell n).island.busy = false → (s.cset n).iss.reach = r.id → (s.cset n).iss.run ≠ .waiting → (s.cset n).iss.fed ≠ 0 →
        s.waveComes r n = true → (s.cset n).iss.holdsTokens = false ∨ s.still r = false → ∃ t, exec (.ingressStop r.id n 0) s = .next t ∧ t = s) ∧
      ((s.cell n).island.busy = false → (s.aset n).iss.reach = r.id → (s.aset n).iss.run = .running → (s.aset n).iss.sel = [] →
        ∃ t, exec (.ingressStop r.id n 1) s = .next t ∧ t = s.updIssue n 1 Issue.stopNow) ∧
      ((s.cell n).island.busy = false → (s.mset n).reach = r.id → (s.mset n).run ≠ .saved →
        ∃ t, exec (.ingressStop r.id n 2) s = .next t ∧ t = State.stopM (if r.torn then s.clearPorts r else s) r n)) ∧
    (∀ r o, r.ebb = .swap o → s.endWave r =
      match ((s.swapIn r o).updReach r.id (fun r => { r with st := .saved, ebb := .none })).reach? o with
        | some x => ((s.swapIn r o).updReach r.id (fun r => { r with st := .saved, ebb := .none })).afterSwap x
        | none => (s.swapIn r o).updReach r.id (fun r => { r with st := .saved, ebb := .none })) ∧
    (∀ r reason, r.ebb = .teardown reason → r.signal = 0 → s.endWave r =
      let u := (((s.lateLeft r).closeDrops r.id).clearSets r).dropReach r
      ((u.updJob r.job (fun b => if b.reachTd = some r.id then { b with reachTd := none } else b)).saveSettle r.job).roomSettle r.job) ∧
    (∀ r c x b, let w := s.leaveReach r; c < 64 → (w.ctx c).st = .blocked → (w.ctx c).wait = .cfgsw x b → b = r.id →
      ∀ o, (s.swapIn r o).ctx c = (w.ctx c).advance) ∧
    (∀ job, 1 ≤ job → job ≤ 63 → (s.job job).saving = false → (s.job job).restoring = false → ∃ t, exec (.save job) s = .next t ∧
      t = (s.reaches.foldl (fun (s : State) r =>
        if r.job = job ∧ r.st = .running ∧ r.gang = none then s.startEbb r .save else s)
        (s.updJob job (fun b => { b with saving := true, everSaved := true }))).saveSettle job) ∧
    (∀ job, 1 ≤ job → job ≤ 63 → (s.job job).saving = false →
      (s.savedReaches job = [] → ∃ t, exec (.restore job) s = .next t ∧ t = s.updJob job (fun b => { b with restoring := false })) ∧
      (∀ m r rest, s.savedReaches job = (m, r) :: rest → let u := s.updJob job (fun b => { b with restoring := true })
        (u.canRestore r = false → exec (.restore job) s = .next u) ∧
        ∀ w done, u.canRestore r = true → u.imageRead m r = (w, done) → exec (.restore job) s = .next (if done = true
          then (w.restoreReach m r).updJob job (fun b => { b with restoring := !rest.isEmpty }) else w))) ∧
    (∀ r, s.reach? r.id = some r → s.streams r = true →
      (s.images.find? (fun m => m.reach == r.id) = none → s.imageRoom r.job (1 + 48 * (r.w * r.h)) = none →
        ∃ t, exec (.saveImageValid r.id) s = .next t ∧ t = s.updJob r.job (fun b => { b with savefull := true })) ∧
      (∀ o u, s.images.find? (fun m => m.reach == r.id) = none → s.imageRoom r.job (1 + 48 * (r.w * r.h)) = some o →
        s.imageHeader r o 0 = (u, true) → ∃ t, exec (.saveImageValid r.id) s = .next t ∧
          t = State.roomSettle { u with images := u.images ++ [⟨r.id, r.job, o, 1 + 48 * (r.w * r.h), [], false⟩] } r.job) ∧
      (∀ m u, s.images.find? (fun m => m.reach == r.id) = some m → s.imageHeader r m.off 1 = (u, true) →
        ∃ t, exec (.saveImageValid r.id) s = .next t ∧ t = u.imageDone r)) ∧
    (∀ job v r, 1 ≤ job → job ≤ 63 → (s.job job).tdBusy = false → bitB v 22 = true →
      let x := s.ctx (bitsN v 16 6); x.st ≠ .free → x.job = job → (x.handleReach (BitVec.ofNat 64 (v.toNat % 65536))).bind s.reach? = some r →
      r.live = true → s.swapHeld r.id = false → ∃ t, exec (.reachTeardown job v) s = .next t ∧
        t = (s.updJob job (fun b => { b with noreach := false, reachTd := some r.id })).tearDown r 4) ∧
    (∀ job v, 1 ≤ job → job ≤ 63 → (s.job job).tdBusy = false → bitB v 22 = true → (s.ctx (bitsN v 16 6)).job ≠ job →
      ∃ t, exec (.reachTeardown job v) s = .next t ∧ t = s.updJob job (fun b => { b with noreach := true })) ∧
    (∀ r reason, r.st = .running → s.tearDown r reason =
      (((r.cells.foldl (fun (s : State) n => s.discardReqs n r.id)
        (r.cells.foldl (fun (s : State) n => s.dropSpill n r.id) s)).clearPorts r).abortReach r 2).startEbb r (.teardown reason)) ∧
    (∀ r reason, r.st = .saved ∨ r.st = .shadowed → let u := r.cells.foldl (fun (s : State) n => s.dropSpill n r.id) s
      s.tearDown r reason = (u.abortReach r 2).updReach r.id (fun r => { r with st := .ebbing, ebb := .teardown reason })) ∧
    (∀ job v, 1 ≤ job → job ≤ 63 → (s.job job).tdBusy = false → bitB v 4 = true → let q := bitsN v 0 4
      ∃ t, exec (.queueTeardown job v) s = .next t ∧
        t = ((s.updQueue job q (fun k => { k with enable := false, seeds := [] })).updJob job (fun b => { b with
          ingress := b.ingress.map (fun g => if g.iqueue = q then { g with heldToks := [] } else g), qtd := some (q, bitB v 5) })).queueTd job) ∧
    (∀ job q reset, 1 ≤ job → job ≤ 63 → (s.job job).qtd = some (q, reset) → s.queueTokens job q = [] → ∃ t,
      exec (.queueTeardown job 0) s = .next t ∧
        t = (if reset then s.updQueue job q (fun _ => Queue.reset) else s).updJob job (fun b => { b with qtd := none })) ∧
    (∀ job q reset r, (s.job job).qtd = some (q, reset) → (s.queueTokens job q).find? Reach.live = some r → s.swapHeld r.id = false →
      s.queueTd job = s.tearDown r 1)

/-- Function-level, warm and cold resets and VF Enable (R356, R357, R358, R374, R375; rests on the model's log entries 1, 67, 88). -/
def Obligations.Resets : Prop :=
  ∀ (s : State),
    (∀ j, 1 ≤ j → j ≤ 63 → ∃ t, exec (.flr j) s = .next t ∧ t = s.resetJob j ∧
      (∀ r ∈ t.reaches, r.job ≠ j) ∧ (∀ r ∈ t.reaches, ∃ r' ∈ s.reaches, r.id = r'.id) ∧
      (∀ c, c < 64 → (t.ctx c).job = j → (t.ctx c).st = .free) ∧
      (∀ c, c < 64 → (s.ctx c).job = j → (s.ctx c).st ≠ .free → t.ctx c = Context.reset) ∧
      t.job j = (t.job j).flr ∧ (t.job j).queues = Vector.replicate 16 Queue.reset ∧ (t.job j).valid = (s.job j).valid ∧
      (t.job j).roota = (s.job j).roota ∧ (∀ m ∈ t.images, m.job ≠ j) ∧ (∀ e ∈ t.cache, e.job ≠ j) ∧
      (∀ w ∈ t.walks, w.job ≠ j) ∧ (∀ m ∈ t.misses, m.job ≠ j)) ∧
    (s.liveWork = true → ∃ t, exec .vfEnableClear s = .next t ∧ t = (List.range 63).foldl (fun s i => s.resetJob (i + 1)) s) ∧
    (s.liveWork = false → ∃ t, exec .vfEnableClear s = .next t ∧ t = s) ∧
    (∃ t, exec .warmReset s = .next t ∧ let u := (List.range 63).foldl (fun (s : State) i => s.resetJob (i + 1)) s
      let w := u.clearing.foldl (fun (s : State) n => s.clearCell n) u
      let x : State := { w with stks := w.stks.map (fun k => { k with quiesce := false }) }
      let u := x.abandoned.foldl (fun (s : State) a => s.abandonHeader a.reach) x.finishMove
      t.hbm = u.hbm ∧ t.sram = u.sram ∧ t.host = u.host ∧ t.ctxs = State.reset.ctxs ∧ t.cores = State.reset.cores ∧
      t.cells = State.reset.cells ∧ t.jobs = State.reset.jobs ∧ t.stks = State.reset.stks ∧ t.reaches = [] ∧ t.plim = 2400 ∧
      t.nonce = 0 ∧ t.bootOk = u.bootOk ∧ t.coldResets = u.coldResets ∧ t.seamOpen = u.seamOpen ∧ t.stacksIn = u.stacksIn ∧
      t.shoreIn = u.shoreIn) ∧
    (∃ t, exec .coldReset s = .next t ∧ t.coldResets = s.coldResets + 1 ∧ t.host = s.host ∧ t.ctxs = State.reset.ctxs ∧
      t.cores = State.reset.cores ∧ t.cells = State.reset.cells ∧ t.jobs = State.reset.jobs ∧ t.stks = State.reset.stks ∧
      t.reaches = [] ∧ t.plim = 2400 ∧ t.nonce = 0 ∧ t.bootOk = Config.firmwareOk (s.coldResets + 1).toNat ∧
      t.seamOpen = Config.seamTrained (s.coldResets + 1).toNat ∧ t.stacksIn = Config.stacksTrained (s.coldResets + 1).toNat ∧
      t.shoreIn = Config.shoreTrained (s.coldResets + 1).toNat)
end

