-- ==== Sys2Proof/Laws/Word.lean ====
section
/-!
SUPPORT. Sparse tables and fixed arrays: what a write leaves at the number written and at every other.
-/

namespace Sys2Proof

/-- A read of a table at the number just written. -/
@[simp] theorem Tbl.get_set_self {α : Type} (d : α) (m : Tbl α) (n : Nat) (x : α) : (Tbl.set m n x).get d n = x := by
  induction m with
  | nil => simp [Tbl.set, Tbl.get]
  | cons p t ih =>
    obtain ⟨k, v⟩ := p
    by_cases h : n = k
    · simp [Tbl.set, Tbl.get, h]
    · by_cases h2 : n < k
      · simp [Tbl.set, Tbl.get, h, h2]
      · simp [Tbl.set, Tbl.get, h, h2, ih]

/-- A read of a table at a number other than the one written. -/
theorem Tbl.get_set_of_ne {α : Type} (d : α) (m : Tbl α) {n k : Nat} (x : α) (h : k ≠ n) :
    (Tbl.set m n x).get d k = m.get d k := by
  induction m with
  | nil => simp [Tbl.set, Tbl.get, h]
  | cons p t ih =>
    obtain ⟨j, v⟩ := p
    by_cases hn : n = j
    · subst hn; simp [Tbl.set, Tbl.get, h]
    · by_cases h2 : n < j
      · simp [Tbl.set, Tbl.get, hn, h2, h]
      · by_cases hk : k = j
        · simp [Tbl.set, Tbl.get, hn, h2, hk]
        · simp [Tbl.set, Tbl.get, hn, h2, hk, ih]

/-- Both at once. -/
theorem Tbl.get_set {α : Type} (d : α) (m : Tbl α) (n k : Nat) (x : α) :
    (Tbl.set m n x).get d k = if k = n then x else m.get d k := by
  by_cases h : k = n
  · subst h; simp
  · simp [Tbl.get_set_of_ne d m x h, h]

/-- A read of a fixed array at a number just written inside it. -/
@[simp] theorem vget_vset_self {α : Type} {k : Nat} (d : α) (v : Vector α k) (n : Nat) (x : α) (h : n < k) :
    vget d (vset v n x) n = x := by
  simp [vget, vset, Vector.getD, h]

/-- A read of a fixed array at another number. -/
theorem vget_vset_of_ne {α : Type} {k : Nat} (d : α) (v : Vector α k) {n j : Nat} (x : α) (h : j ≠ n) :
    vget d (vset v n x) j = vget d v j := by
  unfold vget vset Vector.getD
  by_cases hj : j < k
  · simp [hj, Ne.symm h]
  · simp [hj]

/-- A write past the end changes nothing. -/
theorem vset_of_ge {α : Type} {k : Nat} (v : Vector α k) (n : Nat) (x : α) (h : k ≤ n) : vset v n x = v := by
  unfold vset
  exact Vector.setIfInBounds_eq_of_size_le h

/-- An element of a fixed array after a function of each element. -/
theorem vget_map {α : Type} {k : Nat} (d : α) (f : α → α) (v : Vector α k) (n : Nat) :
    vget d (v.map f) n = if n < k then f (vget d v n) else d := by
  unfold vget Vector.getD
  by_cases h : n < k <;> simp [h]

/-- A read past the end of a fixed array. -/
theorem vget_of_ge {α : Type} {k : Nat} (d : α) (v : Vector α k) (n : Nat) (h : k ≤ n) : vget d v n = d := by
  unfold vget Vector.getD
  simp [Nat.not_lt.mpr h]

/-- Alignment to 4. -/
theorem and3_iff (t : Word) : (t &&& 3#64 ≠ 0) ↔ t.toNat % 4 ≠ 0 := by
  have : (t &&& 3#64).toNat = t.toNat % 4 := by
    rw [BitVec.toNat_and]; exact Nat.and_two_pow_sub_one_eq_mod _ 2
  rw [ne_eq, ← BitVec.toNat_inj, this]; simp

/-- Alignment to 8. -/
theorem and7_iff (t : Word) : (t &&& 7#64 ≠ 0) ↔ t.toNat % 8 ≠ 0 := by
  have : (t &&& 7#64).toNat = t.toNat % 8 := by
    rw [BitVec.toNat_and]; exact Nat.and_two_pow_sub_one_eq_mod _ 3
  rw [ne_eq, ← BitVec.toNat_inj, this]; simp

end Sys2Proof
end

