-- ==== Sys2Proof/Laws/State.lean ====
section
/-!
SUPPORT. What each update of the state leaves: one lemma for each field that an update does not write, and the read of
what it does write.
-/

namespace Sys2Proof.Machine

open Sys2Proof

/-! ### updCtx -/

@[simp] theorem State.updCtx_cycle (s : State) (c : Nat) (f : Context → Context) : (s.updCtx c f).cycle = s.cycle := rfl
@[simp] theorem State.updCtx_focus (s : State) (c : Nat) (f : Context → Context) : (s.updCtx c f).focus = s.focus := rfl
@[simp] theorem State.updCtx_schedule (s : State) (c : Nat) (f : Context → Context) : (s.updCtx c f).schedule = s.schedule := rfl
@[simp] theorem State.updCtx_turnNo (s : State) (c : Nat) (f : Context → Context) : (s.updCtx c f).turnNo = s.turnNo := rfl
@[simp] theorem State.updCtx_inputs (s : State) (c : Nat) (f : Context → Context) : (s.updCtx c f).inputs = s.inputs := rfl
@[simp] theorem State.updCtx_cores (s : State) (c : Nat) (f : Context → Context) : (s.updCtx c f).cores = s.cores := rfl
@[simp] theorem State.updCtx_cells (s : State) (c : Nat) (f : Context → Context) : (s.updCtx c f).cells = s.cells := rfl
@[simp] theorem State.updCtx_jobs (s : State) (c : Nat) (f : Context → Context) : (s.updCtx c f).jobs = s.jobs := rfl
@[simp] theorem State.updCtx_hbm (s : State) (c : Nat) (f : Context → Context) : (s.updCtx c f).hbm = s.hbm := rfl
@[simp] theorem State.updCtx_sram (s : State) (c : Nat) (f : Context → Context) : (s.updCtx c f).sram = s.sram := rfl
@[simp] theorem State.updCtx_host (s : State) (c : Nat) (f : Context → Context) : (s.updCtx c f).host = s.host := rfl
@[simp] theorem State.updCtx_bad (s : State) (c : Nat) (f : Context → Context) : (s.updCtx c f).bad = s.bad := rfl
@[simp] theorem State.updCtx_memErrs (s : State) (c : Nat) (f : Context → Context) : (s.updCtx c f).memErrs = s.memErrs := rfl
@[simp] theorem State.updCtx_pcreq (s : State) (c : Nat) (f : Context → Context) : (s.updCtx c f).pcreq = s.pcreq := rfl
@[simp] theorem State.updCtx_stks (s : State) (c : Nat) (f : Context → Context) : (s.updCtx c f).stks = s.stks := rfl
@[simp] theorem State.updCtx_dtlb (s : State) (c : Nat) (f : Context → Context) : (s.updCtx c f).dtlb = s.dtlb := rfl
@[simp] theorem State.updCtx_walks (s : State) (c : Nat) (f : Context → Context) : (s.updCtx c f).walks = s.walks := rfl
@[simp] theorem State.updCtx_misses (s : State) (c : Nat) (f : Context → Context) : (s.updCtx c f).misses = s.misses := rfl
@[simp] theorem State.updCtx_moves (s : State) (c : Nat) (f : Context → Context) : (s.updCtx c f).moves = s.moves := rfl
@[simp] theorem State.updCtx_tiers (s : State) (c : Nat) (f : Context → Context) : (s.updCtx c f).tiers = s.tiers := rfl
@[simp] theorem State.updCtx_strict (s : State) (c : Nat) (f : Context → Context) : (s.updCtx c f).strict = s.strict := rfl
@[simp] theorem State.updCtx_poolBase (s : State) (c : Nat) (f : Context → Context) : (s.updCtx c f).poolBase = s.poolBase := rfl
@[simp] theorem State.updCtx_poolStk (s : State) (c : Nat) (f : Context → Context) : (s.updCtx c f).poolStk = s.poolStk := rfl
@[simp] theorem State.updCtx_poolN (s : State) (c : Nat) (f : Context → Context) : (s.updCtx c f).poolN = s.poolN := rfl
@[simp] theorem State.updCtx_poolCap (s : State) (c : Nat) (f : Context → Context) : (s.updCtx c f).poolCap = s.poolCap := rfl
@[simp] theorem State.updCtx_ctl (s : State) (c : Nat) (f : Context → Context) : (s.updCtx c f).ctl = s.ctl := rfl
@[simp] theorem State.updCtx_phaseMsgs (s : State) (c : Nat) (f : Context → Context) : (s.updCtx c f).phaseMsgs = s.phaseMsgs := rfl
@[simp] theorem State.updCtx_phaseCnts (s : State) (c : Nat) (f : Context → Context) : (s.updCtx c f).phaseCnts = s.phaseCnts := rfl
@[simp] theorem State.updCtx_recordsOut (s : State) (c : Nat) (f : Context → Context) : (s.updCtx c f).recordsOut = s.recordsOut := rfl
@[simp] theorem State.updCtx_pcNow (s : State) (c : Nat) (f : Context → Context) : (s.updCtx c f).pcNow = s.pcNow := rfl
@[simp] theorem State.updCtx_reaches (s : State) (c : Nat) (f : Context → Context) : (s.updCtx c f).reaches = s.reaches := rfl
@[simp] theorem State.updCtx_loads (s : State) (c : Nat) (f : Context → Context) : (s.updCtx c f).loads = s.loads := rfl
@[simp] theorem State.updCtx_cache (s : State) (c : Nat) (f : Context → Context) : (s.updCtx c f).cache = s.cache := rfl
@[simp] theorem State.updCtx_images (s : State) (c : Nat) (f : Context → Context) : (s.updCtx c f).images = s.images := rfl
@[simp] theorem State.updCtx_nextId (s : State) (c : Nat) (f : Context → Context) : (s.updCtx c f).nextId = s.nextId := rfl
@[simp] theorem State.updCtx_partErr (s : State) (c : Nat) (f : Context → Context) : (s.updCtx c f).partErr = s.partErr := rfl
@[simp] theorem State.updCtx_partErrJob (s : State) (c : Nat) (f : Context → Context) : (s.updCtx c f).partErrJob = s.partErrJob := rfl
@[simp] theorem State.updCtx_clearing (s : State) (c : Nat) (f : Context → Context) : (s.updCtx c f).clearing = s.clearing := rfl
@[simp] theorem State.updCtx_abandoned (s : State) (c : Nat) (f : Context → Context) : (s.updCtx c f).abandoned = s.abandoned := rfl
@[simp] theorem State.updCtx_plim (s : State) (c : Nat) (f : Context → Context) : (s.updCtx c f).plim = s.plim := rfl
@[simp] theorem State.updCtx_throt (s : State) (c : Nat) (f : Context → Context) : (s.updCtx c f).throt = s.throt := rfl
@[simp] theorem State.updCtx_pnow (s : State) (c : Nat) (f : Context → Context) : (s.updCtx c f).pnow = s.pnow := rfl
@[simp] theorem State.updCtx_powerMs (s : State) (c : Nat) (f : Context → Context) : (s.updCtx c f).powerMs = s.powerMs := rfl
@[simp] theorem State.updCtx_mailOp (s : State) (c : Nat) (f : Context → Context) : (s.updCtx c f).mailOp = s.mailOp := rfl
@[simp] theorem State.updCtx_mailRun (s : State) (c : Nat) (f : Context → Context) : (s.updCtx c f).mailRun = s.mailRun := rfl
@[simp] theorem State.updCtx_mailErr (s : State) (c : Nat) (f : Context → Context) : (s.updCtx c f).mailErr = s.mailErr := rfl
@[simp] theorem State.updCtx_nonce (s : State) (c : Nat) (f : Context → Context) : (s.updCtx c f).nonce = s.nonce := rfl
@[simp] theorem State.updCtx_mailBuf (s : State) (c : Nat) (f : Context → Context) : (s.updCtx c f).mailBuf = s.mailBuf := rfl
@[simp] theorem State.updCtx_bootOk (s : State) (c : Nat) (f : Context → Context) : (s.updCtx c f).bootOk = s.bootOk := rfl
@[simp] theorem State.updCtx_coldResets (s : State) (c : Nat) (f : Context → Context) : (s.updCtx c f).coldResets = s.coldResets := rfl
@[simp] theorem State.updCtx_seamOpen (s : State) (c : Nat) (f : Context → Context) : (s.updCtx c f).seamOpen = s.seamOpen := rfl
@[simp] theorem State.updCtx_stacksIn (s : State) (c : Nat) (f : Context → Context) : (s.updCtx c f).stacksIn = s.stacksIn := rfl
@[simp] theorem State.updCtx_shoreIn (s : State) (c : Nat) (f : Context → Context) : (s.updCtx c f).shoreIn = s.shoreIn := rfl
@[simp] theorem State.updCtx_tide (s : State) (c : Nat) (f : Context → Context) : (s.updCtx c f).tide = s.tide := rfl
@[simp] theorem State.updCtx_shoreOut (s : State) (c : Nat) (f : Context → Context) : (s.updCtx c f).shoreOut = s.shoreOut := rfl
@[simp] theorem State.updCtx_msix (s : State) (c : Nat) (f : Context → Context) : (s.updCtx c f).msix = s.msix := rfl
@[simp] theorem State.updCtx_freeCount (s : State) (c : Nat) (f : Context → Context) : (s.updCtx c f).freeCount = s.freeCount := rfl
@[simp] theorem State.updCtx_core (s : State) (c : Nat) (f : Context → Context) (x : Nat) : (s.updCtx c f).core x = s.core x := rfl
@[simp] theorem State.updCtx_cell (s : State) (c : Nat) (f : Context → Context) (x : Nat) : (s.updCtx c f).cell x = s.cell x := rfl
@[simp] theorem State.updCtx_job (s : State) (c : Nat) (f : Context → Context) (x : Nat) : (s.updCtx c f).job x = s.job x := rfl
@[simp] theorem State.updCtx_stk (s : State) (c : Nat) (f : Context → Context) (x : Nat) : (s.updCtx c f).stk x = s.stk x := rfl
@[simp] theorem State.updCtx_reach? (s : State) (c : Nat) (f : Context → Context) (x : Nat) : (s.updCtx c f).reach? x = s.reach? x := rfl
@[simp] theorem State.updCtx_reachJob (s : State) (c : Nat) (f : Context → Context) (x : Nat) : (s.updCtx c f).reachJob x = s.reachJob x := rfl
@[simp] theorem State.updCtx_tick (s : State) (c : Nat) (f : Context → Context) : (s.updCtx c f).tick = s.tick := rfl
@[simp] theorem State.updCtx_cset (s : State) (c : Nat) (f : Context → Context) (x : Nat) : (s.updCtx c f).cset x = s.cset x := rfl
@[simp] theorem State.updCtx_aset (s : State) (c : Nat) (f : Context → Context) (x : Nat) : (s.updCtx c f).aset x = s.aset x := rfl
@[simp] theorem State.updCtx_mset (s : State) (c : Nat) (f : Context → Context) (x : Nat) : (s.updCtx c f).mset x = s.mset x := rfl
@[simp] theorem State.updCtx_port (s : State) (c : Nat) (f : Context → Context) (x y : Nat) : (s.updCtx c f).port x y = s.port x y := rfl
@[simp] theorem State.updCtx_issue (s : State) (c : Nat) (f : Context → Context) (x y : Nat) : (s.updCtx c f).issue x y = s.issue x y := rfl

/-! ### updCore -/

@[simp] theorem State.updCore_cycle (s : State) (k : Nat) (f : Core → Core) : (s.updCore k f).cycle = s.cycle := rfl
@[simp] theorem State.updCore_focus (s : State) (k : Nat) (f : Core → Core) : (s.updCore k f).focus = s.focus := rfl
@[simp] theorem State.updCore_schedule (s : State) (k : Nat) (f : Core → Core) : (s.updCore k f).schedule = s.schedule := rfl
@[simp] theorem State.updCore_turnNo (s : State) (k : Nat) (f : Core → Core) : (s.updCore k f).turnNo = s.turnNo := rfl
@[simp] theorem State.updCore_inputs (s : State) (k : Nat) (f : Core → Core) : (s.updCore k f).inputs = s.inputs := rfl
@[simp] theorem State.updCore_ctxs (s : State) (k : Nat) (f : Core → Core) : (s.updCore k f).ctxs = s.ctxs := rfl
@[simp] theorem State.updCore_cells (s : State) (k : Nat) (f : Core → Core) : (s.updCore k f).cells = s.cells := rfl
@[simp] theorem State.updCore_jobs (s : State) (k : Nat) (f : Core → Core) : (s.updCore k f).jobs = s.jobs := rfl
@[simp] theorem State.updCore_hbm (s : State) (k : Nat) (f : Core → Core) : (s.updCore k f).hbm = s.hbm := rfl
@[simp] theorem State.updCore_sram (s : State) (k : Nat) (f : Core → Core) : (s.updCore k f).sram = s.sram := rfl
@[simp] theorem State.updCore_host (s : State) (k : Nat) (f : Core → Core) : (s.updCore k f).host = s.host := rfl
@[simp] theorem State.updCore_bad (s : State) (k : Nat) (f : Core → Core) : (s.updCore k f).bad = s.bad := rfl
@[simp] theorem State.updCore_memErrs (s : State) (k : Nat) (f : Core → Core) : (s.updCore k f).memErrs = s.memErrs := rfl
@[simp] theorem State.updCore_pcreq (s : State) (k : Nat) (f : Core → Core) : (s.updCore k f).pcreq = s.pcreq := rfl
@[simp] theorem State.updCore_stks (s : State) (k : Nat) (f : Core → Core) : (s.updCore k f).stks = s.stks := rfl
@[simp] theorem State.updCore_dtlb (s : State) (k : Nat) (f : Core → Core) : (s.updCore k f).dtlb = s.dtlb := rfl
@[simp] theorem State.updCore_walks (s : State) (k : Nat) (f : Core → Core) : (s.updCore k f).walks = s.walks := rfl
@[simp] theorem State.updCore_misses (s : State) (k : Nat) (f : Core → Core) : (s.updCore k f).misses = s.misses := rfl
@[simp] theorem State.updCore_moves (s : State) (k : Nat) (f : Core → Core) : (s.updCore k f).moves = s.moves := rfl
@[simp] theorem State.updCore_tiers (s : State) (k : Nat) (f : Core → Core) : (s.updCore k f).tiers = s.tiers := rfl
@[simp] theorem State.updCore_strict (s : State) (k : Nat) (f : Core → Core) : (s.updCore k f).strict = s.strict := rfl
@[simp] theorem State.updCore_poolBase (s : State) (k : Nat) (f : Core → Core) : (s.updCore k f).poolBase = s.poolBase := rfl
@[simp] theorem State.updCore_poolStk (s : State) (k : Nat) (f : Core → Core) : (s.updCore k f).poolStk = s.poolStk := rfl
@[simp] theorem State.updCore_poolN (s : State) (k : Nat) (f : Core → Core) : (s.updCore k f).poolN = s.poolN := rfl
@[simp] theorem State.updCore_poolCap (s : State) (k : Nat) (f : Core → Core) : (s.updCore k f).poolCap = s.poolCap := rfl
@[simp] theorem State.updCore_ctl (s : State) (k : Nat) (f : Core → Core) : (s.updCore k f).ctl = s.ctl := rfl
@[simp] theorem State.updCore_phaseMsgs (s : State) (k : Nat) (f : Core → Core) : (s.updCore k f).phaseMsgs = s.phaseMsgs := rfl
@[simp] theorem State.updCore_phaseCnts (s : State) (k : Nat) (f : Core → Core) : (s.updCore k f).phaseCnts = s.phaseCnts := rfl
@[simp] theorem State.updCore_recordsOut (s : State) (k : Nat) (f : Core → Core) : (s.updCore k f).recordsOut = s.recordsOut := rfl
@[simp] theorem State.updCore_pcNow (s : State) (k : Nat) (f : Core → Core) : (s.updCore k f).pcNow = s.pcNow := rfl
@[simp] theorem State.updCore_reaches (s : State) (k : Nat) (f : Core → Core) : (s.updCore k f).reaches = s.reaches := rfl
@[simp] theorem State.updCore_loads (s : State) (k : Nat) (f : Core → Core) : (s.updCore k f).loads = s.loads := rfl
@[simp] theorem State.updCore_cache (s : State) (k : Nat) (f : Core → Core) : (s.updCore k f).cache = s.cache := rfl
@[simp] theorem State.updCore_images (s : State) (k : Nat) (f : Core → Core) : (s.updCore k f).images = s.images := rfl
@[simp] theorem State.updCore_nextId (s : State) (k : Nat) (f : Core → Core) : (s.updCore k f).nextId = s.nextId := rfl
@[simp] theorem State.updCore_partErr (s : State) (k : Nat) (f : Core → Core) : (s.updCore k f).partErr = s.partErr := rfl
@[simp] theorem State.updCore_partErrJob (s : State) (k : Nat) (f : Core → Core) : (s.updCore k f).partErrJob = s.partErrJob := rfl
@[simp] theorem State.updCore_clearing (s : State) (k : Nat) (f : Core → Core) : (s.updCore k f).clearing = s.clearing := rfl
@[simp] theorem State.updCore_abandoned (s : State) (k : Nat) (f : Core → Core) : (s.updCore k f).abandoned = s.abandoned := rfl
@[simp] theorem State.updCore_plim (s : State) (k : Nat) (f : Core → Core) : (s.updCore k f).plim = s.plim := rfl
@[simp] theorem State.updCore_throt (s : State) (k : Nat) (f : Core → Core) : (s.updCore k f).throt = s.throt := rfl
@[simp] theorem State.updCore_pnow (s : State) (k : Nat) (f : Core → Core) : (s.updCore k f).pnow = s.pnow := rfl
@[simp] theorem State.updCore_powerMs (s : State) (k : Nat) (f : Core → Core) : (s.updCore k f).powerMs = s.powerMs := rfl
@[simp] theorem State.updCore_mailOp (s : State) (k : Nat) (f : Core → Core) : (s.updCore k f).mailOp = s.mailOp := rfl
@[simp] theorem State.updCore_mailRun (s : State) (k : Nat) (f : Core → Core) : (s.updCore k f).mailRun = s.mailRun := rfl
@[simp] theorem State.updCore_mailErr (s : State) (k : Nat) (f : Core → Core) : (s.updCore k f).mailErr = s.mailErr := rfl
@[simp] theorem State.updCore_nonce (s : State) (k : Nat) (f : Core → Core) : (s.updCore k f).nonce = s.nonce := rfl
@[simp] theorem State.updCore_mailBuf (s : State) (k : Nat) (f : Core → Core) : (s.updCore k f).mailBuf = s.mailBuf := rfl
@[simp] theorem State.updCore_bootOk (s : State) (k : Nat) (f : Core → Core) : (s.updCore k f).bootOk = s.bootOk := rfl
@[simp] theorem State.updCore_coldResets (s : State) (k : Nat) (f : Core → Core) : (s.updCore k f).coldResets = s.coldResets := rfl
@[simp] theorem State.updCore_seamOpen (s : State) (k : Nat) (f : Core → Core) : (s.updCore k f).seamOpen = s.seamOpen := rfl
@[simp] theorem State.updCore_stacksIn (s : State) (k : Nat) (f : Core → Core) : (s.updCore k f).stacksIn = s.stacksIn := rfl
@[simp] theorem State.updCore_shoreIn (s : State) (k : Nat) (f : Core → Core) : (s.updCore k f).shoreIn = s.shoreIn := rfl
@[simp] theorem State.updCore_tide (s : State) (k : Nat) (f : Core → Core) : (s.updCore k f).tide = s.tide := rfl
@[simp] theorem State.updCore_shoreOut (s : State) (k : Nat) (f : Core → Core) : (s.updCore k f).shoreOut = s.shoreOut := rfl
@[simp] theorem State.updCore_msix (s : State) (k : Nat) (f : Core → Core) : (s.updCore k f).msix = s.msix := rfl
@[simp] theorem State.updCore_freeCount (s : State) (k : Nat) (f : Core → Core) : (s.updCore k f).freeCount = s.freeCount := rfl
@[simp] theorem State.updCore_ctx (s : State) (k : Nat) (f : Core → Core) (x : Nat) : (s.updCore k f).ctx x = s.ctx x := rfl
@[simp] theorem State.updCore_cell (s : State) (k : Nat) (f : Core → Core) (x : Nat) : (s.updCore k f).cell x = s.cell x := rfl
@[simp] theorem State.updCore_job (s : State) (k : Nat) (f : Core → Core) (x : Nat) : (s.updCore k f).job x = s.job x := rfl
@[simp] theorem State.updCore_stk (s : State) (k : Nat) (f : Core → Core) (x : Nat) : (s.updCore k f).stk x = s.stk x := rfl
@[simp] theorem State.updCore_reach? (s : State) (k : Nat) (f : Core → Core) (x : Nat) : (s.updCore k f).reach? x = s.reach? x := rfl
@[simp] theorem State.updCore_reachJob (s : State) (k : Nat) (f : Core → Core) (x : Nat) : (s.updCore k f).reachJob x = s.reachJob x := rfl
@[simp] theorem State.updCore_tick (s : State) (k : Nat) (f : Core → Core) : (s.updCore k f).tick = s.tick := rfl
@[simp] theorem State.updCore_cset (s : State) (k : Nat) (f : Core → Core) (x : Nat) : (s.updCore k f).cset x = s.cset x := rfl
@[simp] theorem State.updCore_aset (s : State) (k : Nat) (f : Core → Core) (x : Nat) : (s.updCore k f).aset x = s.aset x := rfl
@[simp] theorem State.updCore_mset (s : State) (k : Nat) (f : Core → Core) (x : Nat) : (s.updCore k f).mset x = s.mset x := rfl
@[simp] theorem State.updCore_port (s : State) (k : Nat) (f : Core → Core) (x y : Nat) : (s.updCore k f).port x y = s.port x y := rfl
@[simp] theorem State.updCore_issue (s : State) (k : Nat) (f : Core → Core) (x y : Nat) : (s.updCore k f).issue x y = s.issue x y := rfl

/-! ### updCell -/

@[simp] theorem State.updCell_cycle (s : State) (n : Nat) (f : Cell → Cell) : (s.updCell n f).cycle = s.cycle := rfl
@[simp] theorem State.updCell_focus (s : State) (n : Nat) (f : Cell → Cell) : (s.updCell n f).focus = s.focus := rfl
@[simp] theorem State.updCell_schedule (s : State) (n : Nat) (f : Cell → Cell) : (s.updCell n f).schedule = s.schedule := rfl
@[simp] theorem State.updCell_turnNo (s : State) (n : Nat) (f : Cell → Cell) : (s.updCell n f).turnNo = s.turnNo := rfl
@[simp] theorem State.updCell_inputs (s : State) (n : Nat) (f : Cell → Cell) : (s.updCell n f).inputs = s.inputs := rfl
@[simp] theorem State.updCell_ctxs (s : State) (n : Nat) (f : Cell → Cell) : (s.updCell n f).ctxs = s.ctxs := rfl
@[simp] theorem State.updCell_cores (s : State) (n : Nat) (f : Cell → Cell) : (s.updCell n f).cores = s.cores := rfl
@[simp] theorem State.updCell_jobs (s : State) (n : Nat) (f : Cell → Cell) : (s.updCell n f).jobs = s.jobs := rfl
@[simp] theorem State.updCell_hbm (s : State) (n : Nat) (f : Cell → Cell) : (s.updCell n f).hbm = s.hbm := rfl
@[simp] theorem State.updCell_sram (s : State) (n : Nat) (f : Cell → Cell) : (s.updCell n f).sram = s.sram := rfl
@[simp] theorem State.updCell_host (s : State) (n : Nat) (f : Cell → Cell) : (s.updCell n f).host = s.host := rfl
@[simp] theorem State.updCell_bad (s : State) (n : Nat) (f : Cell → Cell) : (s.updCell n f).bad = s.bad := rfl
@[simp] theorem State.updCell_memErrs (s : State) (n : Nat) (f : Cell → Cell) : (s.updCell n f).memErrs = s.memErrs := rfl
@[simp] theorem State.updCell_pcreq (s : State) (n : Nat) (f : Cell → Cell) : (s.updCell n f).pcreq = s.pcreq := rfl
@[simp] theorem State.updCell_stks (s : State) (n : Nat) (f : Cell → Cell) : (s.updCell n f).stks = s.stks := rfl
@[simp] theorem State.updCell_dtlb (s : State) (n : Nat) (f : Cell → Cell) : (s.updCell n f).dtlb = s.dtlb := rfl
@[simp] theorem State.updCell_walks (s : State) (n : Nat) (f : Cell → Cell) : (s.updCell n f).walks = s.walks := rfl
@[simp] theorem State.updCell_misses (s : State) (n : Nat) (f : Cell → Cell) : (s.updCell n f).misses = s.misses := rfl
@[simp] theorem State.updCell_moves (s : State) (n : Nat) (f : Cell → Cell) : (s.updCell n f).moves = s.moves := rfl
@[simp] theorem State.updCell_tiers (s : State) (n : Nat) (f : Cell → Cell) : (s.updCell n f).tiers = s.tiers := rfl
@[simp] theorem State.updCell_strict (s : State) (n : Nat) (f : Cell → Cell) : (s.updCell n f).strict = s.strict := rfl
@[simp] theorem State.updCell_poolBase (s : State) (n : Nat) (f : Cell → Cell) : (s.updCell n f).poolBase = s.poolBase := rfl
@[simp] theorem State.updCell_poolStk (s : State) (n : Nat) (f : Cell → Cell) : (s.updCell n f).poolStk = s.poolStk := rfl
@[simp] theorem State.updCell_poolN (s : State) (n : Nat) (f : Cell → Cell) : (s.updCell n f).poolN = s.poolN := rfl
@[simp] theorem State.updCell_poolCap (s : State) (n : Nat) (f : Cell → Cell) : (s.updCell n f).poolCap = s.poolCap := rfl
@[simp] theorem State.updCell_ctl (s : State) (n : Nat) (f : Cell → Cell) : (s.updCell n f).ctl = s.ctl := rfl
@[simp] theorem State.updCell_phaseMsgs (s : State) (n : Nat) (f : Cell → Cell) : (s.updCell n f).phaseMsgs = s.phaseMsgs := rfl
@[simp] theorem State.updCell_phaseCnts (s : State) (n : Nat) (f : Cell → Cell) : (s.updCell n f).phaseCnts = s.phaseCnts := rfl
@[simp] theorem State.updCell_recordsOut (s : State) (n : Nat) (f : Cell → Cell) : (s.updCell n f).recordsOut = s.recordsOut := rfl
@[simp] theorem State.updCell_pcNow (s : State) (n : Nat) (f : Cell → Cell) : (s.updCell n f).pcNow = s.pcNow := rfl
@[simp] theorem State.updCell_reaches (s : State) (n : Nat) (f : Cell → Cell) : (s.updCell n f).reaches = s.reaches := rfl
@[simp] theorem State.updCell_loads (s : State) (n : Nat) (f : Cell → Cell) : (s.updCell n f).loads = s.loads := rfl
@[simp] theorem State.updCell_cache (s : State) (n : Nat) (f : Cell → Cell) : (s.updCell n f).cache = s.cache := rfl
@[simp] theorem State.updCell_images (s : State) (n : Nat) (f : Cell → Cell) : (s.updCell n f).images = s.images := rfl
@[simp] theorem State.updCell_nextId (s : State) (n : Nat) (f : Cell → Cell) : (s.updCell n f).nextId = s.nextId := rfl
@[simp] theorem State.updCell_partErr (s : State) (n : Nat) (f : Cell → Cell) : (s.updCell n f).partErr = s.partErr := rfl
@[simp] theorem State.updCell_partErrJob (s : State) (n : Nat) (f : Cell → Cell) : (s.updCell n f).partErrJob = s.partErrJob := rfl
@[simp] theorem State.updCell_clearing (s : State) (n : Nat) (f : Cell → Cell) : (s.updCell n f).clearing = s.clearing := rfl
@[simp] theorem State.updCell_abandoned (s : State) (n : Nat) (f : Cell → Cell) : (s.updCell n f).abandoned = s.abandoned := rfl
@[simp] theorem State.updCell_plim (s : State) (n : Nat) (f : Cell → Cell) : (s.updCell n f).plim = s.plim := rfl
@[simp] theorem State.updCell_throt (s : State) (n : Nat) (f : Cell → Cell) : (s.updCell n f).throt = s.throt := rfl
@[simp] theorem State.updCell_pnow (s : State) (n : Nat) (f : Cell → Cell) : (s.updCell n f).pnow = s.pnow := rfl
@[simp] theorem State.updCell_powerMs (s : State) (n : Nat) (f : Cell → Cell) : (s.updCell n f).powerMs = s.powerMs := rfl
@[simp] theorem State.updCell_mailOp (s : State) (n : Nat) (f : Cell → Cell) : (s.updCell n f).mailOp = s.mailOp := rfl
@[simp] theorem State.updCell_mailRun (s : State) (n : Nat) (f : Cell → Cell) : (s.updCell n f).mailRun = s.mailRun := rfl
@[simp] theorem State.updCell_mailErr (s : State) (n : Nat) (f : Cell → Cell) : (s.updCell n f).mailErr = s.mailErr := rfl
@[simp] theorem State.updCell_nonce (s : State) (n : Nat) (f : Cell → Cell) : (s.updCell n f).nonce = s.nonce := rfl
@[simp] theorem State.updCell_mailBuf (s : State) (n : Nat) (f : Cell → Cell) : (s.updCell n f).mailBuf = s.mailBuf := rfl
@[simp] theorem State.updCell_bootOk (s : State) (n : Nat) (f : Cell → Cell) : (s.updCell n f).bootOk = s.bootOk := rfl
@[simp] theorem State.updCell_coldResets (s : State) (n : Nat) (f : Cell → Cell) : (s.updCell n f).coldResets = s.coldResets := rfl
@[simp] theorem State.updCell_seamOpen (s : State) (n : Nat) (f : Cell → Cell) : (s.updCell n f).seamOpen = s.seamOpen := rfl
@[simp] theorem State.updCell_stacksIn (s : State) (n : Nat) (f : Cell → Cell) : (s.updCell n f).stacksIn = s.stacksIn := rfl
@[simp] theorem State.updCell_shoreIn (s : State) (n : Nat) (f : Cell → Cell) : (s.updCell n f).shoreIn = s.shoreIn := rfl
@[simp] theorem State.updCell_tide (s : State) (n : Nat) (f : Cell → Cell) : (s.updCell n f).tide = s.tide := rfl
@[simp] theorem State.updCell_shoreOut (s : State) (n : Nat) (f : Cell → Cell) : (s.updCell n f).shoreOut = s.shoreOut := rfl
@[simp] theorem State.updCell_msix (s : State) (n : Nat) (f : Cell → Cell) : (s.updCell n f).msix = s.msix := rfl
@[simp] theorem State.updCell_freeCount (s : State) (n : Nat) (f : Cell → Cell) : (s.updCell n f).freeCount = s.freeCount := rfl
@[simp] theorem State.updCell_ctx (s : State) (n : Nat) (f : Cell → Cell) (x : Nat) : (s.updCell n f).ctx x = s.ctx x := rfl
@[simp] theorem State.updCell_core (s : State) (n : Nat) (f : Cell → Cell) (x : Nat) : (s.updCell n f).core x = s.core x := rfl
@[simp] theorem State.updCell_job (s : State) (n : Nat) (f : Cell → Cell) (x : Nat) : (s.updCell n f).job x = s.job x := rfl
@[simp] theorem State.updCell_stk (s : State) (n : Nat) (f : Cell → Cell) (x : Nat) : (s.updCell n f).stk x = s.stk x := rfl
@[simp] theorem State.updCell_reach? (s : State) (n : Nat) (f : Cell → Cell) (x : Nat) : (s.updCell n f).reach? x = s.reach? x := rfl
@[simp] theorem State.updCell_reachJob (s : State) (n : Nat) (f : Cell → Cell) (x : Nat) : (s.updCell n f).reachJob x = s.reachJob x := rfl
@[simp] theorem State.updCell_tick (s : State) (n : Nat) (f : Cell → Cell) : (s.updCell n f).tick = s.tick := rfl

/-! ### updJob -/

@[simp] theorem State.updJob_cycle (s : State) (j : Nat) (f : Job → Job) : (s.updJob j f).cycle = s.cycle := rfl
@[simp] theorem State.updJob_focus (s : State) (j : Nat) (f : Job → Job) : (s.updJob j f).focus = s.focus := rfl
@[simp] theorem State.updJob_schedule (s : State) (j : Nat) (f : Job → Job) : (s.updJob j f).schedule = s.schedule := rfl
@[simp] theorem State.updJob_turnNo (s : State) (j : Nat) (f : Job → Job) : (s.updJob j f).turnNo = s.turnNo := rfl
@[simp] theorem State.updJob_inputs (s : State) (j : Nat) (f : Job → Job) : (s.updJob j f).inputs = s.inputs := rfl
@[simp] theorem State.updJob_ctxs (s : State) (j : Nat) (f : Job → Job) : (s.updJob j f).ctxs = s.ctxs := rfl
@[simp] theorem State.updJob_cores (s : State) (j : Nat) (f : Job → Job) : (s.updJob j f).cores = s.cores := rfl
@[simp] theorem State.updJob_cells (s : State) (j : Nat) (f : Job → Job) : (s.updJob j f).cells = s.cells := rfl
@[simp] theorem State.updJob_hbm (s : State) (j : Nat) (f : Job → Job) : (s.updJob j f).hbm = s.hbm := rfl
@[simp] theorem State.updJob_sram (s : State) (j : Nat) (f : Job → Job) : (s.updJob j f).sram = s.sram := rfl
@[simp] theorem State.updJob_host (s : State) (j : Nat) (f : Job → Job) : (s.updJob j f).host = s.host := rfl
@[simp] theorem State.updJob_bad (s : State) (j : Nat) (f : Job → Job) : (s.updJob j f).bad = s.bad := rfl
@[simp] theorem State.updJob_memErrs (s : State) (j : Nat) (f : Job → Job) : (s.updJob j f).memErrs = s.memErrs := rfl
@[simp] theorem State.updJob_pcreq (s : State) (j : Nat) (f : Job → Job) : (s.updJob j f).pcreq = s.pcreq := rfl
@[simp] theorem State.updJob_stks (s : State) (j : Nat) (f : Job → Job) : (s.updJob j f).stks = s.stks := rfl
@[simp] theorem State.updJob_dtlb (s : State) (j : Nat) (f : Job → Job) : (s.updJob j f).dtlb = s.dtlb := rfl
@[simp] theorem State.updJob_walks (s : State) (j : Nat) (f : Job → Job) : (s.updJob j f).walks = s.walks := rfl
@[simp] theorem State.updJob_misses (s : State) (j : Nat) (f : Job → Job) : (s.updJob j f).misses = s.misses := rfl
@[simp] theorem State.updJob_moves (s : State) (j : Nat) (f : Job → Job) : (s.updJob j f).moves = s.moves := rfl
@[simp] theorem State.updJob_tiers (s : State) (j : Nat) (f : Job → Job) : (s.updJob j f).tiers = s.tiers := rfl
@[simp] theorem State.updJob_strict (s : State) (j : Nat) (f : Job → Job) : (s.updJob j f).strict = s.strict := rfl
@[simp] theorem State.updJob_poolBase (s : State) (j : Nat) (f : Job → Job) : (s.updJob j f).poolBase = s.poolBase := rfl
@[simp] theorem State.updJob_poolStk (s : State) (j : Nat) (f : Job → Job) : (s.updJob j f).poolStk = s.poolStk := rfl
@[simp] theorem State.updJob_poolN (s : State) (j : Nat) (f : Job → Job) : (s.updJob j f).poolN = s.poolN := rfl
@[simp] theorem State.updJob_poolCap (s : State) (j : Nat) (f : Job → Job) : (s.updJob j f).poolCap = s.poolCap := rfl
@[simp] theorem State.updJob_ctl (s : State) (j : Nat) (f : Job → Job) : (s.updJob j f).ctl = s.ctl := rfl
@[simp] theorem State.updJob_phaseMsgs (s : State) (j : Nat) (f : Job → Job) : (s.updJob j f).phaseMsgs = s.phaseMsgs := rfl
@[simp] theorem State.updJob_phaseCnts (s : State) (j : Nat) (f : Job → Job) : (s.updJob j f).phaseCnts = s.phaseCnts := rfl
@[simp] theorem State.updJob_recordsOut (s : State) (j : Nat) (f : Job → Job) : (s.updJob j f).recordsOut = s.recordsOut := rfl
@[simp] theorem State.updJob_pcNow (s : State) (j : Nat) (f : Job → Job) : (s.updJob j f).pcNow = s.pcNow := rfl
@[simp] theorem State.updJob_reaches (s : State) (j : Nat) (f : Job → Job) : (s.updJob j f).reaches = s.reaches := rfl
@[simp] theorem State.updJob_loads (s : State) (j : Nat) (f : Job → Job) : (s.updJob j f).loads = s.loads := rfl
@[simp] theorem State.updJob_cache (s : State) (j : Nat) (f : Job → Job) : (s.updJob j f).cache = s.cache := rfl
@[simp] theorem State.updJob_images (s : State) (j : Nat) (f : Job → Job) : (s.updJob j f).images = s.images := rfl
@[simp] theorem State.updJob_nextId (s : State) (j : Nat) (f : Job → Job) : (s.updJob j f).nextId = s.nextId := rfl
@[simp] theorem State.updJob_partErr (s : State) (j : Nat) (f : Job → Job) : (s.updJob j f).partErr = s.partErr := rfl
@[simp] theorem State.updJob_partErrJob (s : State) (j : Nat) (f : Job → Job) : (s.updJob j f).partErrJob = s.partErrJob := rfl
@[simp] theorem State.updJob_clearing (s : State) (j : Nat) (f : Job → Job) : (s.updJob j f).clearing = s.clearing := rfl
@[simp] theorem State.updJob_abandoned (s : State) (j : Nat) (f : Job → Job) : (s.updJob j f).abandoned = s.abandoned := rfl
@[simp] theorem State.updJob_plim (s : State) (j : Nat) (f : Job → Job) : (s.updJob j f).plim = s.plim := rfl
@[simp] theorem State.updJob_throt (s : State) (j : Nat) (f : Job → Job) : (s.updJob j f).throt = s.throt := rfl
@[simp] theorem State.updJob_pnow (s : State) (j : Nat) (f : Job → Job) : (s.updJob j f).pnow = s.pnow := rfl
@[simp] theorem State.updJob_powerMs (s : State) (j : Nat) (f : Job → Job) : (s.updJob j f).powerMs = s.powerMs := rfl
@[simp] theorem State.updJob_mailOp (s : State) (j : Nat) (f : Job → Job) : (s.updJob j f).mailOp = s.mailOp := rfl
@[simp] theorem State.updJob_mailRun (s : State) (j : Nat) (f : Job → Job) : (s.updJob j f).mailRun = s.mailRun := rfl
@[simp] theorem State.updJob_mailErr (s : State) (j : Nat) (f : Job → Job) : (s.updJob j f).mailErr = s.mailErr := rfl
@[simp] theorem State.updJob_nonce (s : State) (j : Nat) (f : Job → Job) : (s.updJob j f).nonce = s.nonce := rfl
@[simp] theorem State.updJob_mailBuf (s : State) (j : Nat) (f : Job → Job) : (s.updJob j f).mailBuf = s.mailBuf := rfl
@[simp] theorem State.updJob_bootOk (s : State) (j : Nat) (f : Job → Job) : (s.updJob j f).bootOk = s.bootOk := rfl
@[simp] theorem State.updJob_coldResets (s : State) (j : Nat) (f : Job → Job) : (s.updJob j f).coldResets = s.coldResets := rfl
@[simp] theorem State.updJob_seamOpen (s : State) (j : Nat) (f : Job → Job) : (s.updJob j f).seamOpen = s.seamOpen := rfl
@[simp] theorem State.updJob_stacksIn (s : State) (j : Nat) (f : Job → Job) : (s.updJob j f).stacksIn = s.stacksIn := rfl
@[simp] theorem State.updJob_shoreIn (s : State) (j : Nat) (f : Job → Job) : (s.updJob j f).shoreIn = s.shoreIn := rfl
@[simp] theorem State.updJob_tide (s : State) (j : Nat) (f : Job → Job) : (s.updJob j f).tide = s.tide := rfl
@[simp] theorem State.updJob_shoreOut (s : State) (j : Nat) (f : Job → Job) : (s.updJob j f).shoreOut = s.shoreOut := rfl
@[simp] theorem State.updJob_msix (s : State) (j : Nat) (f : Job → Job) : (s.updJob j f).msix = s.msix := rfl
@[simp] theorem State.updJob_freeCount (s : State) (j : Nat) (f : Job → Job) : (s.updJob j f).freeCount = s.freeCount := rfl
@[simp] theorem State.updJob_ctx (s : State) (j : Nat) (f : Job → Job) (x : Nat) : (s.updJob j f).ctx x = s.ctx x := rfl
@[simp] theorem State.updJob_core (s : State) (j : Nat) (f : Job → Job) (x : Nat) : (s.updJob j f).core x = s.core x := rfl
@[simp] theorem State.updJob_cell (s : State) (j : Nat) (f : Job → Job) (x : Nat) : (s.updJob j f).cell x = s.cell x := rfl
@[simp] theorem State.updJob_stk (s : State) (j : Nat) (f : Job → Job) (x : Nat) : (s.updJob j f).stk x = s.stk x := rfl
@[simp] theorem State.updJob_reach? (s : State) (j : Nat) (f : Job → Job) (x : Nat) : (s.updJob j f).reach? x = s.reach? x := rfl
@[simp] theorem State.updJob_reachJob (s : State) (j : Nat) (f : Job → Job) (x : Nat) : (s.updJob j f).reachJob x = s.reachJob x := rfl
@[simp] theorem State.updJob_tick (s : State) (j : Nat) (f : Job → Job) : (s.updJob j f).tick = s.tick := rfl
@[simp] theorem State.updJob_cset (s : State) (j : Nat) (f : Job → Job) (x : Nat) : (s.updJob j f).cset x = s.cset x := rfl
@[simp] theorem State.updJob_aset (s : State) (j : Nat) (f : Job → Job) (x : Nat) : (s.updJob j f).aset x = s.aset x := rfl
@[simp] theorem State.updJob_mset (s : State) (j : Nat) (f : Job → Job) (x : Nat) : (s.updJob j f).mset x = s.mset x := rfl
@[simp] theorem State.updJob_port (s : State) (j : Nat) (f : Job → Job) (x y : Nat) : (s.updJob j f).port x y = s.port x y := rfl
@[simp] theorem State.updJob_issue (s : State) (j : Nat) (f : Job → Job) (x y : Nat) : (s.updJob j f).issue x y = s.issue x y := rfl

/-! ### updStk -/

@[simp] theorem State.updStk_cycle (s : State) (k : Nat) (f : Stack → Stack) : (s.updStk k f).cycle = s.cycle := rfl
@[simp] theorem State.updStk_focus (s : State) (k : Nat) (f : Stack → Stack) : (s.updStk k f).focus = s.focus := rfl
@[simp] theorem State.updStk_schedule (s : State) (k : Nat) (f : Stack → Stack) : (s.updStk k f).schedule = s.schedule := rfl
@[simp] theorem State.updStk_turnNo (s : State) (k : Nat) (f : Stack → Stack) : (s.updStk k f).turnNo = s.turnNo := rfl
@[simp] theorem State.updStk_inputs (s : State) (k : Nat) (f : Stack → Stack) : (s.updStk k f).inputs = s.inputs := rfl
@[simp] theorem State.updStk_ctxs (s : State) (k : Nat) (f : Stack → Stack) : (s.updStk k f).ctxs = s.ctxs := rfl
@[simp] theorem State.updStk_cores (s : State) (k : Nat) (f : Stack → Stack) : (s.updStk k f).cores = s.cores := rfl
@[simp] theorem State.updStk_cells (s : State) (k : Nat) (f : Stack → Stack) : (s.updStk k f).cells = s.cells := rfl
@[simp] theorem State.updStk_jobs (s : State) (k : Nat) (f : Stack → Stack) : (s.updStk k f).jobs = s.jobs := rfl
@[simp] theorem State.updStk_hbm (s : State) (k : Nat) (f : Stack → Stack) : (s.updStk k f).hbm = s.hbm := rfl
@[simp] theorem State.updStk_sram (s : State) (k : Nat) (f : Stack → Stack) : (s.updStk k f).sram = s.sram := rfl
@[simp] theorem State.updStk_host (s : State) (k : Nat) (f : Stack → Stack) : (s.updStk k f).host = s.host := rfl
@[simp] theorem State.updStk_bad (s : State) (k : Nat) (f : Stack → Stack) : (s.updStk k f).bad = s.bad := rfl
@[simp] theorem State.updStk_memErrs (s : State) (k : Nat) (f : Stack → Stack) : (s.updStk k f).memErrs = s.memErrs := rfl
@[simp] theorem State.updStk_pcreq (s : State) (k : Nat) (f : Stack → Stack) : (s.updStk k f).pcreq = s.pcreq := rfl
@[simp] theorem State.updStk_dtlb (s : State) (k : Nat) (f : Stack → Stack) : (s.updStk k f).dtlb = s.dtlb := rfl
@[simp] theorem State.updStk_walks (s : State) (k : Nat) (f : Stack → Stack) : (s.updStk k f).walks = s.walks := rfl
@[simp] theorem State.updStk_misses (s : State) (k : Nat) (f : Stack → Stack) : (s.updStk k f).misses = s.misses := rfl
@[simp] theorem State.updStk_moves (s : State) (k : Nat) (f : Stack → Stack) : (s.updStk k f).moves = s.moves := rfl
@[simp] theorem State.updStk_tiers (s : State) (k : Nat) (f : Stack → Stack) : (s.updStk k f).tiers = s.tiers := rfl
@[simp] theorem State.updStk_strict (s : State) (k : Nat) (f : Stack → Stack) : (s.updStk k f).strict = s.strict := rfl
@[simp] theorem State.updStk_poolBase (s : State) (k : Nat) (f : Stack → Stack) : (s.updStk k f).poolBase = s.poolBase := rfl
@[simp] theorem State.updStk_poolStk (s : State) (k : Nat) (f : Stack → Stack) : (s.updStk k f).poolStk = s.poolStk := rfl
@[simp] theorem State.updStk_poolN (s : State) (k : Nat) (f : Stack → Stack) : (s.updStk k f).poolN = s.poolN := rfl
@[simp] theorem State.updStk_poolCap (s : State) (k : Nat) (f : Stack → Stack) : (s.updStk k f).poolCap = s.poolCap := rfl
@[simp] theorem State.updStk_ctl (s : State) (k : Nat) (f : Stack → Stack) : (s.updStk k f).ctl = s.ctl := rfl
@[simp] theorem State.updStk_phaseMsgs (s : State) (k : Nat) (f : Stack → Stack) : (s.updStk k f).phaseMsgs = s.phaseMsgs := rfl
@[simp] theorem State.updStk_phaseCnts (s : State) (k : Nat) (f : Stack → Stack) : (s.updStk k f).phaseCnts = s.phaseCnts := rfl
@[simp] theorem State.updStk_recordsOut (s : State) (k : Nat) (f : Stack → Stack) : (s.updStk k f).recordsOut = s.recordsOut := rfl
@[simp] theorem State.updStk_pcNow (s : State) (k : Nat) (f : Stack → Stack) : (s.updStk k f).pcNow = s.pcNow := rfl
@[simp] theorem State.updStk_reaches (s : State) (k : Nat) (f : Stack → Stack) : (s.updStk k f).reaches = s.reaches := rfl
@[simp] theorem State.updStk_loads (s : State) (k : Nat) (f : Stack → Stack) : (s.updStk k f).loads = s.loads := rfl
@[simp] theorem State.updStk_cache (s : State) (k : Nat) (f : Stack → Stack) : (s.updStk k f).cache = s.cache := rfl
@[simp] theorem State.updStk_images (s : State) (k : Nat) (f : Stack → Stack) : (s.updStk k f).images = s.images := rfl
@[simp] theorem State.updStk_nextId (s : State) (k : Nat) (f : Stack → Stack) : (s.updStk k f).nextId = s.nextId := rfl
@[simp] theorem State.updStk_partErr (s : State) (k : Nat) (f : Stack → Stack) : (s.updStk k f).partErr = s.partErr := rfl
@[simp] theorem State.updStk_partErrJob (s : State) (k : Nat) (f : Stack → Stack) : (s.updStk k f).partErrJob = s.partErrJob := rfl
@[simp] theorem State.updStk_clearing (s : State) (k : Nat) (f : Stack → Stack) : (s.updStk k f).clearing = s.clearing := rfl
@[simp] theorem State.updStk_abandoned (s : State) (k : Nat) (f : Stack → Stack) : (s.updStk k f).abandoned = s.abandoned := rfl
@[simp] theorem State.updStk_plim (s : State) (k : Nat) (f : Stack → Stack) : (s.updStk k f).plim = s.plim := rfl
@[simp] theorem State.updStk_throt (s : State) (k : Nat) (f : Stack → Stack) : (s.updStk k f).throt = s.throt := rfl
@[simp] theorem State.updStk_pnow (s : State) (k : Nat) (f : Stack → Stack) : (s.updStk k f).pnow = s.pnow := rfl
@[simp] theorem State.updStk_powerMs (s : State) (k : Nat) (f : Stack → Stack) : (s.updStk k f).powerMs = s.powerMs := rfl
@[simp] theorem State.updStk_mailOp (s : State) (k : Nat) (f : Stack → Stack) : (s.updStk k f).mailOp = s.mailOp := rfl
@[simp] theorem State.updStk_mailRun (s : State) (k : Nat) (f : Stack → Stack) : (s.updStk k f).mailRun = s.mailRun := rfl
@[simp] theorem State.updStk_mailErr (s : State) (k : Nat) (f : Stack → Stack) : (s.updStk k f).mailErr = s.mailErr := rfl
@[simp] theorem State.updStk_nonce (s : State) (k : Nat) (f : Stack → Stack) : (s.updStk k f).nonce = s.nonce := rfl
@[simp] theorem State.updStk_mailBuf (s : State) (k : Nat) (f : Stack → Stack) : (s.updStk k f).mailBuf = s.mailBuf := rfl
@[simp] theorem State.updStk_bootOk (s : State) (k : Nat) (f : Stack → Stack) : (s.updStk k f).bootOk = s.bootOk := rfl
@[simp] theorem State.updStk_coldResets (s : State) (k : Nat) (f : Stack → Stack) : (s.updStk k f).coldResets = s.coldResets := rfl
@[simp] theorem State.updStk_seamOpen (s : State) (k : Nat) (f : Stack → Stack) : (s.updStk k f).seamOpen = s.seamOpen := rfl
@[simp] theorem State.updStk_stacksIn (s : State) (k : Nat) (f : Stack → Stack) : (s.updStk k f).stacksIn = s.stacksIn := rfl
@[simp] theorem State.updStk_shoreIn (s : State) (k : Nat) (f : Stack → Stack) : (s.updStk k f).shoreIn = s.shoreIn := rfl
@[simp] theorem State.updStk_tide (s : State) (k : Nat) (f : Stack → Stack) : (s.updStk k f).tide = s.tide := rfl
@[simp] theorem State.updStk_shoreOut (s : State) (k : Nat) (f : Stack → Stack) : (s.updStk k f).shoreOut = s.shoreOut := rfl
@[simp] theorem State.updStk_msix (s : State) (k : Nat) (f : Stack → Stack) : (s.updStk k f).msix = s.msix := rfl
@[simp] theorem State.updStk_freeCount (s : State) (k : Nat) (f : Stack → Stack) : (s.updStk k f).freeCount = s.freeCount := rfl
@[simp] theorem State.updStk_ctx (s : State) (k : Nat) (f : Stack → Stack) (x : Nat) : (s.updStk k f).ctx x = s.ctx x := rfl
@[simp] theorem State.updStk_core (s : State) (k : Nat) (f : Stack → Stack) (x : Nat) : (s.updStk k f).core x = s.core x := rfl
@[simp] theorem State.updStk_cell (s : State) (k : Nat) (f : Stack → Stack) (x : Nat) : (s.updStk k f).cell x = s.cell x := rfl
@[simp] theorem State.updStk_job (s : State) (k : Nat) (f : Stack → Stack) (x : Nat) : (s.updStk k f).job x = s.job x := rfl
@[simp] theorem State.updStk_reach? (s : State) (k : Nat) (f : Stack → Stack) (x : Nat) : (s.updStk k f).reach? x = s.reach? x := rfl
@[simp] theorem State.updStk_reachJob (s : State) (k : Nat) (f : Stack → Stack) (x : Nat) : (s.updStk k f).reachJob x = s.reachJob x := rfl
@[simp] theorem State.updStk_tick (s : State) (k : Nat) (f : Stack → Stack) : (s.updStk k f).tick = s.tick := rfl
@[simp] theorem State.updStk_cset (s : State) (k : Nat) (f : Stack → Stack) (x : Nat) : (s.updStk k f).cset x = s.cset x := rfl
@[simp] theorem State.updStk_aset (s : State) (k : Nat) (f : Stack → Stack) (x : Nat) : (s.updStk k f).aset x = s.aset x := rfl
@[simp] theorem State.updStk_mset (s : State) (k : Nat) (f : Stack → Stack) (x : Nat) : (s.updStk k f).mset x = s.mset x := rfl
@[simp] theorem State.updStk_port (s : State) (k : Nat) (f : Stack → Stack) (x y : Nat) : (s.updStk k f).port x y = s.port x y := rfl
@[simp] theorem State.updStk_issue (s : State) (k : Nat) (f : Stack → Stack) (x y : Nat) : (s.updStk k f).issue x y = s.issue x y := rfl

/-! ### updReach -/

@[simp] theorem State.updReach_cycle (s : State) (i : Nat) (f : Reach → Reach) : (s.updReach i f).cycle = s.cycle := rfl
@[simp] theorem State.updReach_focus (s : State) (i : Nat) (f : Reach → Reach) : (s.updReach i f).focus = s.focus := rfl
@[simp] theorem State.updReach_schedule (s : State) (i : Nat) (f : Reach → Reach) : (s.updReach i f).schedule = s.schedule := rfl
@[simp] theorem State.updReach_turnNo (s : State) (i : Nat) (f : Reach → Reach) : (s.updReach i f).turnNo = s.turnNo := rfl
@[simp] theorem State.updReach_inputs (s : State) (i : Nat) (f : Reach → Reach) : (s.updReach i f).inputs = s.inputs := rfl
@[simp] theorem State.updReach_ctxs (s : State) (i : Nat) (f : Reach → Reach) : (s.updReach i f).ctxs = s.ctxs := rfl
@[simp] theorem State.updReach_cores (s : State) (i : Nat) (f : Reach → Reach) : (s.updReach i f).cores = s.cores := rfl
@[simp] theorem State.updReach_cells (s : State) (i : Nat) (f : Reach → Reach) : (s.updReach i f).cells = s.cells := rfl
@[simp] theorem State.updReach_jobs (s : State) (i : Nat) (f : Reach → Reach) : (s.updReach i f).jobs = s.jobs := rfl
@[simp] theorem State.updReach_hbm (s : State) (i : Nat) (f : Reach → Reach) : (s.updReach i f).hbm = s.hbm := rfl
@[simp] theorem State.updReach_sram (s : State) (i : Nat) (f : Reach → Reach) : (s.updReach i f).sram = s.sram := rfl
@[simp] theorem State.updReach_host (s : State) (i : Nat) (f : Reach → Reach) : (s.updReach i f).host = s.host := rfl
@[simp] theorem State.updReach_bad (s : State) (i : Nat) (f : Reach → Reach) : (s.updReach i f).bad = s.bad := rfl
@[simp] theorem State.updReach_memErrs (s : State) (i : Nat) (f : Reach → Reach) : (s.updReach i f).memErrs = s.memErrs := rfl
@[simp] theorem State.updReach_pcreq (s : State) (i : Nat) (f : Reach → Reach) : (s.updReach i f).pcreq = s.pcreq := rfl
@[simp] theorem State.updReach_stks (s : State) (i : Nat) (f : Reach → Reach) : (s.updReach i f).stks = s.stks := rfl
@[simp] theorem State.updReach_dtlb (s : State) (i : Nat) (f : Reach → Reach) : (s.updReach i f).dtlb = s.dtlb := rfl
@[simp] theorem State.updReach_walks (s : State) (i : Nat) (f : Reach → Reach) : (s.updReach i f).walks = s.walks := rfl
@[simp] theorem State.updReach_misses (s : State) (i : Nat) (f : Reach → Reach) : (s.updReach i f).misses = s.misses := rfl
@[simp] theorem State.updReach_moves (s : State) (i : Nat) (f : Reach → Reach) : (s.updReach i f).moves = s.moves := rfl
@[simp] theorem State.updReach_tiers (s : State) (i : Nat) (f : Reach → Reach) : (s.updReach i f).tiers = s.tiers := rfl
@[simp] theorem State.updReach_strict (s : State) (i : Nat) (f : Reach → Reach) : (s.updReach i f).strict = s.strict := rfl
@[simp] theorem State.updReach_poolBase (s : State) (i : Nat) (f : Reach → Reach) : (s.updReach i f).poolBase = s.poolBase := rfl
@[simp] theorem State.updReach_poolStk (s : State) (i : Nat) (f : Reach → Reach) : (s.updReach i f).poolStk = s.poolStk := rfl
@[simp] theorem State.updReach_poolN (s : State) (i : Nat) (f : Reach → Reach) : (s.updReach i f).poolN = s.poolN := rfl
@[simp] theorem State.updReach_poolCap (s : State) (i : Nat) (f : Reach → Reach) : (s.updReach i f).poolCap = s.poolCap := rfl
@[simp] theorem State.updReach_ctl (s : State) (i : Nat) (f : Reach → Reach) : (s.updReach i f).ctl = s.ctl := rfl
@[simp] theorem State.updReach_phaseMsgs (s : State) (i : Nat) (f : Reach → Reach) : (s.updReach i f).phaseMsgs = s.phaseMsgs := rfl
@[simp] theorem State.updReach_phaseCnts (s : State) (i : Nat) (f : Reach → Reach) : (s.updReach i f).phaseCnts = s.phaseCnts := rfl
@[simp] theorem State.updReach_recordsOut (s : State) (i : Nat) (f : Reach → Reach) : (s.updReach i f).recordsOut = s.recordsOut := rfl
@[simp] theorem State.updReach_pcNow (s : State) (i : Nat) (f : Reach → Reach) : (s.updReach i f).pcNow = s.pcNow := rfl
@[simp] theorem State.updReach_loads (s : State) (i : Nat) (f : Reach → Reach) : (s.updReach i f).loads = s.loads := rfl
@[simp] theorem State.updReach_cache (s : State) (i : Nat) (f : Reach → Reach) : (s.updReach i f).cache = s.cache := rfl
@[simp] theorem State.updReach_images (s : State) (i : Nat) (f : Reach → Reach) : (s.updReach i f).images = s.images := rfl
@[simp] theorem State.updReach_nextId (s : State) (i : Nat) (f : Reach → Reach) : (s.updReach i f).nextId = s.nextId := rfl
@[simp] theorem State.updReach_partErr (s : State) (i : Nat) (f : Reach → Reach) : (s.updReach i f).partErr = s.partErr := rfl
@[simp] theorem State.updReach_partErrJob (s : State) (i : Nat) (f : Reach → Reach) : (s.updReach i f).partErrJob = s.partErrJob := rfl
@[simp] theorem State.updReach_clearing (s : State) (i : Nat) (f : Reach → Reach) : (s.updReach i f).clearing = s.clearing := rfl
@[simp] theorem State.updReach_abandoned (s : State) (i : Nat) (f : Reach → Reach) : (s.updReach i f).abandoned = s.abandoned := rfl
@[simp] theorem State.updReach_plim (s : State) (i : Nat) (f : Reach → Reach) : (s.updReach i f).plim = s.plim := rfl
@[simp] theorem State.updReach_throt (s : State) (i : Nat) (f : Reach → Reach) : (s.updReach i f).throt = s.throt := rfl
@[simp] theorem State.updReach_pnow (s : State) (i : Nat) (f : Reach → Reach) : (s.updReach i f).pnow = s.pnow := rfl
@[simp] theorem State.updReach_powerMs (s : State) (i : Nat) (f : Reach → Reach) : (s.updReach i f).powerMs = s.powerMs := rfl
@[simp] theorem State.updReach_mailOp (s : State) (i : Nat) (f : Reach → Reach) : (s.updReach i f).mailOp = s.mailOp := rfl
@[simp] theorem State.updReach_mailRun (s : State) (i : Nat) (f : Reach → Reach) : (s.updReach i f).mailRun = s.mailRun := rfl
@[simp] theorem State.updReach_mailErr (s : State) (i : Nat) (f : Reach → Reach) : (s.updReach i f).mailErr = s.mailErr := rfl
@[simp] theorem State.updReach_nonce (s : State) (i : Nat) (f : Reach → Reach) : (s.updReach i f).nonce = s.nonce := rfl
@[simp] theorem State.updReach_mailBuf (s : State) (i : Nat) (f : Reach → Reach) : (s.updReach i f).mailBuf = s.mailBuf := rfl
@[simp] theorem State.updReach_bootOk (s : State) (i : Nat) (f : Reach → Reach) : (s.updReach i f).bootOk = s.bootOk := rfl
@[simp] theorem State.updReach_coldResets (s : State) (i : Nat) (f : Reach → Reach) : (s.updReach i f).coldResets = s.coldResets := rfl
@[simp] theorem State.updReach_seamOpen (s : State) (i : Nat) (f : Reach → Reach) : (s.updReach i f).seamOpen = s.seamOpen := rfl
@[simp] theorem State.updReach_stacksIn (s : State) (i : Nat) (f : Reach → Reach) : (s.updReach i f).stacksIn = s.stacksIn := rfl
@[simp] theorem State.updReach_shoreIn (s : State) (i : Nat) (f : Reach → Reach) : (s.updReach i f).shoreIn = s.shoreIn := rfl
@[simp] theorem State.updReach_tide (s : State) (i : Nat) (f : Reach → Reach) : (s.updReach i f).tide = s.tide := rfl
@[simp] theorem State.updReach_shoreOut (s : State) (i : Nat) (f : Reach → Reach) : (s.updReach i f).shoreOut = s.shoreOut := rfl
@[simp] theorem State.updReach_msix (s : State) (i : Nat) (f : Reach → Reach) : (s.updReach i f).msix = s.msix := rfl
@[simp] theorem State.updReach_freeCount (s : State) (i : Nat) (f : Reach → Reach) : (s.updReach i f).freeCount = s.freeCount := rfl
@[simp] theorem State.updReach_ctx (s : State) (i : Nat) (f : Reach → Reach) (x : Nat) : (s.updReach i f).ctx x = s.ctx x := rfl
@[simp] theorem State.updReach_core (s : State) (i : Nat) (f : Reach → Reach) (x : Nat) : (s.updReach i f).core x = s.core x := rfl
@[simp] theorem State.updReach_cell (s : State) (i : Nat) (f : Reach → Reach) (x : Nat) : (s.updReach i f).cell x = s.cell x := rfl
@[simp] theorem State.updReach_job (s : State) (i : Nat) (f : Reach → Reach) (x : Nat) : (s.updReach i f).job x = s.job x := rfl
@[simp] theorem State.updReach_stk (s : State) (i : Nat) (f : Reach → Reach) (x : Nat) : (s.updReach i f).stk x = s.stk x := rfl
@[simp] theorem State.updReach_tick (s : State) (i : Nat) (f : Reach → Reach) : (s.updReach i f).tick = s.tick := rfl
@[simp] theorem State.updReach_cset (s : State) (i : Nat) (f : Reach → Reach) (x : Nat) : (s.updReach i f).cset x = s.cset x := rfl
@[simp] theorem State.updReach_aset (s : State) (i : Nat) (f : Reach → Reach) (x : Nat) : (s.updReach i f).aset x = s.aset x := rfl
@[simp] theorem State.updReach_mset (s : State) (i : Nat) (f : Reach → Reach) (x : Nat) : (s.updReach i f).mset x = s.mset x := rfl
@[simp] theorem State.updReach_port (s : State) (i : Nat) (f : Reach → Reach) (x y : Nat) : (s.updReach i f).port x y = s.port x y := rfl
@[simp] theorem State.updReach_issue (s : State) (i : Nat) (f : Reach → Reach) (x y : Nat) : (s.updReach i f).issue x y = s.issue x y := rfl

/-! ### drawn -/

@[simp] theorem State.drawn_cycle (s : State) : s.drawn.cycle = s.cycle := rfl
@[simp] theorem State.drawn_focus (s : State) : s.drawn.focus = s.focus := rfl
@[simp] theorem State.drawn_schedule (s : State) : s.drawn.schedule = s.schedule := rfl
@[simp] theorem State.drawn_turnNo (s : State) : s.drawn.turnNo = s.turnNo := rfl
@[simp] theorem State.drawn_inputs (s : State) : s.drawn.inputs = s.inputs := rfl
@[simp] theorem State.drawn_ctxs (s : State) : s.drawn.ctxs = s.ctxs := rfl
@[simp] theorem State.drawn_cores (s : State) : s.drawn.cores = s.cores := rfl
@[simp] theorem State.drawn_cells (s : State) : s.drawn.cells = s.cells := rfl
@[simp] theorem State.drawn_jobs (s : State) : s.drawn.jobs = s.jobs := rfl
@[simp] theorem State.drawn_hbm (s : State) : s.drawn.hbm = s.hbm := rfl
@[simp] theorem State.drawn_sram (s : State) : s.drawn.sram = s.sram := rfl
@[simp] theorem State.drawn_host (s : State) : s.drawn.host = s.host := rfl
@[simp] theorem State.drawn_bad (s : State) : s.drawn.bad = s.bad := rfl
@[simp] theorem State.drawn_memErrs (s : State) : s.drawn.memErrs = s.memErrs := rfl
@[simp] theorem State.drawn_pcreq (s : State) : s.drawn.pcreq = s.pcreq := rfl
@[simp] theorem State.drawn_stks (s : State) : s.drawn.stks = s.stks := rfl
@[simp] theorem State.drawn_dtlb (s : State) : s.drawn.dtlb = s.dtlb := rfl
@[simp] theorem State.drawn_walks (s : State) : s.drawn.walks = s.walks := rfl
@[simp] theorem State.drawn_misses (s : State) : s.drawn.misses = s.misses := rfl
@[simp] theorem State.drawn_moves (s : State) : s.drawn.moves = s.moves := rfl
@[simp] theorem State.drawn_tiers (s : State) : s.drawn.tiers = s.tiers := rfl
@[simp] theorem State.drawn_strict (s : State) : s.drawn.strict = s.strict := rfl
@[simp] theorem State.drawn_poolBase (s : State) : s.drawn.poolBase = s.poolBase := rfl
@[simp] theorem State.drawn_poolStk (s : State) : s.drawn.poolStk = s.poolStk := rfl
@[simp] theorem State.drawn_poolN (s : State) : s.drawn.poolN = s.poolN := rfl
@[simp] theorem State.drawn_poolCap (s : State) : s.drawn.poolCap = s.poolCap := rfl
@[simp] theorem State.drawn_ctl (s : State) : s.drawn.ctl = s.ctl := rfl
@[simp] theorem State.drawn_phaseMsgs (s : State) : s.drawn.phaseMsgs = s.phaseMsgs := rfl
@[simp] theorem State.drawn_phaseCnts (s : State) : s.drawn.phaseCnts = s.phaseCnts := rfl
@[simp] theorem State.drawn_recordsOut (s : State) : s.drawn.recordsOut = s.recordsOut := rfl
@[simp] theorem State.drawn_pcNow (s : State) : s.drawn.pcNow = s.pcNow := rfl
@[simp] theorem State.drawn_reaches (s : State) : s.drawn.reaches = s.reaches := rfl
@[simp] theorem State.drawn_loads (s : State) : s.drawn.loads = s.loads := rfl
@[simp] theorem State.drawn_cache (s : State) : s.drawn.cache = s.cache := rfl
@[simp] theorem State.drawn_images (s : State) : s.drawn.images = s.images := rfl
@[simp] theorem State.drawn_nextId (s : State) : s.drawn.nextId = s.nextId := rfl
@[simp] theorem State.drawn_partErr (s : State) : s.drawn.partErr = s.partErr := rfl
@[simp] theorem State.drawn_partErrJob (s : State) : s.drawn.partErrJob = s.partErrJob := rfl
@[simp] theorem State.drawn_clearing (s : State) : s.drawn.clearing = s.clearing := rfl
@[simp] theorem State.drawn_abandoned (s : State) : s.drawn.abandoned = s.abandoned := rfl
@[simp] theorem State.drawn_plim (s : State) : s.drawn.plim = s.plim := rfl
@[simp] theorem State.drawn_throt (s : State) : s.drawn.throt = s.throt := rfl
@[simp] theorem State.drawn_pnow (s : State) : s.drawn.pnow = s.pnow := rfl
@[simp] theorem State.drawn_powerMs (s : State) : s.drawn.powerMs = s.powerMs := rfl
@[simp] theorem State.drawn_mailOp (s : State) : s.drawn.mailOp = s.mailOp := rfl
@[simp] theorem State.drawn_mailRun (s : State) : s.drawn.mailRun = s.mailRun := rfl
@[simp] theorem State.drawn_mailErr (s : State) : s.drawn.mailErr = s.mailErr := rfl
@[simp] theorem State.drawn_nonce (s : State) : s.drawn.nonce = s.nonce := rfl
@[simp] theorem State.drawn_mailBuf (s : State) : s.drawn.mailBuf = s.mailBuf := rfl
@[simp] theorem State.drawn_bootOk (s : State) : s.drawn.bootOk = s.bootOk := rfl
@[simp] theorem State.drawn_coldResets (s : State) : s.drawn.coldResets = s.coldResets := rfl
@[simp] theorem State.drawn_seamOpen (s : State) : s.drawn.seamOpen = s.seamOpen := rfl
@[simp] theorem State.drawn_stacksIn (s : State) : s.drawn.stacksIn = s.stacksIn := rfl
@[simp] theorem State.drawn_shoreIn (s : State) : s.drawn.shoreIn = s.shoreIn := rfl
@[simp] theorem State.drawn_tide (s : State) : s.drawn.tide = s.tide := rfl
@[simp] theorem State.drawn_shoreOut (s : State) : s.drawn.shoreOut = s.shoreOut := rfl
@[simp] theorem State.drawn_msix (s : State) : s.drawn.msix = s.msix := rfl
@[simp] theorem State.drawn_ctx (s : State) (x : Nat) : s.drawn.ctx x = s.ctx x := rfl
@[simp] theorem State.drawn_core (s : State) (x : Nat) : s.drawn.core x = s.core x := rfl
@[simp] theorem State.drawn_cell (s : State) (x : Nat) : s.drawn.cell x = s.cell x := rfl
@[simp] theorem State.drawn_job (s : State) (x : Nat) : s.drawn.job x = s.job x := rfl
@[simp] theorem State.drawn_stk (s : State) (x : Nat) : s.drawn.stk x = s.stk x := rfl
@[simp] theorem State.drawn_reach? (s : State) (x : Nat) : s.drawn.reach? x = s.reach? x := rfl
@[simp] theorem State.drawn_reachJob (s : State) (x : Nat) : s.drawn.reachJob x = s.reachJob x := rfl
@[simp] theorem State.drawn_tick (s : State) : s.drawn.tick = s.tick := rfl
@[simp] theorem State.drawn_cset (s : State) (x : Nat) : s.drawn.cset x = s.cset x := rfl
@[simp] theorem State.drawn_aset (s : State) (x : Nat) : s.drawn.aset x = s.aset x := rfl
@[simp] theorem State.drawn_mset (s : State) (x : Nat) : s.drawn.mset x = s.mset x := rfl
@[simp] theorem State.drawn_port (s : State) (x y : Nat) : s.drawn.port x y = s.port x y := rfl
@[simp] theorem State.drawn_issue (s : State) (x y : Nat) : s.drawn.issue x y = s.issue x y := rfl

/-! ### countAccess -/

@[simp] theorem State.countAccess_cycle (s : State) (k a : Nat) : (s.countAccess k a).cycle = s.cycle := rfl
@[simp] theorem State.countAccess_focus (s : State) (k a : Nat) : (s.countAccess k a).focus = s.focus := rfl
@[simp] theorem State.countAccess_schedule (s : State) (k a : Nat) : (s.countAccess k a).schedule = s.schedule := rfl
@[simp] theorem State.countAccess_turnNo (s : State) (k a : Nat) : (s.countAccess k a).turnNo = s.turnNo := rfl
@[simp] theorem State.countAccess_inputs (s : State) (k a : Nat) : (s.countAccess k a).inputs = s.inputs := rfl
@[simp] theorem State.countAccess_ctxs (s : State) (k a : Nat) : (s.countAccess k a).ctxs = s.ctxs := rfl
@[simp] theorem State.countAccess_cores (s : State) (k a : Nat) : (s.countAccess k a).cores = s.cores := rfl
@[simp] theorem State.countAccess_cells (s : State) (k a : Nat) : (s.countAccess k a).cells = s.cells := rfl
@[simp] theorem State.countAccess_jobs (s : State) (k a : Nat) : (s.countAccess k a).jobs = s.jobs := rfl
@[simp] theorem State.countAccess_hbm (s : State) (k a : Nat) : (s.countAccess k a).hbm = s.hbm := rfl
@[simp] theorem State.countAccess_sram (s : State) (k a : Nat) : (s.countAccess k a).sram = s.sram := rfl
@[simp] theorem State.countAccess_host (s : State) (k a : Nat) : (s.countAccess k a).host = s.host := rfl
@[simp] theorem State.countAccess_bad (s : State) (k a : Nat) : (s.countAccess k a).bad = s.bad := rfl
@[simp] theorem State.countAccess_memErrs (s : State) (k a : Nat) : (s.countAccess k a).memErrs = s.memErrs := rfl
@[simp] theorem State.countAccess_stks (s : State) (k a : Nat) : (s.countAccess k a).stks = s.stks := rfl
@[simp] theorem State.countAccess_dtlb (s : State) (k a : Nat) : (s.countAccess k a).dtlb = s.dtlb := rfl
@[simp] theorem State.countAccess_walks (s : State) (k a : Nat) : (s.countAccess k a).walks = s.walks := rfl
@[simp] theorem State.countAccess_misses (s : State) (k a : Nat) : (s.countAccess k a).misses = s.misses := rfl
@[simp] theorem State.countAccess_moves (s : State) (k a : Nat) : (s.countAccess k a).moves = s.moves := rfl
@[simp] theorem State.countAccess_tiers (s : State) (k a : Nat) : (s.countAccess k a).tiers = s.tiers := rfl
@[simp] theorem State.countAccess_strict (s : State) (k a : Nat) : (s.countAccess k a).strict = s.strict := rfl
@[simp] theorem State.countAccess_poolBase (s : State) (k a : Nat) : (s.countAccess k a).poolBase = s.poolBase := rfl
@[simp] theorem State.countAccess_poolStk (s : State) (k a : Nat) : (s.countAccess k a).poolStk = s.poolStk := rfl
@[simp] theorem State.countAccess_poolN (s : State) (k a : Nat) : (s.countAccess k a).poolN = s.poolN := rfl
@[simp] theorem State.countAccess_poolCap (s : State) (k a : Nat) : (s.countAccess k a).poolCap = s.poolCap := rfl
@[simp] theorem State.countAccess_ctl (s : State) (k a : Nat) : (s.countAccess k a).ctl = s.ctl := rfl
@[simp] theorem State.countAccess_phaseMsgs (s : State) (k a : Nat) : (s.countAccess k a).phaseMsgs = s.phaseMsgs := rfl
@[simp] theorem State.countAccess_phaseCnts (s : State) (k a : Nat) : (s.countAccess k a).phaseCnts = s.phaseCnts := rfl
@[simp] theorem State.countAccess_recordsOut (s : State) (k a : Nat) : (s.countAccess k a).recordsOut = s.recordsOut := rfl
@[simp] theorem State.countAccess_reaches (s : State) (k a : Nat) : (s.countAccess k a).reaches = s.reaches := rfl
@[simp] theorem State.countAccess_loads (s : State) (k a : Nat) : (s.countAccess k a).loads = s.loads := rfl
@[simp] theorem State.countAccess_cache (s : State) (k a : Nat) : (s.countAccess k a).cache = s.cache := rfl
@[simp] theorem State.countAccess_images (s : State) (k a : Nat) : (s.countAccess k a).images = s.images := rfl
@[simp] theorem State.countAccess_nextId (s : State) (k a : Nat) : (s.countAccess k a).nextId = s.nextId := rfl
@[simp] theorem State.countAccess_partErr (s : State) (k a : Nat) : (s.countAccess k a).partErr = s.partErr := rfl
@[simp] theorem State.countAccess_partErrJob (s : State) (k a : Nat) : (s.countAccess k a).partErrJob = s.partErrJob := rfl
@[simp] theorem State.countAccess_clearing (s : State) (k a : Nat) : (s.countAccess k a).clearing = s.clearing := rfl
@[simp] theorem State.countAccess_abandoned (s : State) (k a : Nat) : (s.countAccess k a).abandoned = s.abandoned := rfl
@[simp] theorem State.countAccess_plim (s : State) (k a : Nat) : (s.countAccess k a).plim = s.plim := rfl
@[simp] theorem State.countAccess_throt (s : State) (k a : Nat) : (s.countAccess k a).throt = s.throt := rfl
@[simp] theorem State.countAccess_pnow (s : State) (k a : Nat) : (s.countAccess k a).pnow = s.pnow := rfl
@[simp] theorem State.countAccess_powerMs (s : State) (k a : Nat) : (s.countAccess k a).powerMs = s.powerMs := rfl
@[simp] theorem State.countAccess_mailOp (s : State) (k a : Nat) : (s.countAccess k a).mailOp = s.mailOp := rfl
@[simp] theorem State.countAccess_mailRun (s : State) (k a : Nat) : (s.countAccess k a).mailRun = s.mailRun := rfl
@[simp] theorem State.countAccess_mailErr (s : State) (k a : Nat) : (s.countAccess k a).mailErr = s.mailErr := rfl
@[simp] theorem State.countAccess_nonce (s : State) (k a : Nat) : (s.countAccess k a).nonce = s.nonce := rfl
@[simp] theorem State.countAccess_mailBuf (s : State) (k a : Nat) : (s.countAccess k a).mailBuf = s.mailBuf := rfl
@[simp] theorem State.countAccess_bootOk (s : State) (k a : Nat) : (s.countAccess k a).bootOk = s.bootOk := rfl
@[simp] theorem State.countAccess_coldResets (s : State) (k a : Nat) : (s.countAccess k a).coldResets = s.coldResets := rfl
@[simp] theorem State.countAccess_seamOpen (s : State) (k a : Nat) : (s.countAccess k a).seamOpen = s.seamOpen := rfl
@[simp] theorem State.countAccess_stacksIn (s : State) (k a : Nat) : (s.countAccess k a).stacksIn = s.stacksIn := rfl
@[simp] theorem State.countAccess_shoreIn (s : State) (k a : Nat) : (s.countAccess k a).shoreIn = s.shoreIn := rfl
@[simp] theorem State.countAccess_tide (s : State) (k a : Nat) : (s.countAccess k a).tide = s.tide := rfl
@[simp] theorem State.countAccess_shoreOut (s : State) (k a : Nat) : (s.countAccess k a).shoreOut = s.shoreOut := rfl
@[simp] theorem State.countAccess_msix (s : State) (k a : Nat) : (s.countAccess k a).msix = s.msix := rfl
@[simp] theorem State.countAccess_freeCount (s : State) (k a : Nat) : (s.countAccess k a).freeCount = s.freeCount := rfl
@[simp] theorem State.countAccess_ctx (s : State) (k a : Nat) (x : Nat) : (s.countAccess k a).ctx x = s.ctx x := rfl
@[simp] theorem State.countAccess_core (s : State) (k a : Nat) (x : Nat) : (s.countAccess k a).core x = s.core x := rfl
@[simp] theorem State.countAccess_cell (s : State) (k a : Nat) (x : Nat) : (s.countAccess k a).cell x = s.cell x := rfl
@[simp] theorem State.countAccess_job (s : State) (k a : Nat) (x : Nat) : (s.countAccess k a).job x = s.job x := rfl
@[simp] theorem State.countAccess_stk (s : State) (k a : Nat) (x : Nat) : (s.countAccess k a).stk x = s.stk x := rfl
@[simp] theorem State.countAccess_reach? (s : State) (k a : Nat) (x : Nat) : (s.countAccess k a).reach? x = s.reach? x := rfl
@[simp] theorem State.countAccess_reachJob (s : State) (k a : Nat) (x : Nat) : (s.countAccess k a).reachJob x = s.reachJob x := rfl
@[simp] theorem State.countAccess_tick (s : State) (k a : Nat) : (s.countAccess k a).tick = s.tick := rfl
@[simp] theorem State.countAccess_cset (s : State) (k a : Nat) (x : Nat) : (s.countAccess k a).cset x = s.cset x := rfl
@[simp] theorem State.countAccess_aset (s : State) (k a : Nat) (x : Nat) : (s.countAccess k a).aset x = s.aset x := rfl
@[simp] theorem State.countAccess_mset (s : State) (k a : Nat) (x : Nat) : (s.countAccess k a).mset x = s.mset x := rfl
@[simp] theorem State.countAccess_port (s : State) (k a : Nat) (x y : Nat) : (s.countAccess k a).port x y = s.port x y := rfl
@[simp] theorem State.countAccess_issue (s : State) (k a : Nat) (x y : Nat) : (s.countAccess k a).issue x y = s.issue x y := rfl

/-! ### hbmPut -/

@[simp] theorem State.hbmPut_cycle (s : State) (k a n v : Nat) : (s.hbmPut k a n v).cycle = s.cycle := rfl
@[simp] theorem State.hbmPut_focus (s : State) (k a n v : Nat) : (s.hbmPut k a n v).focus = s.focus := rfl
@[simp] theorem State.hbmPut_schedule (s : State) (k a n v : Nat) : (s.hbmPut k a n v).schedule = s.schedule := rfl
@[simp] theorem State.hbmPut_turnNo (s : State) (k a n v : Nat) : (s.hbmPut k a n v).turnNo = s.turnNo := rfl
@[simp] theorem State.hbmPut_inputs (s : State) (k a n v : Nat) : (s.hbmPut k a n v).inputs = s.inputs := rfl
@[simp] theorem State.hbmPut_ctxs (s : State) (k a n v : Nat) : (s.hbmPut k a n v).ctxs = s.ctxs := rfl
@[simp] theorem State.hbmPut_cores (s : State) (k a n v : Nat) : (s.hbmPut k a n v).cores = s.cores := rfl
@[simp] theorem State.hbmPut_cells (s : State) (k a n v : Nat) : (s.hbmPut k a n v).cells = s.cells := rfl
@[simp] theorem State.hbmPut_jobs (s : State) (k a n v : Nat) : (s.hbmPut k a n v).jobs = s.jobs := rfl
@[simp] theorem State.hbmPut_sram (s : State) (k a n v : Nat) : (s.hbmPut k a n v).sram = s.sram := rfl
@[simp] theorem State.hbmPut_host (s : State) (k a n v : Nat) : (s.hbmPut k a n v).host = s.host := rfl
@[simp] theorem State.hbmPut_bad (s : State) (k a n v : Nat) : (s.hbmPut k a n v).bad = s.bad := rfl
@[simp] theorem State.hbmPut_memErrs (s : State) (k a n v : Nat) : (s.hbmPut k a n v).memErrs = s.memErrs := rfl
@[simp] theorem State.hbmPut_pcreq (s : State) (k a n v : Nat) : (s.hbmPut k a n v).pcreq = s.pcreq := rfl
@[simp] theorem State.hbmPut_stks (s : State) (k a n v : Nat) : (s.hbmPut k a n v).stks = s.stks := rfl
@[simp] theorem State.hbmPut_dtlb (s : State) (k a n v : Nat) : (s.hbmPut k a n v).dtlb = s.dtlb := rfl
@[simp] theorem State.hbmPut_walks (s : State) (k a n v : Nat) : (s.hbmPut k a n v).walks = s.walks := rfl
@[simp] theorem State.hbmPut_misses (s : State) (k a n v : Nat) : (s.hbmPut k a n v).misses = s.misses := rfl
@[simp] theorem State.hbmPut_moves (s : State) (k a n v : Nat) : (s.hbmPut k a n v).moves = s.moves := rfl
@[simp] theorem State.hbmPut_tiers (s : State) (k a n v : Nat) : (s.hbmPut k a n v).tiers = s.tiers := rfl
@[simp] theorem State.hbmPut_strict (s : State) (k a n v : Nat) : (s.hbmPut k a n v).strict = s.strict := rfl
@[simp] theorem State.hbmPut_poolBase (s : State) (k a n v : Nat) : (s.hbmPut k a n v).poolBase = s.poolBase := rfl
@[simp] theorem State.hbmPut_poolStk (s : State) (k a n v : Nat) : (s.hbmPut k a n v).poolStk = s.poolStk := rfl
@[simp] theorem State.hbmPut_poolN (s : State) (k a n v : Nat) : (s.hbmPut k a n v).poolN = s.poolN := rfl
@[simp] theorem State.hbmPut_poolCap (s : State) (k a n v : Nat) : (s.hbmPut k a n v).poolCap = s.poolCap := rfl
@[simp] theorem State.hbmPut_ctl (s : State) (k a n v : Nat) : (s.hbmPut k a n v).ctl = s.ctl := rfl
@[simp] theorem State.hbmPut_phaseMsgs (s : State) (k a n v : Nat) : (s.hbmPut k a n v).phaseMsgs = s.phaseMsgs := rfl
@[simp] theorem State.hbmPut_phaseCnts (s : State) (k a n v : Nat) : (s.hbmPut k a n v).phaseCnts = s.phaseCnts := rfl
@[simp] theorem State.hbmPut_recordsOut (s : State) (k a n v : Nat) : (s.hbmPut k a n v).recordsOut = s.recordsOut := rfl
@[simp] theorem State.hbmPut_pcNow (s : State) (k a n v : Nat) : (s.hbmPut k a n v).pcNow = s.pcNow := rfl
@[simp] theorem State.hbmPut_reaches (s : State) (k a n v : Nat) : (s.hbmPut k a n v).reaches = s.reaches := rfl
@[simp] theorem State.hbmPut_loads (s : State) (k a n v : Nat) : (s.hbmPut k a n v).loads = s.loads := rfl
@[simp] theorem State.hbmPut_cache (s : State) (k a n v : Nat) : (s.hbmPut k a n v).cache = s.cache := rfl
@[simp] theorem State.hbmPut_images (s : State) (k a n v : Nat) : (s.hbmPut k a n v).images = s.images := rfl
@[simp] theorem State.hbmPut_nextId (s : State) (k a n v : Nat) : (s.hbmPut k a n v).nextId = s.nextId := rfl
@[simp] theorem State.hbmPut_partErr (s : State) (k a n v : Nat) : (s.hbmPut k a n v).partErr = s.partErr := rfl
@[simp] theorem State.hbmPut_partErrJob (s : State) (k a n v : Nat) : (s.hbmPut k a n v).partErrJob = s.partErrJob := rfl
@[simp] theorem State.hbmPut_clearing (s : State) (k a n v : Nat) : (s.hbmPut k a n v).clearing = s.clearing := rfl
@[simp] theorem State.hbmPut_abandoned (s : State) (k a n v : Nat) : (s.hbmPut k a n v).abandoned = s.abandoned := rfl
@[simp] theorem State.hbmPut_plim (s : State) (k a n v : Nat) : (s.hbmPut k a n v).plim = s.plim := rfl
@[simp] theorem State.hbmPut_throt (s : State) (k a n v : Nat) : (s.hbmPut k a n v).throt = s.throt := rfl
@[simp] theorem State.hbmPut_pnow (s : State) (k a n v : Nat) : (s.hbmPut k a n v).pnow = s.pnow := rfl
@[simp] theorem State.hbmPut_powerMs (s : State) (k a n v : Nat) : (s.hbmPut k a n v).powerMs = s.powerMs := rfl
@[simp] theorem State.hbmPut_mailOp (s : State) (k a n v : Nat) : (s.hbmPut k a n v).mailOp = s.mailOp := rfl
@[simp] theorem State.hbmPut_mailRun (s : State) (k a n v : Nat) : (s.hbmPut k a n v).mailRun = s.mailRun := rfl
@[simp] theorem State.hbmPut_mailErr (s : State) (k a n v : Nat) : (s.hbmPut k a n v).mailErr = s.mailErr := rfl
@[simp] theorem State.hbmPut_nonce (s : State) (k a n v : Nat) : (s.hbmPut k a n v).nonce = s.nonce := rfl
@[simp] theorem State.hbmPut_mailBuf (s : State) (k a n v : Nat) : (s.hbmPut k a n v).mailBuf = s.mailBuf := rfl
@[simp] theorem State.hbmPut_bootOk (s : State) (k a n v : Nat) : (s.hbmPut k a n v).bootOk = s.bootOk := rfl
@[simp] theorem State.hbmPut_coldResets (s : State) (k a n v : Nat) : (s.hbmPut k a n v).coldResets = s.coldResets := rfl
@[simp] theorem State.hbmPut_seamOpen (s : State) (k a n v : Nat) : (s.hbmPut k a n v).seamOpen = s.seamOpen := rfl
@[simp] theorem State.hbmPut_stacksIn (s : State) (k a n v : Nat) : (s.hbmPut k a n v).stacksIn = s.stacksIn := rfl
@[simp] theorem State.hbmPut_shoreIn (s : State) (k a n v : Nat) : (s.hbmPut k a n v).shoreIn = s.shoreIn := rfl
@[simp] theorem State.hbmPut_tide (s : State) (k a n v : Nat) : (s.hbmPut k a n v).tide = s.tide := rfl
@[simp] theorem State.hbmPut_shoreOut (s : State) (k a n v : Nat) : (s.hbmPut k a n v).shoreOut = s.shoreOut := rfl
@[simp] theorem State.hbmPut_msix (s : State) (k a n v : Nat) : (s.hbmPut k a n v).msix = s.msix := rfl
@[simp] theorem State.hbmPut_freeCount (s : State) (k a n v : Nat) : (s.hbmPut k a n v).freeCount = s.freeCount := rfl
@[simp] theorem State.hbmPut_ctx (s : State) (k a n v : Nat) (x : Nat) : (s.hbmPut k a n v).ctx x = s.ctx x := rfl
@[simp] theorem State.hbmPut_core (s : State) (k a n v : Nat) (x : Nat) : (s.hbmPut k a n v).core x = s.core x := rfl
@[simp] theorem State.hbmPut_cell (s : State) (k a n v : Nat) (x : Nat) : (s.hbmPut k a n v).cell x = s.cell x := rfl
@[simp] theorem State.hbmPut_job (s : State) (k a n v : Nat) (x : Nat) : (s.hbmPut k a n v).job x = s.job x := rfl
@[simp] theorem State.hbmPut_stk (s : State) (k a n v : Nat) (x : Nat) : (s.hbmPut k a n v).stk x = s.stk x := rfl
@[simp] theorem State.hbmPut_reach? (s : State) (k a n v : Nat) (x : Nat) : (s.hbmPut k a n v).reach? x = s.reach? x := rfl
@[simp] theorem State.hbmPut_reachJob (s : State) (k a n v : Nat) (x : Nat) : (s.hbmPut k a n v).reachJob x = s.reachJob x := rfl
@[simp] theorem State.hbmPut_tick (s : State) (k a n v : Nat) : (s.hbmPut k a n v).tick = s.tick := rfl
@[simp] theorem State.hbmPut_cset (s : State) (k a n v : Nat) (x : Nat) : (s.hbmPut k a n v).cset x = s.cset x := rfl
@[simp] theorem State.hbmPut_aset (s : State) (k a n v : Nat) (x : Nat) : (s.hbmPut k a n v).aset x = s.aset x := rfl
@[simp] theorem State.hbmPut_mset (s : State) (k a n v : Nat) (x : Nat) : (s.hbmPut k a n v).mset x = s.mset x := rfl
@[simp] theorem State.hbmPut_port (s : State) (k a n v : Nat) (x y : Nat) : (s.hbmPut k a n v).port x y = s.port x y := rfl
@[simp] theorem State.hbmPut_issue (s : State) (k a n v : Nat) (x y : Nat) : (s.hbmPut k a n v).issue x y = s.issue x y := rfl

/-! ### mend -/

@[simp] theorem State.mend_cycle (s : State) (k a : Nat) : (s.mend k a).cycle = s.cycle := rfl
@[simp] theorem State.mend_focus (s : State) (k a : Nat) : (s.mend k a).focus = s.focus := rfl
@[simp] theorem State.mend_schedule (s : State) (k a : Nat) : (s.mend k a).schedule = s.schedule := rfl
@[simp] theorem State.mend_turnNo (s : State) (k a : Nat) : (s.mend k a).turnNo = s.turnNo := rfl
@[simp] theorem State.mend_inputs (s : State) (k a : Nat) : (s.mend k a).inputs = s.inputs := rfl
@[simp] theorem State.mend_ctxs (s : State) (k a : Nat) : (s.mend k a).ctxs = s.ctxs := rfl
@[simp] theorem State.mend_cores (s : State) (k a : Nat) : (s.mend k a).cores = s.cores := rfl
@[simp] theorem State.mend_cells (s : State) (k a : Nat) : (s.mend k a).cells = s.cells := rfl
@[simp] theorem State.mend_jobs (s : State) (k a : Nat) : (s.mend k a).jobs = s.jobs := rfl
@[simp] theorem State.mend_hbm (s : State) (k a : Nat) : (s.mend k a).hbm = s.hbm := rfl
@[simp] theorem State.mend_sram (s : State) (k a : Nat) : (s.mend k a).sram = s.sram := rfl
@[simp] theorem State.mend_host (s : State) (k a : Nat) : (s.mend k a).host = s.host := rfl
@[simp] theorem State.mend_memErrs (s : State) (k a : Nat) : (s.mend k a).memErrs = s.memErrs := rfl
@[simp] theorem State.mend_pcreq (s : State) (k a : Nat) : (s.mend k a).pcreq = s.pcreq := rfl
@[simp] theorem State.mend_stks (s : State) (k a : Nat) : (s.mend k a).stks = s.stks := rfl
@[simp] theorem State.mend_dtlb (s : State) (k a : Nat) : (s.mend k a).dtlb = s.dtlb := rfl
@[simp] theorem State.mend_walks (s : State) (k a : Nat) : (s.mend k a).walks = s.walks := rfl
@[simp] theorem State.mend_misses (s : State) (k a : Nat) : (s.mend k a).misses = s.misses := rfl
@[simp] theorem State.mend_moves (s : State) (k a : Nat) : (s.mend k a).moves = s.moves := rfl
@[simp] theorem State.mend_tiers (s : State) (k a : Nat) : (s.mend k a).tiers = s.tiers := rfl
@[simp] theorem State.mend_strict (s : State) (k a : Nat) : (s.mend k a).strict = s.strict := rfl
@[simp] theorem State.mend_poolBase (s : State) (k a : Nat) : (s.mend k a).poolBase = s.poolBase := rfl
@[simp] theorem State.mend_poolStk (s : State) (k a : Nat) : (s.mend k a).poolStk = s.poolStk := rfl
@[simp] theorem State.mend_poolN (s : State) (k a : Nat) : (s.mend k a).poolN = s.poolN := rfl
@[simp] theorem State.mend_poolCap (s : State) (k a : Nat) : (s.mend k a).poolCap = s.poolCap := rfl
@[simp] theorem State.mend_ctl (s : State) (k a : Nat) : (s.mend k a).ctl = s.ctl := rfl
@[simp] theorem State.mend_phaseMsgs (s : State) (k a : Nat) : (s.mend k a).phaseMsgs = s.phaseMsgs := rfl
@[simp] theorem State.mend_phaseCnts (s : State) (k a : Nat) : (s.mend k a).phaseCnts = s.phaseCnts := rfl
@[simp] theorem State.mend_recordsOut (s : State) (k a : Nat) : (s.mend k a).recordsOut = s.recordsOut := rfl
@[simp] theorem State.mend_pcNow (s : State) (k a : Nat) : (s.mend k a).pcNow = s.pcNow := rfl
@[simp] theorem State.mend_reaches (s : State) (k a : Nat) : (s.mend k a).reaches = s.reaches := rfl
@[simp] theorem State.mend_loads (s : State) (k a : Nat) : (s.mend k a).loads = s.loads := rfl
@[simp] theorem State.mend_cache (s : State) (k a : Nat) : (s.mend k a).cache = s.cache := rfl
@[simp] theorem State.mend_images (s : State) (k a : Nat) : (s.mend k a).images = s.images := rfl
@[simp] theorem State.mend_nextId (s : State) (k a : Nat) : (s.mend k a).nextId = s.nextId := rfl
@[simp] theorem State.mend_partErr (s : State) (k a : Nat) : (s.mend k a).partErr = s.partErr := rfl
@[simp] theorem State.mend_partErrJob (s : State) (k a : Nat) : (s.mend k a).partErrJob = s.partErrJob := rfl
@[simp] theorem State.mend_clearing (s : State) (k a : Nat) : (s.mend k a).clearing = s.clearing := rfl
@[simp] theorem State.mend_abandoned (s : State) (k a : Nat) : (s.mend k a).abandoned = s.abandoned := rfl
@[simp] theorem State.mend_plim (s : State) (k a : Nat) : (s.mend k a).plim = s.plim := rfl
@[simp] theorem State.mend_throt (s : State) (k a : Nat) : (s.mend k a).throt = s.throt := rfl
@[simp] theorem State.mend_pnow (s : State) (k a : Nat) : (s.mend k a).pnow = s.pnow := rfl
@[simp] theorem State.mend_powerMs (s : State) (k a : Nat) : (s.mend k a).powerMs = s.powerMs := rfl
@[simp] theorem State.mend_mailOp (s : State) (k a : Nat) : (s.mend k a).mailOp = s.mailOp := rfl
@[simp] theorem State.mend_mailRun (s : State) (k a : Nat) : (s.mend k a).mailRun = s.mailRun := rfl
@[simp] theorem State.mend_mailErr (s : State) (k a : Nat) : (s.mend k a).mailErr = s.mailErr := rfl
@[simp] theorem State.mend_nonce (s : State) (k a : Nat) : (s.mend k a).nonce = s.nonce := rfl
@[simp] theorem State.mend_mailBuf (s : State) (k a : Nat) : (s.mend k a).mailBuf = s.mailBuf := rfl
@[simp] theorem State.mend_bootOk (s : State) (k a : Nat) : (s.mend k a).bootOk = s.bootOk := rfl
@[simp] theorem State.mend_coldResets (s : State) (k a : Nat) : (s.mend k a).coldResets = s.coldResets := rfl
@[simp] theorem State.mend_seamOpen (s : State) (k a : Nat) : (s.mend k a).seamOpen = s.seamOpen := rfl
@[simp] theorem State.mend_stacksIn (s : State) (k a : Nat) : (s.mend k a).stacksIn = s.stacksIn := rfl
@[simp] theorem State.mend_shoreIn (s : State) (k a : Nat) : (s.mend k a).shoreIn = s.shoreIn := rfl
@[simp] theorem State.mend_tide (s : State) (k a : Nat) : (s.mend k a).tide = s.tide := rfl
@[simp] theorem State.mend_shoreOut (s : State) (k a : Nat) : (s.mend k a).shoreOut = s.shoreOut := rfl
@[simp] theorem State.mend_msix (s : State) (k a : Nat) : (s.mend k a).msix = s.msix := rfl
@[simp] theorem State.mend_freeCount (s : State) (k a : Nat) : (s.mend k a).freeCount = s.freeCount := rfl
@[simp] theorem State.mend_ctx (s : State) (k a : Nat) (x : Nat) : (s.mend k a).ctx x = s.ctx x := rfl
@[simp] theorem State.mend_core (s : State) (k a : Nat) (x : Nat) : (s.mend k a).core x = s.core x := rfl
@[simp] theorem State.mend_cell (s : State) (k a : Nat) (x : Nat) : (s.mend k a).cell x = s.cell x := rfl
@[simp] theorem State.mend_job (s : State) (k a : Nat) (x : Nat) : (s.mend k a).job x = s.job x := rfl
@[simp] theorem State.mend_stk (s : State) (k a : Nat) (x : Nat) : (s.mend k a).stk x = s.stk x := rfl
@[simp] theorem State.mend_reach? (s : State) (k a : Nat) (x : Nat) : (s.mend k a).reach? x = s.reach? x := rfl
@[simp] theorem State.mend_reachJob (s : State) (k a : Nat) (x : Nat) : (s.mend k a).reachJob x = s.reachJob x := rfl
@[simp] theorem State.mend_tick (s : State) (k a : Nat) : (s.mend k a).tick = s.tick := rfl
@[simp] theorem State.mend_cset (s : State) (k a : Nat) (x : Nat) : (s.mend k a).cset x = s.cset x := rfl
@[simp] theorem State.mend_aset (s : State) (k a : Nat) (x : Nat) : (s.mend k a).aset x = s.aset x := rfl
@[simp] theorem State.mend_mset (s : State) (k a : Nat) (x : Nat) : (s.mend k a).mset x = s.mset x := rfl
@[simp] theorem State.mend_port (s : State) (k a : Nat) (x y : Nat) : (s.mend k a).port x y = s.port x y := rfl
@[simp] theorem State.mend_issue (s : State) (k a : Nat) (x y : Nat) : (s.mend k a).issue x y = s.issue x y := rfl

/-! ### noteLine -/

@[simp] theorem State.noteLine_cycle (s : State) (j a : Nat) : (s.noteLine j a).cycle = s.cycle := rfl
@[simp] theorem State.noteLine_focus (s : State) (j a : Nat) : (s.noteLine j a).focus = s.focus := rfl
@[simp] theorem State.noteLine_schedule (s : State) (j a : Nat) : (s.noteLine j a).schedule = s.schedule := rfl
@[simp] theorem State.noteLine_turnNo (s : State) (j a : Nat) : (s.noteLine j a).turnNo = s.turnNo := rfl
@[simp] theorem State.noteLine_inputs (s : State) (j a : Nat) : (s.noteLine j a).inputs = s.inputs := rfl
@[simp] theorem State.noteLine_cells (s : State) (j a : Nat) : (s.noteLine j a).cells = s.cells := rfl
@[simp] theorem State.noteLine_jobs (s : State) (j a : Nat) : (s.noteLine j a).jobs = s.jobs := rfl
@[simp] theorem State.noteLine_hbm (s : State) (j a : Nat) : (s.noteLine j a).hbm = s.hbm := rfl
@[simp] theorem State.noteLine_sram (s : State) (j a : Nat) : (s.noteLine j a).sram = s.sram := rfl
@[simp] theorem State.noteLine_host (s : State) (j a : Nat) : (s.noteLine j a).host = s.host := rfl
@[simp] theorem State.noteLine_bad (s : State) (j a : Nat) : (s.noteLine j a).bad = s.bad := rfl
@[simp] theorem State.noteLine_memErrs (s : State) (j a : Nat) : (s.noteLine j a).memErrs = s.memErrs := rfl
@[simp] theorem State.noteLine_pcreq (s : State) (j a : Nat) : (s.noteLine j a).pcreq = s.pcreq := rfl
@[simp] theorem State.noteLine_stks (s : State) (j a : Nat) : (s.noteLine j a).stks = s.stks := rfl
@[simp] theorem State.noteLine_dtlb (s : State) (j a : Nat) : (s.noteLine j a).dtlb = s.dtlb := rfl
@[simp] theorem State.noteLine_walks (s : State) (j a : Nat) : (s.noteLine j a).walks = s.walks := rfl
@[simp] theorem State.noteLine_misses (s : State) (j a : Nat) : (s.noteLine j a).misses = s.misses := rfl
@[simp] theorem State.noteLine_moves (s : State) (j a : Nat) : (s.noteLine j a).moves = s.moves := rfl
@[simp] theorem State.noteLine_tiers (s : State) (j a : Nat) : (s.noteLine j a).tiers = s.tiers := rfl
@[simp] theorem State.noteLine_strict (s : State) (j a : Nat) : (s.noteLine j a).strict = s.strict := rfl
@[simp] theorem State.noteLine_poolBase (s : State) (j a : Nat) : (s.noteLine j a).poolBase = s.poolBase := rfl
@[simp] theorem State.noteLine_poolStk (s : State) (j a : Nat) : (s.noteLine j a).poolStk = s.poolStk := rfl
@[simp] theorem State.noteLine_poolN (s : State) (j a : Nat) : (s.noteLine j a).poolN = s.poolN := rfl
@[simp] theorem State.noteLine_poolCap (s : State) (j a : Nat) : (s.noteLine j a).poolCap = s.poolCap := rfl
@[simp] theorem State.noteLine_ctl (s : State) (j a : Nat) : (s.noteLine j a).ctl = s.ctl := rfl
@[simp] theorem State.noteLine_phaseMsgs (s : State) (j a : Nat) : (s.noteLine j a).phaseMsgs = s.phaseMsgs := rfl
@[simp] theorem State.noteLine_phaseCnts (s : State) (j a : Nat) : (s.noteLine j a).phaseCnts = s.phaseCnts := rfl
@[simp] theorem State.noteLine_recordsOut (s : State) (j a : Nat) : (s.noteLine j a).recordsOut = s.recordsOut := rfl
@[simp] theorem State.noteLine_pcNow (s : State) (j a : Nat) : (s.noteLine j a).pcNow = s.pcNow := rfl
@[simp] theorem State.noteLine_loads (s : State) (j a : Nat) : (s.noteLine j a).loads = s.loads := rfl
@[simp] theorem State.noteLine_cache (s : State) (j a : Nat) : (s.noteLine j a).cache = s.cache := rfl
@[simp] theorem State.noteLine_images (s : State) (j a : Nat) : (s.noteLine j a).images = s.images := rfl
@[simp] theorem State.noteLine_nextId (s : State) (j a : Nat) : (s.noteLine j a).nextId = s.nextId := rfl
@[simp] theorem State.noteLine_partErr (s : State) (j a : Nat) : (s.noteLine j a).partErr = s.partErr := rfl
@[simp] theorem State.noteLine_partErrJob (s : State) (j a : Nat) : (s.noteLine j a).partErrJob = s.partErrJob := rfl
@[simp] theorem State.noteLine_clearing (s : State) (j a : Nat) : (s.noteLine j a).clearing = s.clearing := rfl
@[simp] theorem State.noteLine_abandoned (s : State) (j a : Nat) : (s.noteLine j a).abandoned = s.abandoned := rfl
@[simp] theorem State.noteLine_plim (s : State) (j a : Nat) : (s.noteLine j a).plim = s.plim := rfl
@[simp] theorem State.noteLine_throt (s : State) (j a : Nat) : (s.noteLine j a).throt = s.throt := rfl
@[simp] theorem State.noteLine_pnow (s : State) (j a : Nat) : (s.noteLine j a).pnow = s.pnow := rfl
@[simp] theorem State.noteLine_powerMs (s : State) (j a : Nat) : (s.noteLine j a).powerMs = s.powerMs := rfl
@[simp] theorem State.noteLine_mailOp (s : State) (j a : Nat) : (s.noteLine j a).mailOp = s.mailOp := rfl
@[simp] theorem State.noteLine_mailRun (s : State) (j a : Nat) : (s.noteLine j a).mailRun = s.mailRun := rfl
@[simp] theorem State.noteLine_mailErr (s : State) (j a : Nat) : (s.noteLine j a).mailErr = s.mailErr := rfl
@[simp] theorem State.noteLine_nonce (s : State) (j a : Nat) : (s.noteLine j a).nonce = s.nonce := rfl
@[simp] theorem State.noteLine_mailBuf (s : State) (j a : Nat) : (s.noteLine j a).mailBuf = s.mailBuf := rfl
@[simp] theorem State.noteLine_bootOk (s : State) (j a : Nat) : (s.noteLine j a).bootOk = s.bootOk := rfl
@[simp] theorem State.noteLine_coldResets (s : State) (j a : Nat) : (s.noteLine j a).coldResets = s.coldResets := rfl
@[simp] theorem State.noteLine_seamOpen (s : State) (j a : Nat) : (s.noteLine j a).seamOpen = s.seamOpen := rfl
@[simp] theorem State.noteLine_stacksIn (s : State) (j a : Nat) : (s.noteLine j a).stacksIn = s.stacksIn := rfl
@[simp] theorem State.noteLine_shoreIn (s : State) (j a : Nat) : (s.noteLine j a).shoreIn = s.shoreIn := rfl
@[simp] theorem State.noteLine_tide (s : State) (j a : Nat) : (s.noteLine j a).tide = s.tide := rfl
@[simp] theorem State.noteLine_shoreOut (s : State) (j a : Nat) : (s.noteLine j a).shoreOut = s.shoreOut := rfl
@[simp] theorem State.noteLine_msix (s : State) (j a : Nat) : (s.noteLine j a).msix = s.msix := rfl
@[simp] theorem State.noteLine_freeCount (s : State) (j a : Nat) : (s.noteLine j a).freeCount = s.freeCount := rfl
@[simp] theorem State.noteLine_cell (s : State) (j a : Nat) (x : Nat) : (s.noteLine j a).cell x = s.cell x := rfl
@[simp] theorem State.noteLine_job (s : State) (j a : Nat) (x : Nat) : (s.noteLine j a).job x = s.job x := rfl
@[simp] theorem State.noteLine_stk (s : State) (j a : Nat) (x : Nat) : (s.noteLine j a).stk x = s.stk x := rfl
@[simp] theorem State.noteLine_tick (s : State) (j a : Nat) : (s.noteLine j a).tick = s.tick := rfl
@[simp] theorem State.noteLine_cset (s : State) (j a : Nat) (x : Nat) : (s.noteLine j a).cset x = s.cset x := rfl
@[simp] theorem State.noteLine_aset (s : State) (j a : Nat) (x : Nat) : (s.noteLine j a).aset x = s.aset x := rfl
@[simp] theorem State.noteLine_mset (s : State) (j a : Nat) (x : Nat) : (s.noteLine j a).mset x = s.mset x := rfl
@[simp] theorem State.noteLine_port (s : State) (j a : Nat) (x y : Nat) : (s.noteLine j a).port x y = s.port x y := rfl
@[simp] theorem State.noteLine_issue (s : State) (j a : Nat) (x y : Nat) : (s.noteLine j a).issue x y = s.issue x y := rfl

/-! ### setObjWord -/

@[simp] theorem State.setObjWord_cycle (s : State) (k i : Nat) (v : Word) : (s.setObjWord k i v).cycle = s.cycle := rfl
@[simp] theorem State.setObjWord_focus (s : State) (k i : Nat) (v : Word) : (s.setObjWord k i v).focus = s.focus := rfl
@[simp] theorem State.setObjWord_schedule (s : State) (k i : Nat) (v : Word) : (s.setObjWord k i v).schedule = s.schedule := rfl
@[simp] theorem State.setObjWord_turnNo (s : State) (k i : Nat) (v : Word) : (s.setObjWord k i v).turnNo = s.turnNo := rfl
@[simp] theorem State.setObjWord_inputs (s : State) (k i : Nat) (v : Word) : (s.setObjWord k i v).inputs = s.inputs := rfl
@[simp] theorem State.setObjWord_ctxs (s : State) (k i : Nat) (v : Word) : (s.setObjWord k i v).ctxs = s.ctxs := rfl
@[simp] theorem State.setObjWord_cores (s : State) (k i : Nat) (v : Word) : (s.setObjWord k i v).cores = s.cores := rfl
@[simp] theorem State.setObjWord_cells (s : State) (k i : Nat) (v : Word) : (s.setObjWord k i v).cells = s.cells := rfl
@[simp] theorem State.setObjWord_jobs (s : State) (k i : Nat) (v : Word) : (s.setObjWord k i v).jobs = s.jobs := rfl
@[simp] theorem State.setObjWord_hbm (s : State) (k i : Nat) (v : Word) : (s.setObjWord k i v).hbm = s.hbm := rfl
@[simp] theorem State.setObjWord_host (s : State) (k i : Nat) (v : Word) : (s.setObjWord k i v).host = s.host := rfl
@[simp] theorem State.setObjWord_bad (s : State) (k i : Nat) (v : Word) : (s.setObjWord k i v).bad = s.bad := rfl
@[simp] theorem State.setObjWord_memErrs (s : State) (k i : Nat) (v : Word) : (s.setObjWord k i v).memErrs = s.memErrs := rfl
@[simp] theorem State.setObjWord_pcreq (s : State) (k i : Nat) (v : Word) : (s.setObjWord k i v).pcreq = s.pcreq := rfl
@[simp] theorem State.setObjWord_stks (s : State) (k i : Nat) (v : Word) : (s.setObjWord k i v).stks = s.stks := rfl
@[simp] theorem State.setObjWord_dtlb (s : State) (k i : Nat) (v : Word) : (s.setObjWord k i v).dtlb = s.dtlb := rfl
@[simp] theorem State.setObjWord_walks (s : State) (k i : Nat) (v : Word) : (s.setObjWord k i v).walks = s.walks := rfl
@[simp] theorem State.setObjWord_misses (s : State) (k i : Nat) (v : Word) : (s.setObjWord k i v).misses = s.misses := rfl
@[simp] theorem State.setObjWord_moves (s : State) (k i : Nat) (v : Word) : (s.setObjWord k i v).moves = s.moves := rfl
@[simp] theorem State.setObjWord_tiers (s : State) (k i : Nat) (v : Word) : (s.setObjWord k i v).tiers = s.tiers := rfl
@[simp] theorem State.setObjWord_strict (s : State) (k i : Nat) (v : Word) : (s.setObjWord k i v).strict = s.strict := rfl
@[simp] theorem State.setObjWord_poolBase (s : State) (k i : Nat) (v : Word) : (s.setObjWord k i v).poolBase = s.poolBase := rfl
@[simp] theorem State.setObjWord_poolStk (s : State) (k i : Nat) (v : Word) : (s.setObjWord k i v).poolStk = s.poolStk := rfl
@[simp] theorem State.setObjWord_poolN (s : State) (k i : Nat) (v : Word) : (s.setObjWord k i v).poolN = s.poolN := rfl
@[simp] theorem State.setObjWord_poolCap (s : State) (k i : Nat) (v : Word) : (s.setObjWord k i v).poolCap = s.poolCap := rfl
@[simp] theorem State.setObjWord_ctl (s : State) (k i : Nat) (v : Word) : (s.setObjWord k i v).ctl = s.ctl := rfl
@[simp] theorem State.setObjWord_phaseMsgs (s : State) (k i : Nat) (v : Word) : (s.setObjWord k i v).phaseMsgs = s.phaseMsgs := rfl
@[simp] theorem State.setObjWord_phaseCnts (s : State) (k i : Nat) (v : Word) : (s.setObjWord k i v).phaseCnts = s.phaseCnts := rfl
@[simp] theorem State.setObjWord_recordsOut (s : State) (k i : Nat) (v : Word) : (s.setObjWord k i v).recordsOut = s.recordsOut := rfl
@[simp] theorem State.setObjWord_pcNow (s : State) (k i : Nat) (v : Word) : (s.setObjWord k i v).pcNow = s.pcNow := rfl
@[simp] theorem State.setObjWord_reaches (s : State) (k i : Nat) (v : Word) : (s.setObjWord k i v).reaches = s.reaches := rfl
@[simp] theorem State.setObjWord_loads (s : State) (k i : Nat) (v : Word) : (s.setObjWord k i v).loads = s.loads := rfl
@[simp] theorem State.setObjWord_cache (s : State) (k i : Nat) (v : Word) : (s.setObjWord k i v).cache = s.cache := rfl
@[simp] theorem State.setObjWord_images (s : State) (k i : Nat) (v : Word) : (s.setObjWord k i v).images = s.images := rfl
@[simp] theorem State.setObjWord_nextId (s : State) (k i : Nat) (v : Word) : (s.setObjWord k i v).nextId = s.nextId := rfl
@[simp] theorem State.setObjWord_partErr (s : State) (k i : Nat) (v : Word) : (s.setObjWord k i v).partErr = s.partErr := rfl
@[simp] theorem State.setObjWord_partErrJob (s : State) (k i : Nat) (v : Word) : (s.setObjWord k i v).partErrJob = s.partErrJob := rfl
@[simp] theorem State.setObjWord_clearing (s : State) (k i : Nat) (v : Word) : (s.setObjWord k i v).clearing = s.clearing := rfl
@[simp] theorem State.setObjWord_abandoned (s : State) (k i : Nat) (v : Word) : (s.setObjWord k i v).abandoned = s.abandoned := rfl
@[simp] theorem State.setObjWord_plim (s : State) (k i : Nat) (v : Word) : (s.setObjWord k i v).plim = s.plim := rfl
@[simp] theorem State.setObjWord_throt (s : State) (k i : Nat) (v : Word) : (s.setObjWord k i v).throt = s.throt := rfl
@[simp] theorem State.setObjWord_pnow (s : State) (k i : Nat) (v : Word) : (s.setObjWord k i v).pnow = s.pnow := rfl
@[simp] theorem State.setObjWord_powerMs (s : State) (k i : Nat) (v : Word) : (s.setObjWord k i v).powerMs = s.powerMs := rfl
@[simp] theorem State.setObjWord_mailOp (s : State) (k i : Nat) (v : Word) : (s.setObjWord k i v).mailOp = s.mailOp := rfl
@[simp] theorem State.setObjWord_mailRun (s : State) (k i : Nat) (v : Word) : (s.setObjWord k i v).mailRun = s.mailRun := rfl
@[simp] theorem State.setObjWord_mailErr (s : State) (k i : Nat) (v : Word) : (s.setObjWord k i v).mailErr = s.mailErr := rfl
@[simp] theorem State.setObjWord_nonce (s : State) (k i : Nat) (v : Word) : (s.setObjWord k i v).nonce = s.nonce := rfl
@[simp] theorem State.setObjWord_mailBuf (s : State) (k i : Nat) (v : Word) : (s.setObjWord k i v).mailBuf = s.mailBuf := rfl
@[simp] theorem State.setObjWord_bootOk (s : State) (k i : Nat) (v : Word) : (s.setObjWord k i v).bootOk = s.bootOk := rfl
@[simp] theorem State.setObjWord_coldResets (s : State) (k i : Nat) (v : Word) : (s.setObjWord k i v).coldResets = s.coldResets := rfl
@[simp] theorem State.setObjWord_seamOpen (s : State) (k i : Nat) (v : Word) : (s.setObjWord k i v).seamOpen = s.seamOpen := rfl
@[simp] theorem State.setObjWord_stacksIn (s : State) (k i : Nat) (v : Word) : (s.setObjWord k i v).stacksIn = s.stacksIn := rfl
@[simp] theorem State.setObjWord_shoreIn (s : State) (k i : Nat) (v : Word) : (s.setObjWord k i v).shoreIn = s.shoreIn := rfl
@[simp] theorem State.setObjWord_tide (s : State) (k i : Nat) (v : Word) : (s.setObjWord k i v).tide = s.tide := rfl
@[simp] theorem State.setObjWord_shoreOut (s : State) (k i : Nat) (v : Word) : (s.setObjWord k i v).shoreOut = s.shoreOut := rfl
@[simp] theorem State.setObjWord_msix (s : State) (k i : Nat) (v : Word) : (s.setObjWord k i v).msix = s.msix := rfl
@[simp] theorem State.setObjWord_freeCount (s : State) (k i : Nat) (v : Word) : (s.setObjWord k i v).freeCount = s.freeCount := rfl
@[simp] theorem State.setObjWord_ctx (s : State) (k i : Nat) (v : Word) (x : Nat) : (s.setObjWord k i v).ctx x = s.ctx x := rfl
@[simp] theorem State.setObjWord_core (s : State) (k i : Nat) (v : Word) (x : Nat) : (s.setObjWord k i v).core x = s.core x := rfl
@[simp] theorem State.setObjWord_cell (s : State) (k i : Nat) (v : Word) (x : Nat) : (s.setObjWord k i v).cell x = s.cell x := rfl
@[simp] theorem State.setObjWord_job (s : State) (k i : Nat) (v : Word) (x : Nat) : (s.setObjWord k i v).job x = s.job x := rfl
@[simp] theorem State.setObjWord_stk (s : State) (k i : Nat) (v : Word) (x : Nat) : (s.setObjWord k i v).stk x = s.stk x := rfl
@[simp] theorem State.setObjWord_reach? (s : State) (k i : Nat) (v : Word) (x : Nat) : (s.setObjWord k i v).reach? x = s.reach? x := rfl
@[simp] theorem State.setObjWord_reachJob (s : State) (k i : Nat) (v : Word) (x : Nat) : (s.setObjWord k i v).reachJob x = s.reachJob x := rfl
@[simp] theorem State.setObjWord_tick (s : State) (k i : Nat) (v : Word) : (s.setObjWord k i v).tick = s.tick := rfl
@[simp] theorem State.setObjWord_cset (s : State) (k i : Nat) (v : Word) (x : Nat) : (s.setObjWord k i v).cset x = s.cset x := rfl
@[simp] theorem State.setObjWord_aset (s : State) (k i : Nat) (v : Word) (x : Nat) : (s.setObjWord k i v).aset x = s.aset x := rfl
@[simp] theorem State.setObjWord_mset (s : State) (k i : Nat) (v : Word) (x : Nat) : (s.setObjWord k i v).mset x = s.mset x := rfl
@[simp] theorem State.setObjWord_port (s : State) (k i : Nat) (v : Word) (x y : Nat) : (s.setObjWord k i v).port x y = s.port x y := rfl
@[simp] theorem State.setObjWord_issue (s : State) (k i : Nat) (v : Word) (x y : Nat) : (s.setObjWord k i v).issue x y = s.issue x y := rfl

/-! ### send -/

@[simp] theorem State.send_cycle (s : State) (m : Ctl) : (s.send m).cycle = s.cycle := rfl
@[simp] theorem State.send_focus (s : State) (m : Ctl) : (s.send m).focus = s.focus := rfl
@[simp] theorem State.send_schedule (s : State) (m : Ctl) : (s.send m).schedule = s.schedule := rfl
@[simp] theorem State.send_turnNo (s : State) (m : Ctl) : (s.send m).turnNo = s.turnNo := rfl
@[simp] theorem State.send_inputs (s : State) (m : Ctl) : (s.send m).inputs = s.inputs := rfl
@[simp] theorem State.send_ctxs (s : State) (m : Ctl) : (s.send m).ctxs = s.ctxs := rfl
@[simp] theorem State.send_cores (s : State) (m : Ctl) : (s.send m).cores = s.cores := rfl
@[simp] theorem State.send_cells (s : State) (m : Ctl) : (s.send m).cells = s.cells := rfl
@[simp] theorem State.send_jobs (s : State) (m : Ctl) : (s.send m).jobs = s.jobs := rfl
@[simp] theorem State.send_hbm (s : State) (m : Ctl) : (s.send m).hbm = s.hbm := rfl
@[simp] theorem State.send_sram (s : State) (m : Ctl) : (s.send m).sram = s.sram := rfl
@[simp] theorem State.send_host (s : State) (m : Ctl) : (s.send m).host = s.host := rfl
@[simp] theorem State.send_bad (s : State) (m : Ctl) : (s.send m).bad = s.bad := rfl
@[simp] theorem State.send_memErrs (s : State) (m : Ctl) : (s.send m).memErrs = s.memErrs := rfl
@[simp] theorem State.send_pcreq (s : State) (m : Ctl) : (s.send m).pcreq = s.pcreq := rfl
@[simp] theorem State.send_stks (s : State) (m : Ctl) : (s.send m).stks = s.stks := rfl
@[simp] theorem State.send_dtlb (s : State) (m : Ctl) : (s.send m).dtlb = s.dtlb := rfl
@[simp] theorem State.send_walks (s : State) (m : Ctl) : (s.send m).walks = s.walks := rfl
@[simp] theorem State.send_misses (s : State) (m : Ctl) : (s.send m).misses = s.misses := rfl
@[simp] theorem State.send_moves (s : State) (m : Ctl) : (s.send m).moves = s.moves := rfl
@[simp] theorem State.send_tiers (s : State) (m : Ctl) : (s.send m).tiers = s.tiers := rfl
@[simp] theorem State.send_strict (s : State) (m : Ctl) : (s.send m).strict = s.strict := rfl
@[simp] theorem State.send_poolBase (s : State) (m : Ctl) : (s.send m).poolBase = s.poolBase := rfl
@[simp] theorem State.send_poolStk (s : State) (m : Ctl) : (s.send m).poolStk = s.poolStk := rfl
@[simp] theorem State.send_poolN (s : State) (m : Ctl) : (s.send m).poolN = s.poolN := rfl
@[simp] theorem State.send_poolCap (s : State) (m : Ctl) : (s.send m).poolCap = s.poolCap := rfl
@[simp] theorem State.send_phaseMsgs (s : State) (m : Ctl) : (s.send m).phaseMsgs = s.phaseMsgs := rfl
@[simp] theorem State.send_phaseCnts (s : State) (m : Ctl) : (s.send m).phaseCnts = s.phaseCnts := rfl
@[simp] theorem State.send_recordsOut (s : State) (m : Ctl) : (s.send m).recordsOut = s.recordsOut := rfl
@[simp] theorem State.send_pcNow (s : State) (m : Ctl) : (s.send m).pcNow = s.pcNow := rfl
@[simp] theorem State.send_reaches (s : State) (m : Ctl) : (s.send m).reaches = s.reaches := rfl
@[simp] theorem State.send_loads (s : State) (m : Ctl) : (s.send m).loads = s.loads := rfl
@[simp] theorem State.send_cache (s : State) (m : Ctl) : (s.send m).cache = s.cache := rfl
@[simp] theorem State.send_images (s : State) (m : Ctl) : (s.send m).images = s.images := rfl
@[simp] theorem State.send_nextId (s : State) (m : Ctl) : (s.send m).nextId = s.nextId := rfl
@[simp] theorem State.send_partErr (s : State) (m : Ctl) : (s.send m).partErr = s.partErr := rfl
@[simp] theorem State.send_partErrJob (s : State) (m : Ctl) : (s.send m).partErrJob = s.partErrJob := rfl
@[simp] theorem State.send_clearing (s : State) (m : Ctl) : (s.send m).clearing = s.clearing := rfl
@[simp] theorem State.send_abandoned (s : State) (m : Ctl) : (s.send m).abandoned = s.abandoned := rfl
@[simp] theorem State.send_plim (s : State) (m : Ctl) : (s.send m).plim = s.plim := rfl
@[simp] theorem State.send_throt (s : State) (m : Ctl) : (s.send m).throt = s.throt := rfl
@[simp] theorem State.send_pnow (s : State) (m : Ctl) : (s.send m).pnow = s.pnow := rfl
@[simp] theorem State.send_powerMs (s : State) (m : Ctl) : (s.send m).powerMs = s.powerMs := rfl
@[simp] theorem State.send_mailOp (s : State) (m : Ctl) : (s.send m).mailOp = s.mailOp := rfl
@[simp] theorem State.send_mailRun (s : State) (m : Ctl) : (s.send m).mailRun = s.mailRun := rfl
@[simp] theorem State.send_mailErr (s : State) (m : Ctl) : (s.send m).mailErr = s.mailErr := rfl
@[simp] theorem State.send_nonce (s : State) (m : Ctl) : (s.send m).nonce = s.nonce := rfl
@[simp] theorem State.send_mailBuf (s : State) (m : Ctl) : (s.send m).mailBuf = s.mailBuf := rfl
@[simp] theorem State.send_bootOk (s : State) (m : Ctl) : (s.send m).bootOk = s.bootOk := rfl
@[simp] theorem State.send_coldResets (s : State) (m : Ctl) : (s.send m).coldResets = s.coldResets := rfl
@[simp] theorem State.send_seamOpen (s : State) (m : Ctl) : (s.send m).seamOpen = s.seamOpen := rfl
@[simp] theorem State.send_stacksIn (s : State) (m : Ctl) : (s.send m).stacksIn = s.stacksIn := rfl
@[simp] theorem State.send_shoreIn (s : State) (m : Ctl) : (s.send m).shoreIn = s.shoreIn := rfl
@[simp] theorem State.send_tide (s : State) (m : Ctl) : (s.send m).tide = s.tide := rfl
@[simp] theorem State.send_shoreOut (s : State) (m : Ctl) : (s.send m).shoreOut = s.shoreOut := rfl
@[simp] theorem State.send_msix (s : State) (m : Ctl) : (s.send m).msix = s.msix := rfl
@[simp] theorem State.send_freeCount (s : State) (m : Ctl) : (s.send m).freeCount = s.freeCount := rfl
@[simp] theorem State.send_ctx (s : State) (m : Ctl) (x : Nat) : (s.send m).ctx x = s.ctx x := rfl
@[simp] theorem State.send_core (s : State) (m : Ctl) (x : Nat) : (s.send m).core x = s.core x := rfl
@[simp] theorem State.send_cell (s : State) (m : Ctl) (x : Nat) : (s.send m).cell x = s.cell x := rfl
@[simp] theorem State.send_job (s : State) (m : Ctl) (x : Nat) : (s.send m).job x = s.job x := rfl
@[simp] theorem State.send_stk (s : State) (m : Ctl) (x : Nat) : (s.send m).stk x = s.stk x := rfl
@[simp] theorem State.send_reach? (s : State) (m : Ctl) (x : Nat) : (s.send m).reach? x = s.reach? x := rfl
@[simp] theorem State.send_reachJob (s : State) (m : Ctl) (x : Nat) : (s.send m).reachJob x = s.reachJob x := rfl
@[simp] theorem State.send_tick (s : State) (m : Ctl) : (s.send m).tick = s.tick := rfl
@[simp] theorem State.send_cset (s : State) (m : Ctl) (x : Nat) : (s.send m).cset x = s.cset x := rfl
@[simp] theorem State.send_aset (s : State) (m : Ctl) (x : Nat) : (s.send m).aset x = s.aset x := rfl
@[simp] theorem State.send_mset (s : State) (m : Ctl) (x : Nat) : (s.send m).mset x = s.mset x := rfl
@[simp] theorem State.send_port (s : State) (m : Ctl) (x y : Nat) : (s.send m).port x y = s.port x y := rfl
@[simp] theorem State.send_issue (s : State) (m : Ctl) (x y : Nat) : (s.send m).issue x y = s.issue x y := rfl

/-! ### updC -/

@[simp] theorem State.updC_cycle (s : State) (n : Nat) (f : CSet → CSet) : (s.updC n f).cycle = s.cycle := rfl
@[simp] theorem State.updC_focus (s : State) (n : Nat) (f : CSet → CSet) : (s.updC n f).focus = s.focus := rfl
@[simp] theorem State.updC_schedule (s : State) (n : Nat) (f : CSet → CSet) : (s.updC n f).schedule = s.schedule := rfl
@[simp] theorem State.updC_turnNo (s : State) (n : Nat) (f : CSet → CSet) : (s.updC n f).turnNo = s.turnNo := rfl
@[simp] theorem State.updC_inputs (s : State) (n : Nat) (f : CSet → CSet) : (s.updC n f).inputs = s.inputs := rfl
@[simp] theorem State.updC_ctxs (s : State) (n : Nat) (f : CSet → CSet) : (s.updC n f).ctxs = s.ctxs := rfl
@[simp] theorem State.updC_cores (s : State) (n : Nat) (f : CSet → CSet) : (s.updC n f).cores = s.cores := rfl
@[simp] theorem State.updC_jobs (s : State) (n : Nat) (f : CSet → CSet) : (s.updC n f).jobs = s.jobs := rfl
@[simp] theorem State.updC_hbm (s : State) (n : Nat) (f : CSet → CSet) : (s.updC n f).hbm = s.hbm := rfl
@[simp] theorem State.updC_sram (s : State) (n : Nat) (f : CSet → CSet) : (s.updC n f).sram = s.sram := rfl
@[simp] theorem State.updC_host (s : State) (n : Nat) (f : CSet → CSet) : (s.updC n f).host = s.host := rfl
@[simp] theorem State.updC_bad (s : State) (n : Nat) (f : CSet → CSet) : (s.updC n f).bad = s.bad := rfl
@[simp] theorem State.updC_memErrs (s : State) (n : Nat) (f : CSet → CSet) : (s.updC n f).memErrs = s.memErrs := rfl
@[simp] theorem State.updC_pcreq (s : State) (n : Nat) (f : CSet → CSet) : (s.updC n f).pcreq = s.pcreq := rfl
@[simp] theorem State.updC_stks (s : State) (n : Nat) (f : CSet → CSet) : (s.updC n f).stks = s.stks := rfl
@[simp] theorem State.updC_dtlb (s : State) (n : Nat) (f : CSet → CSet) : (s.updC n f).dtlb = s.dtlb := rfl
@[simp] theorem State.updC_walks (s : State) (n : Nat) (f : CSet → CSet) : (s.updC n f).walks = s.walks := rfl
@[simp] theorem State.updC_misses (s : State) (n : Nat) (f : CSet → CSet) : (s.updC n f).misses = s.misses := rfl
@[simp] theorem State.updC_moves (s : State) (n : Nat) (f : CSet → CSet) : (s.updC n f).moves = s.moves := rfl
@[simp] theorem State.updC_tiers (s : State) (n : Nat) (f : CSet → CSet) : (s.updC n f).tiers = s.tiers := rfl
@[simp] theorem State.updC_strict (s : State) (n : Nat) (f : CSet → CSet) : (s.updC n f).strict = s.strict := rfl
@[simp] theorem State.updC_poolBase (s : State) (n : Nat) (f : CSet → CSet) : (s.updC n f).poolBase = s.poolBase := rfl
@[simp] theorem State.updC_poolStk (s : State) (n : Nat) (f : CSet → CSet) : (s.updC n f).poolStk = s.poolStk := rfl
@[simp] theorem State.updC_poolN (s : State) (n : Nat) (f : CSet → CSet) : (s.updC n f).poolN = s.poolN := rfl
@[simp] theorem State.updC_poolCap (s : State) (n : Nat) (f : CSet → CSet) : (s.updC n f).poolCap = s.poolCap := rfl
@[simp] theorem State.updC_ctl (s : State) (n : Nat) (f : CSet → CSet) : (s.updC n f).ctl = s.ctl := rfl
@[simp] theorem State.updC_phaseMsgs (s : State) (n : Nat) (f : CSet → CSet) : (s.updC n f).phaseMsgs = s.phaseMsgs := rfl
@[simp] theorem State.updC_phaseCnts (s : State) (n : Nat) (f : CSet → CSet) : (s.updC n f).phaseCnts = s.phaseCnts := rfl
@[simp] theorem State.updC_recordsOut (s : State) (n : Nat) (f : CSet → CSet) : (s.updC n f).recordsOut = s.recordsOut := rfl
@[simp] theorem State.updC_pcNow (s : State) (n : Nat) (f : CSet → CSet) : (s.updC n f).pcNow = s.pcNow := rfl
@[simp] theorem State.updC_reaches (s : State) (n : Nat) (f : CSet → CSet) : (s.updC n f).reaches = s.reaches := rfl
@[simp] theorem State.updC_loads (s : State) (n : Nat) (f : CSet → CSet) : (s.updC n f).loads = s.loads := rfl
@[simp] theorem State.updC_cache (s : State) (n : Nat) (f : CSet → CSet) : (s.updC n f).cache = s.cache := rfl
@[simp] theorem State.updC_images (s : State) (n : Nat) (f : CSet → CSet) : (s.updC n f).images = s.images := rfl
@[simp] theorem State.updC_nextId (s : State) (n : Nat) (f : CSet → CSet) : (s.updC n f).nextId = s.nextId := rfl
@[simp] theorem State.updC_partErr (s : State) (n : Nat) (f : CSet → CSet) : (s.updC n f).partErr = s.partErr := rfl
@[simp] theorem State.updC_partErrJob (s : State) (n : Nat) (f : CSet → CSet) : (s.updC n f).partErrJob = s.partErrJob := rfl
@[simp] theorem State.updC_clearing (s : State) (n : Nat) (f : CSet → CSet) : (s.updC n f).clearing = s.clearing := rfl
@[simp] theorem State.updC_abandoned (s : State) (n : Nat) (f : CSet → CSet) : (s.updC n f).abandoned = s.abandoned := rfl
@[simp] theorem State.updC_plim (s : State) (n : Nat) (f : CSet → CSet) : (s.updC n f).plim = s.plim := rfl
@[simp] theorem State.updC_throt (s : State) (n : Nat) (f : CSet → CSet) : (s.updC n f).throt = s.throt := rfl
@[simp] theorem State.updC_pnow (s : State) (n : Nat) (f : CSet → CSet) : (s.updC n f).pnow = s.pnow := rfl
@[simp] theorem State.updC_powerMs (s : State) (n : Nat) (f : CSet → CSet) : (s.updC n f).powerMs = s.powerMs := rfl
@[simp] theorem State.updC_mailOp (s : State) (n : Nat) (f : CSet → CSet) : (s.updC n f).mailOp = s.mailOp := rfl
@[simp] theorem State.updC_mailRun (s : State) (n : Nat) (f : CSet → CSet) : (s.updC n f).mailRun = s.mailRun := rfl
@[simp] theorem State.updC_mailErr (s : State) (n : Nat) (f : CSet → CSet) : (s.updC n f).mailErr = s.mailErr := rfl
@[simp] theorem State.updC_nonce (s : State) (n : Nat) (f : CSet → CSet) : (s.updC n f).nonce = s.nonce := rfl
@[simp] theorem State.updC_mailBuf (s : State) (n : Nat) (f : CSet → CSet) : (s.updC n f).mailBuf = s.mailBuf := rfl
@[simp] theorem State.updC_bootOk (s : State) (n : Nat) (f : CSet → CSet) : (s.updC n f).bootOk = s.bootOk := rfl
@[simp] theorem State.updC_coldResets (s : State) (n : Nat) (f : CSet → CSet) : (s.updC n f).coldResets = s.coldResets := rfl
@[simp] theorem State.updC_seamOpen (s : State) (n : Nat) (f : CSet → CSet) : (s.updC n f).seamOpen = s.seamOpen := rfl
@[simp] theorem State.updC_stacksIn (s : State) (n : Nat) (f : CSet → CSet) : (s.updC n f).stacksIn = s.stacksIn := rfl
@[simp] theorem State.updC_shoreIn (s : State) (n : Nat) (f : CSet → CSet) : (s.updC n f).shoreIn = s.shoreIn := rfl
@[simp] theorem State.updC_tide (s : State) (n : Nat) (f : CSet → CSet) : (s.updC n f).tide = s.tide := rfl
@[simp] theorem State.updC_shoreOut (s : State) (n : Nat) (f : CSet → CSet) : (s.updC n f).shoreOut = s.shoreOut := rfl
@[simp] theorem State.updC_msix (s : State) (n : Nat) (f : CSet → CSet) : (s.updC n f).msix = s.msix := rfl
@[simp] theorem State.updC_freeCount (s : State) (n : Nat) (f : CSet → CSet) : (s.updC n f).freeCount = s.freeCount := rfl
@[simp] theorem State.updC_ctx (s : State) (n : Nat) (f : CSet → CSet) (x : Nat) : (s.updC n f).ctx x = s.ctx x := rfl
@[simp] theorem State.updC_core (s : State) (n : Nat) (f : CSet → CSet) (x : Nat) : (s.updC n f).core x = s.core x := rfl
@[simp] theorem State.updC_job (s : State) (n : Nat) (f : CSet → CSet) (x : Nat) : (s.updC n f).job x = s.job x := rfl
@[simp] theorem State.updC_stk (s : State) (n : Nat) (f : CSet → CSet) (x : Nat) : (s.updC n f).stk x = s.stk x := rfl
@[simp] theorem State.updC_reach? (s : State) (n : Nat) (f : CSet → CSet) (x : Nat) : (s.updC n f).reach? x = s.reach? x := rfl
@[simp] theorem State.updC_reachJob (s : State) (n : Nat) (f : CSet → CSet) (x : Nat) : (s.updC n f).reachJob x = s.reachJob x := rfl
@[simp] theorem State.updC_tick (s : State) (n : Nat) (f : CSet → CSet) : (s.updC n f).tick = s.tick := rfl

/-! ### updA -/

@[simp] theorem State.updA_cycle (s : State) (n : Nat) (f : ASet → ASet) : (s.updA n f).cycle = s.cycle := rfl
@[simp] theorem State.updA_focus (s : State) (n : Nat) (f : ASet → ASet) : (s.updA n f).focus = s.focus := rfl
@[simp] theorem State.updA_schedule (s : State) (n : Nat) (f : ASet → ASet) : (s.updA n f).schedule = s.schedule := rfl
@[simp] theorem State.updA_turnNo (s : State) (n : Nat) (f : ASet → ASet) : (s.updA n f).turnNo = s.turnNo := rfl
@[simp] theorem State.updA_inputs (s : State) (n : Nat) (f : ASet → ASet) : (s.updA n f).inputs = s.inputs := rfl
@[simp] theorem State.updA_ctxs (s : State) (n : Nat) (f : ASet → ASet) : (s.updA n f).ctxs = s.ctxs := rfl
@[simp] theorem State.updA_cores (s : State) (n : Nat) (f : ASet → ASet) : (s.updA n f).cores = s.cores := rfl
@[simp] theorem State.updA_jobs (s : State) (n : Nat) (f : ASet → ASet) : (s.updA n f).jobs = s.jobs := rfl
@[simp] theorem State.updA_hbm (s : State) (n : Nat) (f : ASet → ASet) : (s.updA n f).hbm = s.hbm := rfl
@[simp] theorem State.updA_sram (s : State) (n : Nat) (f : ASet → ASet) : (s.updA n f).sram = s.sram := rfl
@[simp] theorem State.updA_host (s : State) (n : Nat) (f : ASet → ASet) : (s.updA n f).host = s.host := rfl
@[simp] theorem State.updA_bad (s : State) (n : Nat) (f : ASet → ASet) : (s.updA n f).bad = s.bad := rfl
@[simp] theorem State.updA_memErrs (s : State) (n : Nat) (f : ASet → ASet) : (s.updA n f).memErrs = s.memErrs := rfl
@[simp] theorem State.updA_pcreq (s : State) (n : Nat) (f : ASet → ASet) : (s.updA n f).pcreq = s.pcreq := rfl
@[simp] theorem State.updA_stks (s : State) (n : Nat) (f : ASet → ASet) : (s.updA n f).stks = s.stks := rfl
@[simp] theorem State.updA_dtlb (s : State) (n : Nat) (f : ASet → ASet) : (s.updA n f).dtlb = s.dtlb := rfl
@[simp] theorem State.updA_walks (s : State) (n : Nat) (f : ASet → ASet) : (s.updA n f).walks = s.walks := rfl
@[simp] theorem State.updA_misses (s : State) (n : Nat) (f : ASet → ASet) : (s.updA n f).misses = s.misses := rfl
@[simp] theorem State.updA_moves (s : State) (n : Nat) (f : ASet → ASet) : (s.updA n f).moves = s.moves := rfl
@[simp] theorem State.updA_tiers (s : State) (n : Nat) (f : ASet → ASet) : (s.updA n f).tiers = s.tiers := rfl
@[simp] theorem State.updA_strict (s : State) (n : Nat) (f : ASet → ASet) : (s.updA n f).strict = s.strict := rfl
@[simp] theorem State.updA_poolBase (s : State) (n : Nat) (f : ASet → ASet) : (s.updA n f).poolBase = s.poolBase := rfl
@[simp] theorem State.updA_poolStk (s : State) (n : Nat) (f : ASet → ASet) : (s.updA n f).poolStk = s.poolStk := rfl
@[simp] theorem State.updA_poolN (s : State) (n : Nat) (f : ASet → ASet) : (s.updA n f).poolN = s.poolN := rfl
@[simp] theorem State.updA_poolCap (s : State) (n : Nat) (f : ASet → ASet) : (s.updA n f).poolCap = s.poolCap := rfl
@[simp] theorem State.updA_ctl (s : State) (n : Nat) (f : ASet → ASet) : (s.updA n f).ctl = s.ctl := rfl
@[simp] theorem State.updA_phaseMsgs (s : State) (n : Nat) (f : ASet → ASet) : (s.updA n f).phaseMsgs = s.phaseMsgs := rfl
@[simp] theorem State.updA_phaseCnts (s : State) (n : Nat) (f : ASet → ASet) : (s.updA n f).phaseCnts = s.phaseCnts := rfl
@[simp] theorem State.updA_recordsOut (s : State) (n : Nat) (f : ASet → ASet) : (s.updA n f).recordsOut = s.recordsOut := rfl
@[simp] theorem State.updA_pcNow (s : State) (n : Nat) (f : ASet → ASet) : (s.updA n f).pcNow = s.pcNow := rfl
@[simp] theorem State.updA_reaches (s : State) (n : Nat) (f : ASet → ASet) : (s.updA n f).reaches = s.reaches := rfl
@[simp] theorem State.updA_loads (s : State) (n : Nat) (f : ASet → ASet) : (s.updA n f).loads = s.loads := rfl
@[simp] theorem State.updA_cache (s : State) (n : Nat) (f : ASet → ASet) : (s.updA n f).cache = s.cache := rfl
@[simp] theorem State.updA_images (s : State) (n : Nat) (f : ASet → ASet) : (s.updA n f).images = s.images := rfl
@[simp] theorem State.updA_nextId (s : State) (n : Nat) (f : ASet → ASet) : (s.updA n f).nextId = s.nextId := rfl
@[simp] theorem State.updA_partErr (s : State) (n : Nat) (f : ASet → ASet) : (s.updA n f).partErr = s.partErr := rfl
@[simp] theorem State.updA_partErrJob (s : State) (n : Nat) (f : ASet → ASet) : (s.updA n f).partErrJob = s.partErrJob := rfl
@[simp] theorem State.updA_clearing (s : State) (n : Nat) (f : ASet → ASet) : (s.updA n f).clearing = s.clearing := rfl
@[simp] theorem State.updA_abandoned (s : State) (n : Nat) (f : ASet → ASet) : (s.updA n f).abandoned = s.abandoned := rfl
@[simp] theorem State.updA_plim (s : State) (n : Nat) (f : ASet → ASet) : (s.updA n f).plim = s.plim := rfl
@[simp] theorem State.updA_throt (s : State) (n : Nat) (f : ASet → ASet) : (s.updA n f).throt = s.throt := rfl
@[simp] theorem State.updA_pnow (s : State) (n : Nat) (f : ASet → ASet) : (s.updA n f).pnow = s.pnow := rfl
@[simp] theorem State.updA_powerMs (s : State) (n : Nat) (f : ASet → ASet) : (s.updA n f).powerMs = s.powerMs := rfl
@[simp] theorem State.updA_mailOp (s : State) (n : Nat) (f : ASet → ASet) : (s.updA n f).mailOp = s.mailOp := rfl
@[simp] theorem State.updA_mailRun (s : State) (n : Nat) (f : ASet → ASet) : (s.updA n f).mailRun = s.mailRun := rfl
@[simp] theorem State.updA_mailErr (s : State) (n : Nat) (f : ASet → ASet) : (s.updA n f).mailErr = s.mailErr := rfl
@[simp] theorem State.updA_nonce (s : State) (n : Nat) (f : ASet → ASet) : (s.updA n f).nonce = s.nonce := rfl
@[simp] theorem State.updA_mailBuf (s : State) (n : Nat) (f : ASet → ASet) : (s.updA n f).mailBuf = s.mailBuf := rfl
@[simp] theorem State.updA_bootOk (s : State) (n : Nat) (f : ASet → ASet) : (s.updA n f).bootOk = s.bootOk := rfl
@[simp] theorem State.updA_coldResets (s : State) (n : Nat) (f : ASet → ASet) : (s.updA n f).coldResets = s.coldResets := rfl
@[simp] theorem State.updA_seamOpen (s : State) (n : Nat) (f : ASet → ASet) : (s.updA n f).seamOpen = s.seamOpen := rfl
@[simp] theorem State.updA_stacksIn (s : State) (n : Nat) (f : ASet → ASet) : (s.updA n f).stacksIn = s.stacksIn := rfl
@[simp] theorem State.updA_shoreIn (s : State) (n : Nat) (f : ASet → ASet) : (s.updA n f).shoreIn = s.shoreIn := rfl
@[simp] theorem State.updA_tide (s : State) (n : Nat) (f : ASet → ASet) : (s.updA n f).tide = s.tide := rfl
@[simp] theorem State.updA_shoreOut (s : State) (n : Nat) (f : ASet → ASet) : (s.updA n f).shoreOut = s.shoreOut := rfl
@[simp] theorem State.updA_msix (s : State) (n : Nat) (f : ASet → ASet) : (s.updA n f).msix = s.msix := rfl
@[simp] theorem State.updA_freeCount (s : State) (n : Nat) (f : ASet → ASet) : (s.updA n f).freeCount = s.freeCount := rfl
@[simp] theorem State.updA_ctx (s : State) (n : Nat) (f : ASet → ASet) (x : Nat) : (s.updA n f).ctx x = s.ctx x := rfl
@[simp] theorem State.updA_core (s : State) (n : Nat) (f : ASet → ASet) (x : Nat) : (s.updA n f).core x = s.core x := rfl
@[simp] theorem State.updA_job (s : State) (n : Nat) (f : ASet → ASet) (x : Nat) : (s.updA n f).job x = s.job x := rfl
@[simp] theorem State.updA_stk (s : State) (n : Nat) (f : ASet → ASet) (x : Nat) : (s.updA n f).stk x = s.stk x := rfl
@[simp] theorem State.updA_reach? (s : State) (n : Nat) (f : ASet → ASet) (x : Nat) : (s.updA n f).reach? x = s.reach? x := rfl
@[simp] theorem State.updA_reachJob (s : State) (n : Nat) (f : ASet → ASet) (x : Nat) : (s.updA n f).reachJob x = s.reachJob x := rfl
@[simp] theorem State.updA_tick (s : State) (n : Nat) (f : ASet → ASet) : (s.updA n f).tick = s.tick := rfl

/-! ### updM -/

@[simp] theorem State.updM_cycle (s : State) (n : Nat) (f : MSet → MSet) : (s.updM n f).cycle = s.cycle := rfl
@[simp] theorem State.updM_focus (s : State) (n : Nat) (f : MSet → MSet) : (s.updM n f).focus = s.focus := rfl
@[simp] theorem State.updM_schedule (s : State) (n : Nat) (f : MSet → MSet) : (s.updM n f).schedule = s.schedule := rfl
@[simp] theorem State.updM_turnNo (s : State) (n : Nat) (f : MSet → MSet) : (s.updM n f).turnNo = s.turnNo := rfl
@[simp] theorem State.updM_inputs (s : State) (n : Nat) (f : MSet → MSet) : (s.updM n f).inputs = s.inputs := rfl
@[simp] theorem State.updM_ctxs (s : State) (n : Nat) (f : MSet → MSet) : (s.updM n f).ctxs = s.ctxs := rfl
@[simp] theorem State.updM_cores (s : State) (n : Nat) (f : MSet → MSet) : (s.updM n f).cores = s.cores := rfl
@[simp] theorem State.updM_jobs (s : State) (n : Nat) (f : MSet → MSet) : (s.updM n f).jobs = s.jobs := rfl
@[simp] theorem State.updM_hbm (s : State) (n : Nat) (f : MSet → MSet) : (s.updM n f).hbm = s.hbm := rfl
@[simp] theorem State.updM_sram (s : State) (n : Nat) (f : MSet → MSet) : (s.updM n f).sram = s.sram := rfl
@[simp] theorem State.updM_host (s : State) (n : Nat) (f : MSet → MSet) : (s.updM n f).host = s.host := rfl
@[simp] theorem State.updM_bad (s : State) (n : Nat) (f : MSet → MSet) : (s.updM n f).bad = s.bad := rfl
@[simp] theorem State.updM_memErrs (s : State) (n : Nat) (f : MSet → MSet) : (s.updM n f).memErrs = s.memErrs := rfl
@[simp] theorem State.updM_pcreq (s : State) (n : Nat) (f : MSet → MSet) : (s.updM n f).pcreq = s.pcreq := rfl
@[simp] theorem State.updM_stks (s : State) (n : Nat) (f : MSet → MSet) : (s.updM n f).stks = s.stks := rfl
@[simp] theorem State.updM_dtlb (s : State) (n : Nat) (f : MSet → MSet) : (s.updM n f).dtlb = s.dtlb := rfl
@[simp] theorem State.updM_walks (s : State) (n : Nat) (f : MSet → MSet) : (s.updM n f).walks = s.walks := rfl
@[simp] theorem State.updM_misses (s : State) (n : Nat) (f : MSet → MSet) : (s.updM n f).misses = s.misses := rfl
@[simp] theorem State.updM_moves (s : State) (n : Nat) (f : MSet → MSet) : (s.updM n f).moves = s.moves := rfl
@[simp] theorem State.updM_tiers (s : State) (n : Nat) (f : MSet → MSet) : (s.updM n f).tiers = s.tiers := rfl
@[simp] theorem State.updM_strict (s : State) (n : Nat) (f : MSet → MSet) : (s.updM n f).strict = s.strict := rfl
@[simp] theorem State.updM_poolBase (s : State) (n : Nat) (f : MSet → MSet) : (s.updM n f).poolBase = s.poolBase := rfl
@[simp] theorem State.updM_poolStk (s : State) (n : Nat) (f : MSet → MSet) : (s.updM n f).poolStk = s.poolStk := rfl
@[simp] theorem State.updM_poolN (s : State) (n : Nat) (f : MSet → MSet) : (s.updM n f).poolN = s.poolN := rfl
@[simp] theorem State.updM_poolCap (s : State) (n : Nat) (f : MSet → MSet) : (s.updM n f).poolCap = s.poolCap := rfl
@[simp] theorem State.updM_ctl (s : State) (n : Nat) (f : MSet → MSet) : (s.updM n f).ctl = s.ctl := rfl
@[simp] theorem State.updM_phaseMsgs (s : State) (n : Nat) (f : MSet → MSet) : (s.updM n f).phaseMsgs = s.phaseMsgs := rfl
@[simp] theorem State.updM_phaseCnts (s : State) (n : Nat) (f : MSet → MSet) : (s.updM n f).phaseCnts = s.phaseCnts := rfl
@[simp] theorem State.updM_recordsOut (s : State) (n : Nat) (f : MSet → MSet) : (s.updM n f).recordsOut = s.recordsOut := rfl
@[simp] theorem State.updM_pcNow (s : State) (n : Nat) (f : MSet → MSet) : (s.updM n f).pcNow = s.pcNow := rfl
@[simp] theorem State.updM_reaches (s : State) (n : Nat) (f : MSet → MSet) : (s.updM n f).reaches = s.reaches := rfl
@[simp] theorem State.updM_loads (s : State) (n : Nat) (f : MSet → MSet) : (s.updM n f).loads = s.loads := rfl
@[simp] theorem State.updM_cache (s : State) (n : Nat) (f : MSet → MSet) : (s.updM n f).cache = s.cache := rfl
@[simp] theorem State.updM_images (s : State) (n : Nat) (f : MSet → MSet) : (s.updM n f).images = s.images := rfl
@[simp] theorem State.updM_nextId (s : State) (n : Nat) (f : MSet → MSet) : (s.updM n f).nextId = s.nextId := rfl
@[simp] theorem State.updM_partErr (s : State) (n : Nat) (f : MSet → MSet) : (s.updM n f).partErr = s.partErr := rfl
@[simp] theorem State.updM_partErrJob (s : State) (n : Nat) (f : MSet → MSet) : (s.updM n f).partErrJob = s.partErrJob := rfl
@[simp] theorem State.updM_clearing (s : State) (n : Nat) (f : MSet → MSet) : (s.updM n f).clearing = s.clearing := rfl
@[simp] theorem State.updM_abandoned (s : State) (n : Nat) (f : MSet → MSet) : (s.updM n f).abandoned = s.abandoned := rfl
@[simp] theorem State.updM_plim (s : State) (n : Nat) (f : MSet → MSet) : (s.updM n f).plim = s.plim := rfl
@[simp] theorem State.updM_throt (s : State) (n : Nat) (f : MSet → MSet) : (s.updM n f).throt = s.throt := rfl
@[simp] theorem State.updM_pnow (s : State) (n : Nat) (f : MSet → MSet) : (s.updM n f).pnow = s.pnow := rfl
@[simp] theorem State.updM_powerMs (s : State) (n : Nat) (f : MSet → MSet) : (s.updM n f).powerMs = s.powerMs := rfl
@[simp] theorem State.updM_mailOp (s : State) (n : Nat) (f : MSet → MSet) : (s.updM n f).mailOp = s.mailOp := rfl
@[simp] theorem State.updM_mailRun (s : State) (n : Nat) (f : MSet → MSet) : (s.updM n f).mailRun = s.mailRun := rfl
@[simp] theorem State.updM_mailErr (s : State) (n : Nat) (f : MSet → MSet) : (s.updM n f).mailErr = s.mailErr := rfl
@[simp] theorem State.updM_nonce (s : State) (n : Nat) (f : MSet → MSet) : (s.updM n f).nonce = s.nonce := rfl
@[simp] theorem State.updM_mailBuf (s : State) (n : Nat) (f : MSet → MSet) : (s.updM n f).mailBuf = s.mailBuf := rfl
@[simp] theorem State.updM_bootOk (s : State) (n : Nat) (f : MSet → MSet) : (s.updM n f).bootOk = s.bootOk := rfl
@[simp] theorem State.updM_coldResets (s : State) (n : Nat) (f : MSet → MSet) : (s.updM n f).coldResets = s.coldResets := rfl
@[simp] theorem State.updM_seamOpen (s : State) (n : Nat) (f : MSet → MSet) : (s.updM n f).seamOpen = s.seamOpen := rfl
@[simp] theorem State.updM_stacksIn (s : State) (n : Nat) (f : MSet → MSet) : (s.updM n f).stacksIn = s.stacksIn := rfl
@[simp] theorem State.updM_shoreIn (s : State) (n : Nat) (f : MSet → MSet) : (s.updM n f).shoreIn = s.shoreIn := rfl
@[simp] theorem State.updM_tide (s : State) (n : Nat) (f : MSet → MSet) : (s.updM n f).tide = s.tide := rfl
@[simp] theorem State.updM_shoreOut (s : State) (n : Nat) (f : MSet → MSet) : (s.updM n f).shoreOut = s.shoreOut := rfl
@[simp] theorem State.updM_msix (s : State) (n : Nat) (f : MSet → MSet) : (s.updM n f).msix = s.msix := rfl
@[simp] theorem State.updM_freeCount (s : State) (n : Nat) (f : MSet → MSet) : (s.updM n f).freeCount = s.freeCount := rfl
@[simp] theorem State.updM_ctx (s : State) (n : Nat) (f : MSet → MSet) (x : Nat) : (s.updM n f).ctx x = s.ctx x := rfl
@[simp] theorem State.updM_core (s : State) (n : Nat) (f : MSet → MSet) (x : Nat) : (s.updM n f).core x = s.core x := rfl
@[simp] theorem State.updM_job (s : State) (n : Nat) (f : MSet → MSet) (x : Nat) : (s.updM n f).job x = s.job x := rfl
@[simp] theorem State.updM_stk (s : State) (n : Nat) (f : MSet → MSet) (x : Nat) : (s.updM n f).stk x = s.stk x := rfl
@[simp] theorem State.updM_reach? (s : State) (n : Nat) (f : MSet → MSet) (x : Nat) : (s.updM n f).reach? x = s.reach? x := rfl
@[simp] theorem State.updM_reachJob (s : State) (n : Nat) (f : MSet → MSet) (x : Nat) : (s.updM n f).reachJob x = s.reachJob x := rfl
@[simp] theorem State.updM_tick (s : State) (n : Nat) (f : MSet → MSet) : (s.updM n f).tick = s.tick := rfl

/-! ### updPort -/

@[simp] theorem State.updPort_cycle (s : State) (n p : Nat) (f : MPort → MPort) : (s.updPort n p f).cycle = s.cycle := rfl
@[simp] theorem State.updPort_focus (s : State) (n p : Nat) (f : MPort → MPort) : (s.updPort n p f).focus = s.focus := rfl
@[simp] theorem State.updPort_schedule (s : State) (n p : Nat) (f : MPort → MPort) : (s.updPort n p f).schedule = s.schedule := rfl
@[simp] theorem State.updPort_turnNo (s : State) (n p : Nat) (f : MPort → MPort) : (s.updPort n p f).turnNo = s.turnNo := rfl
@[simp] theorem State.updPort_inputs (s : State) (n p : Nat) (f : MPort → MPort) : (s.updPort n p f).inputs = s.inputs := rfl
@[simp] theorem State.updPort_ctxs (s : State) (n p : Nat) (f : MPort → MPort) : (s.updPort n p f).ctxs = s.ctxs := rfl
@[simp] theorem State.updPort_cores (s : State) (n p : Nat) (f : MPort → MPort) : (s.updPort n p f).cores = s.cores := rfl
@[simp] theorem State.updPort_jobs (s : State) (n p : Nat) (f : MPort → MPort) : (s.updPort n p f).jobs = s.jobs := rfl
@[simp] theorem State.updPort_hbm (s : State) (n p : Nat) (f : MPort → MPort) : (s.updPort n p f).hbm = s.hbm := rfl
@[simp] theorem State.updPort_sram (s : State) (n p : Nat) (f : MPort → MPort) : (s.updPort n p f).sram = s.sram := rfl
@[simp] theorem State.updPort_host (s : State) (n p : Nat) (f : MPort → MPort) : (s.updPort n p f).host = s.host := rfl
@[simp] theorem State.updPort_bad (s : State) (n p : Nat) (f : MPort → MPort) : (s.updPort n p f).bad = s.bad := rfl
@[simp] theorem State.updPort_memErrs (s : State) (n p : Nat) (f : MPort → MPort) : (s.updPort n p f).memErrs = s.memErrs := rfl
@[simp] theorem State.updPort_pcreq (s : State) (n p : Nat) (f : MPort → MPort) : (s.updPort n p f).pcreq = s.pcreq := rfl
@[simp] theorem State.updPort_stks (s : State) (n p : Nat) (f : MPort → MPort) : (s.updPort n p f).stks = s.stks := rfl
@[simp] theorem State.updPort_dtlb (s : State) (n p : Nat) (f : MPort → MPort) : (s.updPort n p f).dtlb = s.dtlb := rfl
@[simp] theorem State.updPort_walks (s : State) (n p : Nat) (f : MPort → MPort) : (s.updPort n p f).walks = s.walks := rfl
@[simp] theorem State.updPort_misses (s : State) (n p : Nat) (f : MPort → MPort) : (s.updPort n p f).misses = s.misses := rfl
@[simp] theorem State.updPort_moves (s : State) (n p : Nat) (f : MPort → MPort) : (s.updPort n p f).moves = s.moves := rfl
@[simp] theorem State.updPort_tiers (s : State) (n p : Nat) (f : MPort → MPort) : (s.updPort n p f).tiers = s.tiers := rfl
@[simp] theorem State.updPort_strict (s : State) (n p : Nat) (f : MPort → MPort) : (s.updPort n p f).strict = s.strict := rfl
@[simp] theorem State.updPort_poolBase (s : State) (n p : Nat) (f : MPort → MPort) : (s.updPort n p f).poolBase = s.poolBase := rfl
@[simp] theorem State.updPort_poolStk (s : State) (n p : Nat) (f : MPort → MPort) : (s.updPort n p f).poolStk = s.poolStk := rfl
@[simp] theorem State.updPort_poolN (s : State) (n p : Nat) (f : MPort → MPort) : (s.updPort n p f).poolN = s.poolN := rfl
@[simp] theorem State.updPort_poolCap (s : State) (n p : Nat) (f : MPort → MPort) : (s.updPort n p f).poolCap = s.poolCap := rfl
@[simp] theorem State.updPort_ctl (s : State) (n p : Nat) (f : MPort → MPort) : (s.updPort n p f).ctl = s.ctl := rfl
@[simp] theorem State.updPort_phaseMsgs (s : State) (n p : Nat) (f : MPort → MPort) : (s.updPort n p f).phaseMsgs = s.phaseMsgs := rfl
@[simp] theorem State.updPort_phaseCnts (s : State) (n p : Nat) (f : MPort → MPort) : (s.updPort n p f).phaseCnts = s.phaseCnts := rfl
@[simp] theorem State.updPort_recordsOut (s : State) (n p : Nat) (f : MPort → MPort) : (s.updPort n p f).recordsOut = s.recordsOut := rfl
@[simp] theorem State.updPort_pcNow (s : State) (n p : Nat) (f : MPort → MPort) : (s.updPort n p f).pcNow = s.pcNow := rfl
@[simp] theorem State.updPort_reaches (s : State) (n p : Nat) (f : MPort → MPort) : (s.updPort n p f).reaches = s.reaches := rfl
@[simp] theorem State.updPort_loads (s : State) (n p : Nat) (f : MPort → MPort) : (s.updPort n p f).loads = s.loads := rfl
@[simp] theorem State.updPort_cache (s : State) (n p : Nat) (f : MPort → MPort) : (s.updPort n p f).cache = s.cache := rfl
@[simp] theorem State.updPort_images (s : State) (n p : Nat) (f : MPort → MPort) : (s.updPort n p f).images = s.images := rfl
@[simp] theorem State.updPort_nextId (s : State) (n p : Nat) (f : MPort → MPort) : (s.updPort n p f).nextId = s.nextId := rfl
@[simp] theorem State.updPort_partErr (s : State) (n p : Nat) (f : MPort → MPort) : (s.updPort n p f).partErr = s.partErr := rfl
@[simp] theorem State.updPort_partErrJob (s : State) (n p : Nat) (f : MPort → MPort) : (s.updPort n p f).partErrJob = s.partErrJob := rfl
@[simp] theorem State.updPort_clearing (s : State) (n p : Nat) (f : MPort → MPort) : (s.updPort n p f).clearing = s.clearing := rfl
@[simp] theorem State.updPort_abandoned (s : State) (n p : Nat) (f : MPort → MPort) : (s.updPort n p f).abandoned = s.abandoned := rfl
@[simp] theorem State.updPort_plim (s : State) (n p : Nat) (f : MPort → MPort) : (s.updPort n p f).plim = s.plim := rfl
@[simp] theorem State.updPort_throt (s : State) (n p : Nat) (f : MPort → MPort) : (s.updPort n p f).throt = s.throt := rfl
@[simp] theorem State.updPort_pnow (s : State) (n p : Nat) (f : MPort → MPort) : (s.updPort n p f).pnow = s.pnow := rfl
@[simp] theorem State.updPort_powerMs (s : State) (n p : Nat) (f : MPort → MPort) : (s.updPort n p f).powerMs = s.powerMs := rfl
@[simp] theorem State.updPort_mailOp (s : State) (n p : Nat) (f : MPort → MPort) : (s.updPort n p f).mailOp = s.mailOp := rfl
@[simp] theorem State.updPort_mailRun (s : State) (n p : Nat) (f : MPort → MPort) : (s.updPort n p f).mailRun = s.mailRun := rfl
@[simp] theorem State.updPort_mailErr (s : State) (n p : Nat) (f : MPort → MPort) : (s.updPort n p f).mailErr = s.mailErr := rfl
@[simp] theorem State.updPort_nonce (s : State) (n p : Nat) (f : MPort → MPort) : (s.updPort n p f).nonce = s.nonce := rfl
@[simp] theorem State.updPort_mailBuf (s : State) (n p : Nat) (f : MPort → MPort) : (s.updPort n p f).mailBuf = s.mailBuf := rfl
@[simp] theorem State.updPort_bootOk (s : State) (n p : Nat) (f : MPort → MPort) : (s.updPort n p f).bootOk = s.bootOk := rfl
@[simp] theorem State.updPort_coldResets (s : State) (n p : Nat) (f : MPort → MPort) : (s.updPort n p f).coldResets = s.coldResets := rfl
@[simp] theorem State.updPort_seamOpen (s : State) (n p : Nat) (f : MPort → MPort) : (s.updPort n p f).seamOpen = s.seamOpen := rfl
@[simp] theorem State.updPort_stacksIn (s : State) (n p : Nat) (f : MPort → MPort) : (s.updPort n p f).stacksIn = s.stacksIn := rfl
@[simp] theorem State.updPort_shoreIn (s : State) (n p : Nat) (f : MPort → MPort) : (s.updPort n p f).shoreIn = s.shoreIn := rfl
@[simp] theorem State.updPort_tide (s : State) (n p : Nat) (f : MPort → MPort) : (s.updPort n p f).tide = s.tide := rfl
@[simp] theorem State.updPort_shoreOut (s : State) (n p : Nat) (f : MPort → MPort) : (s.updPort n p f).shoreOut = s.shoreOut := rfl
@[simp] theorem State.updPort_msix (s : State) (n p : Nat) (f : MPort → MPort) : (s.updPort n p f).msix = s.msix := rfl
@[simp] theorem State.updPort_freeCount (s : State) (n p : Nat) (f : MPort → MPort) : (s.updPort n p f).freeCount = s.freeCount := rfl
@[simp] theorem State.updPort_ctx (s : State) (n p : Nat) (f : MPort → MPort) (x : Nat) : (s.updPort n p f).ctx x = s.ctx x := rfl
@[simp] theorem State.updPort_core (s : State) (n p : Nat) (f : MPort → MPort) (x : Nat) : (s.updPort n p f).core x = s.core x := rfl
@[simp] theorem State.updPort_job (s : State) (n p : Nat) (f : MPort → MPort) (x : Nat) : (s.updPort n p f).job x = s.job x := rfl
@[simp] theorem State.updPort_stk (s : State) (n p : Nat) (f : MPort → MPort) (x : Nat) : (s.updPort n p f).stk x = s.stk x := rfl
@[simp] theorem State.updPort_reach? (s : State) (n p : Nat) (f : MPort → MPort) (x : Nat) : (s.updPort n p f).reach? x = s.reach? x := rfl
@[simp] theorem State.updPort_reachJob (s : State) (n p : Nat) (f : MPort → MPort) (x : Nat) : (s.updPort n p f).reachJob x = s.reachJob x := rfl
@[simp] theorem State.updPort_tick (s : State) (n p : Nat) (f : MPort → MPort) : (s.updPort n p f).tick = s.tick := rfl

/-! ### pushPacket -/

@[simp] theorem State.pushPacket_cycle (s : State) (n p : Nat) (k : Packet) : (s.pushPacket n p k).cycle = s.cycle := rfl
@[simp] theorem State.pushPacket_focus (s : State) (n p : Nat) (k : Packet) : (s.pushPacket n p k).focus = s.focus := rfl
@[simp] theorem State.pushPacket_schedule (s : State) (n p : Nat) (k : Packet) : (s.pushPacket n p k).schedule = s.schedule := rfl
@[simp] theorem State.pushPacket_turnNo (s : State) (n p : Nat) (k : Packet) : (s.pushPacket n p k).turnNo = s.turnNo := rfl
@[simp] theorem State.pushPacket_inputs (s : State) (n p : Nat) (k : Packet) : (s.pushPacket n p k).inputs = s.inputs := rfl
@[simp] theorem State.pushPacket_ctxs (s : State) (n p : Nat) (k : Packet) : (s.pushPacket n p k).ctxs = s.ctxs := rfl
@[simp] theorem State.pushPacket_cores (s : State) (n p : Nat) (k : Packet) : (s.pushPacket n p k).cores = s.cores := rfl
@[simp] theorem State.pushPacket_jobs (s : State) (n p : Nat) (k : Packet) : (s.pushPacket n p k).jobs = s.jobs := rfl
@[simp] theorem State.pushPacket_hbm (s : State) (n p : Nat) (k : Packet) : (s.pushPacket n p k).hbm = s.hbm := rfl
@[simp] theorem State.pushPacket_sram (s : State) (n p : Nat) (k : Packet) : (s.pushPacket n p k).sram = s.sram := rfl
@[simp] theorem State.pushPacket_host (s : State) (n p : Nat) (k : Packet) : (s.pushPacket n p k).host = s.host := rfl
@[simp] theorem State.pushPacket_bad (s : State) (n p : Nat) (k : Packet) : (s.pushPacket n p k).bad = s.bad := rfl
@[simp] theorem State.pushPacket_memErrs (s : State) (n p : Nat) (k : Packet) : (s.pushPacket n p k).memErrs = s.memErrs := rfl
@[simp] theorem State.pushPacket_pcreq (s : State) (n p : Nat) (k : Packet) : (s.pushPacket n p k).pcreq = s.pcreq := rfl
@[simp] theorem State.pushPacket_stks (s : State) (n p : Nat) (k : Packet) : (s.pushPacket n p k).stks = s.stks := rfl
@[simp] theorem State.pushPacket_dtlb (s : State) (n p : Nat) (k : Packet) : (s.pushPacket n p k).dtlb = s.dtlb := rfl
@[simp] theorem State.pushPacket_walks (s : State) (n p : Nat) (k : Packet) : (s.pushPacket n p k).walks = s.walks := rfl
@[simp] theorem State.pushPacket_misses (s : State) (n p : Nat) (k : Packet) : (s.pushPacket n p k).misses = s.misses := rfl
@[simp] theorem State.pushPacket_moves (s : State) (n p : Nat) (k : Packet) : (s.pushPacket n p k).moves = s.moves := rfl
@[simp] theorem State.pushPacket_tiers (s : State) (n p : Nat) (k : Packet) : (s.pushPacket n p k).tiers = s.tiers := rfl
@[simp] theorem State.pushPacket_strict (s : State) (n p : Nat) (k : Packet) : (s.pushPacket n p k).strict = s.strict := rfl
@[simp] theorem State.pushPacket_poolBase (s : State) (n p : Nat) (k : Packet) : (s.pushPacket n p k).poolBase = s.poolBase := rfl
@[simp] theorem State.pushPacket_poolStk (s : State) (n p : Nat) (k : Packet) : (s.pushPacket n p k).poolStk = s.poolStk := rfl
@[simp] theorem State.pushPacket_poolN (s : State) (n p : Nat) (k : Packet) : (s.pushPacket n p k).poolN = s.poolN := rfl
@[simp] theorem State.pushPacket_poolCap (s : State) (n p : Nat) (k : Packet) : (s.pushPacket n p k).poolCap = s.poolCap := rfl
@[simp] theorem State.pushPacket_ctl (s : State) (n p : Nat) (k : Packet) : (s.pushPacket n p k).ctl = s.ctl := rfl
@[simp] theorem State.pushPacket_phaseMsgs (s : State) (n p : Nat) (k : Packet) : (s.pushPacket n p k).phaseMsgs = s.phaseMsgs := rfl
@[simp] theorem State.pushPacket_phaseCnts (s : State) (n p : Nat) (k : Packet) : (s.pushPacket n p k).phaseCnts = s.phaseCnts := rfl
@[simp] theorem State.pushPacket_recordsOut (s : State) (n p : Nat) (k : Packet) : (s.pushPacket n p k).recordsOut = s.recordsOut := rfl
@[simp] theorem State.pushPacket_pcNow (s : State) (n p : Nat) (k : Packet) : (s.pushPacket n p k).pcNow = s.pcNow := rfl
@[simp] theorem State.pushPacket_reaches (s : State) (n p : Nat) (k : Packet) : (s.pushPacket n p k).reaches = s.reaches := rfl
@[simp] theorem State.pushPacket_loads (s : State) (n p : Nat) (k : Packet) : (s.pushPacket n p k).loads = s.loads := rfl
@[simp] theorem State.pushPacket_cache (s : State) (n p : Nat) (k : Packet) : (s.pushPacket n p k).cache = s.cache := rfl
@[simp] theorem State.pushPacket_images (s : State) (n p : Nat) (k : Packet) : (s.pushPacket n p k).images = s.images := rfl
@[simp] theorem State.pushPacket_nextId (s : State) (n p : Nat) (k : Packet) : (s.pushPacket n p k).nextId = s.nextId := rfl
@[simp] theorem State.pushPacket_partErr (s : State) (n p : Nat) (k : Packet) : (s.pushPacket n p k).partErr = s.partErr := rfl
@[simp] theorem State.pushPacket_partErrJob (s : State) (n p : Nat) (k : Packet) : (s.pushPacket n p k).partErrJob = s.partErrJob := rfl
@[simp] theorem State.pushPacket_clearing (s : State) (n p : Nat) (k : Packet) : (s.pushPacket n p k).clearing = s.clearing := rfl
@[simp] theorem State.pushPacket_abandoned (s : State) (n p : Nat) (k : Packet) : (s.pushPacket n p k).abandoned = s.abandoned := rfl
@[simp] theorem State.pushPacket_plim (s : State) (n p : Nat) (k : Packet) : (s.pushPacket n p k).plim = s.plim := rfl
@[simp] theorem State.pushPacket_throt (s : State) (n p : Nat) (k : Packet) : (s.pushPacket n p k).throt = s.throt := rfl
@[simp] theorem State.pushPacket_pnow (s : State) (n p : Nat) (k : Packet) : (s.pushPacket n p k).pnow = s.pnow := rfl
@[simp] theorem State.pushPacket_powerMs (s : State) (n p : Nat) (k : Packet) : (s.pushPacket n p k).powerMs = s.powerMs := rfl
@[simp] theorem State.pushPacket_mailOp (s : State) (n p : Nat) (k : Packet) : (s.pushPacket n p k).mailOp = s.mailOp := rfl
@[simp] theorem State.pushPacket_mailRun (s : State) (n p : Nat) (k : Packet) : (s.pushPacket n p k).mailRun = s.mailRun := rfl
@[simp] theorem State.pushPacket_mailErr (s : State) (n p : Nat) (k : Packet) : (s.pushPacket n p k).mailErr = s.mailErr := rfl
@[simp] theorem State.pushPacket_nonce (s : State) (n p : Nat) (k : Packet) : (s.pushPacket n p k).nonce = s.nonce := rfl
@[simp] theorem State.pushPacket_mailBuf (s : State) (n p : Nat) (k : Packet) : (s.pushPacket n p k).mailBuf = s.mailBuf := rfl
@[simp] theorem State.pushPacket_bootOk (s : State) (n p : Nat) (k : Packet) : (s.pushPacket n p k).bootOk = s.bootOk := rfl
@[simp] theorem State.pushPacket_coldResets (s : State) (n p : Nat) (k : Packet) : (s.pushPacket n p k).coldResets = s.coldResets := rfl
@[simp] theorem State.pushPacket_seamOpen (s : State) (n p : Nat) (k : Packet) : (s.pushPacket n p k).seamOpen = s.seamOpen := rfl
@[simp] theorem State.pushPacket_stacksIn (s : State) (n p : Nat) (k : Packet) : (s.pushPacket n p k).stacksIn = s.stacksIn := rfl
@[simp] theorem State.pushPacket_shoreIn (s : State) (n p : Nat) (k : Packet) : (s.pushPacket n p k).shoreIn = s.shoreIn := rfl
@[simp] theorem State.pushPacket_tide (s : State) (n p : Nat) (k : Packet) : (s.pushPacket n p k).tide = s.tide := rfl
@[simp] theorem State.pushPacket_shoreOut (s : State) (n p : Nat) (k : Packet) : (s.pushPacket n p k).shoreOut = s.shoreOut := rfl
@[simp] theorem State.pushPacket_msix (s : State) (n p : Nat) (k : Packet) : (s.pushPacket n p k).msix = s.msix := rfl
@[simp] theorem State.pushPacket_freeCount (s : State) (n p : Nat) (k : Packet) : (s.pushPacket n p k).freeCount = s.freeCount := rfl
@[simp] theorem State.pushPacket_ctx (s : State) (n p : Nat) (k : Packet) (x : Nat) : (s.pushPacket n p k).ctx x = s.ctx x := rfl
@[simp] theorem State.pushPacket_core (s : State) (n p : Nat) (k : Packet) (x : Nat) : (s.pushPacket n p k).core x = s.core x := rfl
@[simp] theorem State.pushPacket_job (s : State) (n p : Nat) (k : Packet) (x : Nat) : (s.pushPacket n p k).job x = s.job x := rfl
@[simp] theorem State.pushPacket_stk (s : State) (n p : Nat) (k : Packet) (x : Nat) : (s.pushPacket n p k).stk x = s.stk x := rfl
@[simp] theorem State.pushPacket_reach? (s : State) (n p : Nat) (k : Packet) (x : Nat) : (s.pushPacket n p k).reach? x = s.reach? x := rfl
@[simp] theorem State.pushPacket_reachJob (s : State) (n p : Nat) (k : Packet) (x : Nat) : (s.pushPacket n p k).reachJob x = s.reachJob x := rfl
@[simp] theorem State.pushPacket_tick (s : State) (n p : Nat) (k : Packet) : (s.pushPacket n p k).tick = s.tick := rfl

/-! ### chosen -/

@[simp] theorem State.chosen_cycle (s : State) : s.chosen.cycle = s.cycle := rfl
@[simp] theorem State.chosen_focus (s : State) : s.chosen.focus = s.focus := rfl
@[simp] theorem State.chosen_inputs (s : State) : s.chosen.inputs = s.inputs := rfl
@[simp] theorem State.chosen_ctxs (s : State) : s.chosen.ctxs = s.ctxs := rfl
@[simp] theorem State.chosen_cores (s : State) : s.chosen.cores = s.cores := rfl
@[simp] theorem State.chosen_cells (s : State) : s.chosen.cells = s.cells := rfl
@[simp] theorem State.chosen_jobs (s : State) : s.chosen.jobs = s.jobs := rfl
@[simp] theorem State.chosen_hbm (s : State) : s.chosen.hbm = s.hbm := rfl
@[simp] theorem State.chosen_sram (s : State) : s.chosen.sram = s.sram := rfl
@[simp] theorem State.chosen_host (s : State) : s.chosen.host = s.host := rfl
@[simp] theorem State.chosen_bad (s : State) : s.chosen.bad = s.bad := rfl
@[simp] theorem State.chosen_memErrs (s : State) : s.chosen.memErrs = s.memErrs := rfl
@[simp] theorem State.chosen_pcreq (s : State) : s.chosen.pcreq = s.pcreq := rfl
@[simp] theorem State.chosen_stks (s : State) : s.chosen.stks = s.stks := rfl
@[simp] theorem State.chosen_dtlb (s : State) : s.chosen.dtlb = s.dtlb := rfl
@[simp] theorem State.chosen_walks (s : State) : s.chosen.walks = s.walks := rfl
@[simp] theorem State.chosen_misses (s : State) : s.chosen.misses = s.misses := rfl
@[simp] theorem State.chosen_moves (s : State) : s.chosen.moves = s.moves := rfl
@[simp] theorem State.chosen_tiers (s : State) : s.chosen.tiers = s.tiers := rfl
@[simp] theorem State.chosen_strict (s : State) : s.chosen.strict = s.strict := rfl
@[simp] theorem State.chosen_poolBase (s : State) : s.chosen.poolBase = s.poolBase := rfl
@[simp] theorem State.chosen_poolStk (s : State) : s.chosen.poolStk = s.poolStk := rfl
@[simp] theorem State.chosen_poolN (s : State) : s.chosen.poolN = s.poolN := rfl
@[simp] theorem State.chosen_poolCap (s : State) : s.chosen.poolCap = s.poolCap := rfl
@[simp] theorem State.chosen_ctl (s : State) : s.chosen.ctl = s.ctl := rfl
@[simp] theorem State.chosen_phaseMsgs (s : State) : s.chosen.phaseMsgs = s.phaseMsgs := rfl
@[simp] theorem State.chosen_phaseCnts (s : State) : s.chosen.phaseCnts = s.phaseCnts := rfl
@[simp] theorem State.chosen_recordsOut (s : State) : s.chosen.recordsOut = s.recordsOut := rfl
@[simp] theorem State.chosen_pcNow (s : State) : s.chosen.pcNow = s.pcNow := rfl
@[simp] theorem State.chosen_reaches (s : State) : s.chosen.reaches = s.reaches := rfl
@[simp] theorem State.chosen_loads (s : State) : s.chosen.loads = s.loads := rfl
@[simp] theorem State.chosen_cache (s : State) : s.chosen.cache = s.cache := rfl
@[simp] theorem State.chosen_images (s : State) : s.chosen.images = s.images := rfl
@[simp] theorem State.chosen_nextId (s : State) : s.chosen.nextId = s.nextId := rfl
@[simp] theorem State.chosen_partErr (s : State) : s.chosen.partErr = s.partErr := rfl
@[simp] theorem State.chosen_partErrJob (s : State) : s.chosen.partErrJob = s.partErrJob := rfl
@[simp] theorem State.chosen_clearing (s : State) : s.chosen.clearing = s.clearing := rfl
@[simp] theorem State.chosen_abandoned (s : State) : s.chosen.abandoned = s.abandoned := rfl
@[simp] theorem State.chosen_plim (s : State) : s.chosen.plim = s.plim := rfl
@[simp] theorem State.chosen_throt (s : State) : s.chosen.throt = s.throt := rfl
@[simp] theorem State.chosen_pnow (s : State) : s.chosen.pnow = s.pnow := rfl
@[simp] theorem State.chosen_powerMs (s : State) : s.chosen.powerMs = s.powerMs := rfl
@[simp] theorem State.chosen_mailOp (s : State) : s.chosen.mailOp = s.mailOp := rfl
@[simp] theorem State.chosen_mailRun (s : State) : s.chosen.mailRun = s.mailRun := rfl
@[simp] theorem State.chosen_mailErr (s : State) : s.chosen.mailErr = s.mailErr := rfl
@[simp] theorem State.chosen_nonce (s : State) : s.chosen.nonce = s.nonce := rfl
@[simp] theorem State.chosen_mailBuf (s : State) : s.chosen.mailBuf = s.mailBuf := rfl
@[simp] theorem State.chosen_bootOk (s : State) : s.chosen.bootOk = s.bootOk := rfl
@[simp] theorem State.chosen_coldResets (s : State) : s.chosen.coldResets = s.coldResets := rfl
@[simp] theorem State.chosen_seamOpen (s : State) : s.chosen.seamOpen = s.seamOpen := rfl
@[simp] theorem State.chosen_stacksIn (s : State) : s.chosen.stacksIn = s.stacksIn := rfl
@[simp] theorem State.chosen_shoreIn (s : State) : s.chosen.shoreIn = s.shoreIn := rfl
@[simp] theorem State.chosen_tide (s : State) : s.chosen.tide = s.tide := rfl
@[simp] theorem State.chosen_shoreOut (s : State) : s.chosen.shoreOut = s.shoreOut := rfl
@[simp] theorem State.chosen_msix (s : State) : s.chosen.msix = s.msix := rfl
@[simp] theorem State.chosen_freeCount (s : State) : s.chosen.freeCount = s.freeCount := rfl
@[simp] theorem State.chosen_ctx (s : State) (x : Nat) : s.chosen.ctx x = s.ctx x := rfl
@[simp] theorem State.chosen_core (s : State) (x : Nat) : s.chosen.core x = s.core x := rfl
@[simp] theorem State.chosen_cell (s : State) (x : Nat) : s.chosen.cell x = s.cell x := rfl
@[simp] theorem State.chosen_job (s : State) (x : Nat) : s.chosen.job x = s.job x := rfl
@[simp] theorem State.chosen_stk (s : State) (x : Nat) : s.chosen.stk x = s.stk x := rfl
@[simp] theorem State.chosen_reach? (s : State) (x : Nat) : s.chosen.reach? x = s.reach? x := rfl
@[simp] theorem State.chosen_reachJob (s : State) (x : Nat) : s.chosen.reachJob x = s.reachJob x := rfl
@[simp] theorem State.chosen_tick (s : State) : s.chosen.tick = s.tick := rfl
@[simp] theorem State.chosen_cset (s : State) (x : Nat) : s.chosen.cset x = s.cset x := rfl
@[simp] theorem State.chosen_aset (s : State) (x : Nat) : s.chosen.aset x = s.aset x := rfl
@[simp] theorem State.chosen_mset (s : State) (x : Nat) : s.chosen.mset x = s.mset x := rfl
@[simp] theorem State.chosen_port (s : State) (x y : Nat) : s.chosen.port x y = s.port x y := rfl
@[simp] theorem State.chosen_issue (s : State) (x y : Nat) : s.chosen.issue x y = s.issue x y := rfl

/-! ### issues -/

@[simp] theorem State.issues_cycle (s : State) (c : Nat) : (s.issues c).cycle = s.cycle := rfl
@[simp] theorem State.issues_schedule (s : State) (c : Nat) : (s.issues c).schedule = s.schedule := rfl
@[simp] theorem State.issues_turnNo (s : State) (c : Nat) : (s.issues c).turnNo = s.turnNo := rfl
@[simp] theorem State.issues_inputs (s : State) (c : Nat) : (s.issues c).inputs = s.inputs := rfl
@[simp] theorem State.issues_ctxs (s : State) (c : Nat) : (s.issues c).ctxs = s.ctxs := rfl
@[simp] theorem State.issues_cells (s : State) (c : Nat) : (s.issues c).cells = s.cells := rfl
@[simp] theorem State.issues_jobs (s : State) (c : Nat) : (s.issues c).jobs = s.jobs := rfl
@[simp] theorem State.issues_hbm (s : State) (c : Nat) : (s.issues c).hbm = s.hbm := rfl
@[simp] theorem State.issues_sram (s : State) (c : Nat) : (s.issues c).sram = s.sram := rfl
@[simp] theorem State.issues_host (s : State) (c : Nat) : (s.issues c).host = s.host := rfl
@[simp] theorem State.issues_bad (s : State) (c : Nat) : (s.issues c).bad = s.bad := rfl
@[simp] theorem State.issues_memErrs (s : State) (c : Nat) : (s.issues c).memErrs = s.memErrs := rfl
@[simp] theorem State.issues_pcreq (s : State) (c : Nat) : (s.issues c).pcreq = s.pcreq := rfl
@[simp] theorem State.issues_stks (s : State) (c : Nat) : (s.issues c).stks = s.stks := rfl
@[simp] theorem State.issues_dtlb (s : State) (c : Nat) : (s.issues c).dtlb = s.dtlb := rfl
@[simp] theorem State.issues_walks (s : State) (c : Nat) : (s.issues c).walks = s.walks := rfl
@[simp] theorem State.issues_misses (s : State) (c : Nat) : (s.issues c).misses = s.misses := rfl
@[simp] theorem State.issues_moves (s : State) (c : Nat) : (s.issues c).moves = s.moves := rfl
@[simp] theorem State.issues_tiers (s : State) (c : Nat) : (s.issues c).tiers = s.tiers := rfl
@[simp] theorem State.issues_strict (s : State) (c : Nat) : (s.issues c).strict = s.strict := rfl
@[simp] theorem State.issues_poolBase (s : State) (c : Nat) : (s.issues c).poolBase = s.poolBase := rfl
@[simp] theorem State.issues_poolStk (s : State) (c : Nat) : (s.issues c).poolStk = s.poolStk := rfl
@[simp] theorem State.issues_poolN (s : State) (c : Nat) : (s.issues c).poolN = s.poolN := rfl
@[simp] theorem State.issues_poolCap (s : State) (c : Nat) : (s.issues c).poolCap = s.poolCap := rfl
@[simp] theorem State.issues_ctl (s : State) (c : Nat) : (s.issues c).ctl = s.ctl := rfl
@[simp] theorem State.issues_phaseMsgs (s : State) (c : Nat) : (s.issues c).phaseMsgs = s.phaseMsgs := rfl
@[simp] theorem State.issues_phaseCnts (s : State) (c : Nat) : (s.issues c).phaseCnts = s.phaseCnts := rfl
@[simp] theorem State.issues_recordsOut (s : State) (c : Nat) : (s.issues c).recordsOut = s.recordsOut := rfl
@[simp] theorem State.issues_pcNow (s : State) (c : Nat) : (s.issues c).pcNow = s.pcNow := rfl
@[simp] theorem State.issues_reaches (s : State) (c : Nat) : (s.issues c).reaches = s.reaches := rfl
@[simp] theorem State.issues_loads (s : State) (c : Nat) : (s.issues c).loads = s.loads := rfl
@[simp] theorem State.issues_cache (s : State) (c : Nat) : (s.issues c).cache = s.cache := rfl
@[simp] theorem State.issues_images (s : State) (c : Nat) : (s.issues c).images = s.images := rfl
@[simp] theorem State.issues_nextId (s : State) (c : Nat) : (s.issues c).nextId = s.nextId := rfl
@[simp] theorem State.issues_partErr (s : State) (c : Nat) : (s.issues c).partErr = s.partErr := rfl
@[simp] theorem State.issues_partErrJob (s : State) (c : Nat) : (s.issues c).partErrJob = s.partErrJob := rfl
@[simp] theorem State.issues_clearing (s : State) (c : Nat) : (s.issues c).clearing = s.clearing := rfl
@[simp] theorem State.issues_abandoned (s : State) (c : Nat) : (s.issues c).abandoned = s.abandoned := rfl
@[simp] theorem State.issues_plim (s : State) (c : Nat) : (s.issues c).plim = s.plim := rfl
@[simp] theorem State.issues_throt (s : State) (c : Nat) : (s.issues c).throt = s.throt := rfl
@[simp] theorem State.issues_pnow (s : State) (c : Nat) : (s.issues c).pnow = s.pnow := rfl
@[simp] theorem State.issues_powerMs (s : State) (c : Nat) : (s.issues c).powerMs = s.powerMs := rfl
@[simp] theorem State.issues_mailOp (s : State) (c : Nat) : (s.issues c).mailOp = s.mailOp := rfl
@[simp] theorem State.issues_mailRun (s : State) (c : Nat) : (s.issues c).mailRun = s.mailRun := rfl
@[simp] theorem State.issues_mailErr (s : State) (c : Nat) : (s.issues c).mailErr = s.mailErr := rfl
@[simp] theorem State.issues_nonce (s : State) (c : Nat) : (s.issues c).nonce = s.nonce := rfl
@[simp] theorem State.issues_mailBuf (s : State) (c : Nat) : (s.issues c).mailBuf = s.mailBuf := rfl
@[simp] theorem State.issues_bootOk (s : State) (c : Nat) : (s.issues c).bootOk = s.bootOk := rfl
@[simp] theorem State.issues_coldResets (s : State) (c : Nat) : (s.issues c).coldResets = s.coldResets := rfl
@[simp] theorem State.issues_seamOpen (s : State) (c : Nat) : (s.issues c).seamOpen = s.seamOpen := rfl
@[simp] theorem State.issues_stacksIn (s : State) (c : Nat) : (s.issues c).stacksIn = s.stacksIn := rfl
@[simp] theorem State.issues_shoreIn (s : State) (c : Nat) : (s.issues c).shoreIn = s.shoreIn := rfl
@[simp] theorem State.issues_tide (s : State) (c : Nat) : (s.issues c).tide = s.tide := rfl
@[simp] theorem State.issues_shoreOut (s : State) (c : Nat) : (s.issues c).shoreOut = s.shoreOut := rfl
@[simp] theorem State.issues_msix (s : State) (c : Nat) : (s.issues c).msix = s.msix := rfl
@[simp] theorem State.issues_freeCount (s : State) (c : Nat) : (s.issues c).freeCount = s.freeCount := rfl
@[simp] theorem State.issues_ctx (s : State) (c : Nat) (x : Nat) : (s.issues c).ctx x = s.ctx x := rfl
@[simp] theorem State.issues_cell (s : State) (c : Nat) (x : Nat) : (s.issues c).cell x = s.cell x := rfl
@[simp] theorem State.issues_job (s : State) (c : Nat) (x : Nat) : (s.issues c).job x = s.job x := rfl
@[simp] theorem State.issues_stk (s : State) (c : Nat) (x : Nat) : (s.issues c).stk x = s.stk x := rfl
@[simp] theorem State.issues_reach? (s : State) (c : Nat) (x : Nat) : (s.issues c).reach? x = s.reach? x := rfl
@[simp] theorem State.issues_reachJob (s : State) (c : Nat) (x : Nat) : (s.issues c).reachJob x = s.reachJob x := rfl
@[simp] theorem State.issues_tick (s : State) (c : Nat) : (s.issues c).tick = s.tick := rfl
@[simp] theorem State.issues_cset (s : State) (c : Nat) (x : Nat) : (s.issues c).cset x = s.cset x := rfl
@[simp] theorem State.issues_aset (s : State) (c : Nat) (x : Nat) : (s.issues c).aset x = s.aset x := rfl
@[simp] theorem State.issues_mset (s : State) (c : Nat) (x : Nat) : (s.issues c).mset x = s.mset x := rfl
@[simp] theorem State.issues_port (s : State) (c : Nat) (x y : Nat) : (s.issues c).port x y = s.port x y := rfl
@[simp] theorem State.issues_issue (s : State) (c : Nat) (x y : Nat) : (s.issues c).issue x y = s.issue x y := rfl
/-! ### Read after write -/

/-- A context just written. -/
@[simp] theorem State.updCtx_self (s : State) {c : Nat} (f : Context → Context) (h : c < 64) :
    (s.updCtx c f).ctx c = f (s.ctx c) := by
  simp [State.updCtx, State.ctx, h]

/-- A context other than the one written. -/
theorem State.updCtx_of_ne (s : State) {c k : Nat} (f : Context → Context) (h : k ≠ c) :
    (s.updCtx c f).ctx k = s.ctx k := vget_vset_of_ne _ _ _ h

/-- A core just written. -/
@[simp] theorem State.updCore_self (s : State) {c : Nat} (f : Core → Core) (h : c < 8) :
    (s.updCore c f).core c = f (s.core c) := by
  simp [State.updCore, State.core, h]

/-- A core other than the one written. -/
theorem State.updCore_of_ne (s : State) {c k : Nat} (f : Core → Core) (h : k ≠ c) :
    (s.updCore c f).core k = s.core k := vget_vset_of_ne _ _ _ h

/-- A stack just written. -/
@[simp] theorem State.updStk_self (s : State) {c : Nat} (f : Stack → Stack) (h : c < 12) :
    (s.updStk c f).stk c = f (s.stk c) := by
  simp [State.updStk, State.stk, h]

/-- A stack other than the one written. -/
theorem State.updStk_of_ne (s : State) {c k : Nat} (f : Stack → Stack) (h : k ≠ c) :
    (s.updStk c f).stk k = s.stk k := vget_vset_of_ne _ _ _ h

/-- A cell just written. -/
@[simp] theorem State.updCell_self (s : State) (n : Nat) (f : Cell → Cell) : (s.updCell n f).cell n = f (s.cell n) :=
  Tbl.get_set_self _ _ _ _

/-- A cell other than the one written. -/
theorem State.updCell_of_ne (s : State) {n k : Nat} (f : Cell → Cell) (h : k ≠ n) : (s.updCell n f).cell k = s.cell k :=
  Tbl.get_set_of_ne _ _ _ h

/-- A job just written. -/
@[simp] theorem State.updJob_self (s : State) (n : Nat) (f : Job → Job) : (s.updJob n f).job n = f (s.job n) :=
  Tbl.get_set_self _ _ _ _

/-- A job other than the one written. -/
theorem State.updJob_of_ne (s : State) {n k : Nat} (f : Job → Job) (h : k ≠ n) : (s.updJob n f).job k = s.job k :=
  Tbl.get_set_of_ne _ _ _ h

/-- The active compute set just written, and the other tiles of its cell. -/
@[simp] theorem State.updC_cset (s : State) (n : Nat) (f : CSet → CSet) : (s.updC n f).cset n = f (s.cset n) := by
  simp [State.updC, State.cset]
@[simp] theorem State.updC_asetAt (s : State) (n k : Nat) (f : CSet → CSet) : (s.updC n f).aset k = s.aset k := by
  simp only [State.updC, State.aset, State.cell, State.updCell, Tbl.get_set]; split <;> simp_all
@[simp] theorem State.updC_msetAt (s : State) (n k : Nat) (f : CSet → CSet) : (s.updC n f).mset k = s.mset k := by
  simp only [State.updC, State.mset, State.cell, State.updCell, Tbl.get_set]; split <;> simp_all
theorem State.updC_of_ne (s : State) {n k : Nat} (f : CSet → CSet) (h : k ≠ n) : (s.updC n f).cell k = s.cell k :=
  State.updCell_of_ne s _ h

/-- The active address-generator set just written, and the other tiles of its cell. -/
@[simp] theorem State.updA_aset (s : State) (n : Nat) (f : ASet → ASet) : (s.updA n f).aset n = f (s.aset n) := by
  simp [State.updA, State.aset]
@[simp] theorem State.updA_csetAt (s : State) (n k : Nat) (f : ASet → ASet) : (s.updA n f).cset k = s.cset k := by
  simp only [State.updA, State.cset, State.cell, State.updCell, Tbl.get_set]; split <;> simp_all
@[simp] theorem State.updA_msetAt (s : State) (n k : Nat) (f : ASet → ASet) : (s.updA n f).mset k = s.mset k := by
  simp only [State.updA, State.mset, State.cell, State.updCell, Tbl.get_set]; split <;> simp_all
theorem State.updA_of_ne (s : State) {n k : Nat} (f : ASet → ASet) (h : k ≠ n) : (s.updA n f).cell k = s.cell k :=
  State.updCell_of_ne s _ h

/-- The active memory-tile set just written, and the other tiles of its cell. -/
@[simp] theorem State.updM_mset (s : State) (n : Nat) (f : MSet → MSet) : (s.updM n f).mset n = f (s.mset n) := by
  simp [State.updM, State.mset]
@[simp] theorem State.updM_csetAt (s : State) (n k : Nat) (f : MSet → MSet) : (s.updM n f).cset k = s.cset k := by
  simp only [State.updM, State.cset, State.cell, State.updCell, Tbl.get_set]; split <;> simp_all
@[simp] theorem State.updM_asetAt (s : State) (n k : Nat) (f : MSet → MSet) : (s.updM n f).aset k = s.aset k := by
  simp only [State.updM, State.aset, State.cell, State.updCell, Tbl.get_set]; split <;> simp_all
theorem State.updM_of_ne (s : State) {n k : Nat} (f : MSet → MSet) (h : k ≠ n) : (s.updM n f).cell k = s.cell k :=
  State.updCell_of_ne s _ h

/-- A port just written. -/
@[simp] theorem State.updPort_self (s : State) (n : Nat) {p : Nat} (f : MPort → MPort) (h : p < 4) :
    (s.updPort n p f).port n p = f (s.port n p) := by
  simp [State.updPort, State.port, MSet.setPort, MSet.port, h]

/-- A port other than the one written. -/
theorem State.updPort_of_ne (s : State) (n : Nat) {p k : Nat} (f : MPort → MPort) (h : k ≠ p) :
    (s.updPort n p f).port n k = s.port n k := by
  simp only [State.updPort, State.port, State.updM_mset, MSet.setPort, MSet.port]
  exact vget_vset_of_ne _ _ _ h

/-- A packet put into a switch changes no tile of any cell. -/
@[simp] theorem State.pushPacket_csetAt (s : State) (n p k : Nat) (q : Packet) : (s.pushPacket n p q).cset k = s.cset k := by
  simp only [State.pushPacket, State.cset, State.cell, State.updCell, Tbl.get_set, Cell.setInq]; split <;> simp_all
@[simp] theorem State.pushPacket_asetAt (s : State) (n p k : Nat) (q : Packet) : (s.pushPacket n p q).aset k = s.aset k := by
  simp only [State.pushPacket, State.aset, State.cell, State.updCell, Tbl.get_set, Cell.setInq]; split <;> simp_all
@[simp] theorem State.pushPacket_msetAt (s : State) (n p k : Nat) (q : Packet) : (s.pushPacket n p q).mset k = s.mset k := by
  simp only [State.pushPacket, State.mset, State.cell, State.updCell, Tbl.get_set, Cell.setInq]; split <;> simp_all

/-! ### updSet and updNodeAt -/

@[simp] theorem State.updSet_cycle (s : State) (n i : Nat) (f : CSet → CSet) (g : ASet → ASet) : (s.updSet n i f g).cycle = s.cycle := rfl
@[simp] theorem State.updSet_focus (s : State) (n i : Nat) (f : CSet → CSet) (g : ASet → ASet) : (s.updSet n i f g).focus = s.focus := rfl
@[simp] theorem State.updSet_schedule (s : State) (n i : Nat) (f : CSet → CSet) (g : ASet → ASet) : (s.updSet n i f g).schedule = s.schedule := rfl
@[simp] theorem State.updSet_turnNo (s : State) (n i : Nat) (f : CSet → CSet) (g : ASet → ASet) : (s.updSet n i f g).turnNo = s.turnNo := rfl
@[simp] theorem State.updSet_inputs (s : State) (n i : Nat) (f : CSet → CSet) (g : ASet → ASet) : (s.updSet n i f g).inputs = s.inputs := rfl
@[simp] theorem State.updSet_ctxs (s : State) (n i : Nat) (f : CSet → CSet) (g : ASet → ASet) : (s.updSet n i f g).ctxs = s.ctxs := rfl
@[simp] theorem State.updSet_cores (s : State) (n i : Nat) (f : CSet → CSet) (g : ASet → ASet) : (s.updSet n i f g).cores = s.cores := rfl
@[simp] theorem State.updSet_jobs (s : State) (n i : Nat) (f : CSet → CSet) (g : ASet → ASet) : (s.updSet n i f g).jobs = s.jobs := rfl
@[simp] theorem State.updSet_hbm (s : State) (n i : Nat) (f : CSet → CSet) (g : ASet → ASet) : (s.updSet n i f g).hbm = s.hbm := rfl
@[simp] theorem State.updSet_sram (s : State) (n i : Nat) (f : CSet → CSet) (g : ASet → ASet) : (s.updSet n i f g).sram = s.sram := rfl
@[simp] theorem State.updSet_host (s : State) (n i : Nat) (f : CSet → CSet) (g : ASet → ASet) : (s.updSet n i f g).host = s.host := rfl
@[simp] theorem State.updSet_bad (s : State) (n i : Nat) (f : CSet → CSet) (g : ASet → ASet) : (s.updSet n i f g).bad = s.bad := rfl
@[simp] theorem State.updSet_memErrs (s : State) (n i : Nat) (f : CSet → CSet) (g : ASet → ASet) : (s.updSet n i f g).memErrs = s.memErrs := rfl
@[simp] theorem State.updSet_pcreq (s : State) (n i : Nat) (f : CSet → CSet) (g : ASet → ASet) : (s.updSet n i f g).pcreq = s.pcreq := rfl
@[simp] theorem State.updSet_stks (s : State) (n i : Nat) (f : CSet → CSet) (g : ASet → ASet) : (s.updSet n i f g).stks = s.stks := rfl
@[simp] theorem State.updSet_dtlb (s : State) (n i : Nat) (f : CSet → CSet) (g : ASet → ASet) : (s.updSet n i f g).dtlb = s.dtlb := rfl
@[simp] theorem State.updSet_walks (s : State) (n i : Nat) (f : CSet → CSet) (g : ASet → ASet) : (s.updSet n i f g).walks = s.walks := rfl
@[simp] theorem State.updSet_misses (s : State) (n i : Nat) (f : CSet → CSet) (g : ASet → ASet) : (s.updSet n i f g).misses = s.misses := rfl
@[simp] theorem State.updSet_moves (s : State) (n i : Nat) (f : CSet → CSet) (g : ASet → ASet) : (s.updSet n i f g).moves = s.moves := rfl
@[simp] theorem State.updSet_tiers (s : State) (n i : Nat) (f : CSet → CSet) (g : ASet → ASet) : (s.updSet n i f g).tiers = s.tiers := rfl
@[simp] theorem State.updSet_strict (s : State) (n i : Nat) (f : CSet → CSet) (g : ASet → ASet) : (s.updSet n i f g).strict = s.strict := rfl
@[simp] theorem State.updSet_poolBase (s : State) (n i : Nat) (f : CSet → CSet) (g : ASet → ASet) : (s.updSet n i f g).poolBase = s.poolBase := rfl
@[simp] theorem State.updSet_poolStk (s : State) (n i : Nat) (f : CSet → CSet) (g : ASet → ASet) : (s.updSet n i f g).poolStk = s.poolStk := rfl
@[simp] theorem State.updSet_poolN (s : State) (n i : Nat) (f : CSet → CSet) (g : ASet → ASet) : (s.updSet n i f g).poolN = s.poolN := rfl
@[simp] theorem State.updSet_poolCap (s : State) (n i : Nat) (f : CSet → CSet) (g : ASet → ASet) : (s.updSet n i f g).poolCap = s.poolCap := rfl
@[simp] theorem State.updSet_ctl (s : State) (n i : Nat) (f : CSet → CSet) (g : ASet → ASet) : (s.updSet n i f g).ctl = s.ctl := rfl
@[simp] theorem State.updSet_phaseMsgs (s : State) (n i : Nat) (f : CSet → CSet) (g : ASet → ASet) : (s.updSet n i f g).phaseMsgs = s.phaseMsgs := rfl
@[simp] theorem State.updSet_phaseCnts (s : State) (n i : Nat) (f : CSet → CSet) (g : ASet → ASet) : (s.updSet n i f g).phaseCnts = s.phaseCnts := rfl
@[simp] theorem State.updSet_recordsOut (s : State) (n i : Nat) (f : CSet → CSet) (g : ASet → ASet) : (s.updSet n i f g).recordsOut = s.recordsOut := rfl
@[simp] theorem State.updSet_pcNow (s : State) (n i : Nat) (f : CSet → CSet) (g : ASet → ASet) : (s.updSet n i f g).pcNow = s.pcNow := rfl
@[simp] theorem State.updSet_reaches (s : State) (n i : Nat) (f : CSet → CSet) (g : ASet → ASet) : (s.updSet n i f g).reaches = s.reaches := rfl
@[simp] theorem State.updSet_loads (s : State) (n i : Nat) (f : CSet → CSet) (g : ASet → ASet) : (s.updSet n i f g).loads = s.loads := rfl
@[simp] theorem State.updSet_cache (s : State) (n i : Nat) (f : CSet → CSet) (g : ASet → ASet) : (s.updSet n i f g).cache = s.cache := rfl
@[simp] theorem State.updSet_nextId (s : State) (n i : Nat) (f : CSet → CSet) (g : ASet → ASet) : (s.updSet n i f g).nextId = s.nextId := rfl
@[simp] theorem State.updSet_partErr (s : State) (n i : Nat) (f : CSet → CSet) (g : ASet → ASet) : (s.updSet n i f g).partErr = s.partErr := rfl
@[simp] theorem State.updSet_partErrJob (s : State) (n i : Nat) (f : CSet → CSet) (g : ASet → ASet) : (s.updSet n i f g).partErrJob = s.partErrJob := rfl
@[simp] theorem State.updSet_clearing (s : State) (n i : Nat) (f : CSet → CSet) (g : ASet → ASet) : (s.updSet n i f g).clearing = s.clearing := rfl
@[simp] theorem State.updSet_abandoned (s : State) (n i : Nat) (f : CSet → CSet) (g : ASet → ASet) : (s.updSet n i f g).abandoned = s.abandoned := rfl
@[simp] theorem State.updSet_plim (s : State) (n i : Nat) (f : CSet → CSet) (g : ASet → ASet) : (s.updSet n i f g).plim = s.plim := rfl
@[simp] theorem State.updSet_throt (s : State) (n i : Nat) (f : CSet → CSet) (g : ASet → ASet) : (s.updSet n i f g).throt = s.throt := rfl
@[simp] theorem State.updSet_pnow (s : State) (n i : Nat) (f : CSet → CSet) (g : ASet → ASet) : (s.updSet n i f g).pnow = s.pnow := rfl
@[simp] theorem State.updSet_powerMs (s : State) (n i : Nat) (f : CSet → CSet) (g : ASet → ASet) : (s.updSet n i f g).powerMs = s.powerMs := rfl
@[simp] theorem State.updSet_mailOp (s : State) (n i : Nat) (f : CSet → CSet) (g : ASet → ASet) : (s.updSet n i f g).mailOp = s.mailOp := rfl
@[simp] theorem State.updSet_mailRun (s : State) (n i : Nat) (f : CSet → CSet) (g : ASet → ASet) : (s.updSet n i f g).mailRun = s.mailRun := rfl
@[simp] theorem State.updSet_mailErr (s : State) (n i : Nat) (f : CSet → CSet) (g : ASet → ASet) : (s.updSet n i f g).mailErr = s.mailErr := rfl
@[simp] theorem State.updSet_nonce (s : State) (n i : Nat) (f : CSet → CSet) (g : ASet → ASet) : (s.updSet n i f g).nonce = s.nonce := rfl
@[simp] theorem State.updSet_mailBuf (s : State) (n i : Nat) (f : CSet → CSet) (g : ASet → ASet) : (s.updSet n i f g).mailBuf = s.mailBuf := rfl
@[simp] theorem State.updSet_bootOk (s : State) (n i : Nat) (f : CSet → CSet) (g : ASet → ASet) : (s.updSet n i f g).bootOk = s.bootOk := rfl
@[simp] theorem State.updSet_coldResets (s : State) (n i : Nat) (f : CSet → CSet) (g : ASet → ASet) : (s.updSet n i f g).coldResets = s.coldResets := rfl
@[simp] theorem State.updSet_seamOpen (s : State) (n i : Nat) (f : CSet → CSet) (g : ASet → ASet) : (s.updSet n i f g).seamOpen = s.seamOpen := rfl
@[simp] theorem State.updSet_stacksIn (s : State) (n i : Nat) (f : CSet → CSet) (g : ASet → ASet) : (s.updSet n i f g).stacksIn = s.stacksIn := rfl
@[simp] theorem State.updSet_shoreIn (s : State) (n i : Nat) (f : CSet → CSet) (g : ASet → ASet) : (s.updSet n i f g).shoreIn = s.shoreIn := rfl
@[simp] theorem State.updSet_tide (s : State) (n i : Nat) (f : CSet → CSet) (g : ASet → ASet) : (s.updSet n i f g).tide = s.tide := rfl
@[simp] theorem State.updSet_shoreOut (s : State) (n i : Nat) (f : CSet → CSet) (g : ASet → ASet) : (s.updSet n i f g).shoreOut = s.shoreOut := rfl
@[simp] theorem State.updSet_msix (s : State) (n i : Nat) (f : CSet → CSet) (g : ASet → ASet) : (s.updSet n i f g).msix = s.msix := rfl
@[simp] theorem State.updSet_freeCount (s : State) (n i : Nat) (f : CSet → CSet) (g : ASet → ASet) : (s.updSet n i f g).freeCount = s.freeCount := rfl
@[simp] theorem State.updSet_tick (s : State) (n i : Nat) (f : CSet → CSet) (g : ASet → ASet) : (s.updSet n i f g).tick = s.tick := rfl
@[simp] theorem State.updNodeAt_cycle (s : State) (n i : Nat) (f : CNode → CNode) : (s.updNodeAt n i f).cycle = s.cycle := rfl
@[simp] theorem State.updNodeAt_focus (s : State) (n i : Nat) (f : CNode → CNode) : (s.updNodeAt n i f).focus = s.focus := rfl
@[simp] theorem State.updNodeAt_schedule (s : State) (n i : Nat) (f : CNode → CNode) : (s.updNodeAt n i f).schedule = s.schedule := rfl
@[simp] theorem State.updNodeAt_turnNo (s : State) (n i : Nat) (f : CNode → CNode) : (s.updNodeAt n i f).turnNo = s.turnNo := rfl
@[simp] theorem State.updNodeAt_inputs (s : State) (n i : Nat) (f : CNode → CNode) : (s.updNodeAt n i f).inputs = s.inputs := rfl
@[simp] theorem State.updNodeAt_ctxs (s : State) (n i : Nat) (f : CNode → CNode) : (s.updNodeAt n i f).ctxs = s.ctxs := rfl
@[simp] theorem State.updNodeAt_cores (s : State) (n i : Nat) (f : CNode → CNode) : (s.updNodeAt n i f).cores = s.cores := rfl
@[simp] theorem State.updNodeAt_jobs (s : State) (n i : Nat) (f : CNode → CNode) : (s.updNodeAt n i f).jobs = s.jobs := rfl
@[simp] theorem State.updNodeAt_hbm (s : State) (n i : Nat) (f : CNode → CNode) : (s.updNodeAt n i f).hbm = s.hbm := rfl
@[simp] theorem State.updNodeAt_sram (s : State) (n i : Nat) (f : CNode → CNode) : (s.updNodeAt n i f).sram = s.sram := rfl
@[simp] theorem State.updNodeAt_host (s : State) (n i : Nat) (f : CNode → CNode) : (s.updNodeAt n i f).host = s.host := rfl
@[simp] theorem State.updNodeAt_bad (s : State) (n i : Nat) (f : CNode → CNode) : (s.updNodeAt n i f).bad = s.bad := rfl
@[simp] theorem State.updNodeAt_memErrs (s : State) (n i : Nat) (f : CNode → CNode) : (s.updNodeAt n i f).memErrs = s.memErrs := rfl
@[simp] theorem State.updNodeAt_pcreq (s : State) (n i : Nat) (f : CNode → CNode) : (s.updNodeAt n i f).pcreq = s.pcreq := rfl
@[simp] theorem State.updNodeAt_stks (s : State) (n i : Nat) (f : CNode → CNode) : (s.updNodeAt n i f).stks = s.stks := rfl
@[simp] theorem State.updNodeAt_dtlb (s : State) (n i : Nat) (f : CNode → CNode) : (s.updNodeAt n i f).dtlb = s.dtlb := rfl
@[simp] theorem State.updNodeAt_walks (s : State) (n i : Nat) (f : CNode → CNode) : (s.updNodeAt n i f).walks = s.walks := rfl
@[simp] theorem State.updNodeAt_misses (s : State) (n i : Nat) (f : CNode → CNode) : (s.updNodeAt n i f).misses = s.misses := rfl
@[simp] theorem State.updNodeAt_moves (s : State) (n i : Nat) (f : CNode → CNode) : (s.updNodeAt n i f).moves = s.moves := rfl
@[simp] theorem State.updNodeAt_tiers (s : State) (n i : Nat) (f : CNode → CNode) : (s.updNodeAt n i f).tiers = s.tiers := rfl
@[simp] theorem State.updNodeAt_strict (s : State) (n i : Nat) (f : CNode → CNode) : (s.updNodeAt n i f).strict = s.strict := rfl
@[simp] theorem State.updNodeAt_poolBase (s : State) (n i : Nat) (f : CNode → CNode) : (s.updNodeAt n i f).poolBase = s.poolBase := rfl
@[simp] theorem State.updNodeAt_poolStk (s : State) (n i : Nat) (f : CNode → CNode) : (s.updNodeAt n i f).poolStk = s.poolStk := rfl
@[simp] theorem State.updNodeAt_poolN (s : State) (n i : Nat) (f : CNode → CNode) : (s.updNodeAt n i f).poolN = s.poolN := rfl
@[simp] theorem State.updNodeAt_poolCap (s : State) (n i : Nat) (f : CNode → CNode) : (s.updNodeAt n i f).poolCap = s.poolCap := rfl
@[simp] theorem State.updNodeAt_ctl (s : State) (n i : Nat) (f : CNode → CNode) : (s.updNodeAt n i f).ctl = s.ctl := rfl
@[simp] theorem State.updNodeAt_phaseMsgs (s : State) (n i : Nat) (f : CNode → CNode) : (s.updNodeAt n i f).phaseMsgs = s.phaseMsgs := rfl
@[simp] theorem State.updNodeAt_phaseCnts (s : State) (n i : Nat) (f : CNode → CNode) : (s.updNodeAt n i f).phaseCnts = s.phaseCnts := rfl
@[simp] theorem State.updNodeAt_recordsOut (s : State) (n i : Nat) (f : CNode → CNode) : (s.updNodeAt n i f).recordsOut = s.recordsOut := rfl
@[simp] theorem State.updNodeAt_pcNow (s : State) (n i : Nat) (f : CNode → CNode) : (s.updNodeAt n i f).pcNow = s.pcNow := rfl
@[simp] theorem State.updNodeAt_reaches (s : State) (n i : Nat) (f : CNode → CNode) : (s.updNodeAt n i f).reaches = s.reaches := rfl
@[simp] theorem State.updNodeAt_loads (s : State) (n i : Nat) (f : CNode → CNode) : (s.updNodeAt n i f).loads = s.loads := rfl
@[simp] theorem State.updNodeAt_cache (s : State) (n i : Nat) (f : CNode → CNode) : (s.updNodeAt n i f).cache = s.cache := rfl
@[simp] theorem State.updNodeAt_images (s : State) (n i : Nat) (f : CNode → CNode) : (s.updNodeAt n i f).images = s.images := rfl
@[simp] theorem State.updNodeAt_nextId (s : State) (n i : Nat) (f : CNode → CNode) : (s.updNodeAt n i f).nextId = s.nextId := rfl
@[simp] theorem State.updNodeAt_partErr (s : State) (n i : Nat) (f : CNode → CNode) : (s.updNodeAt n i f).partErr = s.partErr := rfl
@[simp] theorem State.updNodeAt_partErrJob (s : State) (n i : Nat) (f : CNode → CNode) : (s.updNodeAt n i f).partErrJob = s.partErrJob := rfl
@[simp] theorem State.updNodeAt_clearing (s : State) (n i : Nat) (f : CNode → CNode) : (s.updNodeAt n i f).clearing = s.clearing := rfl
@[simp] theorem State.updNodeAt_abandoned (s : State) (n i : Nat) (f : CNode → CNode) : (s.updNodeAt n i f).abandoned = s.abandoned := rfl
@[simp] theorem State.updNodeAt_plim (s : State) (n i : Nat) (f : CNode → CNode) : (s.updNodeAt n i f).plim = s.plim := rfl
@[simp] theorem State.updNodeAt_throt (s : State) (n i : Nat) (f : CNode → CNode) : (s.updNodeAt n i f).throt = s.throt := rfl
@[simp] theorem State.updNodeAt_pnow (s : State) (n i : Nat) (f : CNode → CNode) : (s.updNodeAt n i f).pnow = s.pnow := rfl
@[simp] theorem State.updNodeAt_powerMs (s : State) (n i : Nat) (f : CNode → CNode) : (s.updNodeAt n i f).powerMs = s.powerMs := rfl
@[simp] theorem State.updNodeAt_mailOp (s : State) (n i : Nat) (f : CNode → CNode) : (s.updNodeAt n i f).mailOp = s.mailOp := rfl
@[simp] theorem State.updNodeAt_mailRun (s : State) (n i : Nat) (f : CNode → CNode) : (s.updNodeAt n i f).mailRun = s.mailRun := rfl
@[simp] theorem State.updNodeAt_mailErr (s : State) (n i : Nat) (f : CNode → CNode) : (s.updNodeAt n i f).mailErr = s.mailErr := rfl
@[simp] theorem State.updNodeAt_nonce (s : State) (n i : Nat) (f : CNode → CNode) : (s.updNodeAt n i f).nonce = s.nonce := rfl
@[simp] theorem State.updNodeAt_mailBuf (s : State) (n i : Nat) (f : CNode → CNode) : (s.updNodeAt n i f).mailBuf = s.mailBuf := rfl
@[simp] theorem State.updNodeAt_bootOk (s : State) (n i : Nat) (f : CNode → CNode) : (s.updNodeAt n i f).bootOk = s.bootOk := rfl
@[simp] theorem State.updNodeAt_coldResets (s : State) (n i : Nat) (f : CNode → CNode) : (s.updNodeAt n i f).coldResets = s.coldResets := rfl
@[simp] theorem State.updNodeAt_seamOpen (s : State) (n i : Nat) (f : CNode → CNode) : (s.updNodeAt n i f).seamOpen = s.seamOpen := rfl
@[simp] theorem State.updNodeAt_stacksIn (s : State) (n i : Nat) (f : CNode → CNode) : (s.updNodeAt n i f).stacksIn = s.stacksIn := rfl
@[simp] theorem State.updNodeAt_shoreIn (s : State) (n i : Nat) (f : CNode → CNode) : (s.updNodeAt n i f).shoreIn = s.shoreIn := rfl
@[simp] theorem State.updNodeAt_tide (s : State) (n i : Nat) (f : CNode → CNode) : (s.updNodeAt n i f).tide = s.tide := rfl
@[simp] theorem State.updNodeAt_shoreOut (s : State) (n i : Nat) (f : CNode → CNode) : (s.updNodeAt n i f).shoreOut = s.shoreOut := rfl
@[simp] theorem State.updNodeAt_msix (s : State) (n i : Nat) (f : CNode → CNode) : (s.updNodeAt n i f).msix = s.msix := rfl
@[simp] theorem State.updNodeAt_freeCount (s : State) (n i : Nat) (f : CNode → CNode) : (s.updNodeAt n i f).freeCount = s.freeCount := rfl
@[simp] theorem State.updNodeAt_tick (s : State) (n i : Nat) (f : CNode → CNode) : (s.updNodeAt n i f).tick = s.tick := rfl

end Sys2Proof.Machine
end

