-- ==== Sys2Proof/Laws/Context.lean ====
section
/-!
SUPPORT. Contexts: registers, the movement of the pc, and how the shared steps of the control core end.
-/

namespace Sys2Proof.Machine

open Sys2Proof

/-! ## Registers (02 R44) -/

@[simp] theorem Context.reg_zero (x : Context) : x.reg 0 = 0 := rfl

/-- A register after a write: x0 discards. -/
theorem Context.reg_setReg (x : Context) (d r : Reg) (v : Word) :
    (x.setReg d v).reg r = if r ≠ 0 ∧ r = d then v else x.reg r := by
  unfold Context.setReg Context.reg
  by_cases hr : r = 0
  · subst hr; rw [if_pos rfl, if_pos rfl, if_neg (fun g => g.1 rfl)]
  · by_cases hd : d = 0
    · have h : ¬ (r ≠ 0 ∧ r = d) := fun g => g.1 (g.2.trans hd)
      simp only [if_neg hr, if_pos hd, if_neg h]
    · by_cases h : r = d
      · subst h
        have g : r ≠ 0 ∧ r = r := ⟨hr, rfl⟩
        rw [if_neg hr, if_neg hd, if_pos g, vget_vset_self _ _ _ _ r.isLt]
      · have g : ¬ (r ≠ 0 ∧ r = d) := fun g => h g.2
        have e : r.toNat ≠ d.toNat := fun e => h (BitVec.eq_of_toNat_eq e)
        simp only [if_neg hr, if_neg hd, if_neg g, vget_vset_of_ne _ _ _ e]

/-- A write of a register changes nothing but the registers. -/
theorem Context.setReg_eq (x : Context) (d : Reg) (v : Word) : x.setReg d v = { x with x := (x.setReg d v).x } := by
  unfold Context.setReg; split <;> rfl

/-! ## The pc (05 R110) -/

/-- Moving the pc keeps everything else, and the fetch buffer while pc stays in its unit. -/
theorem Context.goto_eq (x : Context) (pc : Word) : x.goto pc = { x with pc := pc, fetch := keptFetch x.fetch pc } := by
  unfold Context.goto keptFetch
  rcases x.fetch with _ | ⟨a, u⟩
  · rfl
  · by_cases h : a.toNat = pc.toNat / 64 * 64 <;> simp [h, Option.filter]

theorem Context.advance_eq (x : Context) :
    x.advance = { x with st := .ready, wait := .none, pc := x.pc + 4, fetch := keptFetch x.fetch (x.pc + 4) } := by
  unfold Context.advance; rw [Context.goto_eq]

@[simp] theorem Context.reg_goto (x : Context) (pc : Word) (r : Reg) : (x.goto pc).reg r = x.reg r := by
  rw [Context.goto_eq]; rfl
@[simp] theorem Context.reg_advance (x : Context) (r : Reg) : x.advance.reg r = x.reg r := by
  rw [Context.advance_eq]; rfl

/-! ## Frames -/

theorem SameMemory.refl (s : State) : SameMemory s s := fun _ => ⟨rfl, rfl, rfl⟩

theorem SameMemory.trans {s t u : State} (h : SameMemory s t) (g : SameMemory t u) : SameMemory s u := fun a =>
  ⟨(g a).1.trans (h a).1, (g a).2.1.trans (h a).2.1, (g a).2.2.trans (h a).2.2⟩

/-- A write of a context leaves everything else. -/
theorem OnlyCtx.updCtx (s : State) (c : Nat) (f : Context → Context) : OnlyCtx c s (s.updCtx c f) :=
  ⟨rfl, fun _ h => State.updCtx_of_ne s f h, fun _ => ⟨rfl, rfl, rfl⟩⟩

/-- A write of a cell leaves everything else. -/
theorem OnlyCell.updCell (s : State) (n : Nat) (f : Cell → Cell) : OnlyCell n s (s.updCell n f) :=
  ⟨rfl, fun _ h => State.updCell_of_ne s f h, fun _ => ⟨rfl, rfl, rfl⟩⟩

theorem OnlyCell.trans {n : Nat} {s t u : State} (h : OnlyCell n s t) (g : OnlyCell n t u) : OnlyCell n s u :=
  ⟨by rw [g.1, h.1], fun k hk => (g.2.1 k hk).trans (h.2.1 k hk), h.2.2.trans g.2.2⟩

/-! ## Shared steps -/

/-- Writing a register and going on. -/
theorem State.retire_goesOn (s : State) {c : Nat} (d : Reg) (v : Word) (hc : c < 64) :
    GoesOn s (s.retire c d v) c d v ((s.ctx c).pc + 4) := by
  refine ⟨OnlyCtx.updCtx _ _ _, fun r => ?_, ?_⟩
  · simp [State.retire, hc, Context.reg_setReg]
  · simp only [State.retire, hc, State.updCtx_self]
    rw [Context.advance_eq, Context.setReg_eq]

/-- Going on with no register written. -/
theorem State.advance_goesOn (s : State) {c : Nat} (hc : c < 64) : GoesOn s (s.advance c) c 0 0 ((s.ctx c).pc + 4) := by
  refine ⟨OnlyCtx.updCtx _ _ _, fun r => ?_, ?_⟩
  · simp [State.advance, hc]
  · simp only [State.advance, hc, State.updCtx_self]
    rw [Context.advance_eq]

/-- A jump of a ready context that writes a register. -/
theorem State.jump_goesOn (s : State) {c : Nat} (d : Reg) (v pc : Word) (hc : c < 64) (hr : (s.ctx c).st = .ready) :
    GoesOn s (s.updCtx c (fun x => (x.setReg d v).goto pc)) c d v pc := by
  refine ⟨OnlyCtx.updCtx _ _ _, fun r => ?_, ?_⟩
  · simp [hc, Context.reg_setReg]
  · simp only [hc, State.updCtx_self]
    rw [Context.goto_eq, Context.setReg_eq]
    generalize s.ctx c = x at *
    cases x; simp_all

/-- A synchronous trap (05 R113). -/
theorem State.syncTrap_traps (s : State) {c : Nat} (cause : Nat) (tp0 tp1 tp2 : Word) (hc : c < 64) :
    Traps s (s.syncTrap c cause tp0 tp1 tp2) c cause tp0 tp1 tp2 := by
  unfold Traps State.syncTrap State.takeTrap Context.canTake
  by_cases h : (s.ctx c).tvec ≠ 0 ∧ (s.ctx c).intr = false
  · have h' : ((s.ctx c).tvec != 0 && !(s.ctx c).intr) = true := by simpa using h
    rw [if_pos h]
    simp only [h', if_true]
    refine ⟨OnlyCtx.updCtx _ _ _, ?_⟩
    rw [State.updCtx_self _ _ hc, Context.enter, Context.goto_eq]
  · have h' : ((s.ctx c).tvec != 0 && !(s.ctx c).intr) = false := by
      by_contra g
      exact h (by simpa using g)
    rw [if_neg h]
    simp only [h', HaltsWith, Bool.false_eq_true, if_false]
    rfl

end Sys2Proof.Machine
end

