-- ==== Sys2Proof/Laws/Memory.lean ====
section
/-!
SUPPORT. Memories of bytes: every operation keeps the canonical form, a read after a write gives the byte written, and a write
leaves every other address alone.
-/

namespace Sys2Proof.Machine

open Sys2Proof

/-! ## The canonical form -/

theorem memWfFrom_mono {a b : Nat} (m : List Host.Cell) (h : a ≤ b) (hm : memWfFrom b m = true) : memWfFrom a m = true := by
  cases m with
  | nil => rfl
  | cons p t =>
    obtain ⟨k, v⟩ := p
    simp only [memWfFrom, Bool.and_eq_true, decide_eq_true_eq] at hm ⊢
    exact ⟨⟨h.trans hm.1.1, hm.1.2⟩, hm.2⟩

theorem memCons_wf {b a : Nat} (v : Byte) (t : List Host.Cell) (hb : b ≤ a) (ht : memWfFrom (a + 1) t = true) :
    memWfFrom b (memCons a v t) = true := by
  unfold memCons
  split
  · exact memWfFrom_mono t (by omega) ht
  · rename_i hv
    simp [memWfFrom, hb, hv, ht]

theorem memSet_wfFrom (m : List Host.Cell) (b a : Nat) (v : Byte) (hb : b ≤ a) (hm : memWfFrom b m = true) :
    memWfFrom b (memSet m a v) = true := by
  induction m generalizing b with
  | nil => exact memCons_wf v [] hb rfl
  | cons p t ih =>
    obtain ⟨k, w⟩ := p
    simp only [memWfFrom, Bool.and_eq_true, decide_eq_true_eq] at hm
    unfold memSet
    by_cases h : a = k
    · subst h; simpa using memCons_wf v t hb hm.2
    · by_cases h2 : a < k
      · simp only [h, h2, if_false, if_true]
        refine memCons_wf v _ hb ?_
        simp only [memWfFrom, Bool.and_eq_true, decide_eq_true_eq]
        exact ⟨⟨h2, hm.1.2⟩, hm.2⟩
      · simp only [h, h2, if_false, memWfFrom, Bool.and_eq_true, decide_eq_true_eq]
        exact ⟨hm.1, ih (k + 1) (by omega) hm.2⟩

/-- A byte write keeps the canonical form. -/
theorem memSet_wf (m : List Host.Cell) (a : Nat) (v : Byte) (hm : Memory.wf m = true) : Memory.wf (memSet m a v) = true :=
  memSet_wfFrom m 0 a v (Nat.zero_le a) hm

/-- A write of n bytes keeps the canonical form. -/
theorem memWrite_wf (n : Nat) (m : List Host.Cell) (a v : Nat) (hm : Memory.wf m = true) :
    Memory.wf (memWrite m a n v) = true := by
  induction n generalizing m a v with
  | zero => exact hm
  | succ n ih => exact ih _ _ _ (memSet_wf m a _ hm)

/-- A write of a list of bytes keeps the canonical form. -/
theorem memBytes_wf (l : List Byte) (m : List Host.Cell) (a : Nat) (hm : Memory.wf m = true) :
    Memory.wf (memBytes m a l) = true := by
  induction l generalizing m a with
  | nil => exact hm
  | cons b t ih => exact ih _ _ (memSet_wf m a b hm)

theorem memFilter_wfFrom (p : Host.Cell → Bool) (m : List Host.Cell) (b : Nat) (hm : memWfFrom b m = true) :
    memWfFrom b (m.filter p) = true := by
  induction m generalizing b with
  | nil => rfl
  | cons c t ih =>
    obtain ⟨k, v⟩ := c
    simp only [memWfFrom, Bool.and_eq_true, decide_eq_true_eq] at hm
    have ht := ih (k + 1) hm.2
    by_cases h : p (k, v)
    · simp only [List.filter_cons, h, if_true, memWfFrom, Bool.and_eq_true, decide_eq_true_eq]
      exact ⟨hm.1, ht⟩
    · simp only [List.filter_cons, h]
      exact memWfFrom_mono _ (by omega) ht

/-- Zeroing a range keeps the canonical form. -/
theorem memClear_wf (m : List Host.Cell) (a n : Nat) (hm : Memory.wf m = true) : Memory.wf (memClear m a n) = true :=
  memFilter_wfFrom _ m 0 hm

/-! ## Reads after writes -/

theorem memGet_of_lt {b : Nat} (m : List Host.Cell) (hm : memWfFrom b m = true) {a : Nat} (h : a < b) : memGet m a = unlisted := by
  cases m with
  | nil => rfl
  | cons p t =>
    obtain ⟨k, v⟩ := p
    simp only [memWfFrom, Bool.and_eq_true, decide_eq_true_eq] at hm
    have : a < k := by omega
    simp [memGet, this, Nat.ne_of_lt this]

theorem memGet_memCons {a : Nat} (v : Byte) (t : List Host.Cell) (ht : memWfFrom (a + 1) t = true) (x : Nat) :
    memGet (memCons a v t) x = if x = a then v else memGet t x := by
  unfold memCons
  split
  · rename_i hv
    split
    · rename_i hx; rw [hx, hv]; exact memGet_of_lt t ht (Nat.lt_succ_self a)
    · rfl
  · by_cases hx : x = a
    · simp [memGet, hx]
    · by_cases h2 : x < a
      · simp [memGet, hx, h2, memGet_of_lt t ht (show x < a + 1 by omega)]
      · simp [memGet, hx, h2]

theorem memGet_memSet_from (m : List Host.Cell) (b : Nat) (hm : memWfFrom b m = true) (a : Nat) (v : Byte) (x : Nat) :
    memGet (memSet m a v) x = if x = a then v else memGet m x := by
  induction m generalizing b with
  | nil => simp [memSet, memGet_memCons v [] rfl x]
  | cons p t ih =>
    obtain ⟨k, w⟩ := p
    simp only [memWfFrom, Bool.and_eq_true, decide_eq_true_eq] at hm
    unfold memSet
    by_cases h : a = k
    · subst h
      simp only [if_true, memGet_memCons v t hm.2 x]
      by_cases hx : x = a
      · simp [hx]
      · by_cases h2 : x < a
        · simp [hx, memGet, h2, memGet_of_lt t hm.2 (show x < a + 1 by omega)]
        · simp [hx, memGet, h2]
    · by_cases h2 : a < k
      · have hk : memWfFrom (a + 1) ((k, w) :: t) = true := by
          simp only [memWfFrom, Bool.and_eq_true, decide_eq_true_eq]
          exact ⟨⟨h2, hm.1.2⟩, hm.2⟩
        simp only [h, h2, if_false, if_true, memGet_memCons v _ hk x]
      · simp only [h, h2, if_false, memGet, ih (k + 1) hm.2]
        by_cases hx : x = k
        · simp [hx, Ne.symm h]
        · by_cases h3 : x < k
          · simp [hx, h3, show x ≠ a by omega]
          · simp [hx, h3]

/-- A byte read after a byte write to a memory in canonical form. -/
theorem memGet_memSet (m : List Host.Cell) (hm : Memory.wf m = true) (a : Nat) (v : Byte) (x : Nat) :
    memGet (memSet m a v) x = if x = a then v else memGet m x := memGet_memSet_from m 0 hm a v x

/-- A write of n bytes leaves every address outside them alone. -/
theorem memGet_memWrite_outside (n : Nat) (m : List Host.Cell) (hm : Memory.wf m = true) (a v x : Nat)
    (h : x < a ∨ a + n ≤ x) : memGet (memWrite m a n v) x = memGet m x := by
  induction n generalizing m a v with
  | zero => rfl
  | succ n ih =>
    unfold memWrite
    rw [ih _ (memSet_wf m a _ hm) _ _ (by omega), memGet_memSet m hm]
    simp [show x ≠ a by omega]

/-- Byte i of a write of n bytes is byte i of the value. -/
theorem memGet_memWrite_inside (n : Nat) (m : List Host.Cell) (hm : Memory.wf m = true) (a v i : Nat) (h : i < n) :
    memGet (memWrite m a n v) (a + i) = BitVec.ofNat 8 (v / 256 ^ i) := by
  induction n generalizing m a v i with
  | zero => omega
  | succ n ih =>
    unfold memWrite
    cases i with
    | zero =>
      rw [memGet_memWrite_outside n _ (memSet_wf m a _ hm) _ _ _ (by omega), memGet_memSet m hm]
      simp
    | succ i =>
      have := ih _ (memSet_wf m a (BitVec.ofNat 8 v) hm) (a + 1) (v / 256) i (by omega)
      rw [show a + (i + 1) = a + 1 + i by omega, this, Nat.div_div_eq_div_mul, pow_succ, Nat.mul_comm]

/-- A read of n bytes after a write of them gives the value, modulo 256^n. -/
theorem memRead_memWrite (n : Nat) (m : List Host.Cell) (hm : Memory.wf m = true) (a v : Nat) :
    memRead (memWrite m a n v) a n = v % 256 ^ n := by
  suffices h : ∀ (n k : Nat) (mm : List Host.Cell) (a v : Nat),
      (∀ i < n, memGet mm (a + i) = BitVec.ofNat 8 (v / 256 ^ i)) → memRead mm a n = v % 256 ^ n from
    h n 0 _ a v (fun i hi => memGet_memWrite_inside n m hm a v i hi)
  intro n
  induction n with
  | zero => intro _ mm a v _; simp [memRead, Nat.mod_one]
  | succ n ih =>
    intro k mm a v h
    have h0 := h 0 (by omega)
    have hs := ih k mm (a + 1) (v / 256) (fun i hi => by
      have := h (i + 1) (by omega)
      rw [show a + 1 + i = a + (i + 1) by omega, this, Nat.div_div_eq_div_mul, pow_succ, Nat.mul_comm])
    simp only [Nat.add_zero, pow_zero, Nat.div_one] at h0
    simp only [memRead, h0, hs, BitVec.toNat_ofNat]
    rw [show (256 : Nat) ^ (n + 1) = 256 * 256 ^ n by rw [pow_succ, Nat.mul_comm], Nat.mod_mul]

/-- A 64-bit word read where it was written. -/
theorem memWord_memWrite (m : List Host.Cell) (hm : Memory.wf m = true) (a : Nat) (v : Word) :
    memWord (memWrite m a 8 v.toNat) a = v := by
  unfold memWord
  rw [memRead_memWrite 8 m hm a]
  apply BitVec.eq_of_toNat_eq
  have := v.isLt
  simp only [BitVec.toNat_ofNat]
  omega

/-- A read of n bytes depends on those bytes only. -/
theorem memRead_congr (n : Nat) : ∀ {m m' : List Host.Cell} {a : Nat}, (∀ i, i < n → memGet m' (a + i) = memGet m (a + i)) →
    memRead m' a n = memRead m a n := by
  induction n with
  | zero => intro _ _ _ _; rfl
  | succ n ih =>
    intro m m' a h
    have h0 := h 0 (by omega)
    have hs : memRead m' (a + 1) n = memRead m (a + 1) n := ih (fun i hi => by
      have := h (i + 1) (by omega)
      rwa [show a + 1 + i = a + (i + 1) by omega])
    simp only [memRead]
    rw [show memGet m' a = memGet m a from h0, hs]

/-- A read beside a write gives what it gave before. -/
theorem memRead_memWrite_outside (m : List Host.Cell) (hm : Memory.wf m = true) {a n v b k : Nat} (h : b + k ≤ a ∨ a + n ≤ b) :
    memRead (memWrite m a n v) b k = memRead m b k :=
  memRead_congr k (fun i hi => memGet_memWrite_outside n m hm a v (b + i) (by omega))

/-- The same for a 64-bit word. -/
theorem memWord_memWrite_outside (m : List Host.Cell) (hm : Memory.wf m = true) {a n v b : Nat} (h : b + 8 ≤ a ∨ a + n ≤ b) :
    memWord (memWrite m a n v) b = memWord m b := by
  unfold memWord; rw [memRead_memWrite_outside m hm h]

/-- The same for a 64-byte unit. -/
theorem memUnit_memWrite_outside (m : List Host.Cell) (hm : Memory.wf m = true) {a n v b : Nat} (h : b + 64 ≤ a ∨ a + n ≤ b) :
    memUnit (memWrite m a n v) b = memUnit m b := by
  unfold memUnit; rw [memRead_memWrite_outside m hm h]

/-- A 64-byte unit read where it was written. -/
theorem memUnit_memWrite (m : List Host.Cell) (hm : Memory.wf m = true) (a : Nat) (u : Unit64) :
    memUnit (memWrite m a 64 u.toNat) a = u := by
  unfold memUnit
  rw [memRead_memWrite 64 m hm a]
  apply BitVec.eq_of_toNat_eq
  have := u.isLt
  have e : (256 : Nat) ^ 64 = 2 ^ 512 := by
    rw [show (256 : Nat) = 2 ^ 8 from rfl, ← pow_mul]
  rw [BitVec.toNat_ofNat, e, Nat.mod_mod, Nat.mod_eq_of_lt this]

end Sys2Proof.Machine
end

