-- ==== Sys2Proof/Laws/Access.lean ====
section
/-!
SUPPORT. Translations and accesses of the control core: what a translation that succeeds leaves, the note of a written line,
and the stores of a context taking effect.
-/

namespace Sys2Proof.Machine

open Sys2Proof

/-! ## Translations (14 R270 to R276) -/

/-- What a translation of va for job j may change, with the places K of the words that it may write. -/
def WalkChanges (K : List Nat) (s t : State) (j va : Nat) : Prop :=
  t = { s with
    hbm := t.hbm, pcreq := t.pcreq, pcNow := t.pcNow, jobs := t.jobs, dtlb := t.dtlb, cores := t.cores, memErrs := t.memErrs
    walks := t.walks } ∧
  (Memory.wf s.hbm = true → Memory.wf t.hbm = true ∧ ∀ a, (∀ k ∈ K, ¬ (k ≤ a ∧ a < k + 8)) → memGet t.hbm a = memGet s.hbm a) ∧
  (∀ q, t.job q = { s.job q with wslost := (t.job q).wslost } ∧ (q ≠ j → t.job q = s.job q)) ∧
  (∀ k, t.core k = { s.core k with utlb := (t.core k).utlb } ∧ CacheKeeps (s.core k).utlb (t.core k).utlb j va) ∧
  (∀ d, d < 2 → CacheKeeps (vget [] s.dtlb d) (vget [] t.dtlb d) j va) ∧
  (∀ w ∈ t.walks, w ∈ s.walks) ∧ (∀ e ∈ t.memErrs, e ∈ s.memErrs)

theorem WalkChanges.translates {s t : State} {j va : Nat} (h : WalkChanges (s.walkKeys j va) s t j va) : Translates s t j va :=
  ⟨h.1, fun w => (h.2.1 w).2, h.2.2⟩

theorem CacheKeeps.refl (l : List TlbEnt) (j va : Nat) : CacheKeeps l l j va := fun _ h => .inl h
theorem CacheKeeps.trans {a b c : List TlbEnt} {j va : Nat} (h : CacheKeeps a b j va) (g : CacheKeeps b c j va) : CacheKeeps a c j va :=
  fun e he => (g e he).elim (h e) .inr
theorem CacheKeeps.put (l : List TlbEnt) (cap : Nat) {j va : Nat} {e : TlbEnt} (hj : e.job = j) (hp : va / e.size = e.page) :
    CacheKeeps l (tlbPut l cap e) j va := by
  intro f hf
  unfold tlbPut at hf
  dsimp only at hf
  rcases List.mem_append.mp hf with h | h
  · left
    split at h
    · exact List.mem_of_mem_filter (List.mem_of_mem_drop h)
    · exact List.mem_of_mem_filter h
  · rw [List.mem_singleton.mp h]; exact .inr ⟨hj, hp⟩

theorem WalkChanges.refl (K : List Nat) (s : State) (j va : Nat) : WalkChanges K s s j va :=
  ⟨rfl, fun h => ⟨h, fun _ _ => rfl⟩, fun _ => ⟨rfl, fun _ => rfl⟩, fun _ => ⟨rfl, .refl _ _ _⟩, fun _ _ => .refl _ _ _, fun _ h => h, fun _ h => h⟩

theorem WalkChanges.trans {K : List Nat} {s t u : State} {j va : Nat} (h : WalkChanges K s t j va) (g : WalkChanges K t u j va) :
    WalkChanges K s u j va := by
  obtain ⟨h1, h2, h3, h4, h5, h6, h7⟩ := h
  obtain ⟨g1, g2, g3, g4, g5, g6, g7⟩ := g
  refine ⟨by rw [h1] at g1; exact g1, fun w => ⟨(g2 (h2 w).1).1, fun a ha => ((g2 (h2 w).1).2 a ha).trans ((h2 w).2 a ha)⟩, fun q => ⟨?_, fun hq => ((g3 q).2 hq).trans ((h3 q).2 hq)⟩,
    fun k => ⟨?_, (h4 k).2.trans (g4 k).2⟩, fun d hd => (h5 d hd).trans (g5 d hd), fun w hw => h6 w (g6 w hw), fun e he => h7 e (g7 e he)⟩
  · rw [(g3 q).1, (h3 q).1]
  · rw [(g4 k).1, (h4 k).1]

/-- A change of nothing but counts, a memory's words and the caches of the dies. -/
theorem State.countAccess_changes (K : List Nat) (s : State) (j va k a : Nat) : WalkChanges K s (s.countAccess k a) j va :=
  ⟨rfl, fun h => ⟨h, fun _ _ => rfl⟩, fun _ => ⟨rfl, fun _ => rfl⟩, fun _ => ⟨rfl, .refl _ _ _⟩, fun _ _ => .refl _ _ _, fun _ h => h, fun _ h => h⟩

theorem State.hbmPut_changes {K : List Nat} {s : State} {k a : Nat} (hK : s.hbmKey k a ∈ K) (j va v : Nat) :
    WalkChanges K s (s.hbmPut k a 8 v) j va :=
  ⟨rfl, fun h => ⟨memWrite_wf 8 _ _ _ h, fun b hb => memGet_memWrite_outside _ _ h _ _ _ (by have := hb _ hK; omega)⟩,
    fun _ => ⟨rfl, fun _ => rfl⟩, fun _ => ⟨rfl, .refl _ _ _⟩, fun _ _ => .refl _ _ _, fun _ h => h, fun _ h => h⟩

@[simp] theorem State.job_updJob_self (s : State) (j : Nat) (f : Job → Job) : (s.updJob j f).job j = f (s.job j) :=
  Tbl.get_set_self _ _ _ _
theorem State.job_updJob_ne (s : State) {j k : Nat} (f : Job → Job) (h : k ≠ j) : (s.updJob j f).job k = s.job k :=
  Tbl.get_set_of_ne _ _ _ h

theorem State.wslost_changes (K : List Nat) (s : State) (j va : Nat) :
    WalkChanges K s (s.updJob j (fun b => { b with wslost := b.wslost + 1 })) j va := by
  refine ⟨rfl, fun h => ⟨h, fun _ _ => rfl⟩, fun q => ?_, fun _ => ⟨rfl, .refl _ _ _⟩, fun _ _ => .refl _ _ _, fun _ h => h, fun _ h => h⟩
  by_cases hq : q = j
  · subst hq
    refine ⟨?_, fun h => absurd rfl h⟩
    simp only [State.job_updJob_self]
  · have e : (s.updJob j (fun b => { b with wslost := b.wslost + 1 })).job q = s.job q :=
      State.job_updJob_ne s _ hq
    exact ⟨by rw [e], fun _ => e⟩

/-- The word of va in the working-set record (14 R276). -/
def State.wsKey (s : State) (j va : Nat) : Nat :=
  s.hbmKey (s.job j).wstk.toNat ((s.job j).wsa.toNat * 2 ^ 21 + 8 * (va / 2 ^ 21 % 2 ^ 18))

theorem State.wsRecord_changes {K : List Nat} {s : State} {j va : Nat} (hK : s.wsKey j va ∈ K) : WalkChanges K s (s.wsRecord j va) j va := by
  unfold State.wsRecord
  dsimp only
  split
  · exact .refl K s j va
  · split
    · exact s.countAccess_changes K _ _ _ _
    · have h := (s.countAccess_changes K j va (s.job j).wstk.toNat ((s.job j).wsa.toNat * 2 ^ 21 + 8 * (va / 2 ^ 21 % 2 ^ 18))).trans
        ((State.hbmPut_changes (s := s.countAccess (s.job j).wstk.toNat ((s.job j).wsa.toNat * 2 ^ 21 + 8 * (va / 2 ^ 21 % 2 ^ 18))) hK j va (BitVec.ofNat 64 (1 + (va / 2 ^ 21) * 2)).toNat).trans
          (State.countAccess_changes K _ j va (s.job j).wstk.toNat ((s.job j).wsa.toNat * 2 ^ 21 + 8 * (va / 2 ^ 21 % 2 ^ 18))))
      split
      · exact h.trans (State.wslost_changes K _ j va)
      · exact h

theorem State.walkLeaf_changes {K : List Nat} {s : State} {j va : Nat} (k : Kind) (lv : Nat) {stack sa : Nat} (e : Word)
    (hs : s.hbmKey stack sa ∈ K) (hw : s.wsKey j va ∈ K) : WalkChanges K s (s.walkLeaf j va k lv stack sa e).1 j va := by
  unfold State.walkLeaf
  dsimp only
  split
  · exact .refl K s j va
  split
  · exact .refl K s j va
  generalize hu : (if pteAc e = true then s
    else (s.hbmPut stack sa 8 (e ||| 0x20#64).toNat).countAccess stack sa) = u
  have h1 : WalkChanges K s u j va := by
    subst hu; split
    · exact .refl K s j va
    · exact (State.hbmPut_changes hs _ _ _).trans (State.countAccess_changes K _ _ _ _ _)
  have hj : u.job j = s.job j := by subst hu; split <;> rfl
  have hk : ∀ a b, u.hbmKey a b = s.hbmKey a b := by intro a b; subst hu; split <;> rfl
  have h2 := h1.trans (State.wsRecord_changes (K := K) (s := u) (j := j) (va := va) (by unfold State.wsKey at hw ⊢; rw [hj, hk]; exact hw))
  have hk2 : (u.wsRecord j va).hbmKey stack sa ∈ K := by
    have : (u.wsRecord j va).stks = u.stks := by unfold State.wsRecord; dsimp only; split; · rfl
                                                 split; · rfl
                                                 split <;> rfl
    have e2 : (u.wsRecord j va).hbmKey stack sa = u.hbmKey stack sa := by simp only [State.hbmKey, State.stk, this]
    rw [e2, hk]; exact hs
  split
  · exact h2
  split
  · exact h2
  split
  · exact h2
  split
  · exact h2
  split
  · exact (h2.trans (State.hbmPut_changes hk2 _ _ _)).trans (State.countAccess_changes K _ _ _ _ _)
  · exact h2

theorem State.walkFrom_changes (fuel : Nat) : ∀ (K : List Nat) (s : State) (j va : Nat) (k : Kind) (lv stack base : Nat),
    (∀ x ∈ s.tableKeys va fuel lv stack base, x ∈ K) → s.wsKey j va ∈ K → WalkChanges K s (s.walkFrom j va k fuel lv stack base).1 j va := by
  induction fuel with
  | zero => intro K s _ _ _ _ _ _ _ _; exact .refl K s _ _
  | succ n ih =>
    intro K s j va k lv stack base ht hw
    have hs : s.hbmKey stack (base + 8 * lvIndex va lv) ∈ K := ht _ List.mem_cons_self
    unfold State.walkFrom
    dsimp only
    split
    · exact .refl K s j va
    · split
      · exact .refl K s j va
      · split
        · exact s.countAccess_changes K _ _ _ _
        · split
          · exact s.countAccess_changes K _ _ _ _
          · split
            · exact s.countAccess_changes K _ _ _ _
            · split
              · exact (s.countAccess_changes K j va _ _).trans (State.walkLeaf_changes k lv _ hs hw)
              · refine (s.countAccess_changes K j va _ _).trans (ih K _ j va k _ _ _ (fun x hx => ht x (List.mem_cons_of_mem _ ?_)) hw)
                have e : ∀ (n lv st b : Nat) (f : State), f.hbm = s.hbm → f.stks = s.stks → f.tableKeys va n lv st b = s.tableKeys va n lv st b := by
                  intro n
                  induction n with
                  | zero => intros; rfl
                  | succ n ih =>
                    intro lv st b f h1 h2
                    have k1 : ∀ a b, f.hbmKey a b = s.hbmKey a b := by intro a b; simp only [State.hbmKey, State.stk, h2]
                    have k2 : ∀ a b, f.hbmWord a b = s.hbmWord a b := by intro a b; simp only [State.hbmWord, h1, k1]
                    simp only [State.tableKeys, k1, k2, ih _ _ _ f h1 h2]
                rw [← e n _ _ _ (s.countAccess stack (base + 8 * lvIndex va lv)) rfl rfl]; exact hx

/-- A walk (14 R270). -/
theorem State.walk_changes (s : State) (j va : Nat) (k : Kind) : WalkChanges (s.walkKeys j va) s (s.walk j va k).1 j va := by
  unfold State.walk
  split
  · exact .refl _ s _ _
  · split
    · exact .refl _ s _ _
    · exact State.walkFrom_changes _ _ _ _ _ _ _ _ _ (fun x hx => List.mem_append_left _ hx) (List.mem_append_right _ List.mem_cons_self)

theorem tlbFind_some {l : List TlbEnt} {j va : Nat} {k : Kind} {e : TlbEnt} (h : tlbFind l j va k = some e) : e.job = j ∧ va / e.size = e.page := by
  have := List.find?_some h
  simp only [Bool.and_eq_true, beq_iff_eq] at this
  exact this.1

/-- A translation by a die (14 R272), and the entry that it answers with. -/
theorem State.dieTranslate_changes (s : State) (die j va : Nat) (k : Kind) :
    WalkChanges (s.walkKeys j va) s (s.dieTranslate die j va k).1 j va ∧
      ∀ e, (s.dieTranslate die j va k).2.1 = some e → e.job = j ∧ va / e.size = e.page := by
  unfold State.dieTranslate
  split
  · rename_i e h; exact ⟨.refl _ s _ _, fun f hf => by cases hf; exact tlbFind_some h⟩
  · dsimp only
    split
    · rename_i st sa hr
      refine ⟨(s.walk_changes j va k).trans ⟨rfl, fun h => ⟨h, fun _ _ => rfl⟩, fun _ => ⟨rfl, fun _ => rfl⟩, fun _ => ⟨rfl, .refl _ _ _⟩, fun d hd => ?_, fun _ h => h, fun _ h => h⟩,
        fun f hf => by cases hf; exact ⟨rfl, rfl⟩⟩
      dsimp only
      by_cases h : d = die
      · subst h
        rw [vget_vset_self _ _ _ _ hd]; exact .put _ _ rfl rfl
      · rw [vget_vset_of_ne _ _ _ h]; exact .refl _ _ _
    · exact ⟨s.walk_changes j va k, fun f hf => by cases hf⟩

/-- A translation by a die that does not wait. -/
theorem State.dieAccess_changes {s : State} {die j va : Nat} {k : Kind} (h : (s.dieAccess die j va k).2.2 ≠ .wait) :
    WalkChanges (s.walkKeys j va) s (s.dieAccess die j va k).1 j va ∧
      ∀ e, (s.dieAccess die j va k).2.1 = some e → e.job = j ∧ va / e.size = e.page := by
  unfold State.dieAccess at h ⊢
  split at h
  · rename_i hc; rw [if_pos hc]; exact s.dieTranslate_changes _ _ _ _
  · rename_i hc; rw [if_neg hc]
    split at h
    · exact absurd rfl h
    · rename_i hf
      rw [if_neg hf]
      dsimp only at h ⊢
      have w : WalkChanges (s.walkKeys j va) s { s with walks := s.walks.filter (fun w => !w.isFor die j va) } j va :=
        ⟨rfl, fun h => ⟨h, fun _ _ => rfl⟩, fun _ => ⟨rfl, fun _ => rfl⟩, fun _ => ⟨rfl, .refl _ _ _⟩, fun _ _ => .refl _ _ _,
          fun _ h => List.mem_of_mem_filter h, fun _ h => h⟩
      have d := State.dieTranslate_changes { s with walks := s.walks.filter (fun w => !w.isFor die j va) } die j va k
      have e : ∀ n lv st b, State.tableKeys { s with walks := s.walks.filter (fun w => !w.isFor die j va) } va n lv st b = s.tableKeys va n lv st b := by
        intro n
        induction n with
        | zero => intros; rfl
        | succ n ih => intro lv st b; simp only [State.tableKeys, ih]; rfl
      have ek : State.walkKeys { s with walks := s.walks.filter (fun w => !w.isFor die j va) } j va = s.walkKeys j va := by
        unfold State.walkKeys; dsimp only; rw [e]; rfl
      rw [ek] at d
      generalize State.dieTranslate { s with walks := s.walks.filter (fun w => !w.isFor die j va) } die j va k = r at h d ⊢
      obtain ⟨u, o, x⟩ := r
      cases x
      case wait => exact absurd rfl h
      all_goals exact ⟨w.trans d.1, d.2⟩

/-- A translation for a control core that does not wait (14 R272). -/
theorem State.coreTranslate_changes {s : State} {core j va : Nat} {k : Kind} (h : (s.coreTranslate core j va k).2 ≠ .wait) :
    WalkChanges (s.walkKeys j va) s (s.coreTranslate core j va k).1 j va := by
  unfold State.coreTranslate at h ⊢
  split at h
  · exact .refl _ s _ _
  · dsimp only at h ⊢
    split at h
    · rename_i e he
      have d := State.dieAccess_changes (s := s) (die := core / 4) (j := j) (va := va) (k := k) h
      simp only [he]
      refine d.1.trans ⟨rfl, fun h => ⟨h, fun _ _ => rfl⟩, fun _ => ⟨rfl, fun _ => rfl⟩, fun i => ?_, fun _ _ => .refl _ _ _, fun _ h => h, fun _ h => h⟩
      have hp := d.2 e he
      by_cases h : i = core
      · subst h
        by_cases h8 : i < 8
        · rw [State.updCore_self _ _ h8]; exact ⟨rfl, .put _ _ hp.1 hp.2⟩
        · have : ((s.dieAccess (i / 4) j va k).1.updCore i (fun c => { c with utlb := tlbPut c.utlb 32 e })).core i = (s.dieAccess (i / 4) j va k).1.core i := by
            simp only [State.updCore, State.core, vset_of_ge _ _ _ (Nat.le_of_not_lt h8)]
          rw [this]; exact ⟨rfl, .refl _ _ _⟩
      · rw [State.updCore_of_ne _ _ h]; exact ⟨rfl, .refl _ _ _⟩
    · rename_i he
      simp only [he]
      exact (State.dieAccess_changes h).1

theorem State.memErrDone_changes (K : List Nat) (s : State) (j key who va : Nat) : WalkChanges K s (s.memErrDone j key who) j va := by
  unfold State.memErrDone; split
  · exact ⟨rfl, fun h => ⟨h, fun _ _ => rfl⟩, fun _ => ⟨rfl, fun _ => rfl⟩, fun _ => ⟨rfl, .refl _ _ _⟩, fun _ _ => .refl _ _ _, fun _ h => h,
      fun _ h => List.mem_of_mem_filter h⟩
  · exact .refl K s j va

/-- An access that reaches its place translates without waiting, and changes nothing else; its stack takes the job's requests (05 R115,
14 R266, R267). -/
theorem State.settleAccess_at {s t : State} {r : Trans} {j va : Nat} {k : Kind} {who st sa : Nat} {again : Bool}
    (h : (s.settleAccess t r j va k who again).2 = .at st sa) :
    r = .ok st sa ∧ t.takesFor j st = true ∧ (s.settleAccess t r j va k who again).1 = t.memErrDone j va who := by
  unfold State.settleAccess at h ⊢
  cases r with
  | ok st' sa' =>
    dsimp only at h ⊢
    split at h
    · cases h
    · rename_i h1
      split at h
      · cases h
      · rename_i h2
        cases h
        rw [if_neg h1, if_neg h2]
        exact ⟨rfl, by simpa using h1, rfl⟩
  | fault c d => cases h
  | tier => cases h
  | bad st' sa' => cases h
  | wait => cases h

/-- An access of a context that reaches its place. -/
theorem State.coreReach_at {s : State} {c : Nat} {va : Word} {k : Kind} {st sa : Nat}
    (h : (s.coreReach c va k).2 = .at st sa) : Translates s (s.coreReach c va k).1 (s.ctx c).job va.toNat := by
  unfold State.coreReach at h ⊢
  obtain ⟨e, _, w⟩ := State.settleAccess_at h
  dsimp only at w ⊢
  rw [w]
  exact ((State.coreTranslate_changes (by rw [e]; simp)).trans (State.memErrDone_changes _ _ _ _ _ _)).translates

/-- A stack that an access reaches takes the requests of its job. -/
theorem State.coreReach_takes {s : State} {c : Nat} {va : Word} {k : Kind} {st sa : Nat}
    (h : (s.coreReach c va k).2 = .at st sa) : (s.coreReach c va k).1.takesFor (s.ctx c).job st = true := by
  unfold State.coreReach at h ⊢
  obtain ⟨_, g, w⟩ := State.settleAccess_at h
  dsimp only at w g ⊢
  rw [w]
  unfold State.memErrDone; split <;> exact g

@[simp] theorem Translates.ctxs {s t : State} {j va : Nat} (h : Translates s t j va) : t.ctxs = s.ctxs := by rw [h.1]
theorem Translates.ctx {s t : State} {j va : Nat} (h : Translates s t j va) (k : Nat) : t.ctx k = s.ctx k := by rw [State.ctx, State.ctx, h.ctxs]

/-! ## Written lines (05 R110, R131) -/

/-- A context after a written line. -/
theorem State.noteLine_ctx (s : State) (j va : Nat) {k : Nat} (hk : k < 64) :
    (s.noteLine j va).ctx k = if (s.ctx k).job ≠ j || (s.ctx k).st == .free then s.ctx k else (s.ctx k).note va := by
  have e : (s.noteLine j va).ctx k = vget Context.reset (s.noteLine j va).ctxs k := rfl
  rw [e, State.noteLine, vget_map, if_pos hk]
  rfl

/-- The note of a written line on a context. -/
theorem State.noteLine_notes (s : State) (j va : Nat) : OnlyNotes s (s.noteLine j va) := by
  intro k
  by_cases hk : k < 64
  · rw [State.noteLine_ctx s j va hk]
    split
    · rfl
    · rfl
  · rw [State.ctx, State.ctx, vget_of_ge _ _ _ (Nat.le_of_not_lt hk), vget_of_ge _ _ _ (Nat.le_of_not_lt hk)]

theorem OnlyNotes.refl (s : State) : OnlyNotes s s := fun k => by generalize s.ctx k = x; cases x; rfl

theorem OnlyNotes.trans {s t u : State} (h : OnlyNotes s t) (g : OnlyNotes t u) : OnlyNotes s u := fun k => by
  rw [g k]; rw [h k]

/-- A write at a place: its bytes, its count and its line. -/
theorem State.writeAt_hbm (s : State) (j va st sa n v : Nat) :
    (s.writeAt j va st sa n v).hbm = memWrite s.hbm (s.hbmKey st sa) n v := by
  unfold State.writeAt; dsimp only; split <;> rfl

theorem State.writeAt_notes (s : State) (j va st sa n v : Nat) : OnlyNotes s (s.writeAt j va st sa n v) := by
  unfold State.writeAt; dsimp only
  split
  · exact State.noteLine_notes (((s.countAccess st sa).hbmPut st sa n v).mend 1 _) j va
  · exact State.noteLine_notes ((s.countAccess st sa).hbmPut st sa n v) j va

/-- What a write at a place leaves of the rest of the machine. -/
theorem State.writeAt_frame (s : State) (j va st sa n v : Nat) :
    s.writeAt j va st sa n v = { s with
      ctxs := (s.writeAt j va st sa n v).ctxs, cores := (s.writeAt j va st sa n v).cores,
      reaches := (s.writeAt j va st sa n v).reaches, hbm := (s.writeAt j va st sa n v).hbm,
      pcreq := (s.writeAt j va st sa n v).pcreq, pcNow := (s.writeAt j va st sa n v).pcNow,
      bad := (s.writeAt j va st sa n v).bad } := by
  unfold State.writeAt; dsimp only; split <;> rfl

/-- The place of a byte depends on the stacks' masks alone. -/
theorem State.hbmKey_congr {s t : State} (h : t.stks = s.stks) (k a : Nat) : t.hbmKey k a = s.hbmKey k a := by
  simp only [State.hbmKey, State.stk, h]

theorem State.writeAt_stks (s : State) (j va st sa n v : Nat) : (s.writeAt j va st sa n v).stks = s.stks := by
  rw [State.writeAt_frame]

theorem State.writeAt_memory (s : State) (j va st sa n v : Nat) (h : Memory.wf s.hbm = true) :
    SameMemoryBut (s.hbmKey st sa) n s (s.writeAt j va st sa n v) := by
  intro b
  refine ⟨fun hb => ?_, ?_, ?_⟩
  · rw [State.writeAt_hbm]; exact memGet_memWrite_outside _ _ h _ _ _ (by omega)
  · rw [State.writeAt_frame]
  · rw [State.writeAt_frame]

/-! ## The stores of a context (05 R116) -/

theorem State.writeAt8_frame (s : State) (j va st sa v : Nat) :
    s.writeAt j va st sa 8 v = { s with
      ctxs := (s.writeAt j va st sa 8 v).ctxs, cores := (s.writeAt j va st sa 8 v).cores,
      reaches := (s.writeAt j va st sa 8 v).reaches, hbm := (s.writeAt j va st sa 8 v).hbm,
      pcreq := (s.writeAt j va st sa 8 v).pcreq, pcNow := (s.writeAt j va st sa 8 v).pcNow } := rfl

/-- Stores applied one after another. -/
theorem applyStores_spec (c : Nat) (l : List Pending) : ∀ s : State,
    let t := l.foldl (fun s p => s.applyStore c p) s
    t.hbm = l.foldl (fun m p => memWrite m (s.hbmKey p.stack p.sa) 8 p.v.toNat) s.hbm ∧
    t = { s with ctxs := t.ctxs, cores := t.cores, reaches := t.reaches, hbm := t.hbm, pcreq := t.pcreq, pcNow := t.pcNow } ∧ OnlyNotes s t := by
  induction l with
  | nil => intro s; exact ⟨rfl, rfl, .refl s⟩
  | cons p l ih =>
    intro s
    have h := ih (s.applyStore c p)
    have f : s.applyStore c p = { s with
      ctxs := (s.applyStore c p).ctxs, cores := (s.applyStore c p).cores, reaches := (s.applyStore c p).reaches,
      hbm := (s.applyStore c p).hbm, pcreq := (s.applyStore c p).pcreq, pcNow := (s.applyStore c p).pcNow } := State.writeAt8_frame _ _ _ _ _ _
    have n : OnlyNotes s (s.applyStore c p) := State.writeAt_notes _ _ _ _ _ _ _
    have b : (s.applyStore c p).hbm = memWrite s.hbm (s.hbmKey p.stack p.sa) 8 p.v.toNat := State.writeAt_hbm _ _ _ _ _ _ _
    simp only [List.foldl_cons]
    generalize s.applyStore c p = u at *
    dsimp only at h
    obtain ⟨h1, h2, h3⟩ := h
    refine ⟨?_, ?_, n.trans h3⟩
    · rw [h1, b]
      have e : ∀ k a, u.hbmKey k a = s.hbmKey k a := State.hbmKey_congr (by rw [f])
      simp only [e]
    · rw [h2, f]

/-- A drain lets every store of the context take effect, once every stack takes them. -/
theorem State.drain_spec {s t : State} {c : Nat} (hc : c < 64) (h : s.drain c = some t) : Drained s t c := by
  unfold State.drain at h
  dsimp only at h
  split at h
  · cases h
    obtain ⟨h1, h2, h3⟩ := applyStores_spec c (s.ctx c).stores s
    generalize List.foldl (fun s p => s.applyStore c p) s (s.ctx c).stores = u at *
    refine ⟨h1, ?_, fun k hk => ?_, ?_⟩
    · rw [h2]; rfl
    · rw [State.updCtx_of_ne _ _ hk]; exact h3 k
    · rw [State.updCtx_self _ _ hc, h3 c]
  · cases h

/-- A context's stores all wait for stacks that accept requests, or a drain happens. -/
theorem State.drain_some {s : State} {c : Nat} (h : ∀ p ∈ (s.ctx c).stores, s.takesFor (s.ctx c).job p.stack = true) :
    ∃ t, s.drain c = some t := by
  unfold State.drain
  dsimp only
  rw [if_pos (List.all_eq_true.mpr h)]
  exact ⟨_, rfl⟩

/-- The bytes that no store of a context covers. -/
theorem Drained.outside {s t : State} {c : Nat} (h : Drained s t c) (hm : Memory.wf s.hbm = true) (b : Nat)
    (hb : ∀ p ∈ (s.ctx c).stores, ¬ (s.hbmKey p.stack p.sa ≤ b ∧ b < s.hbmKey p.stack p.sa + 8)) :
    memGet t.hbm b = memGet s.hbm b := by
  rw [h.1]
  have key : ∀ (l : List Pending) (m : List Host.Cell), Memory.wf m = true →
      (∀ p ∈ l, ¬ (s.hbmKey p.stack p.sa ≤ b ∧ b < s.hbmKey p.stack p.sa + 8)) →
      memGet (l.foldl (fun m p => memWrite m (s.hbmKey p.stack p.sa) 8 p.v.toNat) m) b = memGet m b := by
    intro l
    induction l with
    | nil => intro m _ _; rfl
    | cons p l ih =>
      intro m hm hl
      rw [List.foldl_cons, ih _ (memWrite_wf _ _ _ _ hm) (fun q hq => hl q (List.mem_cons_of_mem _ hq))]
      exact memGet_memWrite_outside _ _ hm _ _ _ (by have := hl p List.mem_cons_self; omega)
  exact key _ _ hm hb

/-- A load with no queued store of its context to the word. -/
theorem State.loadWord_none (s : State) (c st sa : Nat) (h : ∀ p ∈ (s.ctx c).stores, ¬ (p.stack = st ∧ p.sa = sa)) :
    s.loadWord c st sa = s.hbmWord st sa := by
  unfold State.loadWord
  have : (s.ctx c).stores.reverse.find? (fun p => p.stack == st && p.sa == sa) = none := by
    rw [List.find?_eq_none]
    intro p hp
    have := h p (List.mem_reverse.mp hp)
    simpa using this
  rw [this]

/-- A load of the word that its context's newest queued store writes. -/
theorem State.loadWord_last (s : State) (c st sa : Nat) (l : List Pending) (p : Pending) (h : (s.ctx c).stores = l ++ [p])
    (h1 : p.stack = st) (h2 : p.sa = sa) : s.loadWord c st sa = p.v := by
  unfold State.loadWord
  rw [h]; simp [h1, h2]

end Sys2Proof.Machine
end

