-- ==== Sys2Proof/Laws/Barrier.lean ====
section
/-!
SUPPORT. Words of barrier objects (16 R284): a word written is read back, and the other words stay; what a generation's end
leaves in the object.
-/

namespace Sys2Proof.Machine

open Sys2Proof

@[simp] theorem State.objWord_updCell (s : State) (n : Nat) (f : Cell → Cell) (key i : Nat) : (s.updCell n f).objWord key i = s.objWord key i := rfl
@[simp] theorem State.objWord_updEntry (s : State) (d k t h : Nat) (g : BitVec 32) (f : BarEnt → BarEnt) (key i : Nat) :
    (s.updEntry d k t h g f).objWord key i = s.objWord key i := rfl
@[simp] theorem State.objWord_send (s : State) (m : Ctl) (key i : Nat) : (s.send m).objWord key i = s.objWord key i := rfl
@[simp] theorem State.updEntry_sram (s : State) (d k t h : Nat) (g : BitVec 32) (f : BarEnt → BarEnt) : (s.updEntry d k t h g f).sram = s.sram := rfl

theorem State.setObjWord_wf (s : State) (key i : Nat) (v : Word) (h : Memory.wf s.sram = true) :
    Memory.wf (s.setObjWord key i v).sram = true := memWrite_wf 8 s.sram _ _ h

theorem State.objWord_setObjWord (s : State) (h : Memory.wf s.sram = true) (key i k : Nat) (v : Word) :
    (s.setObjWord key i v).objWord key k = if k = i then v else s.objWord key k := by
  unfold State.objWord State.setObjWord
  dsimp only
  split
  · rename_i e; subst e; exact memWord_memWrite s.sram h _ v
  · rename_i e; exact memWord_memWrite_outside s.sram h (by omega)

/-- The fields of a stored slot word. -/
theorem objSlot_fields (e a : Nat) : bitsN (objSlot e a) 0 16 = e % 2 ^ 16 ∧ bitsN (objSlot e a) 16 16 = a % 2 ^ 16 := by
  unfold objSlot bitsN
  simp only [BitVec.extractLsb'_toNat, BitVec.toNat_ofNat, Nat.shiftRight_eq_div_pow]
  omega

/-- The fields of a stored head word. -/
theorem objHead_fields (g : BitVec 32) (v b : Bool) : (objHead g v b).setWidth 32 = g ∧ bitB (objHead g v b) 32 = v ∧ bitB (objHead g v b) 33 = b := by
  unfold objHead bitB
  refine ⟨?_, ?_, ?_⟩
  · apply BitVec.eq_of_getLsbD_eq
    intro i hi
    cases v <;> cases b <;> simp [hi]
  · cases v <;> cases b <;> simp
  · cases v <;> cases b <;> simp

end Sys2Proof.Machine
end

