-- ==== Sys2Proof/Laws/Channels.lean ====
section
/-!
SUPPORT. Bits of a mask, and what dequeuing leaves: only the channels and the companion records of a compute set.
-/

namespace Sys2Proof.Machine

open Sys2Proof

/-- A written bit, and every other bit. -/
theorem bitB_putBit {w : Nat} (x : BitVec w) (i k : Nat) (b : Bool) (h : k < w) :
    bitB (putBit x i b) k = if k = i then b else bitB x k := by
  unfold putBit bitB
  by_cases hk : k = i
  · subst hk
    cases b <;> simp [h]
  · cases b <;> simp [h, hk]

/-- The compute set after an update of its cell. -/
@[simp] theorem State.cset_updC (s : State) (n : Nat) (f : CSet → CSet) : (s.updC n f).cset n = f (s.cset n) := by
  unfold State.cset State.updC
  rw [State.updCell_self]

/-- The address generator's set after an update of its cell. -/
@[simp] theorem State.aset_updA (s : State) (n : Nat) (f : ASet → ASet) : (s.updA n f).aset n = f (s.aset n) := by
  unfold State.aset State.updA
  rw [State.updCell_self]

/-- The memory tile's set after an update of its cell. -/
@[simp] theorem State.mset_updM (s : State) (n : Nat) (f : MSet → MSet) : (s.updM n f).mset n = f (s.mset n) := by
  unfold State.mset State.updM
  rw [State.updCell_self]

/-- y is x but for its channels and companions. -/
def SameButChans (x y : CSet) : Prop := y = { x with iss := { x.iss with chans := y.iss.chans }, comp := y.comp }

theorem SameButChans.refl (x : CSet) : SameButChans x x := rfl

theorem SameButChans.trans {x y z : CSet} (h : SameButChans x y) (g : SameButChans y z) : SameButChans x z := by
  unfold SameButChans at *
  rw [h] at g
  exact g

/-- Taking companions changes only channels and companion records. -/
theorem CSet.takeCompanions_same (fuel : Nat) : ∀ (cs : CSet) (i : Nat), SameButChans cs (cs.takeCompanions i fuel) := by
  induction fuel with
  | zero => intro cs i; exact .refl cs
  | succ n ih =>
    intro cs i
    unfold CSet.takeCompanions
    split
    · split
      · exact .refl cs
      · split
        · exact .refl cs
        · dsimp only
          split
          · exact SameButChans.trans (y := _) (by unfold SameButChans; rfl) (ih _ i)
          · exact .refl cs
    · exact .refl cs

theorem CSet.settle_same (cs : CSet) : SameButChans cs cs.settle := by
  unfold CSet.settle
  have : ∀ (l : List Nat) (c : CSet), SameButChans c (l.foldl (fun cs i => cs.takeCompanions i 8) c) := by
    intro l
    induction l with
    | nil => exact fun c => .refl c
    | cons a l ih => exact fun c => (CSet.takeCompanions_same 8 c a).trans (ih _)
  exact this _ cs

/-- A dequeue changes only channels and companion records (04 R93). -/
theorem CSet.deq_same (cs : CSet) (i : Nat) : SameButChans cs (cs.deq i) := by
  unfold CSet.deq
  split
  · exact .refl cs
  · dsimp only
    refine SameButChans.trans ?_ (CSet.settle_same _)
    split
    · split <;> rfl
    · rfl

theorem CSet.deqs_same (l : List Nat) : ∀ cs : CSet, SameButChans cs (l.foldl CSet.deq cs) := by
  induction l with
  | nil => exact fun cs => .refl cs
  | cons a l ih => exact fun cs => (CSet.deq_same cs a).trans (ih _)

/-- Without a block binding nothing is a companion. -/
theorem CSet.takeCompanions_plain (cs : CSet) (h : ∀ k, (vget VChan.reset cs.vch k).block = false) (i fuel : Nat) :
    cs.takeCompanions i fuel = cs := by
  cases fuel with
  | zero => rfl
  | succ n =>
    unfold CSet.takeCompanions
    have hb : ∀ c, cs.boundBy c = none := by
      intro c
      unfold CSet.boundBy
      rw [Option.map_eq_none_iff, List.find?_eq_none]
      intro k _
      simp [h k]
    split
    · split
      · rfl
      · rw [hb]
    · rfl

theorem CSet.settle_plain (cs : CSet) (h : ∀ k, (vget VChan.reset cs.vch k).block = false) : cs.settle = cs := by
  unfold CSet.settle
  have : ∀ l : List Nat, l.foldl (fun (cs : CSet) i => cs.takeCompanions i 8) cs = cs := by
    intro l
    induction l with
    | nil => rfl
    | cons a l ih => rw [List.foldl_cons, CSet.takeCompanions_plain cs h, ih]
  exact this _

/-- Writing back what an element holds changes nothing. -/
theorem vset_vget {α : Type} {k : Nat} (d : α) (v : Vector α k) (n : Nat) : vset v n (vget d v n) = v := by
  apply Vector.ext
  intro j hj
  unfold vset vget
  rw [Vector.getElem_setIfInBounds]
  split
  · subst_vars
    simp [Vector.getD, hj]
  · rfl

/-- Without a block binding a dequeue removes the head and nothing else. -/
theorem CSet.deq_plain (cs : CSet) (h : ∀ k, (vget VChan.reset cs.vch k).block = false) (i : Nat) :
    cs.deq i = { cs with iss := cs.iss.deq i } := by
  unfold CSet.deq
  split
  · rename_i e
    unfold Issue.deq
    rw [e]
    rw [List.tail_nil, ← e, vset_vget]
  · rename_i p _ e
    have hb : cs.isBlocked p.tok = false := by unfold CSet.isBlocked CSet.entry; rw [h]; simp
    dsimp only
    rw [hb]
    exact CSet.settle_plain _ h

end Sys2Proof.Machine
end

