-- ==== Sys2Proof/Laws/Control.lean ====
section
/-!
SUPPORT. Small facts of the control core: the trap that is taken, the conditions of WAITC, the operations of AMO.
-/

namespace Sys2Proof.Machine

open Sys2Proof

/-- The pending trap that is taken has the least cause (05 R113). -/
theorem nextTrap_spec (x : Context) (h : x.traps ≠ []) : ∃ u, x.nextTrap = some u ∧ u ∈ x.traps ∧ ∀ v ∈ x.traps, u.cause ≤ v.cause := by
  unfold Context.nextTrap
  have key : ∀ (l : List Trap) (u : Trap), ∃ w, l.foldl (fun m t => match m with
      | none => some t
      | some u => if t.cause < u.cause then some t else m) (some u) = some w ∧ (w = u ∨ w ∈ l) ∧ w.cause ≤ u.cause ∧ ∀ v ∈ l, w.cause ≤ v.cause := by
    intro l
    induction l with
    | nil => intro u; exact ⟨u, rfl, .inl rfl, le_refl _, fun v hv => absurd hv (by simp)⟩
    | cons p l ih =>
      intro u
      simp only [List.foldl_cons]
      by_cases g : p.cause < u.cause
      · rw [if_pos g]
        obtain ⟨w, h1, h2, h3, h4⟩ := ih p
        refine ⟨w, h1, ?_, by omega, ?_⟩
        · rcases h2 with rfl | h2
          · right; simp
          · right; simp [h2]
        · intro v hv
          rcases List.mem_cons.mp hv with rfl | hv
          · exact h3
          · exact h4 v hv
      · rw [if_neg g]
        obtain ⟨w, h1, h2, h3, h4⟩ := ih u
        refine ⟨w, h1, ?_, h3, ?_⟩
        · rcases h2 with rfl | h2
          · left; rfl
          · right; simp [h2]
        · intro v hv
          rcases List.mem_cons.mp hv with rfl | hv
          · omega
          · exact h4 v hv
  rcases hx : x.traps with _ | ⟨p, l⟩
  · exact absurd hx h
  · obtain ⟨w, h1, h2, h3, h4⟩ := key l p
    refine ⟨w, h1, ?_, ?_⟩
    · rcases h2 with rfl | h2
      · simp
      · simp [h2]
    · intro v hv
      rcases List.mem_cons.mp hv with rfl | hv
      · exact h3
      · exact h4 v hv

/-- A started context whose x1 and x2 are zero has every register zero. -/
theorem start_reg (x : Context) (j : Nat) (pc : Word) (cy : Nat) (r : Reg) : (x.start j pc 0 0 cy).reg r = 0 := by
  unfold Context.reg Context.start
  split
  · rfl
  · dsimp only
    have : ∀ n < 32, vget (0:Word) (vset (vset (Vector.replicate 32 0) 1 0) 2 0) n = 0 := by decide +kernel
    exact this _ r.isLt

/-- The condition of WAITC as the statements say it. -/
theorem waitHolds_iff (k : BitVec 2) (v b : Word) (h : k ≠ 3) : waitHolds k v b = true ↔ waitCondition k v b := by
  unfold waitHolds waitCondition
  have : k = 0 ∨ k = 1 ∨ k = 2 := by revert h; revert k; decide
  rcases this with rfl | rfl | rfl
  · simp [BitVec.ule]
  · simp
  · simp

/-- The nine AMO operations (05 R121). -/
theorem amoNew_eq (o : BitVec 4) (old v : Word) (ho : o.toNat ≤ 8) : amoNew o old v = (match o.toNat with
        | 0 => v
        | 1 => old + v
        | 2 => old &&& v
        | 3 => old ||| v
        | 4 => old ^^^ v
        | 5 => if old.toInt ≤ v.toInt then old else v
        | 6 => if old.toInt ≤ v.toInt then v else old
        | 7 => if old.toNat ≤ v.toNat then old else v
        | _ => if old.toNat ≤ v.toNat then v else old) := by
  unfold amoNew
  generalize o.toNat = n at *
  interval_cases n <;> (try rfl)
  · simp only [sMin, BitVec.slt, decide_eq_true_eq]; split <;> split <;> (try rfl) <;> omega
  · simp only [sMax, BitVec.slt, decide_eq_true_eq]; split <;> split <;> (try rfl)
    · omega
    · exact BitVec.eq_of_toInt_eq (by omega)
  · simp only [BitVec.ult, decide_eq_true_eq]; split <;> split <;> (try rfl) <;> omega
  · simp only [BitVec.ult, decide_eq_true_eq]; split <;> split <;> (try rfl)
    · omega
    · exact BitVec.eq_of_toNat_eq (by omega)

/-- A line is aligned when its low six bits are zero. -/
theorem and63_iff (t : Word) : (t &&& 63#64 ≠ 0) ↔ t.toNat % 64 ≠ 0 := by
  have : (t &&& 63#64).toNat = t.toNat % 64 := by
    rw [BitVec.toNat_and]; exact Nat.and_two_pow_sub_one_eq_mod _ 6
  rw [ne_eq, ← BitVec.toNat_inj, this]; simp

/-- The value of one bit in its place. -/
theorem bitW_toNat (b : Bool) (i : Nat) (h : i < 64) : (bitW b i).toNat = b2n b * 2 ^ i := by
  unfold bitW b2n
  cases b
  · simp
  · simp [BitVec.toNat_twoPow_of_lt h]

end Sys2Proof.Machine
end

