-- ==== Sys2Proof/Laws/Decode.lean ====
section
/-!
SUPPORT. Fields of words as numbers, and the words of the instructions that the statements name.
-/

namespace Sys2Proof

/-- A joined word as a number: the high part counts 2^b. -/
theorem toNat_append_add {a b : Nat} (x : BitVec a) (y : BitVec b) : (x ++ y).toNat = x.toNat * 2 ^ b + y.toNat := by
  rw [BitVec.toNat_append, ← Nat.shiftLeft_add_eq_or_of_lt y.isLt, Nat.shiftLeft_eq]

/-- A field as a number. -/
theorem bits_toNat {w : Nat} (x : BitVec w) (i k : Nat) : (bits x i k).toNat = x.toNat / 2 ^ i % 2 ^ k := by
  simp [bits, BitVec.extractLsb'_toNat, Nat.shiftRight_eq_div_pow]

/-- The low part of a joined word. -/
theorem bits_append_low {a b : Nat} (x : BitVec a) (y : BitVec b) : bits (x ++ y) 0 b = y := by
  apply BitVec.eq_of_toNat_eq
  rw [bits_toNat, toNat_append_add, pow_zero, Nat.div_one, Nat.mul_add_mod_self_right, Nat.mod_eq_of_lt y.isLt]

/-- The major opcode of a word (02 R45). -/
theorem opcode_toNat (w : BitVec 32) : (bits w 26 6).toNat = w.toNat / 2 ^ 26 := by
  rw [bits_toNat, Nat.mod_eq_of_lt]
  have := w.isLt
  omega

/-- A field that is not zero fails its check. -/
theorem bits_ne_zero {w : Nat} (x : BitVec w) (i k : Nat) (h : x.toNat / 2 ^ i % 2 ^ k ≠ 0) : (bits x i k == 0) = false := by
  rw [beq_eq_false_iff_ne]
  intro g
  have := congrArg BitVec.toNat g
  rw [bits_toNat] at this
  exact h (by simpa using this)

theorem encode_trap (i : BitVec 16) : encode (.trap i) = some (0x38#6 ++ 0#10 ++ i) := rfl
theorem encode_amo (d a b : Reg) (s : BitVec 3) (o : BitVec 4) :
    encode (.amo d a b s o) = some (0x0E#6 ++ d ++ a ++ b ++ 0#4 ++ s ++ o) := rfl
theorem encode_csrrd (d : Reg) (i : BitVec 16) : encode (.csrrd d i) = some (0x30#6 ++ d ++ 0#5 ++ i) := rfl
theorem encode_csrwr (a : Reg) (i : BitVec 16) : encode (.csrwr a i) = some (0x31#6 ++ 0#5 ++ a ++ i) := rfl

end Sys2Proof
end

