-- ==== Sys2Proof/Laws/Events.lean ====
section
/-!
SUPPORT. What raising an event may change (21 R339 to R342): the log's bytes and what a translation of its page changes, the
job's registers, the interrupt, and the traps and notes of contexts.
-/

namespace Sys2Proof.Machine

open Sys2Proof

/-- t is s but for what an event may change. -/
def SameButLogs (s t : State) : Prop :=
  t = { s with
    hbm := t.hbm, pcreq := t.pcreq, pcNow := t.pcNow, jobs := t.jobs, dtlb := t.dtlb, ctxs := t.ctxs, cores := t.cores,
    reaches := t.reaches, memErrs := t.memErrs, msix := t.msix, misses := t.misses, walks := t.walks, stks := t.stks }

theorem SameButLogs.refl (s : State) : SameButLogs s s := rfl

theorem SameButLogs.trans {s t u : State} (h : SameButLogs s t) (g : SameButLogs t u) : SameButLogs s u := by
  unfold SameButLogs at *; rw [h] at g; exact g

theorem SameButLogs.of_changes {K : List Nat} {s t : State} {j va : Nat} (h : WalkChanges K s t j va) : SameButLogs s t := by
  unfold SameButLogs; rw [h.1]

theorem State.queueWalk_logs (s : State) (die j va : Nat) (k : Kind) : SameButLogs s (s.queueWalk die j va k) := by
  unfold State.queueWalk
  split
  · rfl
  · split <;> rfl

/-- A translation by a die, one that waits among them. -/
theorem State.dieAccess_logs (s : State) (die j va : Nat) (k : Kind) : SameButLogs s (s.dieAccess die j va k).1 := by
  by_cases h : (s.dieAccess die j va k).2.2 = .wait
  · unfold State.dieAccess at h ⊢
    split
    · exact .of_changes (s.dieTranslate_changes _ _ _ _).1
    · rename_i hc
      rw [if_neg hc] at h
      split
      · exact s.queueWalk_logs _ _ _ _
      · rename_i hf
        rw [if_neg hf] at h
        dsimp only at h ⊢
        generalize State.dieTranslate { s with walks := s.walks.filter (fun w => !w.isFor die j va) } die j va k = r at h ⊢
        obtain ⟨u, o, x⟩ := r
        cases x
        case wait => exact s.queueWalk_logs _ _ _ _
        all_goals cases h
  · exact .of_changes (State.dieAccess_changes h).1

theorem State.updJob_logs (s : State) (j : Nat) (f : Job → Job) : SameButLogs s (s.updJob j f) := rfl

theorem State.noteLine_logs (s : State) (j va : Nat) : SameButLogs s (s.noteLine j va) := rfl

theorem State.irq_logs (s : State) (j : Nat) (b : Bool) : SameButLogs s (s.irq j b) := by
  unfold State.irq
  split
  · rfl
  · split <;> rfl

theorem State.recTrap_logs (s : State) (r : EvRec) : SameButLogs s (s.recTrap r) := by
  unfold State.recTrap
  split <;> rfl

theorem State.tierMiss_logs (s : State) (j va who reach : Nat) : SameButLogs s (s.tierMiss j va who reach) := by
  unfold State.tierMiss; split <;> rfl

theorem State.memErrDone_logs (s : State) (j key who : Nat) : SameButLogs s (s.memErrDone j key who) := by
  unfold State.memErrDone; split <;> rfl

theorem State.noteError_logs (s : State) (j key src stack who : Nat) : SameButLogs s (s.noteError j key src stack who) := by
  unfold State.noteError; dsimp only; split <;> rfl

/-- The state that a record leaves, written, dropped or made to wait. -/
theorem State.logOne_logs (s : State) (j : Nat) (r : EvRec) :
    (∀ t, s.logOne j r = .ok t → SameButLogs s t) ∧ ∀ p, s.logOne j r = .error p → SameButLogs s p.1 := by
  unfold State.logOne
  dsimp only
  split
  · exact ⟨fun _ h => by cases h; exact y_drop s j r, fun _ h => by cases h⟩
  · have ht := s.dieAccess_logs 0 j ((s.job j).elbase.toNat * 4096 + 32 * ((s.job j).wridx.toNat % (s.job j).ring)) .write
    split
    · split
      · exact ⟨fun _ h => by (cases h), fun _ h => by cases h; exact .refl s⟩
      · exact ⟨fun _ h => by cases h; exact .trans ht (.trans (State.memErrDone_logs _ _ _ _) (.trans (y_put _ j _ _ _ _)
            (.trans (State.noteLine_logs _ _ _) (.trans (State.irq_logs _ _ _) (State.recTrap_logs _ _))))),
          fun _ h => by (cases h)⟩
    · refine ⟨fun _ h => by (cases h), fun _ h => by
        cases h
        dsimp only
        split
        · exact .refl s
        · exact .trans ht (State.tierMiss_logs _ _ _ _ _)⟩
    · exact ⟨fun _ h => by (cases h), fun _ h => by cases h; exact ht⟩
    · split
      · exact ⟨fun _ h => by (cases h), fun _ h => by cases h; exact .refl s⟩
      · exact ⟨fun _ h => by (cases h), fun _ h => by cases h; exact .trans ht (State.noteError_logs _ _ _ _ _ _)⟩
    · exact ⟨fun _ h => by cases h; exact .trans ht (.trans (State.updJob_logs _ j _) (y_drop _ j r)), fun _ h => by (cases h)⟩
where
  y_drop (s : State) (j : Nat) (r : EvRec) :
      SameButLogs s (((s.updJob j (fun b => { b with lost := satInc b.lost })).irq j r.irq).recTrap r) :=
    (State.updJob_logs s j _).trans ((State.irq_logs _ _ _).trans (State.recTrap_logs _ _))
  y_put (s : State) (j k sa n v : Nat) : SameButLogs s (((s.countAccess k sa).hbmPut k sa n v).updJob j (fun b => { b with wridx := b.wridx + 1 })) := rfl

theorem State.flushLog_logs (l : List EvRec) : ∀ (s : State) (j : Nat), SameButLogs s (s.flushLog j l) := by
  induction l with
  | nil => intro s j; rfl
  | cons r l ih =>
    intro s j
    rw [State.flushLog]
    split
    · rename_i e
      exact ((s.logOne_logs j r).1 _ e).trans (ih _ j)
    · rename_i e
      exact ((s.logOne_logs j r).2 _ e).trans (State.updJob_logs _ _ _)

/-- What an event may change. -/
theorem State.event_logs (s : State) (j cause ukind unit : Nat) (tp0 tp1 tp2 : Word) (reach : Option Nat) :
    SameButLogs s (s.event j cause ukind unit tp0 tp1 tp2 reach) := State.flushLog_logs _ _ _

theorem SameButLogs.cells {s t : State} (h : SameButLogs s t) : t.cells = s.cells := by rw [h]
theorem SameButLogs.cell {s t : State} (h : SameButLogs s t) (n : Nat) : t.cell n = s.cell n := by
  unfold State.cell; rw [h.cells]
theorem SameButLogs.issue {s t : State} (h : SameButLogs s t) (n kind : Nat) : t.issue n kind = s.issue n kind := by
  unfold State.issue State.cset State.aset; rw [h.cell]
@[simp] theorem State.event_cells (s : State) (j cause ukind unit : Nat) (tp0 tp1 tp2 : Word) (reach : Option Nat) :
    (s.event j cause ukind unit tp0 tp1 tp2 reach).cells = s.cells := (State.event_logs ..).cells
@[simp] theorem State.event_cell (s : State) (j cause ukind unit : Nat) (tp0 tp1 tp2 : Word) (reach : Option Nat) (n : Nat) :
    (s.event j cause ukind unit tp0 tp1 tp2 reach).cell n = s.cell n := (State.event_logs ..).cell n

end Sys2Proof.Machine
end

