-- ==== Sys2Proof/Laws/Rules.lean ====
section
/-!
SUPPORT. How a rule that is ready fires: what its body offers is what the step answers, and where a result goes.
-/

namespace Sys2Proof.Machine

open Sys2Proof

/-- What a ready rule of the compute pool does: what its body offers (08 R162, R167). -/
theorem State.fireC_ready {s : State} {r : Rule} {b1 : Bool} (h : s.RuleReady r b1) (out : NullOut) (body : State → Nat → CSet → Offer) :
    s.fireC r out b1 body = match body s s.focus.cell (s.cset s.focus.cell) with
    | .fire s' cond res => .next (s'.updC s.focus.cell (fun c => c.finish s.focus.idx r cond res))
    | o => .next (s.abortRule s.focus.cell kindC o) := by
  unfold State.fireC
  dsimp only
  rw [h.1, h.2]; rfl

/-- A register of the right number of lanes encodes. -/
theorem encodeReg_some (f m : Nat) (b : Bool) (xs : List FVal) (h : xs.length = lanesOf f) : ∃ v g, encodeReg f m b xs = some (v, g) := by
  unfold encodeReg
  rw [if_neg (by simp [h])]
  split <;> exact ⟨_, _, rfl⟩

/-- The condition of 09 R184. -/
theorem nonZero_eq (v : VReg) : v.nonZero = v.lanes.any (fun x => x ≠ .zero false ∧ x ≠ .zero true) := by
  unfold VReg.nonZero
  congr 1; funext x
  cases x <;> simp

/-- An abort for flags that are enabled as traps (04 R96). -/
theorem abortRule_traps (s : State) (m : Nat) : TrapAborts s (s.abortRule s.focus.cell kindC (.arith m)) m := by
  unfold TrapAborts State.abortRule
  dsimp only
  have e : s.issue s.focus.cell kindC = (s.cset s.focus.cell).iss := rfl
  rw [e]
  by_cases h : vget 0 (s.cset s.focus.cell).iss.runs s.focus.idx = 0
  · rw [if_pos h, if_pos (by simp [h])]; rfl
  · rw [if_neg h, if_neg (by simp [h])]; rfl

/-- A vector result fires and is delivered, or aborts the rule for a flag that is enabled as a trap. -/
theorem putVec_fires (s : State) (r : Rule) (f : Nat) (xs : List FVal) (fl : Nat → Nat → Nat)
    (hd : (s.cset s.focus.cell).vecDst r f xs.length) :
    (∃ u c h, s.putVecBy s.focus.cell (s.cset s.focus.cell) r f xs fl = .fire u c h ∧
      VectorFiresBy s (u.updC s.focus.cell (fun x => x.finish s.focus.idx r c h)) r f xs fl) ∨
    ∃ m, s.putVecBy s.focus.cell (s.cset s.focus.cell) r f xs fl = .arith m ∧
      VectorFiresBy s (s.abortRule s.focus.cell kindC (.arith m)) r f xs fl := by
  have key (d : Nat) (hl : xs.length = lanesOf d) (hf : (s.cset s.focus.cell).dstFmt r f = d) (k : VReg → State → State)
      (hk : ∀ v g, VectorGoes s (k v (s.updC s.focus.cell (fun c => c.setFlags (fl d g)))) r v (fl d g))
      (e : s.putVecBy s.focus.cell (s.cset s.focus.cell) r f xs fl =
        match encodeReg d (s.cset s.focus.cell).rmode.toNat (s.cset s.focus.cell).sat xs with
        | none => .arith 8
        | some (v, fl') =>
          if CSet.traps (s.cset s.focus.cell) (fl d fl') ≠ 0 then .arith (CSet.traps (s.cset s.focus.cell) (fl d fl'))
          else .fire (k v (s.updC s.focus.cell (fun c => c.setFlags (fl d fl')))) v.nonZero (some ⟨false, v⟩)) :
      (∃ u c h, s.putVecBy s.focus.cell (s.cset s.focus.cell) r f xs fl = .fire u c h ∧
        VectorFiresBy s (u.updC s.focus.cell (fun x => x.finish s.focus.idx r c h)) r f xs fl) ∨
      ∃ m, s.putVecBy s.focus.cell (s.cset s.focus.cell) r f xs fl = .arith m ∧
        VectorFiresBy s (s.abortRule s.focus.cell kindC (.arith m)) r f xs fl := by
    obtain ⟨v, g, h⟩ := encodeReg_some d (s.cset s.focus.cell).rmode.toNat (s.cset s.focus.cell).sat xs hl
    rw [e, h]
    dsimp only
    by_cases ht : CSet.traps (s.cset s.focus.cell) (fl d g) = 0
    · left
      rw [if_neg (by simpa using ht)]
      refine ⟨_, _, _, rfl, v, g, by rw [hf]; exact h, ?_⟩
      rw [hf, if_neg (by simpa [CSet.traps] using ht), ← nonZero_eq]
      exact ⟨_, hk v g, rfl⟩
    · right
      rw [if_pos ht]
      refine ⟨_, rfl, v, g, by rw [hf]; exact h, ?_⟩
      rw [hf, if_pos (by simpa [CSet.traps] using ht)]
      exact abortRule_traps s _
  unfold CSet.vecDst at hd
  cases hh : opdOf r.dst with
  | v i =>
    rw [hh] at hd
    exact key f hd.symm (by simp [CSet.dstFmt, hh]) (fun v s => s.updC _ (fun c => c.putReg i v)) (fun v g => by unfold VectorGoes; rw [hh])
      (by unfold State.putVecBy; rw [hh] <;> rfl)
  | ch i =>
    rw [hh] at hd
    exact key _ hd.symm (by simp [CSet.dstFmt, hh]) (fun v t => t.emit s.focus.cell kindC (s.cset s.focus.cell).iss i (v.tok r.et))
      (fun v g => by unfold VectorGoes; rw [hh]; rfl) (by unfold State.putVecBy; rw [hh] <;> rfl)
  | null =>
    rw [hh] at hd
    exact key f hd.symm (by simp [CSet.dstFmt, hh]) (fun _ s => s) (fun v g => by unfold VectorGoes; rw [hh])
      (by unfold State.putVecBy; rw [hh] <;> rfl)
  | _ => rw [hh] at hd; exact hd.elim

/-- A ready vector rule whose body delivers a vector result fires with it, or aborts for a trap. -/
theorem fire_vec {s : State} {r : Rule} {b1 : Bool} (h : s.RuleReady r b1) (body : State → Nat → CSet → Offer) (f : Nat) (xs : List FVal) (fl : Nat → Nat → Nat)
    (e : body s s.focus.cell (s.cset s.focus.cell) = s.putVecBy s.focus.cell (s.cset s.focus.cell) r f xs fl)
    (hd : (s.cset s.focus.cell).vecDst r f xs.length) :
    ∃ t, s.fireC r .vector b1 body = .next t ∧ VectorFiresBy s t r f xs fl := by
  rw [State.fireC_ready h, e]
  rcases putVec_fires s r f xs fl hd with ⟨u, c, k, h1, h2⟩ | ⟨m, h1, h2⟩
  · rw [h1]; exact ⟨_, rfl, h2⟩
  · rw [h1]; exact ⟨_, rfl, h2⟩

/-- What a ready flow rule does (09 R195). -/
theorem State.fireFlow_ready {s : State} {r : Rule} (h : s.RuleOffered r) (body : State → Nat → CSet → Offer) :
    s.fireFlow r body = match body s s.focus.cell (s.cset s.focus.cell) with
    | .fire s' cond res => .next (s'.updC s.focus.cell (fun c => c.finish s.focus.idx r cond res))
    | o => .next (s.abortRule s.focus.cell kindC o) := by
  unfold State.fireFlow
  dsimp only
  rw [show guardCore _ _ r = true from h]; rfl

/-- What a ready rule of the address generator does. -/
theorem State.fireA_ready {s : State} {r : Rule} (h : s.RuleReadyA r) (body : State → Nat → ASet → State × Offer) :
    s.fireA r body = match (body s s.focus.cell (s.aset s.focus.cell)).2 with
    | .fire s' cond _ => .next (s'.updA s.focus.cell (fun a => a.finish s.focus.idx r cond))
    | o => .next ((body s s.focus.cell (s.aset s.focus.cell)).1.abortRule s.focus.cell kindA o) := by
  unfold State.fireA
  dsimp only
  rw [show guardCore _ _ r = true from h]; rfl

/-- A ready flow rule whose body fires gives a next state. -/
theorem flow_next {s : State} {r : Rule} (h : s.RuleOffered r) (body : State → Nat → CSet → Offer) (u : State) (c c' : Bool)
    (e : body s s.focus.cell (s.cset s.focus.cell) = .fire u c none) (hc : c = c') :
    ∃ t, s.fireFlow r body = .next t ∧ RuleFires s u t r c' none := by
  subst hc
  rw [State.fireFlow_ready h, e]
  exact ⟨_, rfl, rfl⟩

/-- A data token is one whose kind is data. -/
theorem isData_eq (t : Token) : t.isData = decide (t.kind = .data) := by
  unfold Token.isData; exact beq_eq_decide ..

/-- An operand of k lanes gives k f32 lanes. -/
theorem f32_length (m : Nat) (b : Bool) (k : Nat) (a : VOpd) (h : match a with | .const _ => True | .lanes _ xs => xs.length = k) : (a.f32 m b k).1.length = k := by
  cases a <;> simp [VOpd.f32] at *
  exact h

/-- An operand gives as many f32 lanes as it has. -/
theorem count_f32 (m : Nat) (b : Bool) (a : VOpd) : (a.f32 m b a.count).1.length = a.count := by
  cases a <;> simp [VOpd.f32, VOpd.count] at *

/-- Two operands of one lane count give that many f32 lanes each. -/
theorem laneCount_f32 {a b : VOpd} {k : Nat} (h : laneCount a b = some k) (m : Nat) (t : Bool) :
    (a.f32 m t k).1.length = k ∧ (b.f32 m t k).1.length = k := by
  cases a <;> cases b <;> simp [laneCount, VOpd.f32] at * <;> omega

/-- Two updates of a cell's compute set that agree on what it holds are one. -/
theorem State.updC_congr (s : State) (n : Nat) (f g : CSet → CSet) (h : f (s.cset n) = g (s.cset n)) : s.updC n f = s.updC n g := by
  unfold State.updC State.updCell
  have e : f (s.cell n).c.act = g (s.cell n).c.act := h
  dsimp only
  rw [e]

/-- An operand of k lanes fits k. -/
theorem count_fits : ∀ {a : VOpd} {k : Nat}, (match a with | .const _ => True | .lanes _ xs => xs.length = k) →
    (match a with | .const _ => true | .lanes _ xs => xs.length == k) = true := by
  intro a k h
  cases a <;> simp at *
  exact h

/-- A scalar result fires and is delivered (09 R180, R181). -/
theorem putScalar_goes (s : State) (r : Rule) (y : Word) (c : Bool) (hd : r.scalarDst) (ht : (s.cset s.focus.cell).trapEn &&& 4 = 0) :
    ∃ u, s.putScalar s.focus.cell (s.cset s.focus.cell) r y c = .fire u c (some ⟨false, y.setWidth 512, 7, 0⟩) ∧ ScalarGoes s u r y := by
  unfold State.putScalar ScalarGoes
  dsimp only
  have hn : ∀ f, f = 0 ∨ f = 4 → CSet.traps (s.cset s.focus.cell) f = 0 := by
    rintro f (rfl | rfl)
    · simp [CSet.traps]
    · have := congrArg BitVec.toNat ht
      simpa [CSet.traps, Nat.and_comm] using this
  cases hh : opdOf r.dst with
  | s i => exact ⟨_, rfl, rfl⟩
  | ch o => exact ⟨_, rfl, rfl⟩
  | null => exact ⟨_, rfl, rfl⟩
  | k i =>
    dsimp only
    by_cases g : ((s.cset s.focus.cell).iss.counter i).bound ≠ 0 ∧ ((s.cset s.focus.cell).iss.counter i).bound.toNat ≤ (y.setWidth 32).toNat
    · have hb : ((s.cset s.focus.cell).iss.counter i).bounded (y.setWidth 32) = (((s.cset s.focus.cell).iss.counter i).bound - 1, true) := by
        unfold Counter.bounded
        rw [if_pos (by simpa [BitVec.le_def] using g)]
      simp only [hb]
      refine ⟨_, by rw [if_neg (by simp [hn 4 (.inr rfl), flagS])]; rfl, ?_⟩
      rw [if_pos g]
      apply State.updC_congr; rfl
    · have hb : ((s.cset s.focus.cell).iss.counter i).bounded (y.setWidth 32) = (y.setWidth 32, false) := by
        unfold Counter.bounded
        rw [if_neg (by simpa [BitVec.le_def] using g)]
      simp only [hb]
      refine ⟨_, by rw [if_neg (by simp [hn 0 (.inl rfl)])]; rfl, ?_⟩
      rw [if_neg g]
      apply State.updC_congr
      simp [CSet.setFlags]
  | _ =>
    exfalso
    revert hh
    unfold opdOf Rule.scalarDst at *
    dsimp only
    repeat' split
    all_goals first | (intro hh; cases hh; done) | omega

end Sys2Proof.Machine
end

