-- ==== Sys2Proof/Machine/Status.lean ====
section
/-!
DEFINITION. What a host's 64-bit read of BAR 0 returns (00 R15, R16): the registers of the physical function and of the virtual
functions, the tiles' status blocks (08 R174, 10 R223, 11 R248, 12 R259, 16 R298), the fault slots (21 R345), the published images
(17 R310) and the capability list (24 R368). Write-only and reserved fields read zero, and a read changes nothing. The host's
reads are no row of the opcode table: this is the machine's face to them.
-/

namespace Sys2Proof.Machine

open Sys2Proof

/-- A word from its fields: the low bit, the width and the value of each. -/
def packed (l : List (Nat × Nat × Nat)) : Word :=
  BitVec.ofNat 64 (l.foldl (fun a f => a + f.2.2 % 2 ^ f.2.1 * 2 ^ f.1) 0)

/-! ## The capability list (24 R368) -/

/-- Entry ids, versions and bodies: six for the physical function, two for a virtual one. -/
def State.capabilities (s : State) (fn : Nat) : List (Nat × Word) :=
  let part := (1, packed [(0, 16, 0x1100), (16, 8, Config.stepping.toNat), (24, 9, 511), (33, 6, 63), (39, 1, b2n s.bootOk)])
  let func := (6, BitVec.ofNat 64 fn)
  if fn = 0 then
    [part, (2, s.seamOpen.zeroExtend 64), (3, s.stacksIn.zeroExtend 64), (4, s.shoreIn.zeroExtend 64), (5, Config.identityKey), func]
  else [part, func]

/-- Word `off` of the list: entries lie one after another, 16 bytes each. -/
def State.capWord (s : State) (fn off : Nat) : Word :=
  let l := s.capabilities fn
  let i := off / 16
  match l[i]? with
  | none => 0
  | some e =>
    if off % 16 = 0 then packed [(0, 16, e.1), (16, 8, 1), (32, 12, if i + 1 < l.length then 16 * (i + 1) else 0)] else e.2

/-! ## Status blocks of a cell -/

/-- The 8-bit lanes of the ages of eight rules. -/
def agesFrom (x : Issue) (m : Nat) : Word := packed ((List.range 8).map (fun i => (8 * i, 5, vget 0 x.age (m + i))))

/-- The 16-bit lanes of four conflict rows. -/
def confFrom (x : Issue) (r : Nat) : Word := packed ((List.range 4).map (fun i => (16 * i, 16, (vget 0 x.conf (r + i)).toNat)))

/-- The issue state of an active set (08 R174); an address generator has no flags and no trap enables. -/
def issueStatus (x : Issue) (flags trapEn : BitVec 3) : Nat → Word
  | 0x00 => confFrom x 0
  | 0x08 => confFrom x 4
  | 0x10 => confFrom x 8
  | 0x18 => confFrom x 12
  | 0x20 => packed [(0, 8, x.preds.toNat), (16, 16, x.valid.toNat), (32, 16, x.held.toNat), (48, 16, x.fired.toNat)]
  | 0x28 => x.aborted.zeroExtend 64
  | 0x30 => agesFrom x 0
  | 0x38 => agesFrom x 8
  | 0x40 => packed [(0, 3, flags.toNat), (4, 3, trapEn.toNat)]
  | 0x48 => packed [(0, 16, vget 0 x.runs x.lrule), (16, 4, x.lrule), (20, 3, x.lreason)]
  | 0x50 => BitVec.ofNat 64 x.rounds
  | _ => 0

/-- The matrix node (10 R223). -/
def nodeStatus (x : Node) : Nat → Word
  | 0x00 =>
    packed [(0, 3, x.queue.length), (3, 1, b2n (x.running (fun o => o == opMMA || o == opMSWP)).isSome),
      (4, 1, b2n (x.running (· != opMMA)).isSome), (5, 1, b2n x.mode0), (6, 1, b2n x.mode1), (7, 1, b2n x.frozen)]
  | 0x08 => BitVec.ofNat 64 x.done
  | 0x10 => BitVec.ofNat 64 x.groups
  | 0x18 => match x.queue with | c :: _ => c.tok | [] => 0
  | _ => 0

/-- A memory-tile port (11 R248), with the sources of its high-water table; `tile` says that its tile is frozen (02 R53). -/
def portStatus (tile : Bool) (x : MPort) (sources : Nat) : Nat → Word
  | 0x00 => packed [(0, 4, x.role), (4, 1, b2n x.fe), (5, 1, b2n x.wpx), (6, 1, b2n x.ord), (7, 1, b2n (tile || x.frozen || x.stopped))]
  | 0x08 => packed [(0, 32, x.wp), (32, 5, x.wtag.toNat)]
  | 0x10 => packed [(0, 32, x.cnt.toNat), (32, 32, x.cntTarget.toNat)]
  | 0x18 => packed [(0, 32, x.dup.toNat), (32, 7, sources)]
  | 0x20 => x.accept
  | 0x28 => x.refused.zeroExtend 64
  | _ => 0

/-- The 1 KiB of status blocks of a cell. -/
def State.cellStatus (s : State) (n w : Nat) : Word :=
  if w < 0x100 then issueStatus (s.cset n).iss (s.cset n).flags (s.cset n).trapEn w
  else if w < 0x200 then issueStatus (s.aset n).iss 0 0 (w - 0x100)
  else if w < 0x300 then nodeStatus (s.cset n).node (w - 0x200)
  else
    let p := (w - 0x300) / 0x40
    portStatus (s.mset n).frozen (s.port n p) ((s.cell n).hwm.filter (fun h => h.port == p)).length (w % 0x40)

/-- The need-by block of a cell (12 R259). -/
def State.needStatus (s : State) (n : Nat) : Nat → Word
  | 0x00 => packed [(0, 24, (s.cell n).need.holdIssue), (32, 16, (s.cell n).need.holdMax)]
  | 0x08 => packed ((List.range 4).map (fun p => (16 * p, 16, vget 0 (s.cell n).need.hold p)))
  | 0x10 => (s.cell n).need.qwgt
  | 0x18 => packed ((List.range 8).flatMap (fun i =>
      let k := vget Counter.reset (s.cset n).iss.ctr i
      [(i, 1, b2n k.prog), (8 + i, 1, b2n (s.latestRecord (s.cset n).iss.reach n i 0).starving)]))
  | 0x20 => packed [(0, 32, (s.cell n).need.heldi), (32, 32, (s.cell n).need.holdrel)]
  | 0x28 => packed [(0, 32, (s.cell n).need.late)]
  | _ => 0

/-- A barrier window entry (16 R298). -/
def Window.status (e : Window) : Word :=
  if !e.valid then 0
  else
    packed [(0, 25, bitsN e.obj 6 25), (25, 1, 1), (26, 1, b2n e.inflight), (27, 1, b2n e.waitp), (28, 3, e.w.toNat),
      (32, 16, bitsN e.genk 0 16), (48, 16, match e.cur with | some v => bitsN v 0 16 | none => 0)]

/-- The barrier state of a cell (16 R298). -/
def State.barStatus (s : State) (n w : Nat) : Word :=
  if w < 0x20 then (vget Window.reset (s.cset n).win (w / 8)).status
  else if w = 0x20 then packed [(0, 1, b2n (s.cell n).brk)]
  else if w = 0x28 then packed [(0, 12, (s.cell n).bars.length)]
  else 0

/-! ## Registers of a virtual function -/

/-- The page of a queue (06 R137); the staging slot and the seeds are write-only. -/
def Queue.status (q : Queue) : Nat → Word
  | 0x40 => packed [(0, 32, q.submitted.toNat), (32, 32, q.dropped.toNat)]
  | 0x48 => packed [(0, 32, q.started.toNat), (32, 16, q.seedDrop.toNat)]
  | 0x50 => packed [(0, 2, q.prio.toNat), (2, 1, b2n q.enable), (3, 6, q.home.toNat), (9, 1, b2n q.homev)]
  | _ => 0

/-- A fault slot (21 R345). -/
def FSlot.status (f : FSlot) (w : Nat) : Word :=
  if 0x30 ≤ w && w < 0x50 then
    packed [(0, 32, (vget 0 f.kv (2 * ((w - 0x30) / 8))).toNat), (32, 32, (vget 0 f.kv (2 * ((w - 0x30) / 8) + 1)).toNat)]
  else
    match w with
    | 0x00 =>
      packed [(0, 8, f.cause.toNat), (8, 1, b2n f.isOpen), (9, 2, f.tmpl.toNat), (11, 3, f.acc.toNat), (16, 12, f.unit.toNat),
        (28, 6, f.fcode.toNat), (48, 16, f.gen.toNat)]
    | 0x08 => f.addr
    | 0x10 => f.reqno.zeroExtend 64
    | 0x18 => packed [(0, 32, f.issued.toNat), (32, 32, f.delivered.toNat)]
    | 0x20 => f.withheld.zeroExtend 64
    | 0x28 => f.wp.zeroExtend 64
    | _ => 0

/-- Slot k of a job as it reads now: ISSUED, DELIVERED and WITHHELD of an open slot follow its template, whose later requests may
still complete (21 R344, R345). -/
def State.slotNow (s : State) (j k : Nat) : FSlot :=
  let f := Tbl.get FSlot.reset (s.job j).fslots k
  let a := s.aset f.cell
  match (List.range 4).find? (fun g => (a.tmpl g).frozen.contains (f.reqId, Freeze.slot k)) with
  | some g =>
    if !f.isOpen || s.reachJob a.iss.reach ≠ j then f
    else { f with
      issued := (a.tmpl g).issued, delivered := (a.tmpl g).delivered, withheld := BitVec.ofNat 16 (a.withheld g) }
  | none => f

/-- The open fault slots (21 R341). -/
def Job.fopen (b : Job) : Word :=
  packed ((List.range 64).map (fun i => (i, 1, b2n (Tbl.get FSlot.reset b.fslots i).isOpen)))

/-- The event log, the masks and the save area (21 R341, R353; 24 R362). -/
def Job.logStatus (b : Job) : Nat → Word
  | 0x00 => packed [(12, 40, b.elbase.toNat), (52, 1, b2n b.elen)]
  | 0x08 => b.elsize.zeroExtend 64
  | 0x10 => packed [(0, 32, b.wridx.toNat), (32, 32, b.rdidx.toNat)]
  | 0x18 => packed [(0, 32, b.lost.toNat), (32, 1, b2n b.elfault)]
  | 0x20 => b.wdlim.zeroExtend 64
  | 0x30 => b.etmask.zeroExtend 64
  | 0x38 => packed [(0, 17, b.irqmask.toNat), (17, 1, b2n b.irqpend)]
  | 0x40 => b.fopen
  | 0x80 => packed [(12, 40, b.savebase.toNat)]
  | 0x88 => packed [(0, 32, b.savesize.toNat), (32, 1, b2n b.savefull)]
  | _ => 0

/-- An ingress window (17 R309). -/
def Ingress.status (g : Ingress) (w : Nat) : Word :=
  if w = 0 then packed [(6, 46, bitsN g.ibase 6 46), (52, 1, b2n g.ien)]
  else packed [(0, 16, g.ilen), (16, 4, g.iqueue), (20, 3, g.iport), (48, 16, g.idrop.toNat)]

/-- A publication window's registers and its front image (17 R310). -/
def Publish.status (g : Publish) : Nat → Word
  | 0x00 => packed [(6, 46, bitsN g.pbase 6 46), (52, 1, b2n g.pen)]
  | 0x08 => packed [(0, 10, g.plen)]
  | 0x10 => g.pver
  | 0x18 => g.version
  | _ => 0
def Publish.body (g : Publish) (off : Nat) : Word :=
  if g.units ≤ off / 64 then 0 else bits (g.front.getD (off / 64) 0) (8 * (off % 64)) 64

/-- The peer table (19 R330). -/
def Job.peerStatus (b : Job) (off : Nat) : Word :=
  match off with
  | 0x00 => b.rank.zeroExtend 64
  | 0x08 => packed [(0, 32, b.engcmd.toNat), (32, 32, b.fallbk.toNat)]
  | 0x10 => b.cabort.zeroExtend 64
  | _ => if 0x40 ≤ off && off < 0x2040 then (Tbl.get 0 b.peers ((off - 0x40) / 8)).zeroExtend 64 else 0

/-- A 64-bit read in BAR 0 of the virtual function of job j. Cells outside its partition read zero. -/
def State.vfRead (s : State) (j off : Nat) : Word :=
  let b := s.job j
  let mine (n : Nat) (w : Word) : Word := if b.holds n then w else 0
  if off < 0x1000 then s.capWord j off
  else if 0x10000 ≤ off && off < 0x20000 then (vget Queue.reset b.queues ((off - 0x10000) / 0x1000)).status (off % 0x1000)
  else if 0x80000 ≤ off && off < 0x100000 then mine ((off - 0x80000) / 0x400) (s.cellStatus ((off - 0x80000) / 0x400) (off % 0x400))
  else if 0x100000 ≤ off && off < 0x108000 then mine ((off - 0x100000) / 0x40) (s.needStatus ((off - 0x100000) / 0x40) (off % 0x40))
  else if 0x110000 ≤ off && off < 0x118000 then mine ((off - 0x110000) / 0x40) (s.barStatus ((off - 0x110000) / 0x40) (off % 0x40))
  else if off = 0x118000 then b.swthr.zeroExtend 64
  else if off = 0x118008 then packed [(0, 32, b.swevt.toNat), (32, 32, b.brkevt.toNat)]
  else if 0x120000 ≤ off && off < 0x120080 then (vget Ingress.reset b.ingress ((off - 0x120000) / 16)).status (off % 16)
  else if 0x130000 ≤ off && off < 0x130800 then (s.pubWin j ((off - 0x130000) / 0x20)).status (off % 0x20)
  else if 0x140000 ≤ off && off < 0x142040 then b.peerStatus (off - 0x140000)
  else if 0x150000 ≤ off && off < 0x150090 then b.logStatus (off - 0x150000)
  else if 0x160000 ≤ off && off < 0x162000 then (s.slotNow j ((off - 0x160000) / 0x80)).status (off % 0x80)
  else if off = 0x170000 then packed [(23, 1, b2n (b.reachTd.isSome || b.tdHeld.isSome)), (24, 1, b2n b.noreach)]
  else if off = 0x170008 then packed [(8, 1, b2n b.qtd.isSome)]
  else if 0x400000 ≤ off && off < 0x600000 then (s.pubWin j ((off - 0x400000) / 0x8000)).body (off % 0x8000)
  else 0

/-! ## Registers of the physical function -/

/-- An island (07 R157). -/
def Island.status (i : Island) : Word :=
  packed [(0, 5, i.fstep), (5, 7, i.vstep), (12, 1, b2n i.gate), (16, 5, i.fnow), (21, 1, b2n i.busy)]

/-- A partition's entry (07 R146). -/
def Job.partition (b : Job) : Word :=
  packed [(0, 5, b.x0), (5, 4, b.y0), (16, 5, b.x1), (21, 4, b.y1), (32, 1, b2n b.valid)]

/-- A stack's control block (14 R266). -/
def State.stackStatus (s : State) (k w : Nat) : Word :=
  if w = 0 then packed [(13, 27, (s.stk k).hmask.toNat), (63, 1, b2n (s.stk k).quiesce)]
  else packed [(0, 32, (s.stk k).cecnt.toNat), (32, 16, (s.stk k).uecnt.toNat), (48, 1, b2n (s.stk k).herr), (49, 1, b2n (s.stk k).idle)]

/-- Job j's registers of translation and tiers (14 R277). -/
def State.tierStatus (s : State) (j : Nat) : Nat → Word
  | 0x00 => packed [(0, 4, (s.job j).rstk.toNat), (4, 1, b2n (s.job j).ten), (16, 24, (s.job j).roota.toNat)]
  | 0x08 => packed ((List.range 3).map (fun i => (16 * i, 12, (vget 0 (s.job j).stkset i).toNat)))
  | 0x10 => (s.job j).hbase
  | 0x18 => packed [(21, 31, (s.job j).tvlo.toNat)]
  | 0x20 => packed [(21, 31, (s.job j).tvhi.toNat)]
  | 0x28 => packed [(0, 7, (s.job j).resthr.toNat), (32, 32, (s.job j).tierto.toNat)]
  | 0x30 => packed [(8, 1, b2n (s.tierBusy j))]
  | 0x38 => packed [(0, 40, s.recb j * 2 ^ 21)]
  | 0x40 => packed [(0, 40, s.resb j * 2 ^ 21)]
  | 0x48 => packed [(0, 4, (s.job j).wstk.toNat), (4, 1, b2n (s.job j).wsen), (21, 19, (s.job j).wsa.toNat)]
  | 0x50 => packed [(0, 32, (s.job j).wslost.toNat), (32, 19, s.recb j)]
  | 0x58 => packed [(0, 32, (s.job j).upcnt.toNat), (32, 32, (s.job j).dncnt.toNat)]
  | 0x60 => packed [(4, 1, b2n (s.job j).inv.isSome)]
  | 0x68 => (s.job j).rshare.zeroExtend 64
  | _ => 0

/-- SAVED: a job holds no running reach, and every saved reach has a valid image (21 R355). Its Reset column says 0, where a job that
holds no reach would read 1: it reads 0 until the job's first SAVE after a reset (DESIGN CHOICE, log entry 86). -/
def State.savedWhole (s : State) (j : Nat) : Bool :=
  (s.job j).everSaved && s.reaches.all (fun r => r.job != j || (match r.shows with
      | .running => r.st == .accepted
      | .saved => s.imageValid r.id
      | _ => true))
    && s.images.all (fun m => m.job != j || m.valid)

/-- The access counters of a stack's pseudo-channels (15 R280), 64 for each stack. -/
def State.pcStatus (s : State) (i : Nat) : Word := (Tbl.get 0 s.pcreq i).zeroExtend 64

/-- A 64-bit read in BAR 0 of the physical function. -/
def State.pfRead (s : State) (off : Nat) : Word :=
  if off < 0x1000 then s.capWord 0 off
  else if 0x70000 ≤ off && off < 0x70018 then
    (if off = 0x70000 then packed [(0, 8, s.mailOp.toNat), (9, 1, b2n (s.mailRun != 0)), (10, 1, b2n s.mailErr)]
     else if off = 0x70008 then s.nonce else s.mailBuf)
  else if !s.bootOk then 0
  else if 0x20010 ≤ off && off < 0x20400 then
    (let j := (off - 0x20000) / 16
     if off % 16 = 0 then (s.job j).partition else (s.job j).bwdrop.zeroExtend 64)
  else if off = 0x20400 then packed [(0, 4, s.partErr.toNat), (4, 6, s.partErrJob.toNat)]
  else if 0x30000 ≤ off && off < 0x31000 then (s.cell ((off - 0x30000) / 8)).island.status
  else if off = 0x31000 then packed [(0, 12, s.plim.toNat), (12, 1, b2n s.throt), (32, 12, s.pnow.toNat)]
  else if off = 0x40000 then packed [(0, 1, b2n s.strict), (8, 1, b2n s.engBusy)]
  else if off = 0x40008 then packed [(12, 28, s.poolBase.toNat), (40, 4, s.poolStk.toNat)]
  else if off = 0x40010 then packed [(0, 32, s.poolN.toNat), (32, 32, s.poolCap.toNat)]
  else if 0x40080 ≤ off && off < 0x42000 then s.tierStatus ((off - 0x40000) / 0x80) (off % 0x80)
  else if 0x50000 ≤ off && off < 0x500C0 then s.stackStatus ((off - 0x50000) / 16) (off % 16)
  else if 0x51000 ≤ off && off < 0x52800 then s.pcStatus ((off - 0x51000) / 8)
  else if 0x60010 ≤ off && off < 0x60400 then
    (let j := (off - 0x60000) / 16
     if off % 16 = 8 then packed [(0, 1, b2n (s.job j).reqsig)]
     else packed [(8, 1, b2n ((s.job j).saving || (s.job j).restoring)), (9, 1, b2n (s.savedWhole j))])
  else 0

/-- What a 64-bit read of BAR 0 of function `fn` (0 is the physical function) returns. A part whose firmware has not been verified
answers only with its capability list and at its mailbox (24 R370). -/
def State.registerRead (s : State) (fn off : Nat) : Word :=
  if fn = 0 then s.pfRead off else if s.bootOk || off < 0x1000 then s.vfRead fn off else 0

end Sys2Proof.Machine
end

