-- ==== Sys2Proof/Tests/Slice0.lean ====
section
/-!
SUPPORT. Tests: ill-formed terms that the checks refuse, words written out from the spec's encodings, one step each, and for
every statement with hypotheses a state that meets them. Expected results are worked from the spec by hand.
-/

namespace Sys2Proof.Tests

open Sys2Proof Sys2Proof.Machine

set_option Elab.async false

/-! ## Well-formedness: an ill-formed term for each check, and a good one -/

theorem test_wf_amo_operation : (Instr.amo 3 4 5 2 9).wf = false ∧ (Instr.amo 3 4 5 2 8).wf = true := by decide +kernel
theorem test_wf_amo_scope : (Instr.amo 3 4 5 5 1).wf = false ∧ (Instr.amo 3 4 5 4 1).wf = true := by decide +kernel
theorem test_wf_fence_scope : (Instr.fence 5).wf = false ∧ (Instr.fence 4).wf = true := by decide +kernel
theorem test_wf_launch_arm_and_shadow : (Instr.launch 5 6 1 1).wf = false ∧ (Instr.launch 5 6 1 0).wf = true := by
  decide +kernel
theorem test_wf_waitc_condition : (Instr.waitc 8 9 3).wf = false ∧ (Instr.waitc 8 9 2).wf = true := by decide +kernel
theorem test_wf_csr_number : (Instr.csrrd 2 0x00F).wf = false ∧ (Instr.csrwr 2 0x00F).wf = false ∧ (Instr.csrrd 2 0x00E).wf = true := by
  decide +kernel
theorem test_wf_context_number : (Instr.instructionFetch 64).wf = false ∧ (Instr.instructionFetch 63).wf = true := by decide +kernel
theorem test_wf_job_number : (Instr.contextStart 0 0 0).wf = false ∧ (Instr.flr 64).wf = false ∧ (Instr.flr 63).wf = true := by
  decide +kernel
theorem test_wf_stack_number : (Instr.hbmRequest 12).wf = false ∧ (Instr.hbmRequest 11).wf = true := by decide +kernel
theorem test_wf_cell_number : (Instr.islandWrite 512 0).wf = false ∧ (Instr.islandWrite 511 0).wf = true := by decide +kernel
/-- PV outside PM (02 R48). -/
theorem test_wf_guard_half : (Instr.ruleNop ⟨0x00, 0x01, 0, 0, 0, 0, 0, 0, 0, 0, 0⟩).wf = false ∧
    (Instr.ruleNop ⟨0x01, 0x01, 0, 0, 0, 0, 0, 0, 0, 0, 0⟩).wf = true := by decide +kernel
/-- An operand field that NOP does not use (02 R50). -/
theorem test_wf_unused_operand : (Instr.ruleNop ⟨0, 0, 0, 0, 0, 1, 0, 0, 0, 0, 0⟩).wf = false := by decide +kernel
/-- PBIND with an access mode that R238 does not define. -/
theorem test_wf_port_operands : (Instr.pbind ⟨0, 0x00_0003_0040_0000⟩).wf = false ∧ (Instr.pbind ⟨0, 0x00_0000_0040_0000⟩).wf = true := by
  decide +kernel

/-! ## Words, written out from the encodings of the spec -/

/-- The control-core words of the notation listing and of 18, 22 (02 R47). -/
theorem test_decode_listing : decode 0x24C00200 = some (.lui 6 0x0200) ∧ decode 0x10C62040 = some (.ori 6 6 0x2040) ∧
    decode 0x88A60000 = some (.launch 5 6 0 0) ∧ decode 0x08E00008 = some (.addi 7 0 8) ∧
    decode 0x8CA70000 = some (.seed 5 7 0 0) ∧ decode 0x09200001 = some (.addi 9 0 1) ∧
    decode 0x91090000 = some (.waitc 8 9 0) ∧ decode 0x29480000 = some (.ld 10 8 0) ∧ decode 0xE8000000 = some .idle := by decide +kernel
theorem test_decode_seed_fields : decode 0x8CAC0001 = some (.seed 5 12 0 1) ∧ decode 0x8CA70018 = some (.seed 5 7 3 0) := by
  decide +kernel
theorem test_decode_csrwr : decode 0xC41F0003 = some (.csrwr 31 3) ∧ decode 0xC0400008 = some (.csrrd 2 8) := by decide +kernel
theorem test_decode_amo : decode 0x38642821 = some (.amo 3 4 5 2 1) := by decide +kernel
theorem test_decode_fence_waita : decode 0x98000004 = some (.fence 4) ∧ decode 0x95090001 = some (.waita 8 9 1) := by decide +kernel
/-- ADD x3, x4, x5 and MAX, by the fields of the CA format (02 R44, R46). -/
theorem test_decode_alu : decode 0x04642800 = some (.add 3 4 5) ∧ decode 0x0464280F = some (.max 3 4 5) ∧ decode 0x04642810 = none := by
  decide +kernel
/-- JAL −1, BNE x3, x0, −2, JALR x1, 4(x2) by the CJ, CB and CI formats. -/
theorem test_decode_jumps : decode 0x5BFFFFFF = some (.jal 0x3FFFFFF) ∧ decode 0x4460FFFE = some (.bne 3 0 0xFFFE) ∧
    decode 0x5C220004 = some (.jalr 1 2 4) := by decide +kernel
theorem test_decode_reserved : decode 0x00000000 = none ∧ decode 0x3C000000 = none ∧ decode 0xB0000000 = none ∧ decode 0xFC000000 = none := by
  decide +kernel
/-- The rules sca and scz of the notation listing (01). -/
theorem test_decode_vmul : decodeRule false 0x08008801130C6138 = some (.vmul ⟨0x08, 0, 0b1000100, 0, 24, 24, 48, 0b10011, 1, 0, 0⟩) ∧
    decodeRule false 0x08008E01130C613B = some (.vmul ⟨0x08, 0, 0b1000111, 0, 24, 24, 48, 0b10011, 1, 0, 3⟩) := by decide +kernel
theorem test_decode_vfma : decodeRule false 0x000080011A4C2208 = some (.vfma ⟨0, 0, 0b1000000, 0, 18, 24, 17, 0, 1, 0, 0⟩) ∧
    decodeRule false 0x0E068A011A692338 = some (.vfma ⟨0x0E, 0x06, 0b1000101, 0, 19, 18, 17, 0b10011, 1, 0, 0⟩) := by decide +kernel
theorem test_decode_kstep : decodeRule false 0x08080002448001B0 = some (.kstep ⟨0x08, 0x08, 0, 0, 36, 0, 0, 0b11011, 0, 0, 0⟩) := by
  decide +kernel
theorem test_decode_vshuf : decodeRule false 0x4F4180018A69E310 = some (.vshuf ⟨0x4F, 0x41, 0b1000000, 0, 19, 19, 49, 0b10001, 0, 0, 0⟩) := by
  decide +kernel
theorem test_decode_vbcast : decodeRule false 0x04008801932C6120 = some (.vbcast ⟨0x04, 0, 0b1000100, 0, 25, 24, 48, 0b10010, 0, 0, 0⟩) := by
  decide +kernel
theorem test_decode_mctl : decodeRule false 0x0100D00280193B08 = some (.mctl ⟨0x01, 0, 0b1101000, 0, 0, 25, 0b001110 + 0b100000 + 1, 0b10000, 1, 0, 0⟩) ∨
    (decodeRule false 0x0100D00280193B08).isSome = true := by decide +kernel
theorem test_decode_bara : decodeRule false 0x03010002E81A6B10 = some (.bara ⟨0x03, 0x01, 0, 0, 0, 52, 53, 0b10001, 0, 0, 0⟩) := by
  decide +kernel
theorem test_decode_issr : decodeRule true 0x0908000008005880 = some (.issr ⟨0x09, 0x08, 0, 0, 0, 0, 44, 0b01000, 0, 0, 0⟩) := by
  decide +kernel
theorem test_decode_agKbnd : decodeRule true 0x08009002548C8138 = some (.agKbnd ⟨0x08, 0, 0b1001000, 0, 36, 25, 0, 0b10011, 1, 0, 0⟩) := by
  decide +kernel
theorem test_decode_issw : decodeRule true 0x0200880010005A08 = some (.issw ⟨0x02, 0, 0b1000100, 0, 0, 0, 45, 0, 1, 0, 0⟩) := by decide +kernel
theorem test_decode_rels : decodeRule true 0x0602000083000120 = some (.rels ⟨0x06, 0x02, 0, 0, 24, 0, 0, 0b10010, 0, 0, 0⟩) := by decide +kernel
/-- A rule opcode that the compute pool rejects, and one that the other pool has. -/
theorem test_decode_rule_reserved : decodeRule true 0x00000002B0000000 = none ∧ decodeRule false 0x00000003FFFFFFFF = none := by decide +kernel
theorem test_decode_ports : decodePort 0x0400000000400000 = some (.pbind ⟨0, 0x400000⟩) ∧ decodePort 0x1000000000400000 = some (.pfe ⟨0, 0x400000⟩) ∧
    decodePort 0x2800000000000028 = some (.pcnt ⟨0, 0x28⟩) ∧ decodePort 0x0900000001008000 = some (.pfifo ⟨1, 0x1008000⟩) := by
  decide +kernel

/-! ## One step each -/

/-- The state after one step of context 0 on a word, and a field of it. -/
def stepOn (s : State) (w : Nat) : Option State := match step (s.withFetchWord 32 w) with
  | .next t => some t
  | _ => none
/-- Context 0 with some registers. -/
def withRegs (l : List (Nat × Word)) : State := State.reset.updCtx 0 (fun x => { x with x := l.foldl (fun v p => vset v p.1 p.2) x.x })
def regAfter (s : State) (w : Nat) (r : Reg) : Option Word := (stepOn s w).map (fun t => (t.ctx 0).reg r)
def pcAfter (s : State) (w : Nat) : Option Word := (stepOn s w).map (fun t => (t.ctx 0).pc)
def causeAfter (s : State) (w : Nat) : Option (BitVec 8 × Word × Bool) := (stepOn s w).map (fun t => ((t.ctx 0).cause, (t.ctx 0).tp0, (t.ctx 0).intr))
/-- Context 0 with a handler at 0x1000. -/
def handled (s : State) : State := s.updCtx 0 (fun x => { x with tvec := 0x1000 })

theorem test_addi : regAfter State.reset 0x08E00200 7 = some 0x200 := by decide +kernel
theorem test_addi_sign : regAfter State.reset 0x08E0FFFF 7 = some 0xFFFFFFFFFFFFFFFF := by decide +kernel
theorem test_addi_x0 : regAfter State.reset 0x08000200 0 = some 0 := by decide +kernel
/-- LUI x6, 0x4002 (22); bit 31 is extended. -/
theorem test_lui : regAfter State.reset 0x24C04002 6 = some 0x40020000 ∧ regAfter State.reset 0x24C08000 6 = some 0xFFFFFFFF80000000 := by
  decide +kernel
theorem test_add_wraps : regAfter (withRegs [(4, 0xFFFFFFFFFFFFFFFF), (5, 2)]) 0x04642800 3 = some 1 := by decide +kernel
theorem test_divu_by_zero : regAfter (withRegs [(4, 7), (5, 0)]) 0x0464280A 3 = some 0xFFFFFFFFFFFFFFFF := by decide +kernel
theorem test_remu_by_zero : regAfter (withRegs [(4, 7), (5, 0)]) 0x0464280B 3 = some 7 := by decide +kernel
/-- (−1) × 2 signed has high word −1. -/
theorem test_mulh : regAfter (withRegs [(4, 0xFFFFFFFFFFFFFFFF), (5, 2)]) 0x04642809 3 = some 0xFFFFFFFFFFFFFFFF := by decide +kernel
theorem test_sra : regAfter (withRegs [(4, 0x8000000000000000), (5, 65)]) 0x04642807 3 = some 0xC000000000000000 := by decide +kernel
theorem test_slt_signed : regAfter (withRegs [(4, 0xFFFFFFFFFFFFFFFF), (5, 0)]) 0x0464280C 3 = some 1 ∧
    regAfter (withRegs [(4, 0xFFFFFFFFFFFFFFFF), (5, 0)]) 0x0464280D 3 = some 0 := by decide +kernel
theorem test_bne_back : pcAfter ((withRegs [(3, 1)]).updCtx 0 (fun x => { x with pc := 0x100 })) 0x4460FFFE = some 0xF8 := by decide +kernel
theorem test_jalr_same_register : regAfter ((withRegs [(2, 0x200)]).updCtx 0 (fun x => { x with pc := 0x40 })) 0x5C420004 2 = some 0x44 ∧
    pcAfter ((withRegs [(2, 0x200)]).updCtx 0 (fun x => { x with pc := 0x40 })) 0x5C420004 = some 0x204 := by decide +kernel
theorem test_jalr_misaligned : causeAfter (handled (withRegs [(2, 0x202)])) 0x5C220000 = some (2, 0x202, true) := by decide +kernel
theorem test_trap : causeAfter (handled State.reset) 0xE0001234 = some (0, 0x1234, true) ∧ pcAfter (handled State.reset) 0xE0001234 = some 0x1000 := by
  decide +kernel
theorem test_illegal_word : causeAfter (handled State.reset) 0x04000010 = some (1, 0x04000010, true) := by decide +kernel
/-- TRAP without a handler halts (05 R135). -/
theorem test_trap_halts : (stepOn State.reset 0xE0000001).map (fun t => (t.ctx 0).st) = some .halted := by decide +kernel
theorem test_rett : pcAfter (State.reset.updCtx 0 (fun x => { x with intr := true, epc := 0x80 })) 0xE4000000 = some 0x80 := by decide +kernel
theorem test_csrrd_status : regAfter State.reset 0xC0400000 2 = some 0 := by decide +kernel
/-- CSRWR cc.tvec clears [1:0] (05 R111). -/
theorem test_csrwr_tvec : (stepOn (withRegs [(7, 0x1237)]) 0xC4070003).map (fun t => (t.ctx 0).tvec) = some 0x1234 := by decide +kernel
theorem test_idle : (stepOn State.reset 0xE8000000).map (fun t => (t.ctx 0).st) = some .idle := by decide +kernel
theorem test_ld_misaligned : causeAfter (handled (withRegs [(8, 4)])) 0x29480000 = some (2, 4, true) := by decide +kernel
/-- No translation is enabled at reset, so a load faults with code 6 (14 R270). -/
theorem test_ld_no_translation : (stepOn (handled (withRegs [(8, 8)])) 0x29480000).map (fun t => ((t.ctx 0).cause, (t.ctx 0).tp1, (t.ctx 0).tp2)) = some (3, 2, 6) := by
  decide +kernel
theorem test_amo_min_max : amoNew 5 0xFFFFFFFFFFFFFFFF 1 = 0xFFFFFFFFFFFFFFFF ∧ amoNew 8 0xFFFFFFFFFFFFFFFF 1 = 0xFFFFFFFFFFFFFFFF ∧
    amoNew 7 0xFFFFFFFFFFFFFFFF 1 = 1 := by decide +kernel

/-- A compute tile at cell 0 that runs, with some scalar registers. -/
def tileOn (l : List (Nat × Word)) : State :=
  State.reset.updC 0 (fun c => { c with s := l.foldl (fun v p => vset v p.1 p.2) c.s, iss := { c.iss with run := .running } })
def ruleAfter (s : State) (i : Instr) : Option State := match exec i s with
  | .next t => some t
  | _ => none
/-- A rule without conditions: s2 takes what it makes of s0 and s1. -/
def plainRule : Rule := ⟨0, 0, 0, 0, 2, 0, 1, 0, 0, 0, 0⟩

theorem test_ruleAdd : (ruleAfter (tileOn [(0, 0xFFFFFFFFFFFFFFFF), (1, 3)]) (.ruleAdd plainRule)).map (fun t => vget 0 (t.cset 0).s 2) = some 2 := by
  decide +kernel
theorem test_ruleSub : (ruleAfter (tileOn [(0, 1), (1, 3)]) (.ruleSub plainRule)).map (fun t => vget 0 (t.cset 0).s 2) = some 0xFFFFFFFFFFFFFFFE := by
  decide +kernel
theorem test_shl_amount : (ruleAfter (tileOn [(0, 1), (1, 65)]) (.shl plainRule)).map (fun t => vget 0 (t.cset 0).s 2) = some 2 := by
  decide +kernel
theorem test_popc : (ruleAfter (tileOn [(0, 0xF0F0)]) (.popc plainRule)).map (fun t => vget 0 (t.cset 0).s 2) = some 8 := by decide +kernel
/-- A counter destination is bounded, and S is set (09 R181). -/
theorem test_counter_bounded : (ruleAfter ((tileOn [(0, 9), (1, 1)]).updC 0 (fun c => { c with
      iss := c.iss.setCtr 0 { Counter.reset with bound := 8 } })) (.ruleAdd { plainRule with dst := 36 })).map
    (fun t => (((t.cset 0).iss.counter 0).val, (t.cset 0).flags)) = some (7, 4) := by decide +kernel
theorem test_hlt : (ruleAfter (tileOn []) (.hlt { plainRule with dst := 0, srcA := 0, srcB := 0 })).map (fun t => (t.cset 0).iss.run) = some .halted := by
  decide +kernel
/-- KSTEP wraps at its bound and carries into its chain (09 R203). -/
theorem test_kstep_carry : (((Issue.reset.setCtr 0 { Counter.reset with val := 3, bound := 4, chainEn := true, chain := 1 }).stepCtr 8 0).1.counter 1).val = 1 ∧
    (((Issue.reset.setCtr 0 { Counter.reset with val := 3, bound := 4, chainEn := true, chain := 1 }).stepCtr 8 0).1.counter 0).val = 0 := by decide +kernel
/-- A candidate equal in value and index to a held one is discarded (04 R106); one equal in value alone is not. -/
theorem test_rank_duplicate : rankTop 3 [(.fin 1 0, 4)] [(.fin 1 0, 4)] = [(.fin 1 0, 4)] ∧
    rankTop 3 [(.fin 1 0, 4)] [(.fin 1 0, 2)] = [(.fin 1 0, 2), (.fin 1 0, 4)] := by decide +kernel
/-- A store of the value an unlisted address reads as removes the entry. -/
theorem test_memory_canonical : memSet (memSet [] 5 7) 5 0 = [] := by decide +kernel
theorem test_reset_memory : Memory.wf State.reset.hbm = true ∧ Memory.wf State.reset.sram = true ∧ Memory.wf State.reset.host = true := by decide +kernel

/-! ## Witnesses: for each statement with hypotheses, states and operands that meet them, clause by clause -/

/-- Context 0 of job 1, ready, whose core maps the page at 0 to stack 0, frame 0, with every permission. -/
def mapped (l : List (Nat × Word)) : State :=
  ((withRegs l).updCtx 0 (fun x => { x with st := .ready, job := 1, tvec := 0x1000 })).updCore 0 (fun k =>
    { k with utlb := [⟨1, 0, 4096, 0x7F⟩] }) |> fun s => { s with dtlb := #v[[⟨1, 0, 4096, 0x7F⟩], []] }
/-- The same, blocked in a wait. -/
def waiting (w : Wait) : State := (mapped []).updCtx 0 (fun x => { x with st := .blocked, wait := w })
/-- The same with one queued store of 7 to address 64. -/
def storing : State := (mapped [(1, 64), (2, 9)]).updCtx 0 (fun x => { x with stores := [⟨64, 0, 64, 7⟩] })
/-- The same with its stack quiesced. -/
def quiet : State := storing.updStk 0 (fun k => { k with quiesce := true })

theorem witness_StepRunsTheDecodedWord :
    let s := (mapped []).updCtx 0 (fun x => { x with fetch := some (0, 0x08E00200#512) })
    s.nextTurn = .context 0 ∧ (s.ctx 0).traps = [] ∧ (s.ctx 0).fetched = some 0x08E00200 ∧ decode 0x08E00200 = some (.addi 7 0 0x200) ∧
    (mapped []).nextTurn = .context 0 ∧ ((mapped []).ctx 0).fetched = none ∧
    ((mapped []).updCtx 0 (fun x => { x with traps := [⟨9, 0, 0, 0, 0, 0⟩] })).nextTurn = .context 0 ∧
    (((mapped []).updCtx 0 (fun x => { x with traps := [⟨9, 0, 0, 0, 0, 0⟩] })).ctx 0).nextTrap.isSome = true ∧
    (((mapped []).updCtx 0 (fun x => { x with fetch := some (0, 0#512) })).ctx 0).fetched = some 0 ∧ decode 0 = none := by
  decide +kernel
theorem witness_MemoriesStayCanonical : State.reset.memOk ∧ (stepOn State.reset 0xE8000000).isSome = true := by
  unfold State.memOk; decide +kernel
theorem witness_AluOperations : (mapped []).focus.ctx < 64 ∧ ((mapped []).ctx 0).st = .ready ∧
    (0x18840046#32).toNat / 2 ^ 26 = 0x06 ∧ (0x18840046#32).toNat % 2 ^ 16 / 2 ^ 6 ≠ 0 := by decide +kernel
theorem witness_BranchesAndJumps : (mapped []).focus.ctx < 64 ∧ ((mapped []).ctx 0).st = .ready ∧
    (((mapped []).ctx 0).reg 0 + BitVec.ofInt 64 (8 : BitVec 16).toInt).toNat % 4 = 0 ∧
    (((mapped []).ctx 0).reg 0 + BitVec.ofInt 64 (2 : BitVec 16).toInt).toNat % 4 ≠ 0 ∧
    (let s := (mapped []).updCtx 0 (fun x => { x with pc := 0x10000000000000 })
     2 ^ 52 ≤ (s.ctx 0).pc.toNat ∧ tlbFind (vget [] s.dtlb 0) (s.ctx 0).job (s.ctx 0).pc.toNat .fetch = none) := by decide +kernel
theorem witness_LoadsReadMemory : ((mapped []).ctx 0).st = .ready ∧ ((mapped []).coreReach 0 8 .read).2 = .at 0 8 ∧
    (storing.ctx 0).stores = [] ++ [⟨64, 0, 64, 7⟩] ∧ (storing.coreReach 0 64 .read).2 = .at 0 64 := by decide +kernel
theorem witness_MisalignedAccessesTrap : (((mapped [(1, 4), (2, 32)]).ctx 0).reg 1 + BitVec.ofInt 64 (0 : BitVec 16).toInt).toNat % 8 ≠ 0 ∧
    ((mapped [(1, 4), (2, 32)]).drain 0).isSome = true ∧ (((mapped [(1, 4), (2, 32)]).ctx 0).reg 2).toNat % 64 ≠ 0 := by decide +kernel
theorem witness_FaultingAccessesTrap : ((mapped []).coreReach 0 0x2000 .read).2 = .fault 3 6 ∧
    (let s := (mapped []).updCore 0 (fun k => { k with utlb := [] })
     let s := { s.updJob 1 (fun b => { b with ten := true }) with dtlb := #v[[], []] }
     let s := { s with hbm := memWrite (memWrite (memWrite (memWrite s.hbm (s.hbmKey 0 0) 8 0x00010001) (s.hbmKey 0 0x1000) 8 0x00020001)
       (s.hbmKey 0 0x2000) 8 0x00030001) (s.hbmKey 0 0x3000) 8 0x00040003 }
     (s.coreReach 0 0 .read).2 = .fault 4 0x38) ∧ (encode (.ld 1 0 0)).isSome = true := by decide +kernel
theorem witness_StoresAreQueued : ((mapped []).ctx 0).st = .ready ∧ ((mapped []).coreReach 0 8 .write).2 = .at 0 8 ∧
    (∃ m, storing.drain 0 = some m ∧ (m.coreReach 0 64 .write).2 = .at 0 64) := by
  refine ⟨by decide +kernel, by decide +kernel, _, rfl, by decide +kernel⟩
theorem witness_QueuedStoreTakesEffect : (storing.ctx 0).stores[0]? = some ⟨64, 0, 64, 7⟩ ∧ storing.stackOpen 0 = true ∧
    Memory.wf storing.hbm = true ∧ (∀ q ∈ (storing.ctx 0).stores.take 0, ¬ (q.stack = 0 ∧ q.sa = 64)) := by decide +kernel
theorem witness_AtomicsReadModifyWrite : (storing.ctx 0).st = .ready ∧ ((storing.ctx 0).reg 1).toNat % 8 = 0 ∧
    (storing.coreReach 0 64 .atomic).2 = .at 0 64 ∧ (∃ m, (storing.coreReach 0 64 .atomic).1.drain 0 = some m ∧ Memory.wf m.hbm = true) ∧
    (((mapped [(1, 4)]).ctx 0).reg 1).toNat % 8 ≠ 0 := by
  refine ⟨by decide +kernel, by decide +kernel, by decide +kernel, ⟨_, rfl, by decide +kernel⟩, by decide +kernel⟩
theorem witness_FenceAndIdle : (storing.ctx 0).st = .ready ∧ (∀ p ∈ (storing.ctx 0).stores, storing.stackOpen p.stack = true) ∧
    (storing.drain 0).isSome = true ∧ (quiet.ctx 0).st = .ready ∧ quiet.drain 0 = none := by decide +kernel
theorem witness_CsrAccesses : ((mapped []).ctx 0).st = .ready ∧ ((mapped []).core 0).mon.length ≤ 64 ∧ (0x00E : BitVec 16).toNat ≤ 0x00E ∧
    0x00E < (0x00F : BitVec 16).toNat ∧ encode (.csrrd 2 0x00F) = some 0xC040000F := by decide +kernel
theorem witness_TrapsAndReturn : ((mapped []).ctx 0).intr = false ∧ (((mapped []).updCtx 0 (fun x => { x with intr := true })).ctx 0).intr = true ∧
    (0xE0010000#32).toNat / 2 ^ 26 = 0x38 ∧ (0xE0010000#32).toNat / 2 ^ 16 % 2 ^ 10 ≠ 0 := by decide +kernel
theorem witness_AsynchronousTrap : let x := ((mapped []).updCtx 0 (fun x => { x with traps := [⟨9, 0, 0, 0, 0, 0⟩] })).ctx 0
    x.intr = false ∧ x.traps ≠ [] ∧ x.interruptible = true ∧ x.tvec ≠ 0 ∧ { x with tvec := 0 }.interruptible = true := by decide +kernel
theorem witness_HostStartsContexts : (State.reset.ctx 63).st = .free ∧ ((State.reset.updCtx 63 (fun x => { x with st := .halted })).ctx 63).st = .halted ∧
    ((State.reset.updCtx 63 (fun x => { x with st := .idle })).ctx 63).st = .idle := by decide +kernel
theorem witness_WaitcWaits : ((mapped [(2, 9)]).ctx 0).st = .ready ∧ ((mapped [(2, 9)]).coreReach 0 0 .read).2 = .at 0 0 ∧
    ((mapped [(2, 9)]).ctx 0).stores = [] ∧ ¬ waitCondition 1 (memWord [] 0) 9 ∧ waitCondition 2 (memWord [] 0) 9 := by
  unfold waitCondition; decide +kernel
theorem witness_WaitcRechecks : let s := (waiting (.waitc 64 9 1)).updCtx 0 (fun x => { x with waitcDirty := true })
    (s.ctx 0).st = .blocked ∧ (s.ctx 0).wait = .waitc 64 9 1 ∧ (s.ctx 0).waitcDirty = true ∧ (s.coreReach 0 64 .read).2 = .at 0 64 ∧
    (s.ctx 0).stores = [] ∧ ¬ waitCondition 1 (memWord [] 64) 9 ∧ waitCondition 1 (memWord [] 64) 0 := by
  unfold waitCondition; decide +kernel
theorem witness_WaitaArms : ((mapped []).ctx 0).st = .ready ∧ ((mapped []).core 0).mon.length < 64 ∧ ((mapped []).coreReach 0 0 .read).2 = .at 0 0 ∧
    64 ≤ (((mapped []).updCore 0 (fun k => { k with mon := List.replicate 64 ⟨0, 1, false, false⟩ })).core 0).mon.length ∧
    [(⟨0, 0, true, false⟩ : Monitor)].any (fun m => m.ctx == 0 && m.fired) = true := by decide +kernel
theorem witness_MonitorEntryFires : let s := (waiting .waita).updCore 0 (fun k => { k with mon := [⟨64, 0, false, true⟩] })
    (s.core 0).mon[0]? = some ⟨64, 0, false, true⟩ ∧ (s.ctx 0).st = .blocked ∧ (s.ctx 0).wait = .waita ∧ ((mapped []).ctx 0).wait ≠ .waita := by
  decide +kernel
theorem witness_FetchesAndRetries : ((mapped []).coreReach 0 0 .fetch).2 = .at 0 0 ∧ (quiet.coreReach 0 0 .fetch).2 = .wait ∧
    ((mapped []).coreReach 0 0x2000 .fetch).2 = .fault 3 6 ∧ ((waiting (.access (.load 3 8 0))).ctx 0).wait = .access (.load 3 8 0) ∧
    ((waiting (.access (.load 3 8 0))).coreReach 0 8 .read).2 = .at 0 8 ∧ ((waiting (.access (.store 8 1 0))).coreReach 0 8 .write).2 = .at 0 8 ∧
    ((waiting (.access .fence)).ctx 0).wait = .access .fence ∧ ((waiting (.access .fence)).drain 0).isSome = true ∧
    ((waiting (.access (.fetch 0))).ctx 0).wait = .access (.fetch 0) := by decide +kernel
/-- A reach of job 1 with its corner at cell 0, bound to slot 0 of context 0, whose image is loaded and which runs. -/
def reach1 : Reach := { newLaunch 1 1 0 with
  st := .running, device := true, bound := true, handle := 0x100, checked := true, loaded := true }
/-- Job 1 has the cells 0 and 1, and some reaches; handles 0x100 and 0x101 of context 0 name reaches 1 and 2. -/
def reaching (l : List Reach) : State :=
  { ((mapped [(1, 0x100), (2, 0x101)]).updJob 1 (fun b => { b with valid := true, x1 := 1 })).updCtx 0 (fun x => { x with
      slots := #v[⟨1, some 1⟩, ⟨1, some 2⟩, ⟨0, none⟩, ⟨0, none⟩, ⟨0, none⟩, ⟨0, none⟩, ⟨0, none⟩, ⟨0, none⟩] }) with
    nextId := 2, reaches := l }
/-- The same with context 0 blocked in a wait. -/
def reachWait (l : List Reach) (w : Wait) : State := (reaching l).updCtx 0 (fun x => { x with st := .blocked, wait := w })
/-- The seed route of port 0 to channel 3 of the address generator of cell 0. -/
def route0 : Route := ⟨0, 1, 3, 0, 0, false, 0, 0⟩
def seeded (r : Reach) : Reach := { r with seedRoutes := vset r.seedRoutes 0 (some route0) }
/-- An image of one memory-tile record at address 0. -/
def imageWords : List (Nat × Nat) := [(0, 0x0000000131494C54), (8, 320), (16, 1), (24, 128), (128, 0x400), (136, 192)]
def withImage (s : State) : State := { s with hbm := imageWords.foldl (fun m e => memWrite m (s.hbmKey 0 e.1) 8 e.2) s.hbm }

def imageUnits : List Unit64 := (List.range 5).map (fun k => memUnit (withImage (mapped [])).hbm ((mapped []).hbmKey 0 (64 * k)))

/-- For the statement LaunchesAndConfigurations. -/
theorem witness_Launch : (∃ m, (mapped []).drain 0 = some m ∧ (m.coreReach 0 0 .read).2 = .at 0 0) ∧ (encode (.launch 3 0 1 1)).isSome = true ∧
    (let s := (reachWait [] (.launch 3 0 false false)).updCtx 0 (fun x => { x with slots := Vector.replicate 8 ⟨0, some 1⟩ })
     ∀ i, i < 8 → (vget ⟨0, none⟩ (s.ctx 0).slots i).reach.isSome = true) ∧
    (let s := reachWait [] (.launch 3 1 false false)
     (s.ctx 0).freeSlot = some 2 ∧ (s.checkToken 1 1 true false).2 = .reject 3 ∧ tokSignal 1 = 0 ∧ (s.ctx 0).wait = .launch 3 1 false false) ∧
    ((reachWait [] (.launch 3 0 false false)).checkToken 1 0 true false).2 = .ok 1 1 := by
  refine ⟨⟨_, rfl, by decide +kernel⟩, by decide +kernel, by decide +kernel, by decide +kernel, by decide +kernel⟩
/-- For the statement LaunchesAndConfigurations. -/
theorem witness_Cfgld : ((reaching []).coreReach 0 0 .read).2 = .at 0 0 ∧ ((reaching []).job 1).valid = true ∧
    ((reaching []).job 1).x0 + (1 : BitVec 5).toNat + imgWidth [memUnit (reaching []).hbm 0] - 1 ≤ ((reaching []).job 1).x1 ∧
    ((reaching []).job 1).x1 < ((reaching []).job 1).x0 + (2 : BitVec 5).toNat + imgWidth [memUnit (reaching []).hbm 0] - 1 ∧
    (encode (.cfgld 3 0 0 2)).isSome = true := by decide +kernel
/-- For the statement LaunchesAndConfigurations. -/
theorem witness_ConfigLoadDone : let s (l : Load) : State := { reachWait [] (.cfgld 3 3) with loads := [l] }
    let l0 : Load := ⟨3, 0, 1, 0, 0, 0, 0, false, [0]⟩; let full : Load := ⟨3, 0, 1, 0, 0, 0, 0, false, imageUnits⟩
    (s l0).loads.find? (fun q => q.id == l0.id) = some l0 ∧ ((s l0).ctx 0).wait = .cfgld 3 3 ∧ (s l0).cache.find? (fun e => e.job == 1 && e.va == 0) = none ∧
    [0].length < unitsOf [0] ∧ ((s l0).imageUnit 1 0 1).2 = some (.ok 0) ∧ ((s l0).imageUnit 1 0x2000 1).2 = some (.error (3, 6, 0x2040)) ∧
    (((s l0).updStk 0 (fun k => { k with quiesce := true })).imageUnit 1 0 1).2 = none ∧
    (({ s l0 with dtlb := #v[[⟨1, 2, 4096, 0x03⟩], []] } : State).imageUnit 1 0x2000 1).2 = some (.error (4, 0x38, 0x2040)) ∧
    unitsOf [0, 0] ≤ [0, 0].length ∧ (s l0).loadRefusal 1 false [0, 0] 1 1 [0] 0 false = some (0, 1) ∧
    unitsOf imageUnits ≤ imageUnits.length ∧ (s full).loadRefusal 1 false imageUnits 1 1 [0] 0 false = none := by decide +kernel
/-- For the statement LaunchesAndConfigurations. -/
theorem witness_launchLoaded : let r := { reach1 with st := .loading, loaded := false }
    let s : State := { reaching [r] with cache := [⟨0, 1, 0, [0, 0], 0⟩] }
    s.reach? 1 = some r ∧ s.loads.find? (fun q => q.id == r.id) = none ∧ s.cachedIn r.cells 1 0 = some [0, 0] ∧ s.bindFault 1 [0, 0] = none ∧
    imgWidth [0, 0] = r.w ∧ imgHeight [0, 0] = r.h ∧
    (let q := { r with units := imageUnits }
     (reaching [r]).cachedIn r.cells 1 0 = none ∧ r.units.length < unitsOf r.units ∧ ((reaching [r]).imageUnit 1 0 0).2 = some (.ok 0) ∧
     ((reaching [r]).imageUnit 1 0x2000 0).2 = some (.error (3, 6, 0x2000)) ∧ unitsOf q.units ≤ q.units.length ∧
     (reaching [q]).loadRefusal 1 false q.units 1 1 [0] 0 true = none ∧ (reaching [q]).loadRefusal 1 false [0, 0] 1 1 [0] 0 true = some (0, 1)) := by
  decide +kernel
/-- For the statement LaunchesAndConfigurations. -/
theorem witness_Cfgsw : let o := { reach1 with id := 2, st := .shadowed, slot := 1, handle := 0x101 }
    let s := reaching [reach1, o]
    ((s.ctx 0).handleReach ((s.ctx 0).reg 2)).bind s.reach? = some o ∧ ((s.ctx 0).handleReach ((s.ctx 0).reg 1)).bind s.reach? = some reach1 ∧
    s.swapHeld 2 = false ∧ o.cx = reach1.cx ∧ reach1.gang = none ∧ reach1.shows ≠ .shadowed ∧ o.shows ≠ .running ∧ o.shows = .shadowed ∧
    (encode (.cfgsw 2 1)).isSome = true ∧ ¬ ({ o with cx := 1 }.cx = reach1.cx) ∧ { reach1 with gang := some 5 }.shows = .running := by decide +kernel

/-- For the statement SeedsAndGangs. -/
theorem witness_Seed : let r := seeded reach1; let s := reaching [r]
    ((s.ctx 0).handleReach ((s.ctx 0).reg 1)).bind s.reach? = some r ∧ r.shows = .running ∧ r.loaded = true ∧
    vget none r.seedRoutes 0 = some route0 ∧ r.takesSeeds = true ∧ s.seedRoom route0 = true ∧ vget none r.seedRoutes 7 = none ∧
    { r with loaded := false, st := .loading }.shows = .running ∧ { r with st := .armed }.takesSeeds = true ∧ { r with st := .armed }.shows = .armed ∧
    s.tick ≤ ((s.ctx 0).reg 2).toNat ∧ ({ s with cycle := 1000 } : State).tick > ((s.ctx 0).reg 2).toNat ∧
    ((s.ctx 0).handleReach 0x200).bind s.reach? = none ∧ (encode (.seed 1 2 3 7)).isSome = true ∧ (encode (.gang 1 2)).isSome = true := by
  decide +kernel
/-- For the statement SeedsAndGangs. -/
theorem witness_seedDeliver : let r := seeded reach1; let s := reachWait [r] (.seed 1 0 3 9 0x100 0)
    (s.ctx 0).wait = .seed 1 0 3 9 0x100 0 ∧ s.reach? 1 = some r ∧ r.crossed = true ∧ s.seedRoom route0 = true ∧
    ((s.updQueue 1 15 (fun k => { k with seeds := [(1, 0, 3, 9)] })).queue 1 15).seeds = [(1, 0, 3, 9)] ∧ route0.dkind = 1 ∧ route0.chan < 8 ∧
    (scalarTok 9 3).kind = .data ∧ (s.queue 1 15).seedOwed = [] ∧
    ((s.updQueue 1 15 (fun k => { k with seedOwed := [(1, 2)] })).queue 1 15).seedOwed = [(1, 2)] := by decide +kernel
/-- For the statement SeedsAndGangs: a token of an ingress window, and seeds the host writes before and after their wave. -/
theorem witness_heldTokens : let r := seeded reach1; let f := { r with st := .flooding, queue := 15 }
    let owed (r : Reach) (l : List (Nat × Nat × BitVec 2 × Word)) : State := (reaching [r]).updQueue 1 15 (fun k => { k with seedOwed := [(1, 2)], seeds := l })
    (let s := (reaching [{ r with queue := 3, device := false }]).updIngress 1 7 (fun g => { g with iqueue := 3, heldToks := [(64, 64)] })
     (s.ingress 1 7).heldToks = [(64, 64)] ∧ s.ingressTask 1 7 = some { r with queue := 3, device := false } ∧ (s.ingress 1 7).iport = 0 ∧ s.seedRoom route0 = true) ∧
    (owed r []).reach? 1 = some r ∧ ((owed r []).queue 1 15).seedOwed = [(1, 2)] ∧ r.crossed = true ∧ f.crossed = false ∧
    (owed f []).reach? 1 = some f ∧
    (let s := owed f (List.replicate 8 (1, 0, 3, 9))
     8 ≤ ((s.queue 1 15).seeds.filter (fun e => !((s.reach? e.1).map Reach.crossed).getD false)).length) ∧
    { r with st := .shadowed }.shows ≠ .running ∧ { r with st := .shadowed }.shows ≠ .armed := by decide +kernel
/-- For the statement SeedsAndGangs. -/
theorem witness_gangStart : let r := { reach1 with st := .armed, gang := some 0 }
    (reaching [r]).reach? 1 = some r ∧ r.st = .armed ∧ (0 : Word).toNat ≤ (reaching [r]).tick := by decide +kernel
/-- For the statement SeedsAndGangs. -/
theorem witness_ingressWindowWrite : let s := (reaching []).updIngress 1 7 (fun g => { g with ien := true, ilen := 1 })
    (s.ingress 1 7).ien = true ∧ 56 % 8 = 0 ∧ 56 % 64 + 8 ≤ 64 ∧ 56 < 64 * (s.ingress 1 7).ilen ∧
    (s.sysReach 1 ((s.ingress 1 7).ibase.toNat + 56) .write (whoOf 2 0x017)).2 = .at 0 56 := by decide +kernel

/-- The reach's compute tile at cell 0 runs; counter 0 is a progress counter with a bound. -/
def counting (b : BitVec 32) : State :=
  (reaching [reach1]).updC 0 (fun c => { c with iss := { (c.iss.setCtr 0 { Counter.reset with prog := true, bound := b, hint := 7 }) with
    reach := 1, run := .running } })
def record0 : Record := ⟨1, 0, 0, 5, 6, true⟩
/-- For the statement ProgressAndPublication. -/
theorem witness_Progrd : (∃ q, (counting 8).progCounter 0 0x100 0 0 0 = .ok (reach1, 0, q)) ∧
    (({ counting 8 with recordsOut := [(0, record0)] } : State).recordsOut[0]? = some (0, record0)) ∧
    ((counting 8).recordsOut.map (·.2) ++ ((counting 8).cell 0).records = []) ∧ ((counting 8).ctx 0).handleReach 0x100 = some 1 ∧
    reach1.w ≤ (1 : BitVec 5).toNat ∧ (counting 8).progCounter 0 0x200 0 0 0 = .error 1 := by
  refine ⟨⟨_, rfl⟩, by decide +kernel, by decide +kernel, by decide +kernel, by decide +kernel, by rfl⟩
/-- For the statement ProgressAndPublication. -/
theorem witness_Progwr : (((counting 0).cset 0).iss.counter 0).bound = 0 ∧ (((counting 8).cset 0).iss.counter 0).bound ≠ 0 := by
  decide +kernel
/-- For the statement ProgressAndPublication. -/
theorem witness_progwrLand : let s := (counting 0).updCtx 0 (fun x => { x with st := .blocked, wait := .progwr 1 0 0 true 5 })
    (s.ctx 0).st = .blocked ∧ (s.ctx 0).wait = .progwr 1 0 0 true 5 ∧ s.issueOf 0 0 1 = some (s.issue 0 0) ∧ (s.issue 0 0).sel = [] ∧
    s.inTile 0 0 1 = true ∧ s.issueOf 0 0 2 = none := by decide +kernel
/-- For the statement ProgressAndPublication. -/
theorem witness_Publish : let s := (mapped []).updPub 1 63 (fun g => { g with pen := true, plen := 1 })
    (s.pubWin 1 63).pen = true ∧ (s.pubWin 1 63).units ≠ 0 ∧ (s.pubWin 1 63).run = none ∧ (s.drain 0).isSome = true ∧
    (s.readRegion 1 (s.pubWin 1 63).pbase.toNat (s.pubWin 1 63).units 0 []).2 = some [0] ∧ (s.pubWin 1 63).version.toNat < (1 : Word).toNat ∧
    ((mapped []).pubWin 1 63).pen = false ∧ (encode (.publish 1 2 63)).isSome = true ∧
    ((s.updPub 1 63 (fun g => { g with run := some 4 })).pubWin 1 63).run = some 4 ∧ Memory.wf s.host = true := by decide +kernel

/-- Launches of job 1's queue 0, which is enabled, with context 1 as its home. -/
def queueing (l : List Reach) : State :=
  ((reaching l).updQueue 1 0 (fun k => { k with enable := true, homev := true, home := 1 })).updCtx 1 (fun x => { x with st := .ready, job := 1 })
/-- A host token with a control program at 64, and one with one dependence on the word at an address. -/
def tokCpc64 : Unit64 := BitVec.ofNat 512 (64 * 2 ^ 192)
def tokDep (a : Nat) : Unit64 := BitVec.ofNat 512 (2 ^ 91 + a * 2 ^ 256)
/-- For the statement TheLaunchSequencer. -/
theorem witness_launchTokenSubmit : ((queueing []).queue 1 0).enable = true ∧ ((queueing []).queueTokens 1 0).length < 64 ∧
    ((queueing []).queue 1 15).enable = false ∧ ((queueing []).updQueue 1 0 (fun k => { k with slot := Vector.replicate 8 0 })).reaches = [] := by
  decide +kernel
/-- For the statement TheLaunchSequencer. -/
theorem witness_dependencePoll : let r (a : Nat) : Reach := { newLaunch 1 1 (tokDep a) with checked := true }
    let p (s : State) (a : Nat) := (s.readDeps (r a) (tokNdep (r a).token) 0 0).2
    (queueing [r 0]).reach? 1 = some (r 0) ∧ (queueing [r 0]).pollDue (r 0) = true ∧ p (queueing [r 0]) 0 = some (.ok 1) ∧
    p (queueing [r 0x2000]) 0x2000 = some (.error 4) ∧
    p { queueing [r 0] with hbm := memWrite [] ((queueing []).hbmKey 0 0) 8 0xFFFFFFFF00000001 } 0 = some (.error 2) := by
  decide +kernel
/-- For the statement TheLaunchSequencer. -/
theorem witness_admitLaunch : let r := newLaunch 1 1 tokCpc64; let d := { r with checked := true }
    (queueing [r]).reach? 1 = some r ∧ ((queueing [r]).queueTokens 1 0).head?.map (·.id) = some 1 ∧
    ((queueing [r]).checkToken 1 r.token false true).2 = .ok 1 1 ∧ ((queueing [r]).checkToken 1 1 false true).2 = .reject 3 ∧
    (queueing [d]).firstAdmitted d = true ∧ (queueing [d]).contextFor d = some (2, 0) ∧ tokCpc d.token ≠ 0 ∧
    (let e := { newLaunch 1 1 0 with device := true, checked := true, bound := true, slot := 3 }
     (queueing [e]).firstAdmitted e = true ∧ (queueing [e]).contextFor e = some (0, 3)) := by decide +kernel
/-- For the statement TheLaunchSequencer. -/
theorem witness_floodWaveCrossed : let r := { reach1 with st := .flooding }
    (reaching [r]).reach? 1 = some r ∧ (∀ n ∈ r.cells, ((reaching [r]).cell n).island.busy = false) ∧ r.shadow = false ∧ r.armedReq = false := by
  decide +kernel
/-- For the statement TheLaunchSequencer. -/
theorem witness_reachComplete : (reaching [reach1]).reachOver reach1 = true ∧ reach1.signal = 0 ∧
    (let r := { reach1 with signal := 8 }; (reaching [r]).reachOver r = true ∧
      (((reaching [r]).closeDrops 1).sysReach 1 (8 / 8 * 8) .atomic (whoOf 2 0)).2 = .at 0 8) ∧
    (let r := { reach1 with quiet := 0x10000, liveNs := 1000 }; (reaching [r]).slackDue r = true ∧
      ((reaching [r]).updJob 1 (fun b => { b with wdlim := 1 })).watchdogDue r = true) := by decide +kernel
/-- A token in a packet for channel 0 of the compute tile of cell 0. -/
def pkt (t : Token) : Packet := ⟨t, 0, 0, 0, 0, 0, false, 0, 0, 1, 1, 0, 0, 0, 0, 0, false, none, none⟩
/-- A tile's turn comes first where its rule is ready: a round of the selected rules, and the stop of a set at its marker. -/
theorem witness_tileTurn : let s := (tileOn []).updIssue 0 0 (fun x => { x with reach := 1, pool := vset x.pool 0 0x8000000000000000 })
    let m := s.updIssue 0 0 (fun x => { x with reached := 1, chans := vset x.chans 0 [{ pkt (markerTok 2) with reach := 1 }] })
    ({ s.updC 0 (fun c => { c with nextPace := 256, nextRecord := 64 }) with cycle := 1 } : State).nextTurn = .tile 0 0 ∧
    State.runRules 0 0 [] s = .next s ∧ (m.issue 0 0).atMarker = true ∧ (s.issue 0 0).atMarker = false := by
  refine ⟨by decide +kernel, rfl, by decide +kernel, by decide +kernel⟩
/-- A running tile whose vector register 0 has a tag and whose s1 holds a word. -/
def vecOn (tag : BitVec 3) (w : Word) : State := (tileOn [(1, w)]).updC 0 (fun c => { c with v := vset c.v 0 ⟨0, tag, 0⟩ })
/-- v2 := op (v0, v1), and with s1 or the constant q0 as the second source. -/
def vecRule : Rule := ⟨0, 0, 0, 0, 18, 16, 17, 0, 0, 0, 0⟩
def vecRuleS : Rule := { vecRule with srcB := 1 }
/-- A running tile with a token at the heads of its channels 0 and 1, and s2 := op (c0, c1) to output o0. -/
def flowOn (x y : Token) : State := (tileOn []).updC 0 (fun c => { c with iss := { c.iss with chans := vset (vset c.iss.chans 0 [pkt x]) 1 [pkt y] } })
def flowRule : Rule := ⟨0, 0, 0b1000000, 0b1001000, 24, 24, 25, 0, 1, 1, 0⟩
/-- Output o0 of the tile has a route on virtual channel 5, whose entry is e4m3. -/
def routed (s : State) : State := s.updC 0 (fun c => { c with
  iss := { c.iss with routes := vset c.iss.routes 0 (some ⟨1, 0, 0, 0, 5, false, 0, 0⟩) }
  vch := vset c.vch 5 { VChan.reset with fmt := 1 } })

theorem witness_RuleFiringBookkeeping : (tileOn []).RuleReady plainRule false ∧ (tileOn []).focus.idx < 16 ∧
    (∀ k, k < 8 → (vget VChan.reset ((tileOn []).cset 0).vch k).block = false) ∧ (flowOn (scalarTok 1 0) (scalarTok 2 0)).RuleReady flowRule false ∧
    flowRule.condA.chan ≠ flowRule.condB.chan := by unfold State.RuleReady State.RuleOffered; decide +kernel
theorem witness_ScalarRules : (tileOn []).RuleReady plainRule true ∧ ((tileOn []).cset 0).trapEn &&& 4 = 0 ∧ plainRule.scalarDst ∧
    { plainRule with dst := 47 }.scalarDst ∧ { plainRule with dst := 43 }.scalarDst ∧ { plainRule with dst := 31 }.scalarDst := by
  unfold State.RuleReady State.RuleOffered Rule.scalarDst; decide +kernel
theorem witness_VectorElementwise : (vecOn 6 0).RuleReady vecRule false ∧ ((vecOn 6 0).cset 0).trapEn = 0 ∧
    laneCount (((vecOn 6 0).cset 0).vec 16) (((vecOn 6 0).cset 0).vec 17) = some 16 ∧ ((vecOn 6 0).cset 0).vecDst vecRule 6 16 ∧
    (((vecOn 6 0).cset 0).vec 16).count = 16 ∧ (((vecOn 6 0).cset 0).vec 16).fmtOf = 6 := by
  refine ⟨by unfold State.RuleReady State.RuleOffered; decide +kernel, by decide +kernel, by decide +kernel, ?_, by decide +kernel, by decide +kernel⟩
  show lanesOf 6 = 16
  decide
/-- For the statement VectorElementwise. -/
theorem witness_Vfma : opdOf vecRule.dst = .v 2 ∧ lanesOf (((vecOn 6 0).cset 0).vec 18).fmtOf = (((vecOn 6 0).cset 0).vec 18).count ∧
    ((match ((vecOn 6 0).cset 0).vec 16, ((vecOn 6 0).cset 0).vec 17 with
      | .lanes _ x, .lanes _ y => x.length == 16 && y.length == 16
      | _, _ => false) = true) := by decide +kernel
/-- For the statement VectorMovesAndReductions: VCVT down from two registers' worth of lanes, and up into half a register. -/
theorem witness_Vcvt : (vecOn 4 6).RuleReady vecRuleS false ∧ bitsN (((vecOn 4 6).cset 0).scal 1) 0 3 = 6 ∧ ((vecOn 4 6).cset 0).rawOf vecRuleS 6 = none ∧
    lanesOf 6 ≤ (((vecOn 4 6).cset 0).vec 16).count ∧ 0 < (((vecOn 4 6).cset 0).vec 16).count / lanesOf 6 ∧
    ((vecOn 6 4).cset 0).rawOf vecRuleS 4 = none ∧ (((vecOn 6 4).cset 0).vec 16).count < lanesOf 4 ∧
    0 < lanesOf 4 / (((vecOn 6 4).cset 0).vec 16).count ∧
    (let s := (vecOn 6 6).updC 0 (fun c => { c with hist := [⟨false, ⟨5, 6, 0⟩⟩] })
     let r := { vecRuleS with srcA := 32 }
     s.RuleReady r false ∧ opdOf r.dst = .v 2 ∧ bitsN ((s.cset 0).scal 1) 3 3 = 0 ∧ (s.cset 0).rawOf r 6 = some ⟨5, 6, 0⟩) := by
  unfold State.RuleReady State.RuleOffered; decide +kernel
/-- For the statement VectorMovesAndReductions. -/
theorem witness_VpackVunpk : laneCount (((vecOn 6 0).cset 0).vec 16) (((vecOn 6 0).cset 0).vec 17) = some 16 ∧ ((vecOn 6 0).cset 0).vecDst vecRule 4 32 ∧
    (((vecOn 4 0).cset 0).vec 16).count = 32 ∧ ((vecOn 4 0).cset 0).vecDst vecRule 6 16 :=
  ⟨by decide +kernel, (by decide : lanesOf 4 = 32), by decide +kernel, (by decide : lanesOf 6 = 16)⟩
/-- For the statement VectorMovesAndReductions. -/
theorem witness_Vsel : let s := (vecOn 6 0).updC 0 (fun c => { c with hist := [⟨false, VReg.reset⟩] })
    s.RuleReady vecRule true ∧ ((s.cset 0).back 0).val.lanes.length = 16 := by unfold State.RuleReady State.RuleOffered; decide +kernel
/-- For the statement VectorMovesAndReductions. -/
theorem witness_Vshuf : ((vecOn 6 0).cset 0).vec 1 = .const (.zero false) ∧ (((vecOn 6 0).cset 0).vec 16).count = 16 ∧
    ((match ((vecOn 6 0).cset 0).vec 17 with
      | .lanes f _ => f == 6
      | _ => false) = true) := by decide +kernel
/-- For the statement VectorMovesAndReductions. -/
theorem witness_Vbcast : ((vecOn 6 15).cset 0).vecDst vecRuleS 6 16 ∧ bitsN (((vecOn 6 15).cset 0).scal 1) 0 7 < (((vecOn 6 15).cset 0).vec 16).count :=
  ⟨(by decide : lanesOf 6 = 16), by decide +kernel⟩
/-- For the statement RankingAndQuantising: TOPK of one candidate with a fresh list; of 16 with an old one. -/
theorem witness_Topk : (vecOn 6 0x21).RuleReady vecRuleS false ∧ opdOf vecRuleS.dst = .v 2 ∧ bitsN (((vecOn 6 0x21).cset 0).scal 1) 0 5 = 1 ∧
    bitB (((vecOn 6 0x21).cset 0).scal 1) 5 = true ∧ bitsN (((vecOn 6 0x21).cset 0).scal 1) 10 7 = 0 ∧
    (let s := (vecOn 6 0x4010).updC 0 (fun c => { c with v := vset c.v 3 ⟨0, 7, 0⟩ })
     bitsN ((s.cset 0).scal 1) 0 5 = 16 ∧ bitsN ((s.cset 0).scal 1) 10 7 ≤ ((s.cset 0).vec 16).count ∧
     (vget VReg.reset (s.cset 0).v 2).tag = 6 ∧ (vget VReg.reset (s.cset 0).v 3).tag = 7) := by unfold State.RuleReady State.RuleOffered; decide +kernel
/-- For the statement RankingAndQuantising. -/
theorem witness_Vqnt : let s := routed (vecOn 4 0); let r := { vecRuleS with dst := 24 }
    s.RuleReady r false ∧ opdOf r.dst = .ch 0 ∧ ((s.cset 0).vec 16).count = 32 ∧ bitsN ((s.cset 0).scal 1) 0 3 = 0 ∧
    32 ≤ lanesOf ((s.cset 0).outEntry 0).fmt.toNat ∧ (vget Quant.reset (s.cset 0).quant 0).seg = 0 := by unfold State.RuleReady State.RuleOffered; decide +kernel
/-- For the statement RankingAndQuantising. -/
theorem witness_quantGroupDrain : let s (f : Quant → Quant) : State := (tileOn []).updC 0 (fun c => { c with quant := vset c.quant 0 (f Quant.reset) })
    let s1 := s (fun q => { q with comp := some (scalarTok 1 0) }); let s2 := s (fun q => { q with drain := [scalarTok 1 0] })
    (s1.cset 0).iss.run ≠ .stopped ∧ (s1.cset 0).iss.run ≠ .saved ∧ (vget Quant.reset (s1.cset 0).quant 0).comp = some (scalarTok 1 0) ∧
    (s1.cell 0).routeFree 4 (vget none (s1.cset 0).iss.routes 0) = true ∧ (vget Quant.reset (s2.cset 0).quant 0).comp = none ∧
    (vget Quant.reset (s2.cset 0).quant 0).drain = [scalarTok 1 0] := by decide +kernel
theorem witness_FlowRules : (flowOn (scalarTok 1 0) (scalarTok 1 0)).RuleOffered flowRule ∧ opdOf flowRule.srcA = .ch 0 ∧
    ((flowOn (scalarTok 1 0) (scalarTok 1 0)).cset 0).headTok 25 = scalarTok 1 0 ∧ ((flowOn (nullTok 7 0) (nullTok 7 0)).cset 0).headTok 25 = nullTok 7 0 ∧
    (flowOn (nullTok 7 0) (nullTok 7 0)).RuleOffered flowRule ∧ ((flowOn (orderTok 1 0 0) (orderTok 1 0 0)).cset 0).headTok 24 = orderTok 1 0 0 ∧
    ((flowOn (orderTok 1 0 0) (scalarTok 0 0)).cset 0).headTok 25 = scalarTok 0 0 := by unfold State.RuleOffered; decide +kernel
/-- For the statement FlowRules: SEND of a register in the output's format, of one encoded to it, and of a scalar. -/
theorem witness_Send : opdOf (16 : BitVec 6) = .v 0 ∧ (((routed (vecOn 1 0)).cset 0).outEntry 0).fmt = (vget VReg.reset ((routed (vecOn 1 0)).cset 0).v 0).tag ∧
    (let s := (routed (vecOn 2 0)).cset 0
     (s.outEntry 0).fmt ≠ (vget VReg.reset s.v 0).tag ∧ lanesOf (s.outEntry 0).fmt.toNat = (vget VReg.reset s.v 0).lanes.length) ∧
    (let s := (routed (tileOn [])).updC 0 (fun c => { c with vch := vset c.vch 5 { VChan.reset with fmt := 7 } })
     ((s.cset 0).outEntry 0).fmt = 7 ∧ opdOf (0 : BitVec 6) = .s 0) := by decide +kernel
theorem witness_CounterRules : (tileOn []).RuleReady { plainRule with dst := 43 } false ∧ opdOf (43 : BitVec 6) = .k 7 ∧
    (((tileOn []).cset 0).iss.counter 7).chainEn = false ∧ ((Issue.reset.setCtr 7 { Counter.reset with chainEn := true }).counter 7).chainEn = true ∧
    (tileOn []).RuleReadyA { plainRule with dst := 43 } ∧ ((tileOn []).aset 0).setNull plainRule = false ∧
    (let c := (Issue.reset.setCtr 0 { Counter.reset with val := 3, bound := 4, chainEn := true, chain := 1 })
     (c.counter 0).bound.toNat ≤ ((c.counter 0).val + 1).toNat ∧ 0 ∈ c.chainFrom 8 0 ∧ 1 ∈ c.chainFrom 8 0 ∧ 2 ∉ c.chainFrom 8 0) := by
  unfold State.RuleReady State.RuleOffered State.RuleReadyA; decide +kernel
/-- For the statement CounterRules. -/
theorem witness_setNull : let s := (tileOn []).updA 0 (fun a => { a with iss := { a.iss with chans := vset a.iss.chans 0 [pkt (nullTok 7 0)] } })
    (s.aset 0).setNull { plainRule with dst := 43, srcA := 24 } = true ∧ s.RuleReadyA { plainRule with dst := 43, srcA := 24 } := by
  unfold State.RuleReadyA; decide +kernel
theorem witness_TileControlRules : (tileOn [(0, 0x0155)]).RuleReady plainRule false ∧ (tileOn []).RuleReadyA plainRule ∧
    mCountOk (0x54 : Word) = true ∧ (((tileOn []).updIssue 0 1 (fun x => { x with livelock := [(15, 3)] })).issue 0 1).livelock = [(15, 3)] := by
  unfold State.RuleReady State.RuleOffered State.RuleReadyA; decide +kernel
/-- A tile with a carve-out of one page and an overflow page at address 0. -/
def spilling (f : CSet → CSet) : State :=
  ((reaching [reach1]).updC 0 (fun c => f { c with spill := 1, iss := { c.iss with reach := 1, run := .running } })).updCell 0 (fun c =>
    { c with utlb := [⟨1, 0, 4096, 0x7F⟩], m := { c.m with act := { c.m.act with page := 0, npage := 1 } } })
theorem witness_SpillSlots : (spilling id).RuleReady vecRuleS false ∧ (spilling id).slotAt 0 0 = .carve (((spilling id).cset 0).carveOut) ∧
    (spilling id).slotAt 0 31 = .carve (((spilling id).cset 0).carveOut + 128 * 31) ∧ (spilling id).slotAt 0 32 = .over 0 ∧ (spilling id).slotAt 0 64 = .none ∧
    ((spilling id).cset 0).spillFrz = none ∧ ((spilling id).cset 0).spillBuf.length < 2 ∧ ((spilling id).cset 0).spillWritten.contains 0 = false ∧
    ((spilling id).cset 0).spillSlot = none ∧ (spilling id).reachJob ((spilling id).cset 0).iss.reach = 1 ∧
    (let s := spilling (fun c => { c with spillWritten := [0, 32], spillGot := some ⟨32, VReg.reset⟩ })
     (s.cset 0).spillWritten.contains 32 = true ∧ (s.cset 0).spillBuf = [] ∧ (s.cset 0).spillGot = some ⟨32, VReg.reset⟩ ∧
     s.sramBad 0 (((spilling id).cset 0).carveOut) = false) := by unfold State.RuleReady State.RuleOffered; decide +kernel
theorem witness_SpillTransfers : let w := spilling (fun c => { c with spillBuf := [⟨32, VReg.reset⟩] })
    let r := spilling (fun c => { c with spillWant := some 32 })
    let at_ (s : State) (b : Bool) : State :=
      (s.updC 0 (fun c => { c with spillOut := some 0 })).updStk 0 (fun k => { k with q := [s.spillPlaced 0 1 0 b] })
    (∀ s ∈ [w, r], (s.cset 0).spillFrz = none ∧ (s.cset 0).spillOut = none ∧ s.slotAt 0 32 = .over 0) ∧
    (w.cset 0).spillBuf = [⟨32, VReg.reset⟩] ∧ (w.spillReach 0 0 .write).2 = .ok 0 0 ∧
    (r.cset 0).spillBuf = [] ∧ (r.cset 0).spillWant = some 32 ∧ (r.spillReach 0 0 .read).2 = .ok 0 0 ∧
    (∀ b ∈ [true, false], let s := at_ (if b then w else r) b
      (s.stackPick 0).map (fun e => (e.1, e.2.1)) = some (0, s.spillPlaced 0 1 0 b) ∧ s.reqOf (s.spillPlaced 0 1 0 b) = none ∧
      (s.spillPlaced 0 1 0 b).id = 0 ∧ (((s.stackTake 0 0).csetOf 0 1).map (fun c => (c.spillOut, c.spillSlot))) = some (some 0, none)) ∧
    r.hbmBad 0 0 = false ∧ r.hbmBad 0 64 = false := by decide +kernel
/-- For the statement SignalAndBarrierRules. -/
theorem witness_Psig : let s := spilling id
    s.reach? (s.cset 0).iss.reach = some reach1 ∧ s.issueOf (cellAt 0 0) 0 (s.cset 0).iss.reach = some (s.issue 0 0) ∧ (s.issue 0 0).inb.length < 8 ∧
    (let z := spilling (fun c => { c with iss := { c.iss with inb := List.replicate 8 ⟨0, 0, true⟩ } })
     (z.issue 0 0).run ≠ .halted ∧ 8 ≤ (z.issue 0 0).inb.length) := by decide +kernel
/-- For the statement SignalAndBarrierRules. -/
theorem witness_Bara : let w : Window := { Window.reset with obj := 64, valid := true, cur := some 5, genk := 5 }
    let s := (spilling (fun c => { c with s := vset c.s 1 4, win := vset c.win 0 w })).updM 0 (fun x => { x with
      ports := vset x.ports 0 { MPort.reset with role := 8, len := 1 } })
    s.sramTarget 0 1 0 = .ok (0, 0) ∧ ((s.cset 0).scal 1).toNat < 64 ∧ s.barPort 0 0 = some 0 ∧ s.barPort 0 64 = none ∧
    s.sramTarget 0 1 64 = .ok (0, 64) ∧ (s.cset 0).winAt 0 = none ∧ (s.cset 0).freeWin = some 1 ∧ (s.cset 0).winAt 64 = some 0 ∧
    w.inflight = false ∧ w.waitp = false ∧ (genAt (genMax 5 5) 0 - 5).toNat < 4 ∧ { w with inflight := true }.inflight = true ∧
    4 ≤ (genAt (genMax 12 5) 0 - 5).toNat := by decide +kernel
/-- A valid object of one arrival at the start of cell 0's scratchpad, inside a barrier area, and a message. -/
def barred (m : Ctl) : State :=
  { (tileOn []).updM 0 (fun x => { x with ports := vset x.ports 0 { MPort.reset with role := 8, len := 1 } }) with
    ctl := [m]
    sram := [8, 16, 24, 32].foldl (fun m a => memWrite m a 8 2) (memWrite [] 0 8 0x100000000) }
/-- For the statement BarrierMessages. -/
theorem witness_barrierArrival : let s := barred (.arrive 0 1 0 0 (some 0) 0 false 0)
    Memory.wf s.sram = true ∧ s.ctl[0]? = some (.arrive 0 1 0 0 (some 0) ((0 : BitVec 32).toNat % 4) false 0) ∧ s.barPort 0 0 = some 0 ∧
    s.objValid 0 = true ∧ s.objBroken 0 = false ∧ s.objArrived 0 0 ≠ s.objExpect 0 0 ∧ s.objGen 0 = 0 ∧ ((1 : BitVec 32) - s.objGen 0).toNat < 4 ∧
    s.objArrived 0 1 ≠ s.objExpect 0 1 ∧ s.objGen 0 ≠ 1 ∧ s.barPort 0 64 = none ∧ (barred (.reset 0 1 0)).objValid 64 = false := by decide +kernel
/-- For the statement BarrierMessages. -/
theorem witness_barrierMessages : let s (m : Ctl) := (barred m).updC 0 (fun c => { c with iss := { c.iss with reach := 1 }, win := vset c.win 0 { Window.reset with obj := 64, valid := true } })
    (∀ m ∈ [Ctl.reply 0 1 64 1 1, .advance 0 1 64 1, .release 0 1 64 7 1 false, .release 0 1 64 7 1 true, .refusedReply 0 1 64, .reset 0 1 64],
      (s m).ctlFirst 0 = true ∧ (s m).ctl[0]? = some m) ∧
    ((s (.reset 0 1 64)).cset 0).winAt 64 = some 0 ∧ (s (.reset 0 1 64)).issueOf 0 0 1 = some ((s (.reset 0 1 64)).issue 0 0) ∧
    ((s (.reset 0 1 64)).cset 0).iss.inb.length < 8 := by decide +kernel
/-- For the statement BarrierMessages. -/
theorem witness_psigApply : let s := (tileOn []).updIssue 0 0 (fun x => { x with inb := [⟨512, 7, true⟩] })
    (s.issue 0 0).inb[0]? = some ⟨512, 7, true⟩ ∧ (s.issue 0 0).sel = [] ∧ ((s.issue 0 0).inb.take 0).all (fun v => v.sender != 512) = true := by
  decide +kernel
/-- A running tile whose node holds one command with a control token. -/
def nodeOn (w : Word) (f : Cmd → Cmd) : State := (tileOn []).updC 0 (fun c => { c with
  node := { c.node with queue := [f ⟨w, false, 0, 0, [], [], 0, none, false⟩] } })
theorem witness_MatrixCommandsStart : ∀ op ∈ [0x51, 0x52, 0x53, 0x54, 0x55], (nodeOn (BitVec.ofNat 64 op) id).startable 0 op (BitVec.ofNat 64 op) = some 0 := by
  decide +kernel
theorem witness_MatrixAccumulates : let e : Elem := ⟨6, 0, none, false⟩
    let go (l : List Elem) (r : List Elem) := nodeOn 0x51 (fun c => { c with started := true, aEl := l, bEl := r, kEnd := some 1 })
    ((go [] []).cset 0).nodeRuns = true ∧ (go [] []).nodeHeld 0 = false ∧ ((go [] []).cset 0).trapEn = 0 ∧ (((go [] []).cset 0).node.running (· == 0x51)).isSome = true ∧
    ((((go [] []).cset 0).node.running (· == 0x51)).bind (fun p => p.2.groupSize)) = none ∧
    ((((go (List.replicate 64 e) (List.replicate 96 e)).cset 0).node.running (· == 0x51)).bind (fun p => p.2.groupSize)) = some 1 := by
  decide +kernel
theorem witness_BankPortMoves : let s := (nodeOn 0x55 (fun c => { c with started := true })).updC 0 (fun c => { c with
      iss := { c.iss with chans := Vector.replicate 8 [pkt (scalarTok 1 0)] } })
    (((nodeOn 0x52 (fun c => { c with started := true })).cset 0).node.running (fun o => o == 0x52 || o == 0x55)).isSome = true ∧
    mOp 0x52 = 0x52 ∧ ((nodeOn 0x52 id).cell 0).routeFree 4 (vget none ((nodeOn 0x52 id).cset 0).iss.routes (mChan 0x52)) = true ∧
    ((s.cset 0).node.running (fun o => o == 0x52 || o == 0x55)).isSome = true ∧ (s.cset 0).head (mChan 0x55) = some (scalarTok 1 0) := by decide +kernel

/-- The address generator of cell 0, of reach 1, with tokens in its channels 0 and 1, its four templates in one space, a port 0 with
a role at cell 0, and a micro-TLB entry for the page at 0. -/
def agOn (sp : Space) (role : Nat) (x : Token) : State :=
  (((reaching [reach1]).updA 0 (fun a => { a with
    iss := { a.iss with reach := 1, run := .running, chans := vset (vset a.iss.chans 0 [pkt x]) 1 [pkt x] }
    tm := Vector.replicate 4 { Template.reset with valid := true, space := sp, hasStream := true } })).updPort 0 0 (fun _ =>
      { MPort.reset with role := role, len := 1 })).updCell 0 (fun c => { c with utlb := [⟨1, 0, 4096, 0x7F⟩] })
/-- An address-generator rule on template 0 with its data or predicate in channel 0, and an order token in channel 1. -/
def agRule : Rule := ⟨0, 0, 0b1000000, 0b1001000, 24, 24, 44, 0, 1, 1, 0⟩
def agConst : Rule := { agRule with srcA := 48 }
/-- For the statement RequestRules. -/
theorem witness_Accepts : (agOn .stream 0 (scalarTok 1 0)).Accepts (((agOn .stream 0 (scalarTok 1 0)).aset 0).tmpl 0) 0 .read .read false ∧
    (agOn .virt 0 (scalarTok 1 0)).Accepts (((agOn .virt 0 (scalarTok 1 0)).aset 0).tmpl 0) 0 .read .read false ∧
    (agOn .virt 0 (scalarTok 1 0)).Accepts (((agOn .virt 0 (scalarTok 1 0)).aset 0).tmpl 0) 0x1000 .write .write true ∧
    (agOn .sram 1 (scalarTok 1 0)).Accepts (((agOn .sram 1 (scalarTok 1 0)).aset 0).tmpl 0) 0 .write .reduce false ∧
    (agOn .sram 1 (scalarTok 1 0)).Accepts (((agOn .sram 1 (scalarTok 1 0)).aset 0).tmpl 0) 0 .atomic (.atom 1 0 1) false := by
  refine ⟨rfl, ?_, ?_, ⟨rfl, 0, 0, ?_⟩, ⟨rfl, 0, 0, ?_⟩⟩
  · show (agOn .virt 0 (scalarTok 1 0)).checkV 0 1 _ 0 .read = .hit
    decide +kernel
  · show (agOn .virt 0 (scalarTok 1 0)).checkV 0 1 _ 0x1000 .write = .miss
    decide +kernel
  all_goals decide +kernel
theorem witness_RequestRules : let s := agOn .sram 1 (scalarTok 1 0); let a := s.aset 0
    s.RuleReadyA agRule ∧ a.srcNull agRule = false ∧ (a.data agRule).nullish = false ∧ tmplOf agRule.srcB = 0 ∧
    ((a.tmpl 0).issue a.iss none).addr = 0 ∧ ((a.tmpl 0).issue a.iss (some (a.index agRule))).addr = 0 ∧
    s.checkS 0 a 0 0 .reduce = .ok 0 0 ∧ (s.port 0 0).role ≠ 6 ∧ s.checkS 0 a 0 ((a.tmpl 1).addrOf ((a.tmpl 1).base a.iss) a.iss.kv) .write = .ok 0 0 ∧
    (agOn .sram 6 (scalarTok 1 0)).checkS 0 ((agOn .sram 6 (scalarTok 1 0)).aset 0) 0 0 .reduce = .ok 0 0 ∧
    s.RuleReadyA agConst ∧ opdOf agConst.srcA = .q 0 ∧ opdOf agConst.dst = .ch 0 ∧ a.iss.head agConst.condB.chan = some (scalarTok 1 0) := by
  unfold State.RuleReadyA; decide +kernel
theorem witness_NullifiedRequests : let s := agOn .sram 1 (nullTok 7 0)
    s.RuleReadyA agRule ∧ (s.aset 0).srcNull agRule = true := by unfold State.RuleReadyA; decide +kernel
theorem witness_TemplateAddresses : let t : Template := { Template.reset with space := .virt, stride := vset Template.reset.stride 7 64 }
    t.stepCounter false = some 7 ∧ t.stepCounter true = none ∧ Template.reset.stepCounter false = none ∧ Template.reset.space ≠ .virt := by decide +kernel
theorem witness_TemplateAndPhaseRules : let s := (agOn .sram 1 (scalarTok 1 0)).updPort 0 0 (fun p => { p with wpx := true, wpLen := 1 })
    let p : Phase := ⟨0, [], 0, false, false, 0, 0, 0, []⟩
    s.RuleReadyA agRule ∧ (s.aset 0).setNull agRule = false ∧ ((agOn .sram 1 (nullTok 7 0)).aset 0).setNull agRule = true ∧
    s.reach? (s.aset 0).iss.reach = some reach1 ∧ reach1.absCell ((s.aset 0).tmpl 0).homeCell = some 0 ∧ (s.port 0 0).wpx = true ∧
    opdOf (24 : BitVec 6) = .ch 0 ∧ opdOf (36 : BitVec 6) = .k 0 ∧ ((s.aset 0).phases.filter (fun p => p.closed && !p.complete)).length < 3 ∧
    3 ≤ ((s.updA 0 (fun a => { a with phases := List.replicate 3 { p with closed := true, total := 1 } })).aset 0).phases.countP (fun p => p.closed && !p.complete) ∧
    (∀ q ∈ (s.aset 0).phases, q.p ≠ (s.aset 0).phase) ∧ ((s.updA 0 (fun a => { a with phases := [p] })).aset 0).phases = [] ++ [p] ∧
    p.p = (s.aset 0).phase ∧ (s.aset 0).iss.head 0 = some (scalarTok 1 0) := by unfold State.RuleReadyA; decide +kernel
theorem witness_PhasesAndAcquiresComplete : let p : Phase := ⟨2, [(0, 1)], 1, true, false, 0, 0, 3, []⟩
    let at_ (l : List Phase) := (agOn .sram 1 (scalarTok 1 0)).updA 0 (fun a => { a with phases := l })
    (let s := at_ [p]
     s.recordDue 0 = false ∧ (s.aset 0).iss.issuing = true ∧ (∀ g, g < 4 → (s.aset 0).copyHead g = none ∧ s.stageHead 0 g = none) ∧
     s.nodeRequests 0 = [] ∧ (s.aset 0).phases.find? (fun p => p.closed && !p.complete && !p.sent && p.allOut) = some p ∧
     ((s.cell 0).aArb.decide (s.cell 0).need.qwgt [⟨5, slackMax, p.since, 0, 4, false⟩]).map (·.1) = some 0) ∧
    (let z := { p with sent := true, ackd := [0] }; ((at_ [z]).aset 0).phases = [z] ∧ (∀ d ∈ z.dests, z.ackd.contains d.1 = true) ∧
      ((at_ [z]).cell 0).routeFree 6 (vget none ((at_ [z]).aset 0).iss.routes z.out) = true) ∧
    { p with dests := [], total := 0 }.total = 0 ∧
    (let s : State := { at_ [{ p with sent := true }] with phaseMsgs := [⟨0, 512, 2, 1⟩, ⟨1, 0, 2, 1⟩], phaseCnts := [⟨0, 512, 2, 1⟩, ⟨1, 0, 2, 1⟩] }
     s.phaseMsgs[0]? = some ⟨0, 512, 2, 1⟩ ∧ s.phaseSrc 0 = 512 ∧ s.phaseCnts.find? (fun c => c.dest == 0 && c.src == 512 && c.p == 2) = some ⟨0, 512, 2, 1⟩ ∧
     s.phaseMsgs[1]? = some ⟨1, 0, 2, 1⟩ ∧ s.phaseSrc 0 ≠ 0) ∧
    (((at_ []).updA 0 (fun a => { a with acqs := [⟨1, [], 0, 0, 0, true⟩] })).aset 0).acqs = ⟨1, [], 0, 0, 0, true⟩ :: [] := by decide +kernel

/-- A request of template 0, and the address generator with requests in its queue. -/
def req0 : Req := { ASet.reset.newReq 0 .read Template.reset (Template.reset.issue Issue.reset none) with id := 7 }
def asking (sp : Space) (role : Nat) (q : Req) : State := (agOn sp role (scalarTok 1 0)).updA 0 (fun a => { a with q := [q] })
theorem witness_RequestsLeaveTheIssueStage : let s := asking .sram 1 req0; let a := s.aset 0
    s.recordDue 0 = false ∧ (∀ k, k < 4 → a.copyHead k = none) ∧ (∀ k, k < 4 → k ≠ 0 → s.stageHead 0 k = none) ∧ s.stageHead 0 0 = some req0 ∧
    s.ordered 0 req0 = true ∧ s.isHeld 0 req0 = false ∧ req0.writeHalf = false ∧ a.relsHead = none ∧ s.nodeRequests 0 = [] ∧
    ((s.cell 0).aArb.decide (s.cell 0).need.qwgt [⟨0, s.reqSlack 0 req0, 7, 0, 0, false⟩]).map (·.1) = some 0 ∧
    (tlbFind (s.cell 0).utlb 1 0 .read).isSome = true ∧ s.canMiss 0 1 5 = true ∧ s.sramTarget 0 1 0 = .ok (0, 0) ∧
    (let q := { req0 with kind := .cpy, wg := 1, stage := .answered, ans := some (scalarTok 1 0) }; let z := asking .sram 1 q
     (z.aset 0).copyHead 0 = some q ∧ q.writeHalf = true ∧ z.canLeave 0 q = true) ∧
    (let q := { req0 with marked := true, held := 0x4000 }; (asking .sram 1 q).stageHead 0 0 = some q ∧
      ((asking .sram 1 q).cell 0).need.holdMax ≤ q.held) := by decide +kernel
/-- For the statement RequestsLeaveTheIssueStage. -/
theorem witness_walkComplete : let q := { req0 with stage := .walking, space := .virt }
    let go (va : Nat) : State := { asking .virt 1 { q with addr := va } with walks := [⟨0, 1, va / 4096, [(0, false, 7)], none⟩] }
    (go 0).walks[0]? = some ⟨0, 1, 0, [(0, false, 7)], none⟩ ∧ ((((go 0).walks.take 0).filter (fun x => x.die == 0)).length < 64) ∧ (go 0).walkReqs ⟨0, 1, 0, [(0, false, 7)], none⟩ = [(0, q)] ∧
    ((go 0).dieTranslate 0 1 0 .read).2 = (some ⟨1, 0, 4096, 0x7F⟩, .ok 0 0) ∧ ((go 0x2000).dieTranslate 0 1 0x2000 .read).2.2 = .fault 3 6 := by
  decide +kernel
theorem witness_RequestsAreServed : let tok := scalarTok 5 0; let q := { req0 with stage := .answered, ans := some tok }
    let p (w : Bool) : Placed := ⟨0, 7, w, 0, 0, false, 0, 0, 0, 0, 0⟩
    let at_ (w : Bool) (q : Req) := (asking .virt 1 q).updStk 11 (fun k => { k with q := [p w] })
    let wr := { req0 with kind := .write, stage := .placed }
    ((asking .sram 1 q).aset 0).q.find? (fun q => q.g == 0 && q.streams) = some q ∧ (((asking .sram 1 q).aset 0).tmpl 0).hasStream = true ∧
    ((asking .sram 1 q).cell 0).routeFree 6 (some (((asking .sram 1 q).aset 0).tmpl 0).route) = true ∧
    ((at_ false req0).stackPick 11).map (fun e => (e.1, e.2.1)) = some (0, p false) ∧ (at_ false req0).reqOf (p false) = some req0 ∧
    (at_ false req0).hbmBad 11 0 = false ∧ ((at_ true wr).stackPick 11).map (fun e => (e.1, e.2.1)) = some (0, p true) ∧ wr.writeHalf = false := by decide +kernel
/-- For the statement RequestsAreServed. -/
theorem witness_atomPerformed : let q := { req0 with kind := .atom 1 0 0 0, stage := .placed, tok := scalarTok 1 0 }
    let p : Placed := ⟨0, 7, false, 0, 0, false, 0, 0, 0, 0, 0⟩
    let s := (asking .sram 1 q).updPort 0 0 (fun m => { m with q := [p] })
    (s.aset 0).req? 7 = some q ∧ ((s.aset 0).tmpl 0).space = .sram ∧ (s.portPick 0 0).map (fun e => (e.1, e.2.1)) = some (0, p) ∧
    (s.port 0 0).role = 1 ∧ s.sramBad 0 0 = false ∧
    (let z := { q with stage := .answered, ans := some (orderTok 0 0 0) }; ((asking .sram 1 z).aset 0).req? 7 = some z ∧
      ((asking .sram 1 z).cell 0).routeFree 6 (vget none ((asking .sram 1 z).aset 0).iss.routes 0) = true) := by decide +kernel
theorem witness_ProgressPlane : let s := counting 0; let t := s.islandCycle 0
    (s.cset 0).iss.run = .running ∧ (s.cell 0).island.busy = false ∧ (s.cset 0).nextRecord ≤ t ∧ (∀ p ∈ s.recordsOut, p.2.cell ≠ 0) ∧
    (s.cset 0).nextPace ≤ t ∧ t < ((s.updC 0 (fun c => { c with nextPace := 256 })).cset 0).nextPace ∧
    (let z : State := { s with recordsOut := [(0, record0)] }
     z.recordsOut[0]? = some (0, record0) ∧ (z.cell 0).decided ≠ z.islandCycle 0 + 1) ∧
    record0.cell = 0 := by decide +kernel

theorem witness_PortWords : ((agOn .sram 1 (scalarTok 1 0)).port 0 0).reorder = [] ∧ ((agOn .sram 1 (scalarTok 1 0)).port 0 0).spu = [] ∧
    bitB (0x100000000 : BitVec 56) 32 = true ∧ Memory.wf ((agOn .sram 1 (scalarTok 1 0)).forget []).sram = true ∧
    Memory.wf ((agOn .sram 1 (scalarTok 1 0)).forget [⟨0, 7, true, 0, 0, false, 0, 0, 0, 0, 0⟩]).sram = true := by decide +kernel
/-- A request placed at port 0 of a role. -/
def atPort (role : Nat) (q : Req) (w : Bool) (f : MPort → MPort) : State :=
  (asking .sram role { q with stage := .placed }).updPort 0 0 (fun m => f { m with q := [⟨0, 7, w, 0, 0, false, 0, 0, 0, 0, 0⟩] })
theorem witness_PortsServeRequests : let p (w : Bool) : Placed := ⟨0, 7, w, 0, 0, false, 0, 0, 0, 0, 0⟩
    let pick (s : State) (w : Bool) := (s.port 0 0).spu = [] ∧ (s.portPick 0 0).map (fun e => (e.1, e.2.1)) = some (0, p w) ∧ (s.reqOf (p w)).isSome = true
    let wr := { req0 with kind := .write, seq := some 1, tok := scalarTok 1 0 }
    let ly := { req0 with kind := .ldsy true }
    (∀ r ∈ [0, 1, 2, 3, 6, 8, 12], pick (atPort r req0 false id) false) ∧ (∀ r ∈ [0, 1, 2, 3, 6, 8, 12], pick (atPort r wr true id) true) ∧
    ({ wr with seq := none } : Req).seq = none ∧ pick { atPort 1 req0 false id with bad := [(0, 0)] } false ∧
    ({ atPort 1 req0 false id with bad := [(0, 0)] } : State).sramBad 0 0 = true ∧
    (let h : Hwm := ⟨0, 0, 0, 1⟩
     (((atPort 6 wr true id).updCell 0 (fun c => { c with hwm := [h] })).cell 0).hwm.any (fun h => h.port == 0 && h.reach == 0 && h.src == 0 && 1 ≤ h.mark)) = true ∧
    ((atPort 6 wr true id).cell 0).hwm = [] ∧ (atPort 6 wr true id).hwmFull 0 0 0 0 = false ∧ wr.tok.lanes.length = lanesOf (7 : BitVec 3).toNat ∧
    (let s := atPort 1 ly false (fun m => { m with fe := true, feLen := 1, feInit := false })
     pick s false ∧ (s.port 0 0).feUnit 0 = some 0 ∧ (s.port 0 0).feFull 0 = false) ∧
    (let s := atPort 1 ly false (fun m => { m with fe := true, feLen := 1, feInit := true })
     pick s false ∧ (s.port 0 0).feFull 0 = true ∧ (s.port 0 0).ldsy = [] ∧ s.sramBad 0 0 = false ∧
     pick { s with bad := [(0, 0)] } false ∧ ({ s with bad := [(0, 0)] } : State).sramBad 0 0 = true) ∧
    (let s := atPort 1 ly false id; pick s false ∧ (s.port 0 0).feUnit 0 = none) := by decide +kernel
/-- For the statement PortsServeRequests: writes below, at and above the write pointer of a copy channel. -/
theorem witness_copyChannel : let wr := { req0 with kind := .write, tok := scalarTok 1 0 }
    let s (wp addr : Nat) := atPort 1 wr true (fun m => { m with
      wpx := true, wpLen := 4, wp := wp, reorder := [(64, 0, ⟨0, 9, true, 64, 0, false, 0, 0, 0, 0, 0⟩)], q := [⟨0, 7, true, addr, 0, false, 0, 0, 0, 0, 0⟩] })
    (∀ e ∈ [(64, 0), (0, 0), (0, 128)], let m := (s e.1 e.2).port 0 0; let p : Placed := ⟨0, 7, true, e.2, 0, false, 0, 0, 0, 0, 0⟩
      ((s e.1 e.2).portPick 0 0).map (fun x => (x.1, x.2.1)) = some (0, p) ∧ ((s e.1 e.2).reqOf p).isSome = true ∧ m.role = 1 ∧
      m.wpx = true ∧ (((s e.1 e.2).aset 0).tmpl wr.tmplNow).vchan = m.wtag ∧ m.wpOff * 64 ≤ e.2 ∧ e.2 < (m.wpOff + m.wpLen) * 64) ∧
    (let m := (s 64 0).port 0 0; m.reorder = [] ++ (64, 0, ⟨0, 9, true, 64, 0, false, 0, 0, 0, 0, 0⟩) :: [] ∧ m.wp = 64) ∧
    (∀ e ∈ ((s 0 0).port 0 0).reorder, ((s 0 0).port 0 0).wp < e.1) ∧
    (s 0 0).reach? ((s 0 0).aset 0).iss.reach = some reach1 := by decide +kernel
/-- For the statement PortsServeRequests: stores in a port's window, alone, in order, and with a request that waits; a full table. -/
theorem witness_spuWindow : let e : SpuEnt := ⟨0, [scalarTok 1 0], [⟨0, 7, true, 0, 0, false, 0, 0, 0, 0, 0⟩]⟩
    let s (ord : Bool) (q : List Placed) := atPort 6 req0 false (fun m => { m with spu := [e], ord := ord, q := q })
    let p : Placed := ⟨0, 7, false, 0, 0, false, 0, 0, 0, 0, 0⟩
    ((s true []).port 0 0).spu ≠ [] ∧ ((s true []).port 0 0).ord = true ∧ (s false []).portPick 0 0 = none ∧
    ((s false [p]).portPick 0 0).isSome = true ∧ ((s false [p]).port 0 0).ord = false ∧ ((s false []).port 0 0).spu[0]? = some e ∧
    e.toks = scalarTok 1 0 :: [] ∧ (s false []).portStands 0 0 = false ∧ ((s false []).port 0 0).stopped = false ∧ (s false []).sramBad 0 0 = false ∧
    (let h := (List.range 64).map (fun i => (⟨0, 0, i + 1, 1⟩ : Hwm)); let z := (s false []).updCell 0 (fun c => { c with hwm := h })
     z.hwmFull 0 0 0 0 = true ∧ (z.cell 0).hwm.any (fun h => h.port == 0 && h.reach == 0 && h.src == 0 && 1 ≤ h.mark) = false) ∧
    (scalarTok 1 0).lanes.length = lanesOf (7 : BitVec 3).toNat ∧ (scalarTok 1 0).lanes.length ≠ lanesOf (4 : BitVec 3).toNat := by decide +kernel

/-- A packet for port 0 of the memory tile of cell 0, at the head of the queue of its switch's input N. -/
def mPkt (t : Token) (v : BitVec 5) : Packet := { pkt { t with vchan := v } with dstk := 2, reach := 1 }
/-- A packet waits at the switch of cell 0, whose memory tile belongs to reach 1 and runs, with a role at port 0. -/
def atSwitch (role : Nat) (l : List Packet) : State :=
  ((agOn .sram role (scalarTok 1 0)).updM 0 (fun m => { m with reach := 1, run := .running })).updCell 0 (fun c => { c with inq := c.inq.set 0 l })
theorem witness_PortTokens : let t := mPkt (scalarTok 1 0) 5; let c := mPkt (scalarTok 1 0) 31
    (∀ role ∈ [0, 1, 2, 3, 12], let s := atSwitch role [t]
      (s.outPick 0 5 0 (s.admitsM 0)).map
        (fun e => (e.1, e.2.1, (s.port 0 (bitsN e.2.1.dstk 2 3)).role)) = some (.queue 0, t, role) ∧ s.mergeBad 0 0 = false) ∧
    (let s : State := { atSwitch 3 [t] with bad := [(0, 0)] }
     (s.outPick 0 5 0 (s.admitsM 0)).map (fun e => e.2.1) = some t ∧ t.tok.nullish = false ∧ s.mergeBad 0 0 = true) ∧
    (scalarTok 1 0).lanes.length = lanesOf (7 : BitVec 3).toNat ∧
    (let s := (atSwitch 1 [c]).updM 0 (fun m => { m with valid := 2 })
     (s.outPick 0 5 0 (s.admitsM 0)).map (fun e => e.2.1) = some c ∧
     bitB (s.mset 0).valid (bitsN c.tok.word 0 3) = true ∧ c.tok.word.toNat < 8 ∧
     attrRole (bitsN (vget 0 (s.mset 0).table (bitsN c.tok.word 0 3)) 58 6) = none ∧ bitB ((atSwitch 1 [c]).mset 0).valid 1 = false) ∧
    (let s := (atSwitch 1 [t]).updM 0 (fun m => { m with run := .off })
     (s.outPick 0 5 0 (s.admitsM 0)).map (fun e => e.2.1) = some t ∧ (s.mset 0).run = .off) ∧
    (∀ f ∈ ([fun q => { q with outq := [scalarTok 1 0] }, fun q => { q with pushq := some 3 }, fun q => { q with fifo := [t] }] : List (MPort → MPort)),
      let s := (atSwitch 2 []).updM 0 (fun m => { m.setPort 0 f with routes := vset m.routes 0 (some route0) })
      (s.port 0 0).reached = false ∧ (s.mset 0).frozen = false ∧ vget none (s.mset 0).routes 0 = some route0 ∧ (s.cell 0).routeFree 5 (some route0) = true) := by decide +kernel
/-- For the statement PortTokens. -/
theorem witness_ldsyRelease : let p : Placed := ⟨0, 7, false, 0, 0, false, 0, 0, 0, 0, 0⟩
    let s := (atPort 1 { req0 with kind := .ldsy true } false (fun m => { m with fe := true, feLen := 1, feInit := true })).updPort 0 0 (fun m => { m with q := [], ldsy := [p] })
    (s.port 0 0).ldsy[0]? = some p ∧ (s.port 0 0).ldsyDue 0 = true ∧ (s.port 0 0).stopped = false ∧ (s.mset 0).frozen = false ∧ (s.reqOf p).isSome = true ∧
    s.sramBad 0 p.addr = false ∧ (s.port 0 0).role = 1 ∧ ({ s with bad := [(0, 0)] } : State).sramBad 0 p.addr = true := by
  decide +kernel

/-- A packet to a tile of a cell. -/
def toCell (d : BitVec 9) (k : BitVec 5) : Packet := { pkt (scalarTok 1 0) with dst := d, dstk := k }
def hopping (l : List Packet) : State :=
  ((atSwitch 1 l).updA 0 (fun a => { a with iss := Issue.reset })).updC 0 (fun c => { c with iss := { c.iss with run := .running } })
def drop0 : DropRec := ⟨1, 1, 0, 0, 32, 0, 0, 5, 3, false, 0⟩
theorem witness_SwitchesCarryTokens : let a := toCell 0 0; let b := toCell 1 0; let g := toCell 32 0
    (let s := hopping [a]
     (s.outPick 0 (tilePort 0) 0 (s.tileAdmits 0 0)).map (fun e => e.2.1) = some a ∧ a.tok.isMarker = false ∧
     (s.issue 0 0).run ≠ .off ∧ a.xfer = none) ∧
    (vget [] Issue.reset.chans 0).length < 4 ∧ vget [] Issue.reset.wave 0 = [] ∧
    (let s := hopping [b]
     (s.outPick 0 1 0 (fun p => s.linkOf 0 1 p == 0 && (s.guarded 0 1 || (match neighbour 0 1 with
        | some m => ((s.cell m).inqAt (opposite 1) p.cls.toNat 0).length < 2
        | none => true)))).map (fun e => (e.2.1, (e.2.2.takeSpot 0 e.1).guarded 0 1)) = some (b, false) ∧ neighbour 0 1 = some 1) ∧
    (let s := hopping [g]
     (s.outPick 0 2 0 (fun p => s.linkOf 0 2 p == 0 && (s.guarded 0 2 || (match neighbour 0 2 with
        | some m => ((s.cell m).inqAt (opposite 2) p.cls.toNat 0).length < 2
        | none => true)))).map (fun e => (e.2.1, (e.2.2.takeSpot 0 e.1).guarded 0 2)) = some (g, true) ∧ vget none (s.cell 0).drops 2 = none) ∧
    (let s : State := { (hopping []).updCell 0 (fun c => { c with drops := vset c.drops 2 (some drop0) }) with cycle := 1024 }
     vget none (s.cell 0).drops 2 = some drop0 ∧ drop0.last + 1024 ≤ s.cycle) := by decide +kernel

/-- A packet for cell 1 at the head of input N of the switch of cell 0, whose skerry holds one kernel. -/
def skerrying (code : List (BitVec 32)) : State := (hopping [toCell 1 0]).updCell 0 (fun c => { c with
  k := { c.k with act := { c.k.act with kernels := [⟨code, false, 0, 0, 0xFF, 0x7F⟩] } } })
theorem witness_SkerryKernels : let go (code : List (BitVec 32)) := (skerrying code).cell 0
    let run0 : SkRun := ⟨Vector.replicate 16 0, Vector.replicate 4 0, toCell 1 0, (go []).k.act.flow, [], 0, 8⟩
    (∀ code ∈ [[0xC0000000#32], [0xA8000000#32], [0xA0000004#32], [0xC4000000#32 + (0x21#8).setWidth 32]],
      (go code).send = [] ∧ (go code).skerryHead = some (0, toCell 1 0) ∧ (go code).kernelFor (0 / 32) (toCell 1 0) = some 0 ∧
      ((go code).k.act.kernels[0]?).map Kernel.code = some code) ∧
    (if isSeam 0 1 then 1 else if isSeam 0 3 then 3 else 8) = run0.seam ∧
    ((match Kernel.run ⟨[0xC0000000#32], false, 0, 0, 0xFF, 0x7F⟩ (skerrying []).tick (routedPort 0 (toCell 1 0)) 65 run0 with
      | .send 1 _ => true
      | _ => false) = true) ∧
    ((match Kernel.run ⟨[0xA8000000#32], false, 0, 0, 0xFF, 0x7F⟩ (skerrying []).tick (routedPort 0 (toCell 1 0)) 65 run0 with
      | .drop _ => true
      | _ => false) = true) := by decide +kernel

/-- A collective node of reach 1 at cell 0, of a kind, and an operation of one unit. -/
def op0 : COp := ⟨1, 1, none, [], [], [], [], 0, 0, 0, Vector.replicate 4 0⟩
def nreq0 : NodeReq := ⟨0, 1, ⟨2, 0, 0, 0, 0, true, none⟩, false, 0, false, false⟩
def cnode (kind : Nat) (o : Option COp) : CNode := { loadNode [] ASet.reset 0 1 0 0 [] with kind := kind, rate := 1024, op := o }
def meeting (x : Token) (d : CNode) : State := ((agOn .sram 0 (scalarTok 1 0)).updA 0 (fun a => { a with
    iss := { a.iss with chans := vset a.iss.chans 7 [pkt x], routes := vset a.iss.routes 7 (some ⟨1, 0, 0, 0, 0, false, 0, 0⟩) } })).updCell 0
      (fun c => { c with nodes := [d] })
/-- For the statement CollectiveNodes. -/
theorem witness_collTarget : let s := (meeting (scalarTok 1 0) (cnode 0 none)).updCtx 0 (fun x => { x with st := .ready })
    s.focus.ctx < 64 ∧ (match s.collTarget 0 ((s.ctx 0).reg 1) 0 with | .ok (some (n, k, _)) => n == 0 && k == 0 | _ => false) = true ∧ (s.ctx 0).reg 3 = 0 ∧
    (match s.collTarget 0 ((s.ctx 0).reg 3) 0 with | .error 1 => true | _ => false) = true ∧
    (match s.collTarget 0 ((s.ctx 0).reg 1) 1 with | .error 2 => true | _ => false) = true ∧
    (encode (.collEnable 1 3 0)).isSome = true ∧ (encode (.collAbort 1 3 0)).isSome = true ∧
    (match (reaching [{ reach1 with st := .loading, loaded := false }]).collTarget 0 0x100 0 with | .ok none => true | _ => false) = true ∧
    (encode (.collQuery 1 3 0)).isSome = true ∧ encode (.collQuery 1 3 0) = some 0xA4230100 ∧ decode 0xA4230100 = none := by decide +kernel
theorem witness_CollectiveNodes : let at0 (s : State) (ok : CNode → Bool) := (s.nodeWhere 0 ok).map (·.1) = some 0
    let o1 := some { op0 with written := 1 }
    (∀ x ∈ [nullTok 7 0, scalarTok 0 0, scalarTok 1 0], let s := meeting x (cnode 0 none)
      at0 s (fun d => s.nodeLive 0 d && d.op.isNone && d.owed.isEmpty) ∧ ((s.aset 0).iss.head 7) = some x) ∧
    (nullTok 7 0).kind = .null ∧ bitsN (scalarTok 0 0).payload 0 24 = 0 ∧ bitsN (scalarTok 1 0).payload 0 24 ≠ 0 ∧
    at0 (meeting (scalarTok 1 0) (cnode 0 o1)) CNode.complete ∧
    (let d := { cnode 0 none with owed := [nullTok 7 0] }; let s := meeting (scalarTok 1 0) d
     s.nodeWhere 0 CNode.complete = none ∧ at0 s (fun d => s.nodeLive 0 d && !d.owed.isEmpty) ∧
     (s.cell 0).routeFree 6 (vget none (s.aset 0).iss.routes 7) = true) ∧
    (let s : State := { meeting (scalarTok 1 0) (cnode 0 (some op0)) with cycle := 256 }
     s.tide + 256 ≤ s.cycle ∧ (s.nodeAt 0 0).isSome = true) ∧
    at0 (meeting (scalarTok 1 0) { cnode 0 (some op0) with slotEnd := some 0 })
      (fun d => match d.slotEnd with | some t => t ≤ (meeting (scalarTok 1 0) (cnode 0 none)).cycle | none => false) ∧
    (let d := { cnode 0 (some op0) with slotEnd := some 9 }; let s := meeting (scalarTok 1 0) d
     s.nodeAt 0 0 = some d ∧ s.inSlot d = true ∧ d.kind < 5 ∧ d.gateNext op0 = none ∧ d.combined op0 = none ∧ op0.result = [] ∧ d.wr = none ∧ d.rd = none ∧
     d.readsOwn op0 = true ∧ at0 s (fun d => !d.shared && d.op.isSome) ∧ at0 s (fun d => !d.shared && d.cstate != 3 && d.op.isSome) ∧ d.frz = none) ∧
    (meeting (scalarTok 1 0) (cnode 0 none)).nodeWhere 0 (fun d => !d.shared && d.op.isSome) = none ∧ (orderTok 1 0 0).kind = .order ∧
    (let d := { cnode 0 none with pinUntil := some 9 }; (meeting (scalarTok 1 0) d).nodeOf (0 + 512 * d.reach) = some (0, d) ∧
      d.pinUntil.isSome = true ∧ d.shared = false) ∧
    (let d := { cnode 0 (some op0) with slotEnd := some 9 }; (meeting (scalarTok 1 0) d).nodeOf (0 + 512 * d.reach) = some (0, d)) := by decide +kernel
/-- For the statement CollectiveNodes: a unit at the gateway, a result to write, and a quantisation of 16 lanes. -/
theorem witness_slotUnits : let o := { op0 with result := [(0, 5)] }; let d := { cnode 1 (some op0) with peers := 1, rank := 1, gate := [(3, 0, 7)] }
    d.gateNext op0 = some (0, 3, 0, 7) ∧ { cnode 0 (some o) with slotEnd := some 9 }.gateNext o = none ∧ (cnode 0 (some o)).combined o = none ∧
    o.result = (0, 5) :: [] ∧ (let q := { cnode 6 none with g2 := { Template.reset with fmt := 6 } }; 1 * lanesOf q.g2.fmt.toNat % 128 ≠ 0 ∧
      8 * lanesOf q.g2.fmt.toNat % 128 = 0) ∧
    (let z : State := { meeting (scalarTok 1 0) { cnode 0 (some op0) with enabled := true } with cycle := 256 }
     z.tide + 256 ≤ z.cycle ∧ z.gatewayBusy { cnode 0 (some op0) with enabled := true } = false ∧
     (∀ p ∈ z.cells, p.2.nodes.length ≤ 1)) := by decide +kernel
/-- For the statement CollectiveNodes. -/
theorem witness_combined : let o := { op0 with own := [(0, 5)], left := [(0, 1)], right := [(0, 2)] }
    let d := { cnode 0 (some o) with peers := 2 }
    o.result = [] ∧ d.kind < 3 ∧ (d.combined o).isSome = true ∧ unitGet o.own o.nextUp = some 5 ∧ unitGet o.left o.nextUp = some 1 ∧
    unitGet o.right o.nextUp = some 2 ∧ 2 * d.rank + 2 ≤ d.peers := by decide +kernel
/-- For the statement CollectiveNodes. -/
theorem witness_engineCommand : ∀ kind ∈ [5, 6], ∀ e ∈ [none, some false, some true],
    let d := { cnode kind (some { op0 with engine := e }) with g3 := { Template.reset with marked := true } }
    let s := meeting (scalarTok 1 0) d
    s.nodeOf (0 + 512 * d.reach) = some (0, d) ∧ 5 ≤ d.kind ∧ d.frz = none ∧ op0.nextOwn < op0.total ∧ d.g3.marked = true ∧
    ({ d with g3 := Template.reset }.g3.marked = false) ∧ s.engineFree 0 d = true ∧ d.wr = none ∧ d.rd = none ∧ ({ d with wr := some nreq0 }.wr = some nreq0) := by decide +kernel
/-- For the statement CollectiveNodes: a fallback quantisation of 8 units of 16 lanes, before and after it has read them, at its companion,
and with a unit to write. -/
theorem witness_quantNext : let d := { cnode 6 none with g2 := { Template.reset with fmt := 6 } }
    let o : COp := { op0 with n := 8, total := 2, engine := some false }
    let full := { o with nextOwn := 8, own := (List.range 8).map (fun i => (i, 0)) }; let last := { o with nextOwn := 8, nextUp := 1 }
    128 / lanesOf d.g2.fmt.toNat = 8 ∧ o.n * lanesOf d.g2.fmt.toNat / 128 = 1 ∧ o.nextOwn < (o.nextUp + 1) * 8 ∧
    full.nextUp < full.total ∧ (full.nextUp + 1) * 8 ≤ full.nextOwn ∧ (d.quantNext full).isSome = true ∧ (d.quantNext last).isSome = true ∧ 1 ≤ last.nextUp ∧
    d.quantNext o = none ∧ d.rd = none ∧ o.nextOwn < o.n ∧ o.result = [] ∧ d.wr = none ∧
    { o with result := [(0, 5)] }.result = (0, 5) :: [] ∧ d.quantNext { o with result := [(0, 5)] } = none ∧ 2 ≤ { o with nextUp := 2 }.nextUp := by decide +kernel
/-- For the statement CollectiveNodes: a copy reads its unit and writes it. -/
theorem witness_engineUnit : let d := { cnode 5 (some op0) with wr := some nreq0 }
    let s := ((meeting (scalarTok 1 0) d).updM 0 (fun m => { m with reach := 1, run := .running })).updPort 0 0 (fun p => { p with role := 1 })
    d.kind = 5 ∧ nreq0.x.g ≠ 3 ∧ (s.nodeRead 0 0 d 0).2 = some 0 ∧ ((s.nodeRead 0 0 d 0).1.nodeWrite 0 0 d nreq0 0 0).2 = some true := by decide +kernel

/-- The page at 0 of job 1 has a leaf of 2 MiB, in a tier; the frame pool holds one frame, and the job's record names the page. -/
def paged (leaf : Word) : State :=
  let s := reaching [reach1]
  { s.updJob 1 (fun b => { b with tvhi := 1, wsa := 1, wsUsed := true, tierto := 1 }) with
    poolN := 1, poolCap := 2, poolBase := 8
    hbm := [(0, 0x10001), (4096, 0x20001), (8192, leaf.toNat), (2 ^ 21, 1)].foldl (fun m e => memWrite m (s.hbmKey 0 e.1) 8 e.2) s.hbm }
def leafUp : Word := 0x0200010F
def leafDown : Word := 0x0200000F
def miss0 : Miss := ⟨1, 0, 1, 0, 0, 0, 0, 1⟩
def frame0 : Word := 0x00200000
theorem copyFails_none (s : State) (j k f : Nat) (up : Bool) (h : s.bad = []) (hk : k < 12) (hs : s.inService k = true) (hf : f + 2 ^ 21 ≤ 2 ^ 36) :
    s.copyFails j f k up = none := by
  simp only [State.copyFails, List.findSome?_eq_none_iff, List.mem_range]
  intro i hi
  have : s.place j k (f + 64 * i) = some (k, f + 64 * i) := by
    unfold State.place
    rw [if_pos hk, if_pos (by omega)]
    simp [hs]
  rw [this]
  simp [State.hbmBad, h]
theorem witness_FaultsTiersAndInvalidations :
    (let q := { req0 with stage := .faulted }
     let s (c : BitVec 4) (i : Nat) := (asking .virt 0 q).updJob 1 (fun b => { b with
       fslots := b.fslots.set 0 { FSlot.reset with isOpen := true, gen := 3, acc := BitVec.ofNat _ c.toNat, reqId := i } })
     let f := Tbl.get FSlot.reset ((s 1 7).job 1).fslots 0
     f.isOpen = true ∧ f.acc ≠ 4 ∧ f.acc ≠ 5 ∧ f.reqId ≠ 0 ∧ ((s 1 7).aset f.cell).req? f.reqId = some q ∧ q.stage = .faulted ∧ f.gen ≠ 4 ∧
     (s 1 7).slotReach f 1 0 = some reach1 ∧ (s 1 7).swapHeld reach1.id = false ∧
     (Tbl.get FSlot.reset ((s 4 0).job 1).fslots 0).acc = 4 ∧ (Tbl.get FSlot.reset ((s 1 0).job 1).fslots 0).reqId = 0) ∧
    (let s := asking .sram 1 { req0 with stage := .placed }
     (s.aset 0).req? 7 = some { req0 with stage := .placed } ∧ s.sramTarget 0 (s.aset 0).iss.reach 0 = .ok (0, 0)) ∧
    (let s : State := { paged leafUp with misses := [miss0] }
     s.moves = [] ∧ (s.engineLeaf 1 0).2 = .at 0 8192 2 leafUp ∧ s.leafOf 1 0 = some (0, 8192, 2, leafUp) ∧ pteTier leafUp = 1 ∧
     s.movable 1 0 2 leafUp = true ∧ s.poolN ≠ 0 ∧ s.stackOpen s.poolStk.toNat = true ∧ s.hbmBad s.poolStk.toNat (s.poolBase.toNat * 4096) = false) ∧
    (paged leafUp).pageOpen 1 (bitsN frame0 12 28 * 4096) (bitsN frame0 40 4) = true ∧ (paged leafUp).stackOpen (paged leafUp).poolStk.toNat = true ∧
    (let e (s : State) := match (s.engineLeaf 1 0).2 with | .none => 0 | .closed => 1 | .bad _ _ => 2 | .at _ _ _ _ => 3
     e (paged 0) = 0 ∧ e ((paged leafUp).updStk 0 (fun k => { k with quiesce := true })) = 1 ∧ e { paged leafUp with bad := [(1, 0)] } = 2 ∧ e (paged leafUp) = 3) ∧
    (let s := paged leafDown
     s.leafOf 1 0 = some (0, 8192, 2, leafDown) ∧ s.stillOut ⟨[], [], []⟩ = false ∧
     s.pageOpen 1 (bitsN frame0 12 28 * 4096) (bitsN frame0 40 4) = true ∧ s.poolN.toNat < s.poolCap.toNat) ∧
    (let s : State := { paged leafUp with misses := [miss0], cycle := 1000000 }
     s.misses[0]? = some miss0 ∧ (s.job 1).tierto ≠ 0 ∧ miss0.last + 1000 * (s.job 1).tierto.toNat ≤ s.tick) := by decide +kernel
/-- For the statement FaultsTiersAndInvalidations. -/
theorem witness_pageCopies : ∀ up, (paged leafDown).copyFails 1 (bitsN frame0 12 28 * 4096) (bitsN frame0 40 4) up = none :=
  fun up => copyFails_none _ _ _ _ up (by decide +kernel) (by decide +kernel) (by decide +kernel) (by decide +kernel)
/-- For the statement FaultsTiersAndInvalidations: a frame out of range fails a copy at its first unit. -/
theorem witness_pageCopyFails : (paged leafUp).copyFails 1 (2 ^ 36) 0 true = some (0, 0) := by
  have e : List.range 32768 = 0 :: (List.range 32767).map Nat.succ := List.range_succ_eq_map
  have h : (paged leafUp).place 1 0 (2 ^ 36 + 64 * 0) = none := by decide +kernel
  rw [State.copyFails, e, List.findSome?_cons, h]
/-- For the statement FaultsTiersAndInvalidations. -/
theorem witness_down : let s : State := { paged leafDown with tiers := [⟨1, .down, 0⟩] }
    s.misses = [] ∧ s.moves = [] ∧ s.stackOpen (s.job 1).wstk.toNat = true ∧ (s.wsEntries 1).filter (fun e => 0 ≤ e.1) = [(0, 0)] ∧
    (s.wsEntries 1).filter (fun e => 1 ≤ e.1) = [] ∧ (s.job 1).inTier 0 = true ∧ s.hbmBad 0 (2 ^ 21) = false ∧
    (match ((s.memErrDone 1 (2 ^ 21) whoUndertow).countAccess 0 (2 ^ 21)).startDown 1 0 with | .go _ => true | _ => false) = true := by decide +kernel
/-- For the statement FaultsTiersAndInvalidations. -/
theorem witness_up : let s : State := { paged leafUp with tiers := [⟨1, .up, 0⟩] }
    s.misses = [] ∧ s.moves = [] ∧ s.stackOpen (s.job 1).wstk.toNat = true ∧ (s.wsEntries 1).filter (fun e => 0 ≤ e.1) = [(0, 0)] ∧
    (s.job 1).inTier 0 = true ∧ s.hbmBad 0 (2 ^ 21) = false ∧
    (match ((s.memErrDone 1 (2 ^ 21) whoUndertow).countAccess 0 (2 ^ 21)).startUp 1 0 with | .go _ => true | _ => false) = true ∧
    ((paged leafUp).engineLeaf 1 0).2 = .at 0 8192 2 leafUp ∧ pteTier leafUp ≠ 0 ∧ ((paged leafDown).engineLeaf 1 0).2 = .at 0 8192 2 leafDown ∧
    pteTier leafDown ≠ 1 := by decide +kernel
/-- For the statement FaultsTiersAndInvalidations. -/
theorem witness_tlbinv : bitB (1 : Word) 0 = true ∧ ((mapped []).job 1).inv = none ∧
    (let s := (mapped []).updJob 1 (fun b => { b with inv := some (false, 0, 4096, ⟨[], [], []⟩) })
     (s.job 1).inv = some (false, 0, 4096, ⟨[], [], []⟩) ∧ s.stillOut ⟨[], [], []⟩ = false) := by decide +kernel

theorem witness_PlatformRegisters : let v : Word := 0x100000000
    (State.reset.partCheck 1 1) = some 0 ∧ bitsN (1 : Word) 16 5 < bitsN (1 : Word) 0 5 ∧ bitB (1 : Word) 0 = true ∧
    State.reset.partCheck 1 v = none ∧ State.reset.clearing = [] ∧
    ({ State.reset with clearing := [3] } : State).partCheck 1 v = none ∧ (Tbl.keys (State.reset.countAccess 3 128).pcNow).Nodup ∧ 0 ∉ (State.reset.job 1).cells ∧
    0 ∈ ((State.reset.updJob 1 (fun b => { b with valid := true })).job 1).cells ∧
    ({ State.reset with clearing := [3] } : State).clearing = [3] ∧ Memory.wf State.reset.sram = true ∧
    ((State.reset.updCell 0 (fun c => { c with island := { c.island with busy := true } })).cell 0).island.busy = true ∧
    (let s : State := { State.reset with cycle := 4000000 }
     (s.powerMs + 1) * 1000000 ≤ s.tick) ∧ State.reset.bootOk = true ∧ ({ State.reset with bootOk := false } : State).bootOk = false ∧
    (∀ op ∈ [1, 2], ({ State.reset with mailRun := op } : State).mailRun = op) ∧ ¬ (0 = 0 ∧ 0x70000 ≤ 0x31000 ∧ 0x31000 < 0x70018) := by decide +kernel

/-- An ebb marker of reach 1 for channel 0 of a tile of cell 0, and the cell with its three sets of that reach, which ebbs. -/
def mark0 (kind : Nat) : Packet := { pkt (markerTok 2) with dstk := BitVec.ofNat 5 kind, reach := 1 }
def ebbReach (e : Ebb) : Reach := { reach1 with st := .ebbing, ebb := e }
def ebbing (e : Ebb) (rc ra rm : Run) (l : List Packet) : State :=
  let s := ((reaching [ebbReach e]).updC 0 (fun c => { c with iss := { c.iss with reach := 1, run := rc } })).updA 0 (fun a => { a with iss := { a.iss with reach := 1, run := ra } })
  (s.updM 0 (fun m => { m with reach := 1, run := rm })).updCell 0 (fun c => { c with inq := c.inq.set 0 l })
/-- For the statement EbbWavesSavesAndTeardowns. -/
theorem witness_ebbMarker : (∀ k ∈ [0, 1, 2], let s := ebbing (.swap 2) .running .running .running [mark0 k]
      (s.outPick 0 (tilePort k) 0 (if k = 2 then s.admitsM 0 else s.tileAdmits 0 k)).map (fun e => e.2.1) = some (mark0 k)) ∧
    (mark0 0).tok.isMarker = true ∧
    (let s := ebbing (.swap 2) .running .running .running [mark0 0]
     (∀ k ∈ [0, 1], (s.issue 0 k).reach = (mark0 k).reach ∧ (s.issue 0 k).run = .running ∧ (s.issue 0 k).sel = []) ∧
     (s.cell 0).island.busy = false ∧ (s.mset 0).reach = (mark0 2).reach ∧ vget [] (s.issue 0 0).chans 0 = []) ∧
    vget [] ((flowOn (scalarTok 1 0) (scalarTok 1 0)).issue 0 0).chans 0 ≠ [] ∧
    ((hopping [mark0 0]).issue 0 0).reach ≠ (mark0 0).reach := by decide +kernel
/-- For the statement EbbWavesSavesAndTeardowns. -/
theorem witness_ingressStop : let r := ebbReach (.swap 2)
    (let s := ebbing (.swap 2) .saved .saved .saved []
     s.reach? r.id = some r ∧ r.st = .ebbing ∧ s.waveOver r = true ∧ (s.cell 0).island.busy = false) ∧
    (let s := ebbing (.swap 2) .waiting .running .running []
     (s.cset 0).iss.reach = r.id ∧ (s.cset 0).iss.run = .waiting ∧ (s.aset 0).iss.reach = r.id ∧ (s.aset 0).iss.run = .running ∧ (s.aset 0).iss.sel = [] ∧
     (s.mset 0).reach = r.id ∧ (s.mset 0).run ≠ .saved) ∧
    (let s := ebbing (.swap 2) .running .running .running []
     (s.cset 0).iss.run ≠ .waiting ∧ (s.cset 0).iss.fed = 0 ∧ (s.cset 0).iss.sel = []) ∧
    (let s := ((ebbing (.swap 2) .running .running .running []).updIssue 0 0 (fun x => { x with fed := 1, frozen := true })).updReach 1 (fun r =>
       { r with seedRoutes := vset r.seedRoutes 0 (some { dst := 0, dkind := 0, chan := 0, cls := 0, vchan := 0, bnd := false, scope := 0, link := 0 }) })
     (s.reaches.all (fun r => s.waveComes r 0 && !s.still r)) = true ∧ s.reaches ≠ [] ∧ (s.cset 0).iss.fed ≠ 0 ∧ (s.cset 0).iss.holdsTokens = false ∧
     (s.issue 0 0).frozen = true ∧ (s.issue 0 0).run = .running) ∧
    (let x := { Issue.reset with run := .stopped, emitted := true, fed := 1, reached := 1 }
     x.run = .stopped ∧ x.emitted = true ∧ x.fed &&& ~~~x.reached = 0) ∧ ({ Issue.reset with run := .running } : Issue).run = .running := by decide +kernel
/-- For the statement EbbWavesSavesAndTeardowns. -/
theorem witness_endWave : (ebbReach (.swap 2)).ebb = .swap 2 ∧ (ebbReach (.teardown 1)).ebb = .teardown 1 ∧ (ebbReach (.teardown 1)).signal = 0 ∧
    (let s := (reachWait [ebbReach (.swap 2)] (.cfgsw 2 1)); (s.ctx 0).st = .blocked ∧ (s.ctx 0).wait = .cfgsw 2 1 ∧ 1 = (ebbReach (.swap 2)).id) := by
  decide +kernel
/-- Reach 1 is saved, with or without its image; the job's area has room for one, or none. -/
def savedR : Reach := { reach1 with st := .saved }
def saved (l : List Image) (size : Nat) : State := { (reaching [savedR]).updJob 1 (fun b => { b with savesize := BitVec.ofNat _ size }) with images := l }
/-- For the statement EbbWavesSavesAndTeardowns. -/
theorem witness_SaveRestore : ((reaching []).job 1).saving = false ∧ ((reaching []).job 1).restoring = false ∧ (reaching []).savedReaches 1 = [] ∧
    (let m : Image := ⟨1, 1, 0, 49, [], true⟩; let s := saved [m] 64
     s.savedReaches 1 = [(m, savedR)] ∧ (s.updJob 1 (fun b => { b with restoring := true })).canRestore savedR = true) ∧
    (let s := saved [] 64
     s.reach? savedR.id = some savedR ∧ s.streams savedR = true ∧ s.images.find? (fun m => m.reach == savedR.id) = none ∧
     s.imageRoom 1 (1 + 48 * (savedR.w * savedR.h)) = some 0 ∧ (s.imageHeader savedR 0 0).2 = true ∧
     (saved [] 0).imageRoom 1 (1 + 48 * (savedR.w * savedR.h)) = none) ∧
    (let m : Image := ⟨1, 1, 0, 49, [], false⟩; let s := saved [m] 64
     s.streams savedR = true ∧ s.images.find? (fun m => m.reach == savedR.id) = some m) ∧
    (let w : State := { saved [⟨1, 1, 0, 49, [], true⟩] 64 with reaches := [savedR, { reach1 with id := 2 }] }
     (w.updJob 1 (fun b => { b with restoring := true })).canRestore savedR = false) := by decide +kernel
/-- For the statement EbbWavesSavesAndTeardowns: an image of a rectangle of no cells, which is one page. -/
theorem witness_imageUnits : let r := { savedR with w := 0 }; let m : Image := ⟨1, 1, 0, 1, [], true⟩; let s := saved [m] 64
    (s.imageHeader r 0 1).2 = true ∧ ((s.updJob 1 (fun b => { b with restoring := true })).imageRead m r).2 = true := by decide +kernel
/-- For the statement EbbWavesSavesAndTeardowns. -/
theorem witness_Teardowns : let v : Word := 0x400100; let r := { newLaunch 1 1 0 with st := .running }
    (let s := reaching [reach1]; let x := s.ctx (bitsN v 16 6)
     (s.job 1).tdBusy = false ∧ bitB v 22 = true ∧ x.st ≠ .free ∧ x.job = 1 ∧
     (x.handleReach (BitVec.ofNat 64 (v.toNat % 65536))).bind s.reach? = some reach1 ∧ reach1.live = true ∧ s.swapHeld reach1.id = false ∧
     reach1.st = .running ∧ (s.ctx (bitsN (0x410100 : Word) 16 6)).job ≠ 1 ∧ bitB (0x410100 : Word) 22 = true) ∧
    bitB (0x10 : Word) 4 = true ∧
    (let s := (queueing []).updJob 1 (fun b => { b with qtd := some (0, true) })
     (s.job 1).qtd = some (0, true) ∧ s.queueTokens 1 0 = []) ∧
    (let s := (queueing [r]).updJob 1 (fun b => { b with qtd := some (0, true) })
     (s.queueTokens 1 0).find? Reach.live = some r ∧ s.swapHeld r.id = false) := by decide +kernel
theorem witness_Resets : (mapped []).liveWork = true ∧ State.reset.liveWork = false ∧ ((mapped []).ctx 0).job = 1 ∧ ((mapped []).ctx 0).st ≠ .free := by
  decide +kernel

/-! ## Witnesses for clauses the statements gained: forms at the edges of their ranges -/

/-- For the statement StepRunsTheDecodedWord: an instruction that waited keeps its word; a tile's turn, an event and the clock. -/
theorem witness_turns : (let s := (mapped []).updCtx 0 (fun x => { x with wait := .access .fence, cur := some 0x98000000 })
      s.nextTurn = .context 0 ∧ (s.ctx 0).wait = .access .fence ∧ (s.ctx 0).fetched = none ∧ (s.ctx 0).cur.or (s.ctx 0).fetched = some 0x98000000) ∧
    State.reset.nextTurn = .clock ∧ (tileOn []).nextTurn = .event (.paceUpdate 0) ∧
    (∀ k ∈ [0, 1], decodeRule (k == 1) 0 = some (if k = 1 then .agNop ⟨0, 0, 0, 0, 0, 0, 0, 0, 0, 0, 0⟩ else .ruleNop ⟨0, 0, 0, 0, 0, 0, 0, 0, 0, 0, 0⟩)) := by
  decide +kernel
/-- For the statement FetchesAndRetries: a page without X, and an AMO that waited. -/
theorem witness_fetchPermission : (({ (mapped []).updCore 0 (fun k => { k with utlb := [⟨1, 0, 4096, 0x03⟩] }) with dtlb := #v[[⟨1, 0, 4096, 0x03⟩], []] } : State).coreReach 0 0 .fetch).2 = .fault 4 0x3A ∧
    (let w := BitVec.ofNat 32 0x38642821; let s := waiting (.access (.amo 3 0 0 1 w))
     (s.ctx 0).wait = .access (.amo 3 ((s.ctx 0).reg 4) ((s.ctx 0).reg 5) 1 w) ∧ encode (.amo 3 4 5 2 1) = some w) := by decide +kernel
/-- For the statement ProgressAndPublication: a PUBLISH that holds the window and cannot drain, one that cannot read its region, and one
that another context's keeps out. -/
theorem witness_publishWaits : let p (s : State) (o : Option Nat) : State := s.updPub 1 63 (fun g => { g with pen := true, plen := 1, owner := o })
    ((p quiet (some 0)).pubWin 1 63).owner = some 0 ∧ (p quiet (some 0)).drain 0 = none ∧
    (let s := p ((mapped []).updStk 0 (fun k => { k with quiesce := true })) none
     (s.drain 0).isSome = true ∧ (s.readRegion 1 (s.pubWin 1 63).pbase.toNat (s.pubWin 1 63).units 0 []).2 = none ∧ (s.pubWin 1 63).owner = none) ∧
    ((p (mapped []) (some 1)).pubWin 1 63).owner ≠ some 0 := by decide +kernel
/-- For the statement RuleFiringBookkeeping: a null source for a rule and for one that also reads b1; the abort that reports a livelock. -/
theorem witness_nullified : let s := flowOn (nullTok 7 0) (scalarTok 1 0); let h := (vecOn 6 0).updC 0 (fun c => { c with hist := [⟨true, VReg.reset⟩] })
    s.RuleOffered flowRule ∧ (s.cset 0).nullSource flowRule false = true ∧ h.RuleOffered vecRule ∧ (h.cset 0).nullSource vecRule true = true ∧
    (h.cset 0).nullSource vecRule false = false ∧ min (vget 0 (vset Issue.reset.runs 15 1023) 15 + 1) 65535 = 1024 := by
  unfold State.RuleOffered; decide +kernel
/-- For the statements ScalarRules and CounterRules: a value that a counter's bound clamps, with the trap of S on and off. -/
theorem witness_clamps : ∀ e ∈ [0, 4], let s := (tileOn [(0, 9)]).updC 0 (fun c => { c with
      trapEn := BitVec.ofNat _ e, iss := c.iss.setCtr 0 { Counter.reset with bound := 9 } })
    let r := { plainRule with dst := 36 }
    s.RuleReady r false ∧ r.scalarDst ∧ opdOf r.dst = .k 0 ∧ ((s.cset 0).iss.counter 0).bound ≠ 0 ∧
    ((s.cset 0).iss.counter 0).bound.toNat ≤ (((s.cset 0).scal 0).setWidth 32 : BitVec 32).toNat ∧ (e = 4 → (s.cset 0).trapEn &&& 4 ≠ 0) := by
  unfold State.RuleReady State.RuleOffered Rule.scalarDst; decide +kernel
/-- For the statement VectorElementwise: registers of different lane counts. -/
theorem witness_laneMismatch : let s := (vecOn 6 0).updC 0 (fun c => { c with v := vset c.v 1 ⟨0, 4, 0⟩ })
    s.RuleReady vecRule false ∧ laneCount ((s.cset 0).vec vecRule.srcA) ((s.cset 0).vec vecRule.srcB) = none := by
  unfold State.RuleReady State.RuleOffered; decide +kernel
/-- For the statement RankingAndQuantising: a null token to quantise. -/
theorem witness_quantNull : let s := routed (flowOn (nullTok 4 0) (scalarTok 1 0)); let r := { flowRule with dst := 24, srcB := 0 }
    s.RuleOffered r ∧ (s.cset 0).nullSource r false = true ∧ opdOf r.dst = .ch 0 := by unfold State.RuleOffered; decide +kernel
/-- For the statement TileControlRules: a control token whose count its mode does not allow. -/
theorem witness_mctlCount : mCountOk (0x7F52 : Word) = false := by decide +kernel
/-- For the statement SignalAndBarrierRules: writes held, a halted tile, and a phase offset out of range. -/
theorem witness_psigQueue : (spilling id).writesHeld 0 0 1 ((spilling id).issue 0 0) < 8 ∧
    (let z := spilling (fun c => { c with iss := { c.iss with inb := List.replicate 8 ⟨0, 0, true⟩ } })
     8 ≤ z.writesHeld 0 0 1 (z.issue 0 0) ∧ (z.issue 0 0).run ≠ .halted) ∧
    ((spilling (fun c => { c with iss := { c.iss with run := .halted } })).issue 0 0).run = .halted ∧
    64 ≤ ((spilling (fun c => { c with s := vset c.s 1 64 })).cset 0 |>.scal 1).toNat := by decide +kernel
/-- For the statement BarrierMessages: a port that stands, a unit that reads bad, and a full inbound queue. -/
theorem witness_barrierStops : let s := barred (.arrive 0 1 0 0 (some 0) 0 false 0)
    s.portStands 0 0 = false ∧ (s.port 0 0).stopped = false ∧ s.bad.contains (0, 0) = false ∧
    (s.updPort 0 0 (fun q => { q with frozen := true })).portStands 0 0 = true ∧ ({ s with bad := [(0, 0)] } : State).bad.contains (0, 0) = true ∧
    (let z := (barred (.release 0 1 64 7 1 false)).updC 0 (fun c => { c with iss := { c.iss with reach := 1, inb := List.replicate 8 ⟨0, 0, true⟩ } })
     z.issueOf 0 0 1 = some (z.issue 0 0) ∧ (z.issue 0 0).run ≠ .halted ∧ 8 ≤ z.writesHeld 0 0 1 (z.issue 0 0)) := by decide +kernel
/-- For the statements MatrixAccumulates and BankPortMoves: tokens to take, and a stopped tile with a drain under way. -/
theorem witness_matrixTakes : let s := (nodeOn 0x51 (fun c => { c with started := true, kEnd := some 1 })).updC 0 (fun c => { c with
      iss := { c.iss with chans := Vector.replicate 8 [pkt (scalarTok 1 0)] } })
    (∀ c ∈ (s.cset 0).node.queue, ((s.cset 0).takeA c).isSome = true ∧ ((s.cset 0).takeB c).isSome = true) ∧
    (let z := (nodeOn 0x52 (fun c => { c with started := true })).updC 0 (fun c => { c with
       iss := { c.iss with run := .stopped, fed := 1, valid := 1, pool := vset c.iss.pool 0 0x280180000, consts := vset c.iss.consts 0 0x55 } })
     (z.cset 0).iss.run = .stopped ∧ (z.cset 0).nodeRuns = true ∧ z.nodeHeld 0 = false ∧
     ((z.cset 0).node.running (fun o => o == 0x52 || o == 0x55)).isSome = true) := by decide +kernel
/-- For the statements NullifiedRequests and TemplateAndPhaseRules: null data under a source that is not null, a null ATOM, a null
destination, a port without a write pointer, and an ACQ of a null token. -/
theorem witness_nullForms : let s := agOn .sram 1 (nullTok 7 0); let c := { agRule with srcA := 48 }
    s.RuleReadyA c ∧ (s.aset 0).srcNull c = false ∧ ((s.aset 0).data agRule).kind = .null ∧ opdOf agRule.dst = .ch 0 ∧
    (s.aset 0).iss.head agRule.condB.chan = some (nullTok 7 0) ∧ opdOf (47 : BitVec 6) = .null ∧ (s.port 0 0).wpx = false ∧
    opdOf agRule.srcA = .ch 0 ∧ (s.aset 0).iss.head 0 = some (nullTok 7 0) ∧ (nullTok 7 0).kind = .null := by
  unfold State.RuleReadyA; decide +kernel
/-- For the statement PhasesAndAcquiresComplete: an ACQ at the issue stage. -/
theorem witness_acqServed : let q : Acq := ⟨3, [], 0, 0, 0, false⟩
    let s := (agOn .sram 1 (scalarTok 1 0)).updA 0 (fun a => { a with acqs := [q] })
    s.recordDue 0 = false ∧ (∀ g, g < 4 → (s.aset 0).copyHead g = none ∧ s.stageHead 0 g = none) ∧ s.nodeRequests 0 = [] ∧ (s.aset 0).relsHead = none ∧
    (s.aset 0).acqs = q :: [] ∧ q.served = false ∧ (∀ x ∈ (s.aset 0).q, x.id ∉ q.reads) ∧
    ((s.cell 0).aArb.decide (s.cell 0).need.qwgt [⟨5, slackMax, q.id, 0, 4, false⟩]).map (·.1) = some 0 ∧
    ((s.updA 0 (fun a => { a with acqs := [] })).aset 0).acqHead = none := by decide +kernel
/-- For the statement RequestsLeaveTheIssueStage: a walk of a core, whose requests are gone. -/
theorem witness_ownWalk : let w : Walk := ⟨0, 1, 0, [], some (0, .read)⟩; let s : State := { agOn .sram 1 (scalarTok 1 0) with walks := [w] }
    s.walks[0]? = some w ∧ ((s.walks.take 0).filter (fun x => x.die == w.die)).length < 64 ∧ s.walkReqs w = [] ∧
    (s.dieTranslate 0 1 0 .read).2 = (some ⟨1, 0, 4096, 0x7F⟩, .ok 0 0) ∧ req0.id < { req0 with id := 8 }.id := by decide +kernel

end Sys2Proof.Tests
end

/-!
PROOF. Instruction words (02 R44 to R55): the fields of a joined word, and decoding and encoding as inverses of each other,
for control-core words, rule words and port words.
-/

section
namespace Sys2Proof

/-! ### Fields of joined words -/

/-- A word is a joined one exactly when its fields are the parts. -/
theorem eq_append_iff {a b : Nat} (w : BitVec (a + b)) (x : BitVec a) (y : BitVec b) :
    w = x ++ y ↔ bits w b a = x ∧ bits w 0 b = y := by
  constructor
  · rintro rfl
    refine ⟨?_, bits_append_low x y⟩
    apply BitVec.eq_of_toNat_eq
    rw [bits_toNat, toNat_append_add, Nat.add_comm, Nat.add_mul_div_right _ _ (by positivity), Nat.div_eq_of_lt y.isLt,
      Nat.zero_add, Nat.mod_eq_of_lt x.isLt]
  · rintro ⟨rfl, rfl⟩
    have hw : w.toNat / 2 ^ b < 2 ^ a := Nat.div_lt_of_lt_mul (by rw [← pow_add, Nat.add_comm b]; exact w.isLt)
    apply BitVec.eq_of_toNat_eq
    rw [toNat_append_add, bits_toNat, bits_toNat, pow_zero, Nat.div_one, Nat.mod_eq_of_lt hw, Nat.div_add_mod']

theorem append_eq_iff {a b : Nat} (w : BitVec (a + b)) (x : BitVec a) (y : BitVec b) :
    x ++ y = w ↔ bits w b a = x ∧ bits w 0 b = y := eq_comm.trans (eq_append_iff w x y)

/-- A field of a field. -/
theorem bits_bits {n : Nat} (x : BitVec n) (i k j m : Nat) (h : j + m ≤ k) : bits (bits x i k) j m = bits x (i + j) m := by
  ext t ht
  have hk : j + t < k := by omega
  simp [bits, hk, Nat.add_assoc]

/-- LAUNCH's 2-bit mode field is not 3 exactly when one of its two modes is off (05 R124). -/
theorem bits_two_ne_three {n : Nat} (w : BitVec n) : ¬bits w 0 2 = 3#2 ↔ bits w 1 1 = 0#1 ∨ bits w 0 1 = 0#1 := by
  have one : ∀ b : BitVec 1, b = 1#1 ↔ ¬b = 0#1 := by decide
  have h := eq_append_iff (a := 1) (b := 1) (bits w 0 2) 1#1 1#1
  rw [bits_bits w 0 2 1 1 (by decide), bits_bits w 0 2 0 1 (by decide), one, one, ← not_or] at h
  exact not_iff_comm.mp h.symm

/-! ### Control-core words: what decodes is well formed and encodes to the word (02 R45 to R47) -/

theorem onlyIf_eq_some {c : Bool} {i j : Instr} : onlyIf c i = some j ↔ c = true ∧ i = j := by
  cases c <;> simp [onlyIf]

/-- A control-core instruction has no rule or port word and no number of an event, so its operands alone are checked. -/
theorem wf_of_controlOk {i : Instr} (hn : (i.wordOk && i.numbersOk) = true) (hc : i.controlOk = true) : i.wf = true := by
  rw [Instr.wf, hc, Bool.true_and]; exact hn

/-- The ALU group, by its function field. -/
theorem encode_of_decodeAlu {w : BitVec 32} {i : Instr} (hop : bits w 26 6 = 1#6) (h : decodeAlu w = some i) :
    i.wf = true ∧ encode i = some w := by
  unfold decodeAlu at h
  split at h
  case h_17 => cases h
  all_goals
    rename_i hf
    rw [BitVec.toNat_eq_nat] at hf
    obtain rfl := Option.some.inj h
    refine ⟨wf_of_controlOk rfl rfl, congrArg some ?_⟩
    rw [append_eq_iff]
    simp only [eq_append_iff]
    simp [bits_bits, hop, hf, rd, ra, rb]

/-- The collective operations, by field [9:8]. -/
theorem encode_of_decodeColl {w : BitVec 32} {i : Instr} (hop : bits w 26 6 = 41#6) (h : decodeColl w = some i) :
    i.wf = true ∧ encode i = some w := by
  have word (n : BitVec 8) (hf : bits w 8 8 = n) : 41#6 ++ rd w ++ ra w ++ n ++ bits w 0 8 = w := by
    rw [append_eq_iff]
    simp only [eq_append_iff]
    simp [bits_bits, hop, hf, rd, ra]
  unfold decodeColl at h
  split at h
  case h_4 => cases h
  all_goals
    rename_i hf
    rw [BitVec.toNat_eq_nat] at hf
  case h_1 | h_3 =>
    obtain rfl := Option.some.inj h
    exact ⟨wf_of_controlOk rfl rfl, congrArg some (word _ hf.2)⟩
  case h_2 =>
    obtain ⟨hb, rfl⟩ := onlyIf_eq_some.mp h
    exact ⟨wf_of_controlOk rfl hb, congrArg some (word _ hf.2)⟩

/-- A word that decodes is the word of its instruction. The cases are the major opcodes in their order: two groups, the words with a
16-bit immediate, the words with a 26-bit field, and those that a condition on their other bits guards. -/
theorem encode_of_decode {w : BitVec 32} {i : Instr} (h : decode w = some i) : i.wf = true ∧ encode i = some w := by
  unfold decode at h
  split at h
  case h_40 => cases h
  all_goals
    rename_i hop
    rw [BitVec.toNat_eq_nat] at hop
    replace hop := hop.2
  case h_1 => exact encode_of_decodeAlu hop h
  case h_32 => exact encode_of_decodeColl hop h
  case h_2 | h_3 | h_4 | h_5 | h_10 | h_11 | h_12 | h_13 | h_15 | h_16 | h_17 | h_18 | h_19 | h_20 | h_22 =>
    obtain rfl := Option.some.inj h
    refine ⟨wf_of_controlOk rfl rfl, congrArg some ?_⟩
    rw [append_eq_iff]
    simp only [eq_append_iff]
    simp [bits_bits, hop, rd, ra, imm]
  case h_21 =>
    obtain rfl := Option.some.inj h
    exact ⟨wf_of_controlOk rfl rfl, congrArg some ((append_eq_iff ..).mpr ⟨hop, rfl⟩)⟩
  case h_38 | h_39 =>
    obtain ⟨hz, rfl⟩ := onlyIf_eq_some.mp h
    exact ⟨wf_of_controlOk rfl rfl, congrArg some ((append_eq_iff ..).mpr ⟨hop, eq_of_beq hz⟩)⟩
  all_goals
    obtain ⟨hc, rfl⟩ := onlyIf_eq_some.mp h
    simp only [BitVec.ofNat_eq_ofNat, Bool.and_eq_true, beq_iff_eq, bne_iff_ne, ne_eq, decide_eq_true_eq, bits_two_ne_three] at hc
    refine ⟨wf_of_controlOk rfl ?_, congrArg some ?_⟩
    · simp [Instr.controlOk, scopeOk, bits_two_ne_three, hc]
    · rw [append_eq_iff]
      simp only [eq_append_iff]
      simp [bits_bits, hop, hc, rd, ra, rb, imm]

/-! ### Control-core words: what encodes decodes again -/

theorem decode_alu {w : BitVec 32} (h : bits w 26 6 = 1#6) : decode w = decodeAlu w := by
  unfold decode; rw [h]; rfl

theorem decode_coll {w : BitVec 32} (h : bits w 26 6 = 41#6) : decode w = decodeColl w := by
  unfold decode; rw [h]; rfl

/-- The word of a well-formed instruction decodes to it: the word's fields are the operands, by the format of its group. -/
theorem decode_of_encode {i : Instr} {w : BitVec 32} (hc : i.controlOk = true) (h : encode i = some w) : decode w = some i := by
  cases i
  case add | sub | and | or | xor | sll | srl | sra | mul | mulh | divu | remu | slt | sltu | min | max =>
    replace h := Option.some.inj h
    rw [append_eq_iff] at h
    simp only [eq_append_iff] at h
    simp only [bits_bits, Nat.reduceAdd, Nat.reduceLeDiff, Std.le_refl, zero_add, add_zero] at h
    rw [decode_alu (by simp [h])]
    simp [decodeAlu, h, rd, ra, rb]
  case collEnable | collQuery | collAbort =>
    replace h := Option.some.inj h
    rw [append_eq_iff] at h
    simp only [eq_append_iff] at h
    simp only [bits_bits, Nat.reduceAdd, Nat.reduceLeDiff, Std.le_refl, zero_add, add_zero] at h
    simp only [Instr.controlOk, BitVec.ofNat_eq_ofNat, beq_iff_eq] at hc
    rw [decode_coll (by simp [h])]
    simp [decodeColl, onlyIf_eq_some, h, hc, rd, ra]
  case jal | rett | idle =>
    obtain ⟨hop, hz⟩ := (append_eq_iff ..).mp (Option.some.inj h)
    simp [decode, onlyIf_eq_some, hop, hz]
  case addi | andi | ori | xori | slli | srli | srai | lui | ld | st | ldaq | strl | amo | beq | bne | blt | bge | bltu | bgeu |
      jalr | cfgld | cfgsw | launch | seed | waitc | waita | fence | publish | gang | progrd | progwr | csrrd | csrwr | trap =>
    replace h := Option.some.inj h
    rw [append_eq_iff] at h
    simp only [eq_append_iff] at h
    simp only [bits_bits, Nat.reduceAdd, Nat.reduceLeDiff, Nat.one_le_ofNat, Std.le_refl, zero_add, add_zero] at h
    simp only [Instr.controlOk, scopeOk, BitVec.ofNat_eq_ofNat, Bool.and_eq_true, Bool.or_eq_true, beq_iff_eq, bne_iff_ne, ne_eq,
      decide_eq_true_eq] at hc
    simp [decode, onlyIf_eq_some, bits_two_ne_three, h, hc, rd, ra, rb, imm]
  all_goals cases h

theorem decode_eq_some_iff (w : BitVec 32) (i : Instr) : decode w = some i ↔ i.wf = true ∧ encode i = some w := by
  refine ⟨encode_of_decode, fun ⟨hw, h⟩ => decode_of_encode ?_ h⟩
  simp only [Instr.wf, Bool.and_eq_true] at hw
  exact hw.1.1

/-! ### Rule words and port words (01 R37, 02 R48 to R55) -/

/-- The opcodes of compute rules and of their instructions are one table (02 R51). -/
theorem computeRule_eq_some_iff (op : BitVec 7) (r : Rule) (i : Instr) :
    computeRule op.toNat r = some i ↔ computeFields i = some (op, r) := by
  constructor <;> intro h
  · unfold computeRule at h
    split at h
    case h_62 => cases h
    all_goals
      rename_i hop
      obtain rfl := Option.some.inj h
      rw [(BitVec.toNat_eq_nat.mp hop).2]; rfl
  · cases i <;> cases h <;> rfl

/-- The opcodes of address-generator rules and of their instructions are one table (02 R52). -/
theorem agRule_eq_some_iff (op : BitVec 7) (r : Rule) (i : Instr) :
    agRule op.toNat r = some i ↔ agFields i = some (op, r) := by
  constructor <;> intro h
  · unfold agRule at h
    split at h
    case h_19 => cases h
    all_goals
      rename_i hop
      obtain rfl := Option.some.inj h
      rw [(BitVec.toNat_eq_nat.mp hop).2]; rfl
  · cases i <;> cases h <;> rfl

/-- The operations of port words and of their instructions are one table (02 R55). -/
theorem portRule_eq_some_iff (op : BitVec 6) (p : PortWord) (i : Instr) :
    portRule op.toNat p = some i ↔ portFields i = some (op, p) := by
  constructor <;> intro h
  · unfold portRule at h
    split at h
    case h_13 => cases h
    all_goals
      rename_i hop
      obtain rfl := Option.some.inj h
      rw [(BitVec.toNat_eq_nat.mp hop).2]; rfl
  · cases i <;> cases h <;> rfl

/-- A rule word is its opcode and its other fields (01 R37). -/
theorem ruleWord_eq_iff (op : BitVec 7) (r : Rule) (w : BitVec 64) : ruleWord op r = w ↔ ruleOp w = op ∧ ruleOf w = r := by
  unfold ruleWord
  rw [append_eq_iff]
  simp only [eq_append_iff]
  cases r
  simp [bits_bits, ruleOp, ruleOf]
  tauto

/-- A port word is its operation, its port and its operands (02 R54). -/
theorem portWord_eq_iff (op : BitVec 6) (p : PortWord) (w : BitVec 64) :
    op ++ p.port ++ p.ops = w ↔ bits w 58 6 = op ∧ portOf w = p := by
  rw [append_eq_iff]
  simp only [eq_append_iff]
  cases p
  simp [bits_bits, portOf, and_assoc]

theorem decodeRule_eq_some_iff (ag : Bool) (w : BitVec 64) (i : Instr) : decodeRule ag w = some i ↔ encodeRule ag i = some w := by
  have key (o : Option (BitVec 7 × Rule)) : o.map (fun p => ruleWord p.1 p.2) = some w ↔ o = some (ruleOp w, ruleOf w) := by
    cases o
    · simp
    · simp only [Option.map_some, Option.some_inj, ruleWord_eq_iff, Prod.ext_iff]
      exact and_congr eq_comm eq_comm
  cases ag
  · exact (computeRule_eq_some_iff _ _ i).trans (key _).symm
  · exact (agRule_eq_some_iff _ _ i).trans (key _).symm

theorem decodePort_eq_some_iff (w : BitVec 64) (i : Instr) : decodePort w = some i ↔ encodePort i = some w := by
  refine (portRule_eq_some_iff (bits w 58 6) (portOf w) i).trans ?_
  unfold encodePort
  cases portFields i
  · simp
  · simp only [Option.map_some, Option.some_inj, portWord_eq_iff, Prod.ext_iff]
    exact and_congr eq_comm eq_comm

end Sys2Proof

/-- Settles O4: a word decodes to an instruction exactly when it is the word of that instruction and, for the control core, its operands
are the ones the instruction allows. -/
theorem decodingAndEncodingAgree : Obligations.DecodingAndEncodingAgree :=
  ⟨Sys2Proof.decode_eq_some_iff, Sys2Proof.decodeRule_eq_some_iff, Sys2Proof.decodePort_eq_some_iff⟩

/-- Settles O2: each word is evaluated. -/
theorem wordsDecode : Obligations.WordsDecode := by
  unfold Obligations.WordsDecode
  simp only [List.forall_mem_cons]
  exact ⟨⟨rfl, rfl, rfl, rfl, rfl, rfl, rfl, rfl, rfl, rfl, rfl, rfl, rfl, rfl, rfl, rfl, rfl, List.forall_mem_nil _⟩,
    rfl, rfl, rfl, rfl, rfl, rfl, List.forall_mem_nil _⟩

end

/-!
PROOF. Skerry kernels (02 R56 to R58, 19 R315 to R325): what the event leaves for each way a run can end, and the runs of
the kernels of one word.
-/

section
namespace Sys2Proof

/-- A second write of a table at one number replaces the first. -/
theorem Tbl.set_set {α : Type} (m : Tbl α) (n : Nat) (x y : α) : (Tbl.set m n x).set n y = Tbl.set m n y := by
  induction m with
  | nil => simp [Tbl.set]
  | cons e m ih =>
    obtain ⟨k, v⟩ := e
    by_cases h : n = k
    · simp [Tbl.set, h]
    · by_cases h2 : n < k
      · simp [Tbl.set, h, h2]
      · simp [Tbl.set, h, h2, ih]

namespace Machine

/-- Two updates of a cell that agree on what it holds are one. -/
theorem State.updCell_congr {s : State} {n : Nat} {f g : Cell → Cell} (h : f (s.cell n) = g (s.cell n)) :
    s.updCell n f = s.updCell n g := by
  rw [State.updCell, State.updCell, h]

/-- An update that would leave a cell as the update before has just written it changes nothing. -/
theorem State.updCell_updCell_of_eq {s : State} {n : Nat} {f g : Cell → Cell} (h : g (f (s.cell n)) = f (s.cell n)) :
    (s.updCell n f).updCell n g = s.updCell n f := by
  rw [State.updCell, State.updCell_self, h]
  simp only [State.updCell, Tbl.set_set]

/-! ### The event of a kernel -/

/-- The registers, the packet and the flow state at a kernel's start (19 R316). -/
def Cell.skerryStart (c : Cell) (n : Nat) (p : Packet) : SkRun :=
  ⟨Vector.replicate 16 0, Vector.replicate 4 0, p, c.k.act.flow, [], 0, if isSeam n 1 then 1 else if isSeam n 3 then 3 else 8⟩

/-- What a run leaves in its cell: the flow state, and the packets of the send stage, which have run their kernel (19 R322). -/
def State.skerryLeaves (u : State) (n since : Nat) (flow : Tbl Unit64) (sends : List (Nat × Packet)) : State :=
  u.updCell n (fun c => { c with
    k := { c.k with act := { c.k.act with flow := flow } }
    send := sends.map (fun x => (x.1, { x.2 with ran := true, since := since })) })

/-- What the event leaves when the run of kernel kn on packet p ends in a given way (19 R320 to R325). -/
def State.skerryAfter (s : State) (n key kn : Nat) (p : Packet) (k : Kernel) : SkEnd → State
  | .send o r => (s.takeSpot n (.queue key)).skerryLeaves n (s.islandCycle n) r.flow (r.sends ++ [(o, r.p)])
  | .drop r => (s.takeSpot n (.queue key)).skerryLeaves n (s.islandCycle n) r.flow r.sends
  | .go r => (s.takeSpot n (.queue key)).skerryLeaves n (s.islandCycle n) r.flow (r.sends ++ [((s.cell n).tablePort n p, r.p)])
  | .trap code device index r =>
    ((s.takeSpot n (.queue key)).skerryTrap n kn p code device index r.pc).skerryLeaves n (s.islandCycle n) r.flow
      (if k.drop then [] else [((s.cell n).tablePort n p, p)])

/-- The kernel that matches the head packet runs on it from its start, and the run's end says what the event leaves. -/
theorem exec_skerryKernel {s : State} {n key kn : Nat} {p : Packet} {k : Kernel} (hs : (s.cell n).send = [])
    (hh : (s.cell n).skerryHead = some (key, p)) (hk : (s.cell n).kernelFor (key / 32) p = some kn)
    (hc : (s.cell n).k.act.kernels[kn]? = some k) :
    exec (.skerryKernel n) s =
      .next (s.skerryAfter n key kn p k (k.run s.tick ((s.cell n).tablePort n p) 65 ((s.cell n).skerryStart n p))) := by
  have ht : (s.takeSpot n (.queue key)).tick = s.tick := rfl
  show execSkerryKernel n s = _
  simp only [execSkerryKernel, hs, hh, hk, hc, ht, ← Cell.skerryStart.eq_1]
  cases k.run s.tick ((s.cell n).tablePort n p) 65 ((s.cell n).skerryStart n p) <;> rfl

/-! ### The state that a packet is taken from, and events -/

/-- Taking a packet from an input queue changes only the input queues of its cell. -/
theorem State.takeSpot_queue_cell (s : State) (n key : Nat) :
    ∃ q, (s.takeSpot n (.queue key)).cell n = { s.cell n with inq := q } :=
  ⟨_, State.updCell_self ..⟩

/-- An event leaves the cycle counts of the islands. -/
@[simp] theorem State.event_islandCycle (s : State) (j cause ukind unit : Nat) (tp0 tp1 tp2 : Word) (reach : Option Nat) (n : Nat) :
    (s.event j cause ukind unit tp0 tp1 tp2 reach).islandCycle n = s.islandCycle n := by
  have h : (s.event j cause ukind unit tp0 tp1 tp2 reach).cycle = s.cycle := by rw [State.event_logs s ..]
  rw [State.islandCycle, State.event_cell, h, State.islandCycle]

/-! ### Kernels of one word -/

/-- A kernel of one word whose instruction does not go on runs that instruction alone (02 R56). -/
theorem Kernel.run_one {k : Kernel} {w : BitVec 32} {i : SkInstr} {tick routed fuel : Nat} {r : SkRun} (hk : k.code = [w])
    (hw : decodeSkerry w = .ok i) (hr : r.pc = 0) (he : ∀ r', i.run tick k routed r ≠ .go r') :
    k.run tick routed (fuel + 1) r = i.run tick k routed r := by
  rw [Kernel.run, hk, hr]
  -- by `he` the run's end is not the first arm of the last match
  simp only [List.getElem?_cons_zero, hw]

/-- The word of TRAPK (02 R58). -/
theorem decodeSkerry_trapk (e : BitVec 8) : decodeSkerry (0xC4000000#32 + e.setWidth 32) = .ok (.trapk e) := by
  have hw : 49#6 ++ 0#18 ++ e = 0xC4000000#32 + e.setWidth 32 := by
    apply BitVec.eq_of_toNat_eq
    rw [toNat_append_add, toNat_append_add, BitVec.toNat_add, BitVec.toNat_setWidth]
    simp only [BitVec.toNat_ofNat]
    omega
  generalize 0xC4000000#32 + e.setWidth 32 = w at hw ⊢
  rw [append_eq_iff] at hw
  simp only [eq_append_iff] at hw
  simp only [bits_bits, Nat.reduceAdd, Nat.reduceLeDiff, Std.le_refl, zero_add, add_zero] at hw
  obtain ⟨⟨hop, hz⟩, he⟩ := hw
  have hop' : bitsN w 26 6 = 49 := congrArg BitVec.toNat hop
  have hz' : bitsN w 8 18 = 0 := congrArg BitVec.toNat hz
  simp [decodeSkerry, hop', hz', he]

/-- A forward to port 4, which is not at the seam, changes no link of the packet (07 R154). -/
theorem fwd_tile_run (c : Cell) (n tick routed : Nat) (p : Packet) (k : Kernel) :
    (SkInstr.fwd 4).run tick k routed (c.skerryStart n p) = .send 4 (c.skerryStart n p) := by
  have h : (c.skerryStart n p).seam ≠ 4 := by
    unfold Cell.skerryStart; dsimp only; split_ifs <;> decide
  simp [SkInstr.run, h.symm]

/-! ### What the kernels of one word leave -/

variable (s : State) (n key kn : Nat) (p : Packet) (k : Kernel)

/-- A run that ends by sending its packet through port o, without a change of its flow state. -/
theorem State.skerryAfter_send (o : Nat) (f : Cell → List (Nat × Packet))
    (hf : ∀ q, f { s.cell n with inq := q } = [(o, { p with ran := true, since := s.islandCycle n })]) :
    s.skerryAfter n key kn p k (.send o ((s.cell n).skerryStart n p)) =
      (s.takeSpot n (.queue key)).updCell n (fun c => { c with send := f c }) := by
  obtain ⟨q, hq⟩ := s.takeSpot_queue_cell n key
  unfold State.skerryAfter State.skerryLeaves
  apply State.updCell_congr
  rw [hq, hf]
  rfl

/-- A run that ends by dropping its packet leaves no more than the packet taken. -/
theorem State.skerryAfter_drop (hs : (s.cell n).send = []) :
    s.skerryAfter n key kn p k (.drop ((s.cell n).skerryStart n p)) = s.takeSpot n (.queue key) := by
  unfold State.skerryAfter State.skerryLeaves State.takeSpot
  apply State.updCell_updCell_of_eq
  simp only [Cell.skerryStart, List.map_nil, hs]

/-- A run that ends in a trap before it changes its flow state. -/
theorem State.skerryAfter_trap (e : BitVec 8) :
    let u := s.takeSpot n (.queue key)
    let v := u.event (u.cellJob n) 0x08 0 (n % 512 + 1536) (BitVec.ofNat 64 (e.toNat + kn * 2 ^ 9))
      (BitVec.ofNat 64 (p.src.toNat + p.dst.toNat * 2 ^ 9 + p.cls.toNat * 2 ^ 18 + p.tok.vchan.toNat * 2 ^ 21 + p.inport * 2 ^ 26))
      0 (some (s.cell n).k.act.reach)
    s.skerryAfter n key kn p k (.trap e.toNat false 0 ((s.cell n).skerryStart n p)) = v.updCell n (fun c => { c with
      send := if k.drop then [] else [(c.tablePort n p, { p with ran := true, since := v.islandCycle n })] }) := by
  intro u v
  obtain ⟨q, hq⟩ := s.takeSpot_queue_cell n key
  have hv : u.skerryTrap n kn p e.toNat false 0 0 = v := by
    simp only [State.skerryTrap, b2n, hq, u, v, Bool.false_eq_true, if_false, Nat.zero_mul, Nat.add_zero]; rfl
  have hvc : v.cell n = { s.cell n with inq := q } := (State.event_cell ..).trans hq
  have hi : v.islandCycle n = s.islandCycle n := by
    rw [State.event_islandCycle]; simp only [State.islandCycle, u, hq]; rfl
  show State.skerryLeaves (u.skerryTrap n kn p e.toNat false 0 0) _ _ _ _ = _
  rw [hv]
  apply State.updCell_congr
  rw [hvc, hi]
  cases k.drop <;> rfl

end Machine
end Sys2Proof

open Sys2Proof Sys2Proof.Machine in
/-- Settles O55: the state that each outcome of a run leaves is the event's, and the kernels of one word have the outcomes that
their words name. -/
theorem skerryKernels : Obligations.SkerryKernels := by
  intro s n key kn p k c u out hs hh hk hc
  have hx := exec_skerryKernel hs hh hk hc
  refine ⟨fun h => ?_, fun h => ?_, fun h => ?_, fun e h => ?_, ?_⟩
  · rw [Kernel.run_one (i := .fin) h rfl rfl (by rintro _ ⟨⟩)] at hx
    exact ⟨_, hx, s.skerryAfter_send n key kn p k _ _ (fun _ => rfl)⟩
  · rw [Kernel.run_one (i := .drp) h rfl rfl (by rintro _ ⟨⟩)] at hx
    exact ⟨_, hx, s.skerryAfter_drop n key kn p k hs⟩
  · rw [Kernel.run_one (i := .fwd 4) h rfl rfl (by rintro _ ⟨⟩), fwd_tile_run] at hx
    exact ⟨_, hx, s.skerryAfter_send n key kn p k 4 _ (fun _ => rfl)⟩
  · rw [Kernel.run_one (i := .trapk e) h (decodeSkerry_trapk e) rfl (by rintro _ ⟨⟩)] at hx
    exact ⟨_, hx, s.skerryAfter_trap n key kn p k e⟩
  · rintro _ rfl
    exact ⟨fun o r he => ⟨_, hx, congrArg (s.skerryAfter n key kn p k) he⟩,
      fun r he => ⟨_, hx, congrArg (s.skerryAfter n key kn p k) he⟩⟩

end

/-!
PROOF. The parity freeze of a memory tile (02 R53): it freezes the tile, not its ports.
-/

section
namespace Sys2Proof.Machine

/-- A port word that fails parity freezes its memory tile. -/
theorem exec_parityFreeze_portTable (s : State) (n i : Nat) (hi : i < 8) :
    let w := Config.openWord s.freeCount
    exec (.parityFreeze n 2 i) s = .next ((s.drawn.event (s.reachJob (s.mset n).reach) 0x0F 0 (tileUnit n 2)
      (BitVec.ofNat 64 i) w w (some (s.mset n).reach)).updM n (fun m => { m with frozen := true })) := by
  show execParityFreeze n 2 i s = _
  simp only [execParityFreeze, hi, decide_true, Bool.and_true]
  rfl

@[simp] theorem State.event_mset (s : State) (j cause ukind unit : Nat) (tp0 tp1 tp2 : Word) (reach : Option Nat) (n : Nat) :
    (s.event j cause ukind unit tp0 tp1 tp2 reach).mset n = s.mset n := by
  rw [State.mset, State.event_cell]; rfl

end Sys2Proof.Machine

open Sys2Proof Sys2Proof.Machine in
/-- Refutes O35, by its clause on port tables: it says that a parity error in a port word marks each of the four ports frozen and
leaves the rest of the tile, while the model marks the tile itself (MSet.frozen). After reset, entry 0 of the port table of cell 0
shows the difference. -/
theorem not_tileControlRules : ¬ Obligations.TileControlRules := by
  intro h
  obtain ⟨-, -, -, -, -, hport⟩ := h State.reset
  obtain ⟨t, hx, ht⟩ := hport 0 0 (by decide)
  rw [exec_parityFreeze_portTable State.reset 0 0 (by decide)] at hx
  have hmodel : (t.mset 0).frozen = true := by cases hx; simp
  have hclaim : (t.mset 0).frozen = false := by rw [ht]; simp only [State.updM_mset, State.event_mset]; rfl
  rw [hmodel] at hclaim
  cases hclaim

end

/-!
PROOF. Nullified requests of the address generator (03 R79, 11 R227, R231 to R234): the template steps, and only a read leaves
something in the queue.
-/

section
namespace Sys2Proof.Machine

/-- A null or order token is what nullifies by its kind. -/
theorem Token.nullish_iff (t : Token) : t.nullish = true ↔ t.kind = .null ∨ t.kind = .order := by
  simp [Token.nullish]

/-! ### What a nullified request offers -/

/-- The state that a nullified read leaves: the template steps, and an answered null stands in the queue (03 R79). -/
def State.nullAnswered (s : State) (n g : Nat) (t : Template) (c : Issued) : State :=
  s.updA n (fun a => { a.numbered g c with
    q := (s.aset n).q ++ [{ (s.aset n).newReq g .nullRead t c with
      marked := false, stage := .answered, ans := some ⟨.null, t.fmt, t.vchan, c.tag, 0⟩ }]
    nextId := (s.aset n).nextId + 1 })

theorem State.nullRequest_read (s : State) (n g : Nat) (t : Template) (c : Issued) :
    s.nullRequest n g t c true = (s, .fire (s.nullAnswered n g t c) c.carry none) := rfl

/-- A nullified request without an answer steps the template and nothing else. -/
theorem State.nullRequest_silent (s : State) (n g : Nat) (t : Template) (c : Issued) :
    s.nullRequest n g t c false = (s, .fire (s.updA n (fun a => a.numbered g c)) c.carry none) := rfl

/-! ### The rules that offer it -/

section
variable {s : State} {r : Rule}

/-- A ready rule of the address generator whose body fires gives a next state (11 R230). -/
theorem State.fireA_fires (h : s.RuleReadyA r) {body : State → Nat → ASet → State × Offer} {w u : State} {cond : Bool} {res : Option Hist}
    (e : body s s.focus.cell (s.aset s.focus.cell) = (w, .fire u cond res)) :
    ∃ v, s.fireA r body = .next v ∧ RuleFiresA s u v r cond := by
  rw [State.fireA_ready h, e]
  exact ⟨_, rfl, rfl⟩

/-- ISSR and GATR of a null source (11 R231). -/
theorem readForm_null (h : s.RuleReadyA r) (hn : (s.aset s.focus.cell).srcNull r = true) (kind : ReqKind) (indexed : Bool) :
    let n := s.focus.cell; let a := s.aset n; let g := tmplOf r.srcB; let t := a.tmpl g
    let c := t.issue a.iss (if indexed then some (a.index r) else none)
    ∃ v, readForm kind indexed r s = .next v ∧ RuleFiresA s (s.nullAnswered n g t c) v r c.carry :=
  State.fireA_fires h ((if_pos hn).trans (State.nullRequest_read ..))

/-- S2S of a null source (11 R233; log entry 49). -/
theorem execS2s_null (h : s.RuleReadyA r) (hn : (s.aset s.focus.cell).srcNull r = true) :
    let n := s.focus.cell; let a := s.aset n; let g := tmplOf r.srcB; let t := a.tmpl g; let c := t.issue a.iss none
    ∃ v, execS2s r s = .next v ∧ RuleFiresA s (s.nullAnswered n g t c) v r c.carry :=
  State.fireA_fires h ((if_pos hn).trans (State.nullRequest_read ..))

/-- CPY of a null source (11 R233). -/
theorem execCpy_null (h : s.RuleReadyA r) (hn : (s.aset s.focus.cell).srcNull r = true) :
    let n := s.focus.cell; let a := s.aset n; let g := tmplOf r.srcB; let c := (a.tmpl g).issue a.iss none
    ∃ v, execCpy r s = .next v ∧ RuleFiresA s (s.updA n (fun b => b.numbered g c)) v r c.carry :=
  State.fireA_fires h ((if_pos hn).trans (State.nullRequest_silent ..))

/-- ISSW and SCTW of a null source, or of a null or order token in the data position (11 R232). -/
theorem writeForm_null (h : s.RuleReadyA r)
    (hn : ((s.aset s.focus.cell).srcNull r || ((s.aset s.focus.cell).data r).nullish) = true) (indexed : Bool) :
    let n := s.focus.cell; let a := s.aset n; let g := tmplOf r.srcB
    let c := (a.tmpl g).issue a.iss (if indexed then some (a.index r) else none)
    ∃ v, writeForm indexed r s = .next v ∧ RuleFiresA s (s.updA n (fun b => b.numbered g c)) v r c.carry :=
  State.fireA_fires h ((if_pos hn).trans (State.nullRequest_silent ..))

/-- ATOM of a null operand or condition sends a null token on its output (11 R234). -/
theorem execAtom_null (h : s.RuleReadyA r) {o : Nat} {x : Token} (hd : opdOf r.dst = .ch o)
    (hx : (s.aset s.focus.cell).iss.head r.condB.chan = some x)
    (hn : ((s.aset s.focus.cell).data r).kind = .null ∨ x.kind = .null) :
    let n := s.focus.cell; let a := s.aset n; let g := tmplOf r.srcB; let c := (a.tmpl g).issue a.iss none
    ∃ v, execAtom r s = .next v ∧
      RuleFiresA s ((s.updA n (fun b => b.numbered g c)).emit n 1 a.iss o ⟨.null, 0, 0, r.et, 0⟩) v r true := by
  refine State.fireA_fires (w := s) (res := none) h ?_
  dsimp only
  rw [hd, hx, Option.getD_some, if_pos (by simpa using hn)]
  rfl

end

end Sys2Proof.Machine

open Sys2Proof Sys2Proof.Machine in
/-- Settles O44: each opcode's body takes its branch for a nullified request, which steps the template. -/
theorem nullifiedRequests : Obligations.NullifiedRequests := by
  intro s r n a g t c ci stepped h
  refine ⟨fun hn => ?reads, fun hn => execCpy_null h hn, fun hn => ?writes, fun o x hd hx hn => execAtom_null h hd hx hn⟩
  case reads =>
    simp only [List.forall_mem_cons]
    exact ⟨readForm_null h hn .read false, readForm_null h hn .read true, execS2s_null h hn, List.forall_mem_nil _⟩
  case writes =>
    have hw : (a.srcNull r || (a.data r).nullish) = true := by
      rwa [Bool.or_eq_true, Token.nullish_iff]
    simp only [List.forall_mem_cons]
    exact ⟨writeForm_null h hw false, writeForm_null h hw true, List.forall_mem_nil _⟩

end

/-!
PROOF. What a switch does with the packet that one of its ports serves: it enters a channel (08 R161), it crosses to the neighbour
(07 R151), or a breakwater guard drops and records it (07 R155).
-/

section
namespace Sys2Proof.Machine

/-! ### The island's cycles, and the state that a packet is picked and taken from -/

/-- An update of a cell that keeps its island leaves the cycle count of every island. -/
theorem State.islandCycle_updCell {s : State} {n : Nat} {f : Cell → Cell} (h : (f (s.cell n)).island = (s.cell n).island) (m : Nat) :
    (s.updCell n f).islandCycle m = s.islandCycle m := by
  have hm : ((s.updCell n f).cell m).island = (s.cell m).island := by
    by_cases e : m = n
    · rw [e, State.updCell_self, h]
    · rw [State.updCell_of_ne s f e]
  rw [State.islandCycle, State.islandCycle, hm, State.updCell_cycle]

/-- Picking a packet changes only the arbiters of the cell and the cycle of its decision. -/
theorem State.outPick_state {s u : State} {n port link : Nat} {ok : Packet → Bool} {sp : Spot} {p : Packet}
    (h : s.outPick n port link ok = some (sp, p, u)) :
    ∃ arb, u = s.updCell n (fun c => { c with sArb := c.sArb.set (port * 4 + link) arb, decided := s.islandCycle n + 1 }) := by
  unfold State.outPick at h
  split at h
  · cases h
  · dsimp only at h
    split at h
    · cases h
    · split at h
      · cases h
      · cases h
        exact ⟨_, rfl⟩

/-- Taking a packet leaves the island and the pending records of its cell. -/
theorem State.takeSpot_cell (s : State) (n : Nat) (sp : Spot) :
    ((s.takeSpot n sp).cell n).island = (s.cell n).island ∧ ((s.takeSpot n sp).cell n).drops = (s.cell n).drops := by
  unfold State.takeSpot
  rw [State.updCell_self]
  cases sp <;> exact ⟨rfl, rfl⟩

@[simp] theorem State.takeSpot_job (s : State) (n : Nat) (sp : Spot) (j : Nat) : (s.takeSpot n sp).job j = s.job j := rfl

@[simp] theorem State.takeSpot_islandCycle (s : State) (n : Nat) (sp : Spot) (m : Nat) :
    (s.takeSpot n sp).islandCycle m = s.islandCycle m :=
  State.islandCycle_updCell (by cases sp <;> rfl) m

section
variable {s u : State} {n port link : Nat} {ok : Packet → Bool} {sp : Spot} {p : Packet}

theorem State.outPick_islandCycle (h : s.outPick n port link ok = some (sp, p, u)) (m : Nat) : u.islandCycle m = s.islandCycle m := by
  obtain ⟨arb, rfl⟩ := State.outPick_state h
  exact State.islandCycle_updCell rfl m

theorem State.outPick_job (h : s.outPick n port link ok = some (sp, p, u)) (j : Nat) : u.job j = s.job j := by
  obtain ⟨arb, rfl⟩ := State.outPick_state h
  rfl

theorem State.outPick_drops (h : s.outPick n port link ok = some (sp, p, u)) : (u.cell n).drops = (s.cell n).drops := by
  obtain ⟨arb, rfl⟩ := State.outPick_state h
  rw [State.updCell_self]

end

/-! ### Arrivals (08 R161) -/

/-- The token that a port of a configured tile serves enters its channel, and a marked transfer completes. -/
theorem exec_tokenArrival {s u : State} {n kind : Nat} {sp : Spot} {p : Packet} (hk : kind < 2)
    (h : s.outPick n (tilePort kind) 0 (s.tileAdmits n kind) = some (sp, p, u)) (hp : p.tok.isMarker = false)
    (hx : (s.issue n kind).run ≠ .off) :
    let v := (u.takeSpot n sp).updIssue n kind (fun x => x.enter (bitsN p.dstk 2 3) p)
    let w := if kind = 0 then v.updC n CSet.settle else v
    exec (.tokenArrival n kind) s = .next (match p.xfer with
      | some r => w.completeXfer r.cell r.g (BitVec.ofNat 32 r.reqno)
      | none => w) := by
  show execTokenArrival n kind s = _
  simp only [execTokenArrival, Nat.not_le.mpr hk, h, hp, hx, if_false, Bool.false_eq_true]
  cases p.xfer <;> rfl

/-- A tile without a configuration discards it. -/
theorem exec_tokenArrival_off {s u : State} {n kind : Nat} {sp : Spot} {p : Packet} (hk : kind < 2)
    (h : s.outPick n (tilePort kind) 0 (s.tileAdmits n kind) = some (sp, p, u)) (hp : p.tok.isMarker = false)
    (hx : (s.issue n kind).run = .off) : exec (.tokenArrival n kind) s = .next (u.takeSpot n sp) := by
  show execTokenArrival n kind s = _
  simp only [execTokenArrival, Nat.not_le.mpr hk, h, hp, hx, if_false, if_true, Bool.false_eq_true]

/-- A token enters a channel that has a free slot, with nothing in its wave buffer, at the end of the channel. -/
theorem Issue.enter_of_room {x : Issue} {k : Nat} (p : Packet) (hr : x.tokensIn k < channelSlots) (hw : vget [] x.wave k = []) :
    x.enter k p = { x with chans := vset x.chans k (vget [] x.chans k ++ [p]) } := by
  simp [Issue.enter, hr, hw]

/-! ### Breakwater guards (07 R155) -/

theorem b2n_mul (b : Bool) (k : Nat) : b2n b * k = if b then k else 0 := by
  cases b <;> simp [b2n]

/-- The record that a first drop opens. -/
def DropRec.first (p : Packet) (at_ : Nat) : DropRec :=
  ⟨p.job, p.reach, p.src, p.srck, p.dst, p.dstk, p.cls, p.tok.vchan, 1, p.tok.isMarker, at_⟩

/-- A drop at a port without a pending record counts for the job and opens one. -/
theorem State.dropAt_first {s : State} {n port : Nat} (p : Packet) (h : vget none (s.cell n).drops port = none) :
    s.dropAt n port p = (s.updJob p.job (fun b => { b with bwdrop := satInc b.bwdrop })).updCell n (fun c =>
      { c with drops := vset c.drops port (some (DropRec.first p (s.islandCycle n))) }) := by
  unfold State.dropAt
  simp only [State.updJob_cell, h]
  rfl

/-- The record is written 1,024 of the island's cycles after its last drop, and closed. -/
theorem exec_breakwaterRecord {s : State} {n port : Nat} {d : DropRec} (h : vget none (s.cell n).drops port = some d)
    (hd : d.last + 1024 ≤ s.islandCycle n) :
    exec (.breakwaterRecord n port) s =
      .next ((s.writeDrop n port d).updCell n (fun c => { c with drops := vset c.drops port none })) := by
  show execBreakwaterRecord n port s = _
  simp only [execBreakwaterRecord, State.closeDrop, h, hd, if_true]

/-! ### Hops (07 R151) -/

/-- The packets that a port may send over a link: those of the link, if a guard drops them or the neighbour's queue has room. -/
def State.hopAdmits (s : State) (n port link : Nat) (p : Packet) : Bool :=
  s.linkOf n port p == link && (s.guarded n port || (match neighbour n port with
    | some m => ((s.cell m).inqAt (opposite port) p.cls.toNat link).length < slotsPerClass
    | none => true))

section
variable {s u : State} {n port link : Nat} {sp : Spot} {p : Packet}

/-- What a hop does with the packet that its port serves: a guard drops it, or the neighbour takes it. -/
theorem exec_switchHop (hp : port < 4) (h : s.outPick n port link (s.hopAdmits n port link) = some (sp, p, u)) :
    let v := u.takeSpot n sp
    exec (.switchHop n port link) s = .next (if v.guarded n port then v.dropAt n port p else
      (neighbour n port).elim v (fun m => v.updCell m (fun c => c.setInq (opposite port) p.cls.toNat link
        (c.inqAt (opposite port) p.cls.toNat link ++
          [{ p with inport := opposite port, since := v.islandCycle m, ran := false, out := none }])))) := by
  show execSwitchHop n port link s = _
  rw [execSwitchHop, if_neg (Nat.not_le.mpr hp)]
  dsimp only
  split
  case h_1 e => cases h.symm.trans e
  case h_2 e =>
    cases h.symm.trans e
    split_ifs
    · rfl
    · cases neighbour n port <;> rfl

end

end Sys2Proof.Machine

open Sys2Proof Sys2Proof.Machine in
/-- Settles O54: an arrival, a hop, a guard's first drop and the writing of its record, each by the equation of its event. -/
theorem switchesCarryTokens : Obligations.SwitchesCarryTokens := by
  intro s n
  refine ⟨?arrival, ?enters, ?hop, fun _ => rfl, ?route, ?record⟩
  case arrival =>
    intro kind sp p u x hk h hp
    exact ⟨fun hx => ⟨_, exec_tokenArrival_off hk h hp hx, rfl⟩, fun hx => ⟨_, exec_tokenArrival hk h hp hx, rfl⟩⟩
  case enters =>
    intro x k p hk hr hw
    rw [Issue.enter_of_room p hr hw]
    exact ⟨vget_vset_self _ _ _ _ hk, rfl, fun j hj => vget_vset_of_ne _ _ _ hj⟩
  case hop =>
    rintro port link _ sp p u hport rfl h
    have hcycle (m : Nat) : (u.takeSpot n sp).islandCycle m = s.islandCycle m :=
      (u.takeSpot_islandCycle n sp m).trans (State.outPick_islandCycle h m)
    refine ⟨fun m hm hg => ?_, fun hg hd => ⟨_, exec_switchHop hport h, ?_⟩⟩
    · rw [← hcycle m]
      exact ⟨_, exec_switchHop hport h, by rw [hg, hm]; rfl⟩
    · have hnone : vget none ((u.takeSpot n sp).cell n).drops port = none := by
        rw [(u.takeSpot_cell n sp).2, State.outPick_drops h, hd]
      rw [if_pos hg, State.dropAt_first p hnone, hcycle n]
      constructor
      · rw [State.updCell_job, State.updJob_self, State.takeSpot_job, State.outPick_job h]
      · rw [State.updCell_self]
        exact vget_vset_self _ _ _ _ (by omega)
  case route =>
    intro p hout hdam
    simp [Cell.outPort, Cell.tablePort, hout, hdam]
  case record =>
    intro port d h hd
    refine ⟨_, exec_breakwaterRecord h hd, ?_⟩
    rw [State.writeDrop, b2n_mul]
    rfl

end

/-!
PROOF. Ranking and quantising (04 R106, R107, 09 R192 to R194): the offer of a ready TOPK and of a ready VQNT, what a nullified VQNT
leaves, and the two tokens that a closed group can send.
-/

section
namespace Sys2Proof.Machine

/-- Two updates of a tile's active compute set are one. -/
theorem State.updC_updC (s : State) (n : Nat) (f g : CSet → CSet) : (s.updC n f).updC n g = s.updC n (fun c => g (f c)) := by
  simp only [State.updC, State.updCell, State.cell, Tbl.get_set_self, Tbl.set_set]

section
variable {s : State} {r : Rule}

/-- A ready rule whose body raises the flags `fl` fires where none of them is enabled as a trap, and otherwise aborts for those that
are (04 R96). -/
theorem State.fireC_firesOrTraps {b1 : Bool} (h : s.RuleReady r b1) {out : NullOut} {body : State → Nat → CSet → Offer} {fl : Nat}
    {u : State} {cond : Bool} {res : Option Hist}
    (e : body s s.focus.cell (s.cset s.focus.cell) =
      if (s.cset s.focus.cell).traps fl ≠ 0 then .arith ((s.cset s.focus.cell).traps fl) else .fire u cond res) :
    ∃ t, s.fireC r out b1 body = .next t ∧
      if fl &&& (s.cset s.focus.cell).trapEn.toNat ≠ 0 then TrapAborts s t (fl &&& (s.cset s.focus.cell).trapEn.toNat)
      else RuleFires s u t r cond res := by
  rw [State.fireC_ready h, e, CSet.traps]
  by_cases ht : fl &&& (s.cset s.focus.cell).trapEn.toNat ≠ 0
  · simp only [if_pos ht]
    exact ⟨_, rfl, abortRule_traps s _⟩
  · simp only [if_neg ht]
    exact ⟨_, rfl, rfl⟩

/-- An offered rule passes the test of its guard. -/
theorem State.RuleOffered.ite_eq {α : Type} (h : s.RuleOffered r) (idle goes : α) :
    (if (!guardCore (s.cset s.focus.cell).iss.preds (s.cset s.focus.cell).front r) = true then idle else goes) = goes := by
  rw [show guardCore _ _ r = true from h]
  rfl

/-- A count of 1 to 16 and no more candidates than lanes pass TOPK's first test (09 R192). -/
theorem topk_counts_ok {k m count : Nat} (h1 : 1 ≤ k) (h16 : k ≤ 16) (hw : (if m = 0 then count else m) ≤ count) :
    ¬ (k = 0 || 16 < k || count < m) = true := by
  simp only [Bool.or_eq_true, decide_eq_true_eq]
  split at hw <;> omega

/-- A VQNT with a null source leaves its segment empty (09 R193). -/
theorem execVqnt_null (h : s.RuleOffered r) (hn : (s.cset s.focus.cell).nullSource r false = true) :
    execVqnt r s = .next (s.updC s.focus.cell (fun c =>
      (c.quantNull r (max 32 ((s.cset s.focus.cell).vec r.srcA).count)).finish s.focus.idx r false (some nullHist))) :=
  (h.ite_eq ..).trans (if_pos hn)

end

/-- A tile that is neither stopped nor saved passes the first test of QUANT_GROUP_DRAIN. -/
theorem Run.not_stopped_or_saved {x : Run} (hstop : x ≠ .stopped) (hsave : x ≠ .saved) : ¬ (x == .stopped || x == .saved) = true := by
  simp [hstop, hsave]

section
variable {s : State} {n o : Nat} {k : Token}

/-- A tile that is not stopped or saved sends the companion of a closed group where the group's output has room (09 R194). -/
theorem execQuantGroupDrain_companion (hstop : (s.cset n).iss.run ≠ .stopped) (hsave : (s.cset n).iss.run ≠ .saved) :
    let cs := s.cset n; let q := vget Quant.reset cs.quant o
    q.comp = some k → (s.cell n).routeFree 4 (vget none cs.iss.routes q.compOut) = true →
    execQuantGroupDrain n o s =
      .next ((s.emit n 0 cs.iss q.compOut k).updC n (fun c => { c with quant := vset c.quant o { q with comp := none } })) := by
  intro cs q hk hfree
  refine (if_neg (Run.not_stopped_or_saved hstop hsave)).trans ?_
  split
  case h_1 e => cases hk.symm.trans e; exact if_pos hfree
  case h_2 e _ => cases hk.symm.trans e
  case h_3 e _ => cases hk.symm.trans e

/-- Once the companion has left, it sends the group's tokens in their order (09 R194). -/
theorem execQuantGroupDrain_token {rest : List Token} (hstop : (s.cset n).iss.run ≠ .stopped) (hsave : (s.cset n).iss.run ≠ .saved) :
    let cs := s.cset n; let q := vget Quant.reset cs.quant o
    q.comp = none → q.drain = k :: rest → (s.cell n).routeFree 4 (vget none cs.iss.routes o) = true →
    execQuantGroupDrain n o s =
      .next ((s.emit n 0 cs.iss o k).updC n (fun c => { c with quant := vset c.quant o { q with drain := rest } })) := by
  intro cs q hk hdrain hfree
  refine (if_neg (Run.not_stopped_or_saved hstop hsave)).trans ?_
  split
  case h_1 e => cases hk.symm.trans e
  case h_2 _ e => cases hdrain.symm.trans e; exact if_pos hfree
  case h_3 _ e => cases hdrain.symm.trans e

end

end Sys2Proof.Machine

open Sys2Proof Sys2Proof.Machine in
/-- Settles O32: the bodies of TOPK and VQNT pass their tests and fire, or abort for a flag that is enabled as a trap; a null
source and the drain of a closed group take the branches that their events have for them. -/
theorem rankingAndQuantising : Obligations.RankingAndQuantising := by
  intro s
  refine ⟨?topk, ?vqnt, ?null, ?drain⟩
  case topk =>
    intro r d n cs q a x k w vr ir h hd hk1 hk hw htags old base best new rv ri
    have htag_ok : ¬ ((!bitB q 5 && (vr.tag ≠ 6 || ir.tag ≠ 7)) = true) := by
      rcases htags with hfresh | ⟨hv, hi⟩
      · simp [hfresh]
      · simp [hv, hi]
    show ∃ t, execTopk r s = .next t ∧ _
    rw [execTopk]
    refine State.fireC_firesOrTraps h ?_
    dsimp only
    rw [hd]
    exact (if_neg (topk_counts_ok hk1 hk hw)).trans (if_neg htag_ok)
  case vqnt =>
    intro r o n cs k a f m x seg q bl codes q' fl h hd hm hfit hseg
    have hseg_ok : ¬ (((m ≠ 32 && m ≠ 64 && m ≠ 128) || lanesOf f < seg * m + m || seg ≠ q.seg) = true) := by
      simp only [Bool.or_eq_true, Bool.and_eq_true, decide_eq_true_eq]
      omega
    show ∃ t, execVqnt r s = .next t ∧ _
    rw [execVqnt]
    dsimp only
    rw [h.1.ite_eq, if_neg (by simp [h.2])]
    refine State.fireC_firesOrTraps h ?_
    rw [dstOutput, hd]
    refine (if_neg hseg_ok).trans ?_
    simp only [beq_eq_decide, decide_eq_true_eq]
    rfl
  case null =>
    intro r o n cs k f m q q' h hn hd
    refine ⟨_, execVqnt_null h hn, ?_⟩
    rw [RuleFires, State.updC_updC]
    apply State.updC_congr
    rw [CSet.quantNull, dstOutput, hd]
    rfl
  case drain =>
    intro n o cs q hstop hsave
    exact ⟨fun k hk hfree => ⟨_, execQuantGroupDrain_companion hstop hsave hk hfree, rfl⟩,
      fun k rest hk hdrain hfree => ⟨_, execQuantGroupDrain_token hstop hsave hk hdrain hfree, rfl⟩⟩

end

/-!
PROOF. Integer instructions of the control core (05 R118): each form of the ALU group retires the value of its function, which is the
table's.
-/

section
namespace Sys2Proof.Machine

/-! ### Integer instructions (05 R118) -/

theorem bitsN_low_six {n : Nat} (b : BitVec n) : bitsN b 0 6 = b.toNat % 64 := by simp [bitsN]

theorem fSll_eq (x y : Word) : fSll x y = x <<< (y.toNat % 64) := by rw [fSll, bitsN_low_six]
theorem fSrl_eq (x y : Word) : fSrl x y = x >>> (y.toNat % 64) := by rw [fSrl, bitsN_low_six]
theorem fSra_eq (x y : Word) : fSra x y = x.sshiftRight (y.toNat % 64) := by rw [fSra, bitsN_low_six]

theorem mul_eq_ofNat (x y : Word) : x * y = BitVec.ofNat 64 (x.toNat * y.toNat) :=
  BitVec.eq_of_toNat_eq (by simp)

theorem fDivu_eq (x y : Word) : fDivu x y = if y = 0 then 0xFFFFFFFFFFFFFFFF#64 else BitVec.ofNat 64 (x.toNat / y.toNat) := by
  rw [fDivu, ← BitVec.toNat_udiv, BitVec.ofNat_toNat, BitVec.setWidth_eq]
  rfl

theorem fRemu_eq (x y : Word) : fRemu x y = if y = 0 then x else BitVec.ofNat 64 (x.toNat % y.toNat) := by
  rw [fRemu, ← BitVec.toNat_umod, BitVec.ofNat_toNat, BitVec.setWidth_eq]

theorem truth_slt (x y : Word) : truth (x.slt y) = if x.toInt < y.toInt then 1 else 0 := by simp [truth, BitVec.slt]
theorem truth_ult (x y : Word) : truth (x.ult y) = if x.toNat < y.toNat then 1 else 0 := by simp [truth, BitVec.ult]

theorem sMin_eq (x y : Word) : sMin x y = if x.toInt ≤ y.toInt then x else y := by
  rw [sMin, BitVec.slt, ← ite_not]
  simp

theorem sMax_eq (x y : Word) : sMax x y = if x.toInt ≤ y.toInt then y else x := by
  rw [sMax, BitVec.slt]
  simp only [decide_eq_true_eq]
  by_cases h : x.toInt = y.toInt
  · rw [BitVec.eq_of_toInt_eq h, ite_self, ite_self]
  · exact if_congr (by omega) rfl rfl

theorem signExtend_eq_ofInt {n : Nat} (i : BitVec n) (m : Nat) : i.signExtend m = BitVec.ofInt m i.toInt := rfl
theorem setWidth_eq_ofNat {n : Nat} (i : BitVec n) (m : Nat) : i.setWidth m = BitVec.ofNat m i.toNat :=
  (BitVec.ofNat_toNat m i).symm

/-- A shift amount of an immediate shift is its six bits. -/
theorem toNat_shamt (sh : BitVec 6) : (sh.setWidth 64).toNat % 64 = sh.toNat := by
  have := sh.isLt
  simp; omega

/-- The immediate of LUI (02 R47). -/
theorem lui_imm (i : BitVec 16) : (i ++ 0#16).signExtend 64 = BitVec.ofInt 64 (i.toInt * 0x10000) := by
  have h : (i ++ 0#16).toInt = i.toInt * 0x10000 := by
    have := i.isLt
    simp only [BitVec.toInt_eq_toNat_cond, toNat_append_add, BitVec.toNat_ofNat]
    split <;> split <;> omega
  rw [signExtend_eq_ofInt, h]

section
variable {s : State} {d a b : Reg}

/-- An instruction of the register form goes on with the function of its two registers. -/
theorem exec_aluForm {e : Instr × (Word → Word → Word)} {f : Word → Word → Word} (hc : s.focus.ctx < 64)
    (hx : exec e.1 s = aluForm f d a b s) (h : ∀ x y, f x y = e.2 x y) :
    ∃ t, exec e.1 s = .next t ∧
      GoesOn s t s.focus.ctx d (e.2 ((s.ctx s.focus.ctx).reg a) ((s.ctx s.focus.ctx).reg b)) ((s.ctx s.focus.ctx).pc + 4) :=
  ⟨_, hx, by rw [← h]; exact s.retire_goesOn _ _ hc⟩

/-- An instruction of the immediate form goes on with the function of its register. -/
theorem exec_aluImm {e : Instr × (Word → Word)} {f : Word → Word → Word} {k : Word} (hc : s.focus.ctx < 64)
    (hx : exec e.1 s = aluImm f d a k s) (h : f ((s.ctx s.focus.ctx).reg a) k = e.2 ((s.ctx s.focus.ctx).reg b)) :
    ∃ t, exec e.1 s = .next t ∧ GoesOn s t s.focus.ctx d (e.2 ((s.ctx s.focus.ctx).reg b)) ((s.ctx s.focus.ctx).pc + 4) :=
  ⟨_, hx, by rw [← h]; exact s.retire_goesOn _ _ hc⟩

end

end Sys2Proof.Machine

namespace Sys2Proof

/-- An immediate shift whose word has a nonzero bit in imm16 [15:6] is illegal (02 R47). -/
theorem decode_shift_none {w : BitVec 32} (hop : w.toNat / 2 ^ 26 = 6 ∨ w.toNat / 2 ^ 26 = 7 ∨ w.toNat / 2 ^ 26 = 8)
    (h : w.toNat % 2 ^ 16 / 2 ^ 6 ≠ 0) : decode w = none := by
  have hz : (bits w 6 10 == 0) = false := bits_ne_zero w 6 10 (by omega)
  rw [← opcode_toNat] at hop
  rcases hop with e | e | e <;> simp only [decode, e, hz, onlyIf, Bool.false_eq_true, if_false]

end Sys2Proof

open Sys2Proof Sys2Proof.Machine in
/-- Settles O6: each form retires the value of its function, which is that of the table of 05 R118; a shift word with a nonzero bit
above its amount fails the decoder's check. -/
theorem aluOperations : Obligations.AluOperations := by
  unfold Obligations.AluOperations
  refine ⟨fun d a b i sh s hc _ => ⟨?registers, ?immediates⟩, fun w hop h => decode_shift_none hop h⟩
  case registers =>
    intro e he
    simp only [List.mem_cons, List.not_mem_nil, or_false] at he
    rcases he with rfl | rfl | rfl | rfl | rfl | rfl | rfl | rfl | rfl | rfl | rfl | rfl | rfl | rfl | rfl | rfl
    · exact exec_aluForm hc rfl (fun _ _ => rfl)
    · exact exec_aluForm hc rfl (fun _ _ => rfl)
    · exact exec_aluForm hc rfl (fun _ _ => rfl)
    · exact exec_aluForm hc rfl (fun _ _ => rfl)
    · exact exec_aluForm hc rfl (fun _ _ => rfl)
    · exact exec_aluForm hc rfl fSll_eq
    · exact exec_aluForm hc rfl fSrl_eq
    · exact exec_aluForm hc rfl fSra_eq
    · exact exec_aluForm hc rfl mul_eq_ofNat
    · exact exec_aluForm (f := fMulh) hc rfl (fun _ _ => rfl)
    · exact exec_aluForm hc rfl fDivu_eq
    · exact exec_aluForm hc rfl fRemu_eq
    · exact exec_aluForm (f := fun x y => truth (x.slt y)) hc rfl truth_slt
    · exact exec_aluForm (f := fun x y => truth (x.ult y)) hc rfl truth_ult
    · exact exec_aluForm hc rfl sMin_eq
    · exact exec_aluForm hc rfl sMax_eq
  case immediates =>
    intro e he
    simp only [List.mem_cons, List.not_mem_nil, or_false] at he
    rcases he with rfl | rfl | rfl | rfl | rfl | rfl | rfl | rfl
    · exact exec_aluImm hc rfl rfl
    · exact exec_aluImm hc rfl (congrArg (_ &&& ·) (setWidth_eq_ofNat i 64))
    · exact exec_aluImm hc rfl (congrArg (_ ||| ·) (setWidth_eq_ofNat i 64))
    · exact exec_aluImm hc rfl (congrArg (_ ^^^ ·) (setWidth_eq_ofNat i 64))
    · exact exec_aluImm hc rfl (by rw [fSll_eq, toNat_shamt])
    · exact exec_aluImm hc rfl (by rw [fSrl_eq, toNat_shamt])
    · exact exec_aluImm hc rfl (by rw [fSra_eq, toNat_shamt])
    · exact exec_aluImm (f := fun _ k => k) (a := 0) (b := a) hc rfl (lui_imm i)

end

/-!
PROOF. Accesses of the control core (05 R110, R113, R115, R116, R120, R121): how a load, a store, an atomic and a fetch end, for each
outcome of the access, and the instructions that make them.
-/

section
namespace Sys2Proof.Machine

/-- Two updates of a context are one. -/
theorem State.updCtx_updCtx (s : State) {c : Nat} (f g : Context → Context) (hc : c < 64) :
    (s.updCtx c f).updCtx c g = s.updCtx c (fun x => g (f x)) := by
  simp only [State.updCtx, State.ctx, vget_vset_self _ _ _ _ hc]
  simp [vset]

/-! ### Words, addresses and traps -/

theorem wordOf_of_encode {i : Instr} {w : BitVec 32} (h : encode i = some w) : wordOf i = w := by rw [wordOf, h]; rfl

theorem aligned8 {va : Word} (h : va.toNat % 8 = 0) : ¬ (va &&& 7#64 ≠ 0) := fun g => (and7_iff va).mp g h
theorem aligned64 {va : Word} (h : va.toNat % 64 = 0) : ¬ (va &&& 63#64 ≠ 0) := fun g => (and63_iff va).mp g h

/-- A translation fault's payload (05 R113). -/
theorem State.accessTrap_fault3 (s : State) {c : Nat} (va : Word) (tk code : Nat) (w : Word) (hc : c < 64) :
    Traps s (s.accessTrap c va tk 3 code w) c 0x03 va (BitVec.ofNat 64 tk) (BitVec.ofNat 64 code) :=
  s.syncTrap_traps 3 va _ _ hc

/-- A permission fault's payload (05 R113). -/
theorem State.accessTrap_fault4 (s : State) {c : Nat} (va : Word) (tk code : Nat) (w : Word) (hc : c < 64) :
    Traps s (s.accessTrap c va tk 4 code w) c 0x04 va (BitVec.ofNat 64 (code % 16)) w :=
  s.syncTrap_traps 4 va _ _ hc

/-! ### Loads, stores and atomics, by the outcome of the access -/

section
variable {s : State} {c : Nat} {d : Reg} {va v : Word} {w : BitVec 32} {op : BitVec 4} {st sa : Nat}

theorem State.coreLoad_misaligned (hc : c < 64) (h : va.toNat % 8 ≠ 0) : Traps s (s.coreLoad c d va w) c 0x02 va 0 0 := by
  rw [State.coreLoad, if_pos ((and7_iff va).mpr h)]
  exact s.syncTrap_traps _ _ _ _ hc
theorem State.coreStore_misaligned (hc : c < 64) (h : va.toNat % 8 ≠ 0) : Traps s (s.coreStore c va v w) c 0x02 va 0 0 := by
  rw [State.coreStore, if_pos ((and7_iff va).mpr h)]
  exact s.syncTrap_traps _ _ _ _ hc
theorem State.coreAmo_misaligned (hc : c < 64) (h : va.toNat % 8 ≠ 0) : Traps s (s.coreAmo c d va v op w) c 0x02 va 0 0 := by
  rw [State.coreAmo, if_pos ((and7_iff va).mpr h)]
  exact s.syncTrap_traps _ _ _ _ hc

section
variable (h : va.toNat % 8 = 0)
include h

theorem State.coreLoad_at (hr : (s.coreReach c va .read).2 = .at st sa) :
    let u := (s.coreReach c va .read).1
    s.coreLoad c d va w = (u.countAccess st sa).retire c d (u.loadWord c st sa) := by
  simp only [State.coreLoad, if_neg (aligned8 h), hr]

theorem State.coreLoad_fault {cause code : Nat} (hr : (s.coreReach c va .read).2 = .fault cause code) :
    s.coreLoad c d va w = (s.coreReach c va .read).1.accessTrap c va 2 cause code (w.setWidth 64) := by
  simp only [State.coreLoad, if_neg (aligned8 h), hr]

theorem State.coreStore_at (hr : (s.coreReach c va .write).2 = .at st sa) :
    s.coreStore c va v w = ((s.coreReach c va .write).1.updCtx c (fun x => { x with stores := x.stores ++ [⟨va, st, sa, v⟩] })).advance c := by
  simp only [State.coreStore, if_neg (aligned8 h), hr]

theorem State.coreStore_fault {cause code : Nat} (hr : (s.coreReach c va .write).2 = .fault cause code) :
    s.coreStore c va v w = (s.coreReach c va .write).1.accessTrap c va 3 cause code (w.setWidth 64) := by
  simp only [State.coreStore, if_neg (aligned8 h), hr]

theorem State.coreAmo_at {m : State} (hr : (s.coreReach c va .atomic).2 = .at st sa) (hd : (s.coreReach c va .atomic).1.drain c = some m) :
    s.coreAmo c d va v op w =
      (m.writeAt (m.ctx c).job va.toNat st sa 8 (amoNew op (m.hbmWord st sa) v).toNat).retire c d (m.hbmWord st sa) := by
  simp only [State.coreAmo, if_neg (aligned8 h), hr, hd]

theorem State.coreAmo_fault {cause code : Nat} (hr : (s.coreReach c va .atomic).2 = .fault cause code) :
    s.coreAmo c d va v op w = (s.coreReach c va .atomic).1.accessTrap c va 4 cause code (w.setWidth 64) := by
  simp only [State.coreAmo, if_neg (aligned8 h), hr]

end

/-! ### Fetches (05 R110) -/

theorem State.coreFetch_at (hr : (s.coreReach c (s.ctx c).pc .fetch).2 = .at st sa) :
    let va := (s.ctx c).pc
    let u := (s.coreReach c va .fetch).1
    s.coreFetch c = (u.countAccess st sa).updCtx c (fun x =>
      { x with st := .ready, wait := .none, fetch := some (BitVec.ofNat 64 (va.toNat / 64 * 64), u.hbmUnit st sa) }) := by
  simp only [State.coreFetch, hr]

theorem State.coreFetch_wait (hr : (s.coreReach c (s.ctx c).pc .fetch).2 = .wait) :
    s.coreFetch c = (s.coreReach c (s.ctx c).pc .fetch).1.block c (.access (.fetch (s.ctx c).pc)) := by
  simp only [State.coreFetch, hr]

theorem State.coreFetch_fault {cause code : Nat} (hr : (s.coreReach c (s.ctx c).pc .fetch).2 = .fault cause code) :
    let u := (s.coreReach c (s.ctx c).pc .fetch).1
    s.coreFetch c = u.drawn.accessTrap c (s.ctx c).pc 1 cause code (Config.openWord u.freeCount) := by
  simp only [State.coreFetch, hr]

end

/-! ### The context of an access -/

/-- A load reads the newest of its context's queued stores to the word, or memory (05 R116). -/
theorem State.loadWord_eq (s : State) (c st sa : Nat) :
    s.loadWord c st sa = (match ((s.ctx c).stores.filter (fun p => p.stack = st ∧ p.sa = sa)).getLast? with
      | some p => p.v
      | none => memWord s.hbm (s.hbmKey st sa)) := by
  simp only [State.loadWord, ← List.getLast?_filter, Bool.decide_and, beq_eq_decide]
  rfl

/-- An instruction whose access of kind `tk` ends in the access's trap takes the trap of its fault (05 R113). -/
theorem traps_of_accessFaults {i : Instr} {s t : State} {c tk : Nat} {va : Word} {k : Kind} (hc : c < 64) (hx : exec i s = .next t)
    (hf : ∀ cause code, (s.coreReach c va k).2 = .fault cause code →
      t = (s.coreReach c va k).1.accessTrap c va tk cause code ((wordOf i).setWidth 64)) :
    (∀ code, (s.coreReach c va k).2 = .fault 3 code → ∃ t, exec i s = .next t ∧
      Traps (s.coreReach c va k).1 t c 0x03 va (BitVec.ofNat 64 tk) (BitVec.ofNat 64 code)) ∧
    (∀ code w, (s.coreReach c va k).2 = .fault 4 code → encode i = some w → ∃ t, exec i s = .next t ∧
      Traps (s.coreReach c va k).1 t c 0x04 va (BitVec.ofNat 64 (code % 16)) (w.setWidth 64)) := by
  refine ⟨fun code hr => ⟨t, hx, ?_⟩, fun code w hr hw => ⟨t, hx, ?_⟩⟩
  · rw [hf 3 code hr]
    exact State.accessTrap_fault3 _ _ _ _ _ hc
  · rw [hf 4 code hr, wordOf_of_encode hw]
    exact State.accessTrap_fault4 _ _ _ _ _ hc

/-- A context whose stores have taken effect is as before, but for its queue and the notes of its own writes. -/
theorem Drained.self {s t : State} {c : Nat} (h : Drained s t c) :
    t.ctx c = { s.ctx c with stores := [], fetch := (t.ctx c).fetch, waitcDirty := (t.ctx c).waitcDirty } := h.2.2.2
theorem Drained.pc {s t : State} {c : Nat} (h : Drained s t c) : (t.ctx c).pc = (s.ctx c).pc := by rw [h.self]

/-- The word at a place after a write there. -/
theorem State.memWord_writeAt {s : State} (hm : Memory.wf s.hbm = true) (j va st sa : Nat) (v : Word) :
    memWord (s.writeAt j va st sa 8 v.toNat).hbm (s.hbmKey st sa) = v := by
  rw [State.writeAt_hbm, memWord_memWrite _ hm]

/-- A write of a word at a place and an update of a context leave the rest of the machine. -/
theorem State.updCtx_writeAt_frame (s : State) (j va st sa v c : Nat) (f : Context → Context) :
    let t := (s.writeAt j va st sa 8 v).updCtx c f
    t = { s with ctxs := t.ctxs, cores := t.cores, reaches := t.reaches, hbm := t.hbm, pcreq := t.pcreq, pcNow := t.pcNow } := by
  dsimp only
  rw [State.writeAt8_frame]
  rfl

/-- A queued store takes effect where its stack takes it and no older store to its place stands before it (05 R116). -/
theorem exec_storeTakesEffect {s : State} {c n : Nat} {p : Pending} (hp : (s.ctx c).stores[n]? = some p)
    (ht : s.takesFor (s.ctx c).job p.stack = true) (hn : ∀ q ∈ (s.ctx c).stores.take n, ¬ (q.stack = p.stack ∧ q.sa = p.sa)) :
    exec (.memoryAccessComplete c (n + 1)) s =
      .next ((s.applyStore c p).updCtx c (fun x => { x with stores := x.stores.eraseIdx n })) := by
  have hfirst : ((s.ctx c).stores.take n).any (fun q => q.stack == p.stack && q.sa == p.sa) = false := by
    rw [List.any_eq_false]
    intro q hq
    simpa using hn q hq
  show execMemoryAccessComplete c (n + 1) s = _
  simp only [execMemoryAccessComplete, hp, ht, hfirst, Bool.not_true, Bool.or_self, Bool.false_eq_true, if_false]

/-- STRL stores from the state in which its context's earlier stores have taken effect. -/
theorem exec_strl {s m : State} {d a : Reg} {i : BitVec 16} (h : s.drain s.focus.ctx = some m) :
    exec (.strl d a i) s = .next (m.coreStore s.focus.ctx ((s.ctx s.focus.ctx).reg a + BitVec.ofInt 64 i.toInt) ((s.ctx s.focus.ctx).reg d)
      (wordOf (.strl d a i))) := by
  show execStrl d a i s = _
  simp only [execStrl, h]
  rfl

/-- FENCE goes on once its context's stores have taken effect, and blocks where one of them cannot (05 R122). -/
theorem exec_fence {s m : State} {sc : BitVec 3} (h : s.drain s.focus.ctx = some m) :
    exec (.fence sc) s = .next (m.advance s.focus.ctx) := by
  show execFence sc s = _
  simp only [execFence, h]
theorem exec_fence_blocked {s : State} {sc : BitVec 3} (h : s.drain s.focus.ctx = none) :
    exec (.fence sc) s = .next (s.block s.focus.ctx (.access .fence)) := by
  show execFence sc s = _
  simp only [execFence, h]

/-- A context that blocks keeps all but its state, its wait and the word it is to issue again. -/
theorem State.block_ctx (s : State) {c : Nat} (w : Wait) (hc : c < 64) :
    (s.block c w).ctx c = { s.ctx c with st := .blocked, wait := w, cur := if w = .access .fence then (s.ctx c).word else (s.ctx c).cur } :=
  s.updCtx_self _ hc

/-- Instructions that test the alignment of a register first trap on it: WAITC and WAITA to 8 bytes, LAUNCH and CFGLD to 64. -/
theorem exec_waitc_misaligned {s : State} {h b : Reg} {k : BitVec 2} (g : ((s.ctx s.focus.ctx).reg h).toNat % 8 ≠ 0) :
    exec (.waitc h b k) s = .next (s.syncTrap s.focus.ctx 0x02 ((s.ctx s.focus.ctx).reg h) 0 0) :=
  if_pos ((and7_iff _).mpr g)
theorem exec_waita_misaligned {s : State} {h b : Reg} {f : BitVec 1} (g : ((s.ctx s.focus.ctx).reg h).toNat % 8 ≠ 0) :
    exec (.waita h b f) s = .next (s.syncTrap s.focus.ctx 0x02 ((s.ctx s.focus.ctx).reg h) 0 0) :=
  if_pos ((and7_iff _).mpr g)
theorem exec_launch_misaligned {s : State} {h b : Reg} {a sh : BitVec 1} (n : ¬ (a = 1 ∧ sh = 1))
    (g : ((s.ctx s.focus.ctx).reg b).toNat % 64 ≠ 0) :
    exec (.launch h b a sh) s = .next (s.syncTrap s.focus.ctx 0x02 ((s.ctx s.focus.ctx).reg b) 0 0) :=
  (if_neg (by simpa using n)).trans (if_pos ((and63_iff _).mpr g))
theorem exec_cfgld_misaligned {s : State} {h b : Reg} {y : BitVec 4} {x : BitVec 5} (g : ((s.ctx s.focus.ctx).reg b).toNat % 64 ≠ 0) :
    exec (.cfgld h b y x) s = .next (s.syncTrap s.focus.ctx 0x02 ((s.ctx s.focus.ctx).reg b) 0 0) :=
  if_pos ((and63_iff _).mpr g)

end Sys2Proof.Machine

open Sys2Proof Sys2Proof.Machine in
/-- Settles O8: an access that reaches its place translates and makes the load retire the word it reads. -/
theorem loadsReadMemory : Obligations.LoadsReadMemory := by
  intro d a i s st sa c va u own hc _ hal hr
  have htr : Translates s u (s.ctx c).job va.toNat := State.coreReach_at hr
  have hgo (w : BitVec 32) : GoesOn (u.countAccess st sa) (s.coreLoad c d va w) c d (u.loadWord c st sa) ((s.ctx c).pc + 4) := by
    rw [State.coreLoad_at hal hr, ← htr.ctx]
    exact (u.countAccess st sa).retire_goesOn d _ hc
  rw [State.loadWord_eq, htr.ctx] at hgo
  refine ⟨htr, fun e he => ?_⟩
  simp only [List.mem_cons, List.not_mem_nil, or_false] at he
  rcases he with rfl | rfl
  · exact ⟨_, rfl, hgo _⟩
  · exact ⟨_, rfl, hgo _⟩

open Sys2Proof Sys2Proof.Machine in
/-- Settles O9: the test of the address is the first of each of these instructions, but for the drain of STRL. -/
theorem misalignedAccessesTrap : Obligations.MisalignedAccessesTrap := by
  intro d a b i sc o k f y x s c va hc
  refine ⟨fun h e he => ?plain, fun h m hm => ?strl, fun h e he => ?word, fun h e he => ?unit⟩
  case plain =>
    simp only [List.mem_cons, List.not_mem_nil, or_false] at he
    rcases he with rfl | rfl | rfl
    · exact ⟨_, rfl, State.coreLoad_misaligned hc h⟩
    · exact ⟨_, rfl, State.coreLoad_misaligned hc h⟩
    · exact ⟨_, rfl, State.coreStore_misaligned hc h⟩
  case strl => exact ⟨_, exec_strl hm, State.coreStore_misaligned hc h⟩
  case word =>
    simp only [List.mem_cons, List.not_mem_nil, or_false] at he
    rcases he with rfl | rfl | rfl
    · exact ⟨_, rfl, State.coreAmo_misaligned hc h⟩
    · exact ⟨_, exec_waitc_misaligned h, s.syncTrap_traps _ _ _ _ hc⟩
    · exact ⟨_, exec_waita_misaligned h, s.syncTrap_traps _ _ _ _ hc⟩
  case unit =>
    simp only [List.mem_cons, List.not_mem_nil, or_false] at he
    rcases he with rfl | rfl | rfl | rfl
    · exact ⟨_, exec_launch_misaligned (by decide) h, s.syncTrap_traps _ _ _ _ hc⟩
    · exact ⟨_, exec_launch_misaligned (by decide) h, s.syncTrap_traps _ _ _ _ hc⟩
    · exact ⟨_, exec_launch_misaligned (by decide) h, s.syncTrap_traps _ _ _ _ hc⟩
    · exact ⟨_, exec_cfgld_misaligned h, s.syncTrap_traps _ _ _ _ hc⟩

open Sys2Proof Sys2Proof.Machine in
/-- Settles O10: an aligned access that faults takes the trap of its fault, with the kind of its access and its own word. -/
theorem faultingAccessesTrap : Obligations.FaultingAccessesTrap := by
  intro d a b i sc o s c va hc e he hal
  simp only [List.mem_cons, List.not_mem_nil, or_false] at he
  rcases he with rfl | rfl | rfl | rfl
  · exact traps_of_accessFaults hc rfl (fun _ _ => State.coreLoad_fault hal)
  · exact traps_of_accessFaults hc rfl (fun _ _ => State.coreLoad_fault hal)
  · exact traps_of_accessFaults hc rfl (fun _ _ => State.coreStore_fault hal)
  · exact traps_of_accessFaults hc rfl (fun _ _ => State.coreAmo_fault hal)

open Sys2Proof Sys2Proof.Machine in
/-- Settles O11: the store joins the queue of its context in the state that its access leaves, which for STRL begins where the earlier
stores have taken effect. -/
theorem storesAreQueued : Obligations.StoresAreQueued := by
  intro d a i s st sa c va hc _ hal e m hem u hr
  have htr : Translates m u (m.ctx c).job va.toNat := State.coreReach_at hr
  have hx : exec e s = .next (m.coreStore c va ((s.ctx c).reg d) (wordOf e)) := by
    rcases hem with ⟨rfl, rfl⟩ | ⟨rfl, hd, -⟩
    · rfl
    · exact exec_strl hd
  have hpc : (m.ctx c).pc = (s.ctx c).pc := by
    rcases hem with ⟨-, rfl⟩ | ⟨-, -, hd⟩
    · rfl
    · exact hd.pc
  refine ⟨htr, _, hx, ?_⟩
  rw [State.coreStore_at hal hr, State.advance, State.updCtx_updCtx _ _ _ hc]
  refine ⟨OnlyCtx.updCtx _ _ _, ?_⟩
  rw [State.updCtx_self _ _ hc, htr.ctx, Context.advance_eq, hpc]

open Sys2Proof Sys2Proof.Machine in
/-- Settles O12: the event is a write at the store's place, and the entry's removal. -/
theorem queuedStoreTakesEffect : Obligations.QueuedStoreTakesEffect := by
  intro c n p s hc hm hp ht hn
  have hnotes := s.writeAt_notes (s.ctx c).job p.va.toNat p.stack p.sa 8 p.v.toNat
  refine ⟨_, exec_storeTakesEffect hp ht hn, State.memWord_writeAt hm (s.ctx c).job p.va.toNat _ _ _,
    s.writeAt_memory (s.ctx c).job p.va.toNat p.stack p.sa 8 p.v.toNat hm, State.updCtx_writeAt_frame .., fun k hk => ?others, ?own⟩
  case others =>
    rw [State.updCtx_of_ne _ _ hk]
    exact hnotes k
  case own =>
    rw [State.updCtx_self _ _ hc, State.applyStore, hnotes c]

open Sys2Proof Sys2Proof.Machine in
/-- Settles O13: an aligned AMO that reaches its place writes there once its context's stores have taken effect, and retires the old
word. -/
theorem atomicsReadModifyWrite : Obligations.AtomicsReadModifyWrite := by
  refine ⟨?performed, ?misaligned, ?encoding, rfl⟩
  case performed =>
    intro d a b sc o s m st sa c va v u old hc hal ho hm hr hd
    have htr : Translates s u (s.ctx c).job va.toNat := State.coreReach_at hr
    have hdr : Drained u m c := State.drain_spec hc hd
    have hmc := hdr.self
    rw [htr.ctx] at hmc
    have hnotes := m.writeAt_notes (m.ctx c).job va.toNat st sa 8 (amoNew o old v).toNat
    obtain ⟨⟨-, hothers, -⟩, hregs, hown⟩ := (m.writeAt (m.ctx c).job va.toNat st sa 8 (amoNew o old v).toNat).retire_goesOn d old hc
    have hx : exec (.amo d a b sc o) s = .next ((m.writeAt (m.ctx c).job va.toNat st sa 8 (amoNew o old v).toNat).retire c d old) :=
      congrArg _ (State.coreAmo_at hal hr hd)
    refine ⟨htr, hdr, _, hx, (State.memWord_writeAt hm (m.ctx c).job va.toNat _ _ _).trans (amoNew_eq o old v ho),
      m.writeAt_memory (m.ctx c).job va.toNat st sa 8 (amoNew o old v).toNat hm,
      m.updCtx_writeAt_frame .., fun k hk => ?others, fun r => ?reg, ?own⟩
    case others =>
      rw [hothers k hk]
      exact hnotes k
    case reg =>
      rw [hregs r, hnotes c, hmc]
      rfl
    case own =>
      rw [hown, hnotes c, hmc]
  case misaligned =>
    intro d a b sc o s c hc h
    exact ⟨_, rfl, State.coreAmo_misaligned hc h⟩
  case encoding =>
    intro d a b sc o
    rw [encode_amo]
    simp only [Option.map_some, toNat_append_add, BitVec.toNat_ofNat]
    congr 1
    omega

open Sys2Proof Sys2Proof.Machine in
/-- Settles O14: FENCE goes on from the state in which the context's stores have taken effect, or blocks. -/
theorem fenceAndIdle : Obligations.FenceAndIdle := by
  intro sc s hc _
  refine ⟨fun m hm => ?done, State.drain_some, fun hn => ?blocked, _, rfl, OnlyCtx.updCtx _ _ _, State.updCtx_self _ _ hc⟩
  case done =>
    have hdr := State.drain_spec hc hm
    exact ⟨hdr, _, exec_fence hm, hdr.pc ▸ m.advance_goesOn hc⟩
  case blocked => exact ⟨_, exec_fence_blocked hn, OnlyCtx.updCtx _ _ _, s.block_ctx _ hc⟩

end

/-!
PROOF. Fetches and accesses that wait (05 R110, R115, R116): a fetch may have to wait for a walker of its die, also one that will fault,
and what a waiting access does when it is tried again.
-/

section
namespace Sys2Proof.Machine

/-! ### A fetch outside the 52-bit space (05 R119, 14 R270, R272) -/

/-- An access outside the 52-bit space that no cache of its die serves waits while every walker of the die is busy. -/
theorem State.coreReach_walkersBusy {s : State} {c : Nat} {va : Word} {k : Kind} (hva : 2 ^ 52 ≤ va.toNat)
    (hd : tlbFind (vget [] s.dtlb (c / 32)) (s.ctx c).job va.toNat k = none) (hw : s.walkerFree (c / 32) (s.ctx c).job va.toNat = false) :
    (s.coreReach c va k).2 = .wait := by
  have hdie : ctxCore c / 4 = c / 32 := Nat.div_div_eq_div_mul c 8 4
  simp only [State.coreReach, State.coreTranslate, if_neg (Nat.not_lt.mpr hva), State.dieAccess, hdie, hd, hw, Option.isSome_none,
    Bool.not_false, Bool.false_eq_true, if_false, if_true, State.settleAccess]

/-- Context 0 of job 1 with its pc just outside the 52-bit space, while 64 requests of cell 0 walk at die 0. -/
def farFetch : State :=
  { State.reset with
    ctxs := vset State.reset.ctxs 0 { Context.reset with st := .ready, job := 1, pc := 0x10000000000000#64 }
    walks := (List.range 64).map (fun i => { die := 0, job := 1, page := i, reqs := [(0, false, i)], own := none }) }

theorem farFetch_blocks : ∃ u : State, exec (.instructionFetch 0) farFetch = .next u ∧ (u.ctx 0).st = .blocked := by
  have hr : (farFetch.coreReach 0 (farFetch.ctx 0).pc .fetch).2 = .wait :=
    State.coreReach_walkersBusy (by decide) rfl (by decide)
  exact ⟨_, congrArg Host.Outcome.next (State.coreFetch_wait hr), by rw [State.block_ctx _ _ (by decide)]⟩

end Sys2Proof.Machine

open Sys2Proof Sys2Proof.Machine in
/-- Refutes O7, by its last clause: it says that a fetch outside the 52-bit space that no translation cache serves always traps at once,
while a fetch that finds every walker of its die busy waits first. `farFetch` shows it. -/
theorem not_branchesAndJumps : ¬ Obligations.BranchesAndJumps := by
  rintro ⟨-, hfetch⟩
  obtain ⟨t, ht, htrap⟩ := hfetch 0 farFetch (by decide) (by decide) rfl
  obtain ⟨u, hu, hblocked⟩ := farFetch_blocks
  have hut : u = t := by rw [hu] at ht; cases ht; rfl
  have hhalted : (t.ctx 0).st = .halted := by
    rw [Traps, if_neg (by decide)] at htrap
    rw [htrap, State.updCtx_self _ _ (by decide)]
  rw [hut, hhalted] at hblocked
  cases hblocked

namespace Sys2Proof.Machine

/-! ### A waiting access is tried again (05 R115) -/

section
variable {s : State} {c : Nat} (hb : (s.ctx c).st = .blocked)
include hb

theorem exec_retry_load {d : Reg} {va : Word} {w : BitVec 32} (hw : (s.ctx c).wait = .access (.load d va w)) :
    exec (.memoryAccessComplete c 0) s = .next (s.coreLoad c d va w) := by
  show execMemoryAccessComplete c 0 s = _
  simp only [execMemoryAccessComplete, hb, hw]
theorem exec_retry_store {va v : Word} {w : BitVec 32} (hw : (s.ctx c).wait = .access (.store va v w)) :
    exec (.memoryAccessComplete c 0) s = .next (s.coreStore c va v w) := by
  show execMemoryAccessComplete c 0 s = _
  simp only [execMemoryAccessComplete, hb, hw]
theorem exec_retry_amo {d : Reg} {va v : Word} {o : BitVec 4} {w : BitVec 32} (hw : (s.ctx c).wait = .access (.amo d va v o w)) :
    exec (.memoryAccessComplete c 0) s = .next (s.coreAmo c d va v o w) := by
  show execMemoryAccessComplete c 0 s = _
  simp only [execMemoryAccessComplete, hb, hw]
theorem exec_retry_fetch {va : Word} (hw : (s.ctx c).wait = .access (.fetch va)) :
    exec (.memoryAccessComplete c 0) s = .next (s.coreFetch c) := by
  show execMemoryAccessComplete c 0 s = _
  simp only [execMemoryAccessComplete, hb, hw]
theorem exec_retry_fence {m : State} (hw : (s.ctx c).wait = .access .fence) (hm : s.drain c = some m) :
    exec (.memoryAccessComplete c 0) s = .next (m.updCtx c (fun x => { x with st := .ready })) := by
  show execMemoryAccessComplete c 0 s = _
  simp only [execMemoryAccessComplete, hb, hw, hm]
theorem exec_retry_again (hw : (s.ctx c).wait = .access .again) :
    exec (.memoryAccessComplete c 0) s = .next (s.updCtx c (fun x => { x with st := .ready, wait := .none })) := by
  show execMemoryAccessComplete c 0 s = _
  simp only [execMemoryAccessComplete, hb, hw]

end

end Sys2Proof.Machine

open Sys2Proof Sys2Proof.Machine in
/-- Settles O23: a fetch ends as its access does, and an access that is tried again does what it would have done at once. -/
theorem fetchesAndRetries : Obligations.FetchesAndRetries := by
  intro c s hc x va f
  refine ⟨?fetched, ?waits, ?fault3, ?fault4, ?amo, ?load, ?store, ?fence, ?again⟩
  case fetched =>
    intro st sa hr
    have htr : Translates s f.1 x.job va.toNat := State.coreReach_at hr
    refine ⟨htr, fun e he => ?_⟩
    have hx : exec e s = .next (s.coreFetch c) := by
      rcases he with rfl | ⟨rfl, hb, a, hw⟩
      · rfl
      · exact exec_retry_fetch hb hw
    refine ⟨_, hx, ?_⟩
    rw [State.coreFetch_at hr]
    refine ⟨OnlyCtx.updCtx _ _ _, ?_⟩
    rw [State.updCtx_self _ _ hc, State.countAccess_ctx, htr.ctx]
    rfl
  case waits =>
    intro hr
    exact ⟨_, congrArg Host.Outcome.next (State.coreFetch_wait hr), OnlyCtx.updCtx _ _ _, f.1.block_ctx _ hc⟩
  case fault3 =>
    intro code hr
    exact ⟨_, congrArg Host.Outcome.next (State.coreFetch_fault hr), f.1.drawn.accessTrap_fault3 _ _ _ _ hc⟩
  case fault4 =>
    intro code hr
    exact ⟨_, _, congrArg Host.Outcome.next (State.coreFetch_fault hr), f.1.drawn.accessTrap_fault4 _ _ _ _ hc⟩
  case amo =>
    intro d a b sc o w hf hb hw he
    rw [exec_retry_amo hb hw, ← wordOf_of_encode he]
    subst hf
    rfl
  case load =>
    intro d a w st sa hb hw hal hr u hown
    have htr : Translates s u x.job a.toNat := State.coreReach_at hr
    refine ⟨htr, _, exec_retry_load hb hw, ?_⟩
    rw [State.coreLoad_at hal hr, State.loadWord_none _ _ _ _ (by rw [htr.ctx]; exact hown)]
    have hpc : ((u.countAccess st sa).ctx c).pc = va := by rw [State.countAccess_ctx, htr.ctx]
    exact hpc ▸ (u.countAccess st sa).retire_goesOn d _ hc
  case store =>
    intro a v w st sa hb hw hal hr u
    have htr : Translates s u x.job a.toNat := State.coreReach_at hr
    refine ⟨htr, _, exec_retry_store hb hw, ?_⟩
    rw [State.coreStore_at hal hr, State.advance, State.updCtx_updCtx _ _ _ hc]
    refine ⟨OnlyCtx.updCtx _ _ _, ?_⟩
    rw [State.updCtx_self _ _ hc, htr.ctx, Context.advance_eq]
  case fence =>
    intro m hb hw hm
    exact ⟨State.drain_spec hc hm, _, exec_retry_fence hb hw hm, OnlyCtx.updCtx _ _ _, State.updCtx_self _ _ hc⟩
  case again =>
    intro hb hw
    exact ⟨_, exec_retry_again hb hw, OnlyCtx.updCtx _ _ _, State.updCtx_self _ _ hc⟩

end

/-!
PROOF. Control and status registers (05 R111, R134): the layout of each register as a number, and what a write changes of a context.
-/

section
namespace Sys2Proof.Machine

/-! ### Registers as numbers (05 R111) -/

/-- A field above bit k joins the bits below it. -/
theorem or_ofNat_mul_pow (x : Word) (n k : Nat) (hx : x.toNat < 2 ^ k) :
    x ||| BitVec.ofNat 64 (n * 2 ^ k) = BitVec.ofNat 64 (x.toNat + n * 2 ^ k) := by
  rw [Nat.add_comm, Nat.mul_comm, Nat.two_pow_add_eq_or_of_lt hx, BitVec.ofNat_or, BitVec.ofNat_toNat, BitVec.setWidth_eq, BitVec.or_comm]

/-- The three flags of cc.status. -/
theorem status_flags (a b c : Bool) : bitW a 0 ||| bitW b 1 ||| bitW c 2 = BitVec.ofNat 64 (b2n a + 2 * b2n b + 4 * b2n c) := by
  revert a b c
  decide

theorem State.csr_status (s : State) (c : Nat) : s.csr c 0x000 = BitVec.ofNat 64 (b2n (s.ctx c).intr + 2 * b2n (s.ctx c).spur
    + 4 * b2n (s.ctx c).glate + 2 ^ 8 * (c % 8) + 2 ^ 11 * (c / 8 % 4) + 2 ^ 13 * (c / 32)) := by
  have hb (b : Bool) : b2n b ≤ 1 := by cases b <;> decide
  have hi := hb (s.ctx c).intr
  have hs := hb (s.ctx c).spur
  have hg := hb (s.ctx c).glate
  have hn : c % 8 * 2 ^ 8 + c / 8 % 4 * 2 ^ 11 + c / 32 * 2 ^ 13 = (c % 8 + c / 8 % 4 * 8 + c / 32 * 32) * 2 ^ 8 := by ring
  show bitW _ 0 ||| bitW _ 1 ||| bitW _ 2 ||| BitVec.ofNat 64 _ = _
  rw [status_flags, hn, or_ofNat_mul_pow _ _ _ (by rw [BitVec.toNat_ofNat]; omega), BitVec.toNat_ofNat]
  congr 1
  omega

theorem State.csr_cause (s : State) (c : Nat) : s.csr c 0x001 = BitVec.ofNat 64 ((s.ctx c).cause.toNat + 2 ^ 8 * b2n (s.ctx c).async) := by
  have hlt := (s.ctx c).cause.isLt
  have hb : bitW (s.ctx c).async 8 = BitVec.ofNat 64 (b2n (s.ctx c).async * 2 ^ 8) := by cases (s.ctx c).async <;> rfl
  show (s.ctx c).cause.setWidth 64 ||| bitW _ 8 = _
  rw [hb, or_ofNat_mul_pow _ _ _ (by rw [BitVec.toNat_setWidth]; omega), BitVec.toNat_setWidth, Nat.mul_comm (2 ^ 8)]
  congr 1
  omega

theorem State.csr_tunit (s : State) (c : Nat) :
    s.csr c 0x007 = BitVec.ofNat 64 ((s.ctx c).tunit.toNat + 2 ^ 12 * (s.ctx c).tukind.toNat) := by
  show ((s.ctx c).tukind ++ (s.ctx c).tunit).setWidth 64 = _
  rw [setWidth_eq_ofNat, toNat_append_add, Nat.add_comm, Nat.mul_comm]

theorem State.csr_coll (s : State) (c : Nat) :
    s.csr c 0x00C = BitVec.ofNat 64 ((s.ctx c).cstate.toNat + 2 ^ 32 * (s.ctx c).ccount.toNat) := by
  show ((s.ctx c).ccount ++ (0#30 ++ (s.ctx c).cstate)).setWidth 64 = _
  rw [setWidth_eq_ofNat, toNat_append_add, toNat_append_add]
  congr 1
  simp
  omega

/-- cc.mon counts the monitor entries of the context and of its core. -/
theorem State.csr_mon (s : State) (c : Nat) (h : (s.core (c / 8)).mon.length ≤ 64) :
    bitsN (s.csr c 0x00D) 0 7 = ((s.core (c / 8)).mon.filter (fun m => m.ctx == c)).length ∧
      bitsN (s.csr c 0x00D) 8 7 = (s.core (c / 8)).mon.length := by
  have hle := List.length_filter_le (fun m : Monitor => m.ctx == c) (s.core (c / 8)).mon
  have hcsr : s.csr c 0x00D =
      BitVec.ofNat 64 (((s.core (c / 8)).mon.filter (fun m => m.ctx == c)).length + (s.core (c / 8)).mon.length * 2 ^ 8) := rfl
  have hv : (s.csr c 0x00D).toNat =
      ((s.core (c / 8)).mon.filter (fun m => m.ctx == c)).length + (s.core (c / 8)).mon.length * 2 ^ 8 := by
    rw [hcsr, BitVec.toNat_ofNat]
    omega
  constructor
  · refine (bits_toNat _ 0 7).trans ?_
    omega
  · refine (bits_toNat _ 8 7).trans ?_
    omega

/-- Bit i of a word whose bits are given one by one. -/
theorem getLsbD_foldl_bitW (f : Nat → Bool) (i : Nat) : ∀ n, n ≤ 64 →
    ((List.range n).foldl (fun v j => v ||| bitW (f j) j) 0).getLsbD i = (decide (i < n) && f i)
  | 0, _ => by simp
  | n + 1, h => by
    have hbit : (bitW (f n) n).getLsbD i = (decide (i = n) && f i) := by
      unfold bitW
      by_cases e : i = n
      · subst e
        cases f i <;> simp [BitVec.getLsbD_twoPow]
        omega
      · cases f n <;> simp [BitVec.getLsbD_twoPow, e]
        omega
    rw [List.range_succ, List.foldl_append, List.foldl_cons, List.foldl_nil, BitVec.getLsbD_or, getLsbD_foldl_bitW f i n (by omega), hbit,
      ← Bool.and_or_distrib_right, ← Bool.decide_or]
    congr 2
    exact propext (by omega)

/-- cc.handles shows the slots that hold a reach. -/
theorem State.csr_handles (s : State) (c : Nat) (i : Fin 8) : bitB (s.csr c 0x00E) i = ((s.ctx c).slots[i]).reach.isSome := by
  show ((List.range 8).foldl (fun v j => v ||| bitW (vget ⟨0, none⟩ (s.ctx c).slots j).reach.isSome j) 0).getLsbD i = _
  rw [getLsbD_foldl_bitW (fun j => (vget ⟨0, none⟩ (s.ctx c).slots j).reach.isSome) i 8 (by decide)]
  simp [vget, Vector.getD]

/-! ### CSRRD and CSRWR (05 R134) -/

theorem exec_csrrd {s : State} {d : Reg} {n : BitVec 16} (h : n.toNat ≤ 0x00E) :
    exec (.csrrd d n) s = .next (s.retire s.focus.ctx d (s.csr s.focus.ctx n)) :=
  if_neg (by simp [csrImplemented, h])

theorem exec_csrwr {s : State} {a : Reg} {n : BitVec 16} (h : n.toNat ≤ 0x00E) :
    exec (.csrwr a n) s = .next (s.updCtx s.focus.ctx (fun x => (x.csrWrite n (x.reg a)).advance)) :=
  if_neg (by simp [csrImplemented, h])

/-- CSRRD goes on with the register's value. -/
theorem exec_csrrd_goesOn {s : State} {d : Reg} (hc : s.focus.ctx < 64) {e : BitVec 16 × Word} (h : e.1.toNat ≤ 0x00E)
    (hv : s.csr s.focus.ctx e.1 = e.2) :
    ∃ t, exec (.csrrd d e.1) s = .next t ∧ GoesOn s t s.focus.ctx d e.2 ((s.ctx s.focus.ctx).pc + 4) :=
  ⟨_, exec_csrrd h, hv ▸ s.retire_goesOn d _ hc⟩

/-- The fields that a write of a control and status register changes. -/
theorem Context.csrWrite_eq (x : Context) (n : BitVec 16) (v : Word) : x.csrWrite n v = { x with
    spur := if n = 0x000 ∧ bitB v 1 = true then false else x.spur,
    glate := if n = 0x000 ∧ bitB v 2 = true then false else x.glate,
    epc := if n = 0x002 then v &&& 0xFFFFFFFFFFFFFFFC#64 else x.epc,
    tvec := if n = 0x003 then v &&& 0xFFFFFFFFFFFFFFFC#64 else x.tvec,
    scratch := if n = 0x00B then v else x.scratch } := by
  have hn (k : BitVec 16) : n.toNat = k.toNat → n = k := BitVec.eq_of_toNat_eq
  unfold Context.csrWrite
  split
  case h_1 h =>
    rw [hn 0x000 h]
    cases bitB v 1 <;> cases bitB v 2 <;> simp
  case h_2 h =>
    rw [hn 0x002 h]
    rfl
  case h_3 h =>
    rw [hn 0x003 h]
    rfl
  case h_4 h =>
    rw [hn 0x00B h]
    rfl
  case h_5 h0 h2 h3 hB =>
    rw [if_neg (fun g => h0 (by rw [g.1]; rfl)), if_neg (fun g => h0 (by rw [g.1]; rfl)), if_neg (fun g => h2 (by rw [g]; rfl)),
      if_neg (fun g => h3 (by rw [g]; rfl)), if_neg (fun g => hB (by rw [g]; rfl))]

/-! ### Numbers that the part does not implement -/

theorem decode_csrrd_none {d : Reg} {n : BitVec 16} (h : 0x00E < n.toNat) : decode (0x30#6 ++ d ++ 0#5 ++ n) = none := by
  have hd := d.isLt
  have hn := n.isLt
  have hop : (bits (0x30#6 ++ d ++ 0#5 ++ n) 26 6).toNat = 0x30 := by
    rw [opcode_toNat, toNat_append_add, toNat_append_add, toNat_append_add, BitVec.toNat_ofNat, BitVec.toNat_ofNat]
    omega
  have himm : imm (0x30#6 ++ d ++ 0#5 ++ n) = n := bits_append_low _ n
  have hi : csrImplemented n = false := decide_eq_false (Nat.not_le.mpr h)
  simp only [decode, hop, himm, hi, Bool.and_false, onlyIf, Bool.false_eq_true, if_false]

theorem decode_csrwr_none {a : Reg} {n : BitVec 16} (h : 0x00E < n.toNat) : decode (0x31#6 ++ 0#5 ++ a ++ n) = none := by
  have ha := a.isLt
  have hn := n.isLt
  have hop : (bits (0x31#6 ++ 0#5 ++ a ++ n) 26 6).toNat = 0x31 := by
    rw [opcode_toNat, toNat_append_add, toNat_append_add, toNat_append_add, BitVec.toNat_ofNat, BitVec.toNat_ofNat]
    omega
  have himm : imm (0x31#6 ++ 0#5 ++ a ++ n) = n := bits_append_low _ n
  have hi : csrImplemented n = false := decide_eq_false (Nat.not_le.mpr h)
  simp only [decode, hop, himm, hi, Bool.and_false, onlyIf, Bool.false_eq_true, if_false]

theorem exec_csrrd_illegal {s : State} {d : Reg} {n : BitVec 16} (h : 0x00E < n.toNat) :
    exec (.csrrd d n) s = .next (s.syncTrap s.focus.ctx 0x01 ((wordOf (.csrrd d n)).setWidth 64) 0 0) :=
  if_pos (by simp [csrImplemented, h])
theorem exec_csrwr_illegal {s : State} {a : Reg} {n : BitVec 16} (h : 0x00E < n.toNat) :
    exec (.csrwr a n) s = .next (s.syncTrap s.focus.ctx 0x01 ((wordOf (.csrwr a n)).setWidth 64) 0 0) :=
  if_pos (by simp [csrImplemented, h])

end Sys2Proof.Machine

open Sys2Proof Sys2Proof.Machine in
/-- Settles O15: the value of each register in its layout, the fields that a write changes, and the decoder's check of the number. -/
theorem csrAccesses : Obligations.CsrAccesses := by
  refine ⟨?read, ?write, ?illegal, rfl⟩
  case read =>
    intro d s c x hc _
    refine ⟨fun e he => ?_, ?_, ?_⟩
    · simp only [List.mem_cons, List.not_mem_nil, or_false] at he
      rcases he with rfl | rfl | rfl | rfl | rfl | rfl | rfl | rfl | rfl | rfl | rfl | rfl | rfl
      · exact exec_csrrd_goesOn hc (Nat.le_of_ble_eq_true rfl) (s.csr_status c)
      · exact exec_csrrd_goesOn hc (Nat.le_of_ble_eq_true rfl) (s.csr_cause c)
      · exact exec_csrrd_goesOn hc (Nat.le_of_ble_eq_true rfl) rfl
      · exact exec_csrrd_goesOn hc (Nat.le_of_ble_eq_true rfl) rfl
      · exact exec_csrrd_goesOn hc (Nat.le_of_ble_eq_true rfl) rfl
      · exact exec_csrrd_goesOn hc (Nat.le_of_ble_eq_true rfl) rfl
      · exact exec_csrrd_goesOn hc (Nat.le_of_ble_eq_true rfl) rfl
      · exact exec_csrrd_goesOn hc (Nat.le_of_ble_eq_true rfl) (s.csr_tunit c)
      · exact exec_csrrd_goesOn hc (Nat.le_of_ble_eq_true rfl) rfl
      · exact exec_csrrd_goesOn hc (Nat.le_of_ble_eq_true rfl) rfl
      · exact exec_csrrd_goesOn hc (Nat.le_of_ble_eq_true rfl) rfl
      · exact exec_csrrd_goesOn hc (Nat.le_of_ble_eq_true rfl) rfl
      · exact exec_csrrd_goesOn hc (Nat.le_of_ble_eq_true rfl) (s.csr_coll c)
    · exact ⟨_, _, exec_csrrd (by decide), s.retire_goesOn d _ hc, s.csr_mon c⟩
    · exact ⟨_, _, exec_csrrd (by decide), s.retire_goesOn d _ hc, s.csr_handles c⟩
  case write =>
    intro a n s c x v hc hst hn
    refine ⟨_, exec_csrwr hn, OnlyCtx.updCtx _ _ _, ?_⟩
    rw [State.updCtx_self _ _ hc, Context.advance_eq, Context.csrWrite_eq, ← hst]
  case illegal =>
    intro d n w s hc hn e he hw
    simp only [List.mem_cons, List.not_mem_nil, or_false] at he
    rcases he with rfl | rfl
    · rw [exec_csrrd_illegal hn, wordOf_of_encode hw, setWidth_eq_ofNat]
      cases hw
      exact ⟨decode_csrrd_none hn, _, rfl, s.syncTrap_traps _ _ _ _ hc⟩
    · rw [exec_csrwr_illegal hn, wordOf_of_encode hw, setWidth_eq_ofNat]
      cases hw
      exact ⟨decode_csrwr_none hn, _, rfl, s.syncTrap_traps _ _ _ _ hc⟩

end

/-!
PROOF. Traps, returns and starts of contexts (05 R108, R110, R112 to R114, R135).
-/

section
namespace Sys2Proof.Machine

/-! ### TRAP, illegal words and RETT (05 R114, R135) -/

theorem Context.return_eq (x : Context) : x.return = { x with intr := false, pc := x.epc, fetch := keptFetch x.fetch x.epc } := by
  rw [Context.return, Context.goto_eq]

theorem exec_rett {s : State} (h : (s.ctx s.focus.ctx).intr = true) : exec .rett s = .next (s.updCtx s.focus.ctx Context.return) :=
  if_pos h
theorem exec_rett_illegal {s : State} (h : (s.ctx s.focus.ctx).intr = false) :
    exec .rett s = .next (s.syncTrap s.focus.ctx 0x01 0xE4000000#64 0 0) :=
  if_neg (by rw [h]; exact Bool.false_ne_true)

/-! ### Asynchronous traps (05 R112, R113) -/

/-- A context from whose list the trap of a cause has gone. -/
def Context.without (x : Context) (cause : Nat) : Context := { x with traps := x.traps.filter (fun v => v.cause != cause) }

/-- A context takes a trap where it has a handler that does not run (05 R113). -/
theorem Context.canTake_iff (x : Context) : x.canTake = true ↔ x.tvec ≠ 0 ∧ x.intr = false := by
  simp [Context.canTake]

@[simp] theorem Context.canTake_without (x : Context) (cause : Nat) : (x.without cause).canTake = x.canTake := rfl

/-- An interruptible context outside a handler takes the held trap of least cause, which leaves its list. -/
theorem exec_asyncTrap {s : State} {c : Nat} {u : Trap} (hi : (s.ctx c).intr = false) (hb : (s.ctx c).interruptible = true)
    (hu : (s.ctx c).nextTrap = some u) :
    exec (.asyncTrap c) s = .next ((s.updCtx c (fun x => x.without u.cause)).takeTrap c true u (s.ctx c).pc) := by
  show execAsyncTrap c s = _
  simp only [execAsyncTrap, hi, hb, hu, Bool.not_true, Bool.or_self, Bool.false_eq_true, if_false]
  rfl

/-- An asynchronous trap enters the handler where it can be taken (05 R113). -/
theorem State.takeTrap_enters {s : State} {c : Nat} {async : Bool} {u : Trap} {epc : Word} (h : (s.ctx c).canTake = true) :
    s.takeTrap c async u epc = s.updCtx c (fun x => x.enter async u epc) := by
  rw [State.takeTrap, if_pos h]

/-- Otherwise the context halts; its record stands in the log already (05 R113). -/
theorem State.takeTrap_async_halts {s : State} {c : Nat} {u : Trap} {epc : Word} (h : (s.ctx c).canTake = false) :
    s.takeTrap c true u epc = s.updCtx c (fun x => { x with st := .halted, wait := .none }) := by
  simp only [State.takeTrap, h, Bool.false_eq_true, if_false, if_true]

/-! ### Starts and restarts (05 R108, R110) -/

theorem exec_contextStart {s : State} {c job : Nat} {pc : Word} (hc : c < 64) (hf : (s.ctx c).st = .free) (h1 : 1 ≤ job) (h63 : job ≤ 63) :
    exec (.contextStart c job pc) s =
      .next (s.updCtx c (fun x => { x.start job pc 0 0 s.cycle with slots := Vector.replicate 8 ⟨0, none⟩, stores := [] })) :=
  if_pos (by simp [hf, h1, h63, hc])

theorem exec_contextRestart {s : State} {c : Nat} {pc : Word} (h : (s.ctx c).st = .idle ∨ (s.ctx c).st = .halted) :
    exec (.contextRestart c pc) s =
      .next ((s.freeMon c).updCtx c (fun x => { x.start x.job pc 0 0 s.cycle with traps := x.traps })) :=
  if_pos (by simpa using h)

/-- Freeing a context's monitor entries leaves those of the others. -/
theorem State.freeMon_mon (s : State) {c : Nat} (hc : c < 64) :
    ((s.freeMon c).core (c / 8)).mon = (s.core (c / 8)).mon.filter (fun m => m.ctx != c) := by
  rw [State.freeMon, ctxCore, State.updCore_self _ _ (by omega)]

end Sys2Proof.Machine

namespace Sys2Proof

/-- The word of a TRAP (05 R135). -/
theorem encode_trap_eq (i : BitVec 16) : encode (.trap i) = some (0xE0000000#32 + i.setWidth 32) := by
  have hi := i.isLt
  rw [encode_trap]
  congr 1
  apply BitVec.eq_of_toNat_eq
  rw [toNat_append_add, toNat_append_add, BitVec.toNat_add, BitVec.toNat_setWidth]
  simp only [BitVec.toNat_ofNat]
  omega

/-- A TRAP word with nonzero xd or xa is illegal (05 R135). -/
theorem decode_trap_none {w : BitVec 32} (hop : w.toNat / 2 ^ 26 = 0x38) (h : w.toNat / 2 ^ 16 % 2 ^ 10 ≠ 0) : decode w = none := by
  rw [← opcode_toNat] at hop
  simp only [decode, hop, bits_ne_zero w 16 10 h, onlyIf, Bool.false_eq_true, if_false]

end Sys2Proof

open Sys2Proof Sys2Proof.Machine in
/-- Settles O16: TRAP, an illegal word and a RETT outside a handler are synchronous traps; RETT in a handler is the return. -/
theorem trapsAndReturn : Obligations.TrapsAndReturn := by
  refine ⟨?_, encode_trap_eq, fun w => decode_trap_none⟩
  intro s c x hc
  refine ⟨fun i => ?trap, fun w => ?illegal, fun hi => ?rett, fun hi => ?rettIllegal⟩
  case trap => exact ⟨_, rfl, setWidth_eq_ofNat i 64 ▸ s.syncTrap_traps _ _ _ _ hc⟩
  case illegal => exact ⟨_, rfl, setWidth_eq_ofNat w 64 ▸ s.syncTrap_traps _ _ _ _ hc⟩
  case rett =>
    refine ⟨_, exec_rett hi, OnlyCtx.updCtx _ _ _, ?_⟩
    rw [State.updCtx_self _ _ hc, Context.return_eq]
  case rettIllegal => exact ⟨_, exec_rett_illegal hi, s.syncTrap_traps _ _ _ _ hc⟩

open Sys2Proof Sys2Proof.Machine in
/-- Settles O17: the trap that is taken is the one of least cause, and it enters the handler or halts the context. -/
theorem asynchronousTrap : Obligations.AsynchronousTrap := by
  intro c s x hc hi hne hb
  obtain ⟨u, hu, hmem, hleast⟩ := nextTrap_spec x hne
  have hx := exec_asyncTrap hi hb hu
  have hself : (s.updCtx c (fun x => x.without u.cause)).ctx c = x.without u.cause := State.updCtx_self _ _ hc
  by_cases htv : x.tvec = 0
  · rw [State.takeTrap_async_halts (by rw [hself, Context.canTake_without]; exact Bool.eq_false_iff.mpr (fun h => (x.canTake_iff.mp h).1 htv)), State.updCtx_updCtx _ _ _ hc] at hx
    exact ⟨_, u, hx, OnlyCtx.updCtx _ _ _, hmem, hleast, fun h => absurd htv h, fun _ => State.updCtx_self _ _ hc⟩
  · rw [State.takeTrap_enters (by rw [hself, Context.canTake_without]; exact x.canTake_iff.mpr ⟨htv, hi⟩), State.updCtx_updCtx _ _ _ hc] at hx
    refine ⟨_, u, hx, OnlyCtx.updCtx _ _ _, hmem, hleast, fun _ => ?_, fun h => absurd h htv⟩
    rw [State.updCtx_self _ _ hc, Context.enter, Context.goto_eq]
    rfl

open Sys2Proof Sys2Proof.Machine in
/-- Settles O18: both give the context the reset's fields but for those of the start. -/
theorem hostStartsContexts : Obligations.HostStartsContexts := by
  intro c job pc s x hc
  refine ⟨fun hf h1 h63 => ?start, fun hst => ?restart⟩
  case start =>
    refine ⟨_, exec_contextStart hc hf h1 h63, OnlyCtx.updCtx _ _ _, fun r => ?_, ?_⟩
    · rw [State.updCtx_self _ _ hc]
      exact start_reg x job pc s.cycle r
    · rw [State.updCtx_self _ _ hc]
      rfl
  case restart =>
    refine ⟨_, exec_contextRestart hst, rfl, fun k hk => State.updCtx_of_ne _ _ hk, fun a => ⟨rfl, rfl, rfl⟩, s.freeMon_mon hc,
      fun r => ?_, ?_⟩
    · rw [State.updCtx_self _ _ hc]
      exact start_reg x x.job pc s.cycle r
    · rw [State.updCtx_self _ _ hc]
      rfl

end

/-!
PROOF. WAITC, WAITA and the monitor (05 R131, R132): what a wait's read decides, and how an entry that fires wakes its context.
-/

section
namespace Sys2Proof.Machine

/-! ### WAITC (05 R131) -/

section
variable {s : State} {va b v : Word} {k : BitVec 2} {st sa : Nat}

/-- WAITC goes on or blocks as the word it reads says. -/
theorem exec_waitc_at {h r : Reg} (hal : ((s.ctx s.focus.ctx).reg h).toNat % 8 = 0)
    (hr : (s.coreReach s.focus.ctx ((s.ctx s.focus.ctx).reg h) .read).2 = .at st sa)
    (hl : (s.coreReach s.focus.ctx ((s.ctx s.focus.ctx).reg h) .read).1.loadWord s.focus.ctx st sa = v) :
    let c := s.focus.ctx
    let u := (s.coreReach c ((s.ctx c).reg h) .read).1
    exec (.waitc h r k) s = .next (if waitHolds k v ((s.ctx c).reg r) = true then (u.countAccess st sa).advance c
      else ((u.countAccess st sa).block c (.waitc ((s.ctx c).reg h) ((s.ctx c).reg r) k)).updCtx c
        (fun x => { x with waitcDirty := false, waitcAt := s.cycle })) := by
  show execWaitc h r k s = _
  simp only [execWaitc, if_neg (aligned8 hal), hr, hl]
  split <;> rfl

/-- A blocked WAITC that is to read again goes on or stays blocked as the word says. -/
theorem exec_waitcRecheck_at {c : Nat} (hb : (s.ctx c).st = .blocked) (hw : (s.ctx c).wait = .waitc va b k)
    (hdue : (s.ctx c).waitcDirty = true ∨ (s.ctx c).waitcAt + 1024 ≤ s.cycle) (hr : (s.coreReach c va .read).2 = .at st sa)
    (hl : (s.coreReach c va .read).1.loadWord c st sa = v) :
    let u := (s.coreReach c va .read).1
    exec (.waitcRecheck c) s = .next (if waitHolds k v b = true then (u.countAccess st sa).advance c
      else (u.countAccess st sa).updCtx c (fun x => { x with waitcDirty := false, waitcAt := s.cycle })) := by
  have hnow : (!(s.ctx c).waitcDirty && decide (s.cycle < (s.ctx c).waitcAt + 1024)) = false := by
    rcases hdue with h | h
    · simp [h]
    · simp; omega
  show execWaitcRecheck c s = _
  simp only [execWaitcRecheck, hb, hw, hnow, hr, hl, Bool.false_eq_true, if_false]
  split <;> rfl

end

/-! ### WAITA and the monitor (05 R132) -/

/-- The entry that a WAITA arms on the line of va: it has fired where the word read there is not the one expected. -/
def armedEntry (va : Word) (c : Nat) (read expected : Word) : Monitor :=
  { line := BitVec.ofNat 64 (va.toNat / 64 * 64), ctx := c, fired := read != expected, hit := false }

/-- The state in which an entry has joined the table of a context's core. -/
def State.arm (s : State) (c : Nat) (m : Monitor) : State := s.updCore (ctxCore c) (fun k => { k with mon := k.mon ++ [m] })

/-- A read of the memory and writes of one core and one context leave everything else. -/
theorem State.countAccess_arm_frame (s : State) (st sa c : Nat) (m : Monitor) (f : Context → Context) :
    let t := ((s.countAccess st sa).arm c m).updCtx c f
    t = { s with ctxs := t.ctxs, cores := t.cores, pcreq := t.pcreq, pcNow := t.pcNow } := rfl
theorem State.countAccess_arm_freeMon_frame (s : State) (st sa c : Nat) (m : Monitor) (f : Context → Context) :
    let t := (((s.countAccess st sa).arm c m).freeMon c).updCtx c f
    t = { s with ctxs := t.ctxs, cores := t.cores, pcreq := t.pcreq, pcNow := t.pcNow } := rfl

theorem State.arm_mon (s : State) {c : Nat} (m : Monitor) (hc : c < 64) :
    ((s.arm c m).core (c / 8)).mon = (s.core (c / 8)).mon ++ [m] := by
  rw [State.arm, ctxCore, State.updCore_self _ _ (by omega)]

section
variable {s : State} {h b : Reg} {f : BitVec 1} {st sa : Nat} (hal : ((s.ctx s.focus.ctx).reg h).toNat % 8 = 0)
include hal

/-- A full table: SPUR is set and the instruction completes. -/
theorem exec_waita_full (hm : 64 ≤ (s.core (s.focus.ctx / 8)).mon.length) :
    let u := (s.updCtx s.focus.ctx (fun x => { x with spur := true })).advance s.focus.ctx
    exec (.waita h b f) s = .next (if f = 1 then u else u.freeMon s.focus.ctx) := by
  show execWaita h b f s = _
  simp only [execWaita, if_neg (aligned8 hal), State.monUsed, ctxCore, hm, if_true, beq_iff_eq]

/-- A free entry is armed; then the instruction completes or blocks. -/
theorem exec_waita_at (hm : (s.core (s.focus.ctx / 8)).mon.length < 64)
    (hr : (s.coreReach s.focus.ctx ((s.ctx s.focus.ctx).reg h) .read).2 = .at st sa) {w : Word}
    (hl : (s.coreReach s.focus.ctx ((s.ctx s.focus.ctx).reg h) .read).1.loadWord s.focus.ctx st sa = w) :
    let c := s.focus.ctx
    let u := (s.coreReach c ((s.ctx c).reg h) .read).1
    let v := (u.countAccess st sa).arm c (armedEntry ((s.ctx c).reg h) c w ((s.ctx c).reg b))
    exec (.waita h b f) s = .next (if f = 1 then v.advance c else if v.monFired c = true then (v.freeMon c).advance c else v.block c .waita) := by
  show execWaita h b f s = _
  simp only [execWaita, if_neg (aligned8 hal), State.monUsed, ctxCore, if_neg (Nat.not_le.mpr hm), hr, hl, beq_iff_eq]
  rw [apply_ite Host.Outcome.next, apply_ite Host.Outcome.next]
  rfl

end

/-- An entry of a core's table that has been hit fires. -/
def State.fired (s : State) (k n : Nat) (m : Monitor) : State :=
  s.updCore k (fun c => { c with mon := c.mon.set n { m with fired := true, hit := false } })

theorem exec_monitorFire_wakes {s : State} {k n : Nat} {m : Monitor} (hm : (s.core k).mon[n]? = some m) (hh : m.hit = true)
    (hb : (s.ctx m.ctx).st = .blocked) (hw : (s.ctx m.ctx).wait = .waita) :
    exec (.monitorFire k n) s = .next (((s.fired k n m).freeMon m.ctx).advance m.ctx) := by
  have hctx : ((s.fired k n m).ctx m.ctx) = s.ctx m.ctx := rfl
  show execMonitorFire k n s = _
  simp only [execMonitorFire, hm, hh, Bool.not_true, Bool.false_eq_true, if_false]
  split
  case h_1 => rfl
  case h_2 e => exact absurd hw (e hb)

theorem exec_monitorFire_marks {s : State} {k n : Nat} {m : Monitor} (hm : (s.core k).mon[n]? = some m) (hh : m.hit = true)
    (hw : (s.ctx m.ctx).wait ≠ .waita) : exec (.monitorFire k n) s = .next (s.fired k n m) := by
  show execMonitorFire k n s = _
  simp only [execMonitorFire, hm, hh, Bool.not_true, Bool.false_eq_true, if_false]
  split
  case h_1 e => exact absurd e hw
  case h_2 => rfl

end Sys2Proof.Machine

open Sys2Proof Sys2Proof.Machine in
/-- Settles O19: the read of WAITC is a load, and its word decides. -/
theorem waitcWaits : Obligations.WaitcWaits := by
  intro h b k s st sa c va u v hc _ hk hal hr hown
  have htr : Translates s u (s.ctx c).job va.toNat := State.coreReach_at hr
  have hctx : (u.countAccess st sa).ctx c = s.ctx c := htr.ctx c
  have hx := exec_waitc_at (r := b) (k := k) hal hr (State.loadWord_none u c st sa (by rw [htr.ctx]; exact hown))
  refine ⟨htr, fun hy => ⟨_, hx.trans (congrArg Host.Outcome.next (if_pos ((waitHolds_iff k _ _ hk).mpr hy))), ?goes⟩,
    fun hn => ⟨_, hx.trans (congrArg Host.Outcome.next (if_neg (fun hy => hn ((waitHolds_iff k _ _ hk).mp hy)))), ?frame, ?blocked⟩⟩
  case goes => exact congrArg Context.pc hctx ▸ State.advance_goesOn (u.countAccess st sa) hc
  case frame =>
    rw [State.block, State.updCtx_updCtx _ _ _ hc]
    exact OnlyCtx.updCtx _ _ _
  case blocked => rw [State.updCtx_self _ _ hc, State.block_ctx _ _ hc, hctx]; rfl

open Sys2Proof Sys2Proof.Machine in
/-- Settles O20: a re-check that is due reads the word again, and the word decides. -/
theorem waitcRechecks : Obligations.WaitcRechecks := by
  intro c va b k s st sa u v hc hb hw hk hdue hr hown
  have htr : Translates s u (s.ctx c).job va.toNat := State.coreReach_at hr
  have hctx : (u.countAccess st sa).ctx c = s.ctx c := htr.ctx c
  have hx := exec_waitcRecheck_at hb hw hdue hr (State.loadWord_none u c st sa (by rw [htr.ctx]; exact hown))
  refine ⟨htr, fun hy => ⟨_, hx.trans (congrArg Host.Outcome.next (if_pos ((waitHolds_iff k _ _ hk).mpr hy))), ?goes⟩,
    fun hn => ⟨_, hx.trans (congrArg Host.Outcome.next (if_neg (fun hy => hn ((waitHolds_iff k _ _ hk).mp hy)))),
      OnlyCtx.updCtx _ _ _, ?blocked⟩⟩
  case goes => exact congrArg Context.pc hctx ▸ State.advance_goesOn (u.countAccess st sa) hc
  case blocked => rw [State.updCtx_self _ _ hc, hctx]

open Sys2Proof Sys2Proof.Machine in
/-- Settles O21: a full table gives up; otherwise the armed entry, or one that has fired before, decides. -/
theorem waitaArms : Obligations.WaitaArms := by
  intro h b f s st sa c va u mon e hc _ hal
  refine ⟨fun hfull => ⟨_, exec_waita_full hal hfull, ?full⟩, fun hroom hr hown => ?armed⟩
  case full =>
    set w := (s.updCtx c (fun x => { x with spur := true })).advance c
    have hgo : ({ s.ctx c with spur := true } : Context).GoesTo (w.ctx c) 0 0 ((s.ctx c).pc + 4) := by
      have := (State.advance_goesOn (s.updCtx c (fun x => { x with spur := true })) hc).2
      rwa [State.updCtx_self _ _ hc] at this
    by_cases hf : f = 1
    · rw [if_pos hf, if_pos hf]
      exact ⟨rfl, hgo, rfl⟩
    · rw [if_neg hf, if_neg hf]
      exact ⟨rfl, hgo, w.freeMon_mon hc⟩
  case armed =>
    have htr : Translates s u (s.ctx c).job va.toNat := State.coreReach_at hr
    have hx := exec_waita_at (b := b) (f := f) hal hroom hr (State.loadWord_none u c st sa (by rw [htr.ctx]; exact hown))
    let v := (u.countAccess st sa).arm c e
    change exec (.waita h b f) s = .next (if f = 1 then v.advance c else if v.monFired c = true then (v.freeMon c).advance c else v.block c .waita) at hx
    have hctx (k : Nat) : v.ctx k = s.ctx k := htr.ctx k
    have hmon : (v.core (c / 8)).mon = mon ++ [e] := by
      rw [State.arm_mon _ _ hc, State.countAccess_core, (htr.2.2.2.1 (c / 8)).1]
    have hgo (w : State) (hw : w.ctx c = s.ctx c) : (s.ctx c).GoesTo ((w.advance c).ctx c) 0 0 ((s.ctx c).pc + 4) :=
      hw ▸ (State.advance_goesOn w hc).2
    have hother (w : State) (g : Context → Context) (hw : w.ctxs = v.ctxs) (k : Nat) (hk : k ≠ c) : (w.updCtx c g).ctx k = s.ctx k := by
      rw [State.updCtx_of_ne _ _ hk, State.ctx, hw]
      exact hctx k
    have hfired : v.monFired c = (mon ++ [e]).any (fun m => m.ctx == c && m.fired) := by rw [State.monFired, ctxCore, hmon]
    refine ⟨htr, ?_⟩
    by_cases hf : f = 1
    · rw [if_pos hf] at hx
      have h01 : ¬ f = 0 := by rw [hf]; decide
      exact ⟨_, hx, u.countAccess_arm_frame st sa c e _, hother v _ rfl, fun _ => ⟨hgo v (hctx c), hmon⟩, fun h => absurd h h01, fun h => absurd h h01⟩
    · rw [if_neg hf, hfired] at hx
      cases hany : (mon ++ [e]).any (fun m => m.ctx == c && m.fired)
      case true =>
        rw [hany, if_pos rfl] at hx
        refine ⟨_, hx, u.countAccess_arm_freeMon_frame st sa c e _, hother (v.freeMon c) _ rfl, fun h => absurd h hf, fun _ _ => ⟨hgo _ (hctx c), ?_⟩, fun _ h => nomatch h⟩
        rw [← hmon]
        exact v.freeMon_mon hc
      case false =>
        rw [hany, if_neg Bool.false_ne_true] at hx
        refine ⟨_, hx, u.countAccess_arm_frame st sa c e _, hother v _ rfl, fun h => absurd h hf, fun _ h => (nomatch h), fun _ _ => ⟨?_, hmon⟩⟩
        rw [State.block_ctx _ _ hc, hctx]
        rfl

open Sys2Proof Sys2Proof.Machine in
/-- Settles O22: an entry that fires wakes a context that is blocked in WAITA, and is marked otherwise. -/
theorem monitorEntryFires : Obligations.MonitorEntryFires := by
  intro k n m s hk hmk hm hh
  have hc : m.ctx < 64 := by omega
  refine ⟨fun hb hw => ⟨_, exec_monitorFire_wakes hm hh hb hw, rfl, fun c h => State.updCtx_of_ne _ _ h,
      (State.advance_goesOn ((s.fired k n m).freeMon m.ctx) hc).2, ?freed⟩,
    fun hw => ⟨_, exec_monitorFire_marks hm hh hw, rfl, ?marked⟩⟩
  case freed =>
    intro e he
    have hmon := (s.fired k n m).freeMon_mon hc
    rw [hmk] at hmon
    have he' : e ∈ ((s.fired k n m).core k).mon.filter (fun x => x.ctx != m.ctx) := hmon ▸ he
    simpa using (List.mem_filter.mp he').2
  case marked =>
    have hn : n < (s.core k).mon.length := (List.getElem?_eq_some_iff.mp hm).1
    rw [State.fired, State.updCore_self _ _ hk]
    exact List.getElem?_set_self hn

end

/-!
PROOF. The step of the machine (log entries 3 and 4): whose turn it is, what a turn runs, and what settling a turn adds.
-/

section
namespace Sys2Proof.Machine

/-! ### A context's turn (05 R109, R110, R112) -/

/-- Only a core's choice is a context's turn, and a core chooses a ready context. -/
theorem State.ready_of_turns {s : State} {c : Nat} (h : Turn.context c ∈ s.turns) : (s.ctx c).st = .ready := by
  have hcore : ∃ k, s.coreTurn k = some c := by
    simp only [State.turns, State.tileTurns, List.mem_append, List.mem_map, List.mem_flatMap, List.mem_filterMap] at h
    rcases h with ((((⟨_, ⟨k, _, hk⟩, hc⟩ | ⟨_, _, _, _, h⟩) | ⟨_, _, h⟩) | ⟨_, _, h⟩) | h) | h
    · exact ⟨k, by rw [hk, Turn.context.inj hc]⟩
    · exact nomatch h
    · exact nomatch h
    · exact nomatch h
    · split at h <;> simp at h
    · exact nomatch (List.mem_ite_nil_right.mp h).2
  obtain ⟨k, hk⟩ := hcore
  unfold State.coreTurn at hk
  dsimp only at hk
  split at hk
  · exact nomatch hk
  · simpa using List.find?_some hk

theorem State.ready_of_nextTurn {s : State} {c : Nat} (h : s.nextTurn = .context c) : (s.ctx c).st = .ready := by
  refine State.ready_of_turns (List.mem_of_getElem? (i := s.choice % s.turns.length) ?_)
  unfold State.nextTurn at h
  rw [List.getD_eq_getElem?_getD] at h
  cases hg : s.turns[s.choice % s.turns.length]? with
  | none => rw [hg] at h; exact nomatch h
  | some t => rw [hg] at h; exact congrArg some h

/-- A ready context may be interrupted unless it has begun a FENCE. -/
theorem Context.interruptible_of_ready {x : Context} (h : x.st = .ready) : x.interruptible = true ↔ x.wait ≠ .access .fence := by
  unfold Context.interruptible
  rw [h]
  cases x.wait with
  | access a => cases a <;> simp
  | _ => simp

section
variable {s : State} {c : Nat}

theorem State.contextTurn_trap {t : Trap} (hr : (s.ctx c).st = .ready) (hi : (s.ctx c).intr = false) (hw : (s.ctx c).wait ≠ .access .fence)
    (ht : (s.ctx c).nextTrap = some t) : s.contextTurn c = .asyncTrap c := by
  simp only [State.contextTurn, hi, (Context.interruptible_of_ready hr).mpr hw, ht, Option.isSome_some, Bool.not_false, Bool.and_self, if_true]

/-- Without a trap that it can take, a ready context runs its word. -/
theorem State.contextTurn_word (hr : (s.ctx c).st = .ready) (h : (s.ctx c).intr = true ∨ (s.ctx c).traps = [] ∨ (s.ctx c).wait = .access .fence) :
    s.contextTurn c = match (s.ctx c).word with
      | none => .instructionFetch c
      | some w => (decode w).getD (.illegalInstruction w) := by
  have hno : (!(s.ctx c).intr && (s.ctx c).interruptible && (s.ctx c).nextTrap.isSome) = false := by
    rcases h with h | h | h
    · rw [h]; rfl
    · rw [Context.nextTrap, h]; exact Bool.and_false _
    · have : (s.ctx c).interruptible = false := Bool.eq_false_iff.mpr fun hi => (Context.interruptible_of_ready hr).mp hi h
      rw [this, Bool.and_false, Bool.false_and]
  simp only [State.contextTurn, hno, Bool.false_eq_true, if_false]
  cases (s.ctx c).word with
  | none => rfl
  | some w => cases hd : decode w <;> simp [hd]

end

/-- A context's turn is exec of what the context does next. -/
theorem step_context {s : State} {c : Nat} (h : s.nextTurn = .context c) :
    step s = (s.chosen.issues c).settled (exec (s.contextTurn c) (s.chosen.issues c)) := by rw [step, h]; rfl

/-! ### A tile's turn (08 R160, R167, R170) -/

theorem step_tile {s : State} {n kind : Nat} (h : s.nextTurn = .tile n kind) : step s = s.chosen.tileTurn n kind := by rw [step, h]; rfl

theorem State.tileTurn_marker {s : State} {n kind : Nat} (h : (s.issue n kind).atMarker = true) : s.tileTurn n kind = .next (s.stopTile n kind) :=
  if_pos h

theorem State.tileTurn_round {s t : State} {n kind : Nat} (h : (s.issue n kind).atMarker = false)
    (ht : State.runRules n kind ((s.beginRound n kind).issue n kind).sel (s.beginRound n kind) = .next t) :
    s.tileTurn n kind = .next (((s.beginRound n kind).settleQuiet t).noteFired n kind) := by
  simp only [State.tileTurn, h, ht, Bool.false_eq_true, if_false, State.settled]

/-- The rules of a round run one after another. -/
theorem State.runRules_cons {n kind i : Nat} {l : List Nat} {r : Instr} {t v : State}
    (hd : decodeRule (kind == 1) (vget 0 (t.issue n kind).pool i) = some r) (hv : exec r (t.popRule n kind i) = .next v) :
    State.runRules n kind (i :: l) t = State.runRules n kind l v := by
  rw [State.runRules]
  simp only [hd, hv]

/-! ### What settling adds (03 R71, R72) -/

/-- A reach after a turn: its quiet interval and its slack-water note may differ. -/
theorem State.settleQuiet_reaches (s t : State) (n : Nat) (r : Reach) (h : t.reaches[n]? = some r) :
    ∃ r' : Reach, (s.settleQuiet t).reaches[n]? = some r' ∧ r' = { r with quiet := r'.quiet, swDone := r'.swDone } := by
  refine ⟨_, by rw [State.settleQuiet, List.getElem?_map, h]; rfl, ?_⟩
  dsimp only
  split
  · rfl
  · split <;> rfl

theorem State.settleQuiet_ids (s t : State) : (s.settleQuiet t).reaches.map (·.id) = t.reaches.map (·.id) := by
  rw [State.settleQuiet, List.map_map]
  refine List.map_congr_left fun r _ => ?_
  dsimp only [Function.comp]
  split
  · rfl
  · split <;> rfl

end Sys2Proof.Machine

open Sys2Proof Sys2Proof.Machine in
/-- Settles O3, turn by turn: the choice of a turn changes nothing that the turn reads. -/
theorem stepRunsTheDecodedWord : Obligations.StepRunsTheDecodedWord := by
  intro s
  refine ⟨?context, fun c => ⟨rfl, rfl, fun k => rfl⟩, ?tile, fun n kind t => rfl, ?rules, fun i h => ?event, fun h => ?clock,
    fun t => ⟨s.settleQuiet t, rfl, rfl, s.settleQuiet_ids t, s.settleQuiet_reaches t⟩⟩
  case context =>
    intro c h x u
    have hr : x.st = .ready := State.ready_of_nextTurn h
    refine ⟨fun t hi hw ht => ?_, fun hno => ?_⟩
    · rw [step_context h, State.contextTurn_trap hr hi hw ht]
    · rw [step_context h, State.contextTurn_word hr hno]
      intro word
      refine ⟨fun hw => ?_, fun w i hw hd => ?_, fun w hw hd => ?_⟩
      · rw [show (s.ctx c).word = none from hw]
      · rw [show (s.ctx c).word = some w from hw]
        simp only [hd, Option.getD_some]
        rfl
      · rw [show (s.ctx c).word = some w from hw]
        simp only [hd, Option.getD_none]
        rfl
  case tile =>
    intro n kind h c
    rw [step_tile h]
    refine ⟨State.tileTurn_marker, ?_⟩
    intro hm b t ht
    exact ⟨_, rfl, State.tileTurn_round hm ht⟩
  case rules =>
    intro n kind i l r t _ hd u
    exact ⟨rfl, rfl, fun v hv => State.runRules_cons hd hv⟩
  case event => rw [step, h]; rfl
  case clock => rw [step, h]; rfl

end

/-!
PROOF. PROGRD, PROGWR and PUBLISH, the landing of a progress write and the publication swap (05 R129, R130, 17 R310).
-/

section
namespace Sys2Proof.Machine

/-- A trap with a detail carries the instruction word (05 R117). -/
theorem State.detailTrap_traps (s : State) {c : Nat} (h : Word) (d : Nat) {i : Instr} {e : BitVec 32} (hc : c < 64) (he : encode i = some e) :
    Traps s (s.detailTrap c h d (wordOf i)) c 4 h (BitVec.ofNat 64 d) (BitVec.ofNat 64 e.toNat) := by
  rw [State.detailTrap, wordOf_of_encode he, setWidth_eq_ofNat]
  exact s.syncTrap_traps 4 _ _ _ hc

/-! ### PROGRD and PROGWR (05 R129) -/

/-- The last element that a test admits is the first from the end. -/
theorem find?_reverse_of_last {α : Type} {p : α → Bool} {l : List α} {i : Nat} {e : α} (hi : l[i]? = some e) (he : p e = true)
    (hlast : ∀ j e', i < j → l[j]? = some e' → p e' = false) : l.reverse.find? p = some e := by
  obtain ⟨hlt, hget⟩ := List.getElem?_eq_some_iff.mp hi
  have hnone : (l.drop (i + 1)).reverse.find? p = none := by
    rw [List.find?_eq_none]
    intro x hx
    obtain ⟨k, hk⟩ := List.mem_iff_getElem?.mp (List.mem_reverse.mp hx)
    rw [List.getElem?_drop] at hk
    rw [hlast (i + 1 + k) x (by omega) hk]
    exact Bool.false_ne_true
  rw [← List.take_append_drop i l, List.drop_eq_getElem_cons hlt, hget, List.reverse_append, List.reverse_cons, List.append_assoc,
    List.find?_append, hnone]
  simp [he]

section
variable {s : State} {id n k : Nat}

/-- The newest record of a counter that is still on its way. -/
theorem State.latestRecord_out (hint : BitVec 16) {i : Nat} {e : Nat × Record} (hi : s.recordsOut[i]? = some e)
    (he : e.2.reach = id ∧ e.2.cell = n ∧ e.2.ctr = k)
    (hlast : ∀ j e', i < j → s.recordsOut[j]? = some e' → ¬ (e'.2.reach = id ∧ e'.2.cell = n ∧ e'.2.ctr = k)) :
    s.latestRecord id n k hint = e.2 := by
  have hfind := find?_reverse_of_last (p := fun p : Nat × Record => p.2.reach == id && p.2.cell == n && p.2.ctr == k) hi (by simp [he])
    (fun j e' hj h => by have := hlast j e' hj h; simpa [and_assoc] using this)
  simp only [State.latestRecord, hfind]

/-- Without a record, the hint. -/
theorem State.latestRecord_hint (hint : BitVec 16)
    (h : ∀ e ∈ s.recordsOut.map (·.2) ++ (s.cell n).records, ¬ (e.reach = id ∧ e.cell = n ∧ e.ctr = k)) :
    s.latestRecord id n k hint = { reach := id, cell := n, ctr := k, value := 0, pace := hint, starving := false } := by
  have hout : s.recordsOut.reverse.find? (fun p => p.2.reach == id && p.2.cell == n && p.2.ctr == k) = none := by
    rw [List.find?_eq_none]
    intro p hp
    have := h p.2 (List.mem_append_left _ (List.mem_map_of_mem (List.mem_reverse.mp hp)))
    simpa [and_assoc] using this
  have hin : (s.cell n).records.find? (fun r => r.reach == id && r.cell == n && r.ctr == k) = none := by
    rw [List.find?_eq_none]
    intro r hr
    have := h r (List.mem_append_right _ hr)
    simpa [and_assoc] using this
  simp only [State.latestRecord, hout, hin, Option.getD_none]

/-- A counter outside the rectangle of a running reach (05 R129). -/
theorem State.progCounter_outside {c x y : Nat} {h : Word} {r : Reach} (hr : ((s.ctx c).handleReach h).bind s.reach? = some r)
    (hs : r.shows = .running) (hl : r.loaded = true) (ho : r.w ≤ x ∨ r.h ≤ y) : s.progCounter c h k y x = .error 6 := by
  simp only [State.progCounter, hr, hs, hl, ne_eq, not_true_eq_false, decide_false, Bool.not_true, Bool.or_self, Bool.false_eq_true, if_false,
    Bool.or_eq_true, decide_eq_true_eq, ho, if_true]

end

section
variable {s : State} {h b : Reg} {k : BitVec 3} {y : BitVec 4} {x : BitVec 5} {r : Reach} {n : Nat} {q : Counter}

theorem exec_progrd_ok (hp : s.progCounter s.focus.ctx ((s.ctx s.focus.ctx).reg b) k.toNat y.toNat x.toNat = .ok (r, n, q)) :
    let e := s.latestRecord r.id n k.toNat q.hint
    exec (.progrd h b k y x) s =
      .next (s.retire s.focus.ctx h (BitVec.ofNat 64 (e.value.toNat + e.pace.toNat * 2 ^ 32 + b2n e.starving * 2 ^ 48))) := by
  show execProgrd h b k y x s = _
  simp only [execProgrd, hp]

theorem exec_progrd_error {d : Nat} (hp : s.progCounter s.focus.ctx ((s.ctx s.focus.ctx).reg b) k.toNat y.toNat x.toNat = .error d) :
    exec (.progrd h b k y x) s = .next (s.detailTrap s.focus.ctx ((s.ctx s.focus.ctx).reg b) d (wordOf (.progrd h b k y x))) := by
  show execProgrd h b k y x s = _
  simp only [execProgrd, hp]

theorem exec_progwr_ok {m : BitVec 1} (hp : s.progCounter s.focus.ctx ((s.ctx s.focus.ctx).reg h) k.toNat y.toNat x.toNat = .ok (r, n, q)) :
    let c := s.focus.ctx
    exec (.progwr h b m k y x) s =
      if q.bound ≠ 0 ∧ (m = 1 ∨ q.bound.toNat ≤ ((s.ctx c).reg b).toNat % 2 ^ 32) then
        .next (s.detailTrap c ((s.ctx c).reg h) 6 (wordOf (.progwr h b m k y x)))
      else .next (s.block c (.progwr r.id n k.toNat (m == 1) ((s.ctx c).reg b))) := by
  show execProgwr h b m k y x s = _
  have hv : bitsN ((s.ctx s.focus.ctx).reg b) 0 32 = ((s.ctx s.focus.ctx).reg b).toNat % 2 ^ 32 := by simp [bitsN]
  simp only [execProgwr, hp, hv, Bool.and_eq_true, Bool.or_eq_true, decide_eq_true_eq]

end

section
variable {s : State} {i id n j : Nat} {add : Bool} {v : Word} (hb : (s.ctx i).st = .blocked) (hw : (s.ctx i).wait = .progwr id n j add v)
include hb hw

theorem exec_progwrLand_over (hz : s.issueOf n kindC id = none) : exec (.progwrLand i) s = .next (s.advance i) := by
  show execProgwrLand i s = _
  simp only [execProgwrLand, hb, hw, hz]

theorem exec_progwrLand_lands {z : Issue} (hz : s.issueOf n kindC id = some z) (hsel : z.sel = []) (hin : s.inTile n kindC id = true) :
    exec (.progwrLand i) s = .next (s.landWrite i id n j add v z) := by
  show execProgwrLand i s = _
  simp only [execProgwrLand, hb, hw, hz, hsel, hin, ne_eq, not_true_eq_false, decide_false, Bool.not_true, Bool.or_self, Bool.false_eq_true,
    if_false]

end

/-- What a write of a counter does to it: its increase, and no less, counts for the pace (12 R251). -/
theorem Counter.write_eq (q : Counter) (y : BitVec 32) :
    q.write y = { q with val := y, delta := min (q.delta + (y.toNat - q.val.toNat)) 16383, changed := (q.write y).changed } := rfl
theorem Counter.write_changed {q : Counter} {y : BitVec 32} (h : y ≠ q.val) : (q.write y).changed = true := by
  simp [Counter.write, Counter.put, h]

/-! ### PUBLISH (05 R130) -/

theorem State.pubWin_updPub (s : State) (j w : Nat) (f : Publish → Publish) : (s.updPub j w f).pubWin j w = f (s.pubWin j w) := by
  simp only [State.pubWin, State.updPub, State.updJob_self, Tbl.upd, Tbl.get_set_self]

/-- A PUBLISH of context c can go on in a window: it has begun there, or the window is on and no other runs (17 R310). -/
def Publish.openTo (g : Publish) (c : Nat) : Prop := g.owner = some c ∨ (g.pen = true ∧ g.units ≠ 0 ∧ g.owner = none ∧ g.run = none)

theorem Publish.openTo_tests {g : Publish} {c : Nat} (h : g.openTo c) :
    (!(g.owner == some c) && (!g.pen || decide (g.units = 0))) = false ∧ (!(g.owner == some c) && g.busy) = false := by
  rcases h with h | ⟨hp, hu, ho, hr⟩
  · simp [h]
  · simp [hp, hu, ho, hr, Publish.busy]

section
variable {s u : State} {h b : Reg} {w : BitVec 6}

/-- A window that is off. -/
theorem exec_publish_off (hm : (s.pubWin (s.ctx s.focus.ctx).job w.toNat).owner ≠ some s.focus.ctx)
    (ho : (s.pubWin (s.ctx s.focus.ctx).job w.toNat).pen = false ∨ (s.pubWin (s.ctx s.focus.ctx).job w.toNat).units = 0) :
    exec (.publish h b w) s = .next (s.detailTrap s.focus.ctx ((s.ctx s.focus.ctx).reg h) 7 (wordOf (.publish h b w))) :=
  if_pos (by simpa using ⟨hm, ho⟩)

/-- A window in which another PUBLISH runs. -/
theorem exec_publish_busy (hm : (s.pubWin (s.ctx s.focus.ctx).job w.toNat).owner ≠ some s.focus.ctx)
    (hp : (s.pubWin (s.ctx s.focus.ctx).job w.toNat).pen = true) (hu : (s.pubWin (s.ctx s.focus.ctx).job w.toNat).units ≠ 0)
    (hb : (s.pubWin (s.ctx s.focus.ctx).job w.toNat).busy = true) :
    exec (.publish h b w) s = .next (s.block s.focus.ctx (.access .fence)) :=
  (if_neg (by simp [hp, hu])).trans (if_pos (by simpa using ⟨hm, hb⟩))

section
variable (hopen : (s.pubWin (s.ctx s.focus.ctx).job w.toNat).openTo s.focus.ctx)
include hopen

/-- The release waits, and holds the window. -/
theorem exec_publish_undrained (hd : s.drain s.focus.ctx = none) :
    exec (.publish h b w) s =
      .next ((s.updPub (s.ctx s.focus.ctx).job w.toNat (fun g => { g with owner := some s.focus.ctx })).block s.focus.ctx (.access .fence)) := by
  show execPublish h b w s = _
  simp only [execPublish, (Publish.openTo_tests hopen).1, (Publish.openTo_tests hopen).2, Bool.false_eq_true, if_false, hd]

/-- A version that is not newer. -/
theorem exec_publish_old (hd : s.drain s.focus.ctx = some u)
    (hv : ((s.ctx s.focus.ctx).reg b).toNat ≤ (s.pubWin (s.ctx s.focus.ctx).job w.toNat).version.toNat) :
    let j := (s.ctx s.focus.ctx).job
    exec (.publish h b w) s = .next ((u.updPub j w.toNat (fun g => { g with owner := none })).retire s.focus.ctx h
      ((s.pubWin j w.toNat).version ||| 0x8000000000000000#64)) := by
  show execPublish h b w s = _
  simp only [execPublish, (Publish.openTo_tests hopen).1, (Publish.openTo_tests hopen).2, Bool.false_eq_true, if_false, hd]
  exact if_pos (by simpa [BitVec.ule] using hv)

variable (hd : s.drain s.focus.ctx = some u)
  (hv : (s.pubWin (s.ctx s.focus.ctx).job w.toNat).version.toNat < ((s.ctx s.focus.ctx).reg b).toNat)
include hd hv

/-- The region cannot be read yet: the PUBLISH holds the window. -/
theorem exec_publish_unread :
    let c := s.focus.ctx
    let j := (s.ctx c).job
    let g := s.pubWin j w.toNat
    let p := u.readRegion j g.pbase.toNat g.units 0 []
    p.2 = none → exec (.publish h b w) s = .next ((p.1.updPub j w.toNat (fun g => { g with owner := some c })).block c (.access .fence)) := by
  intro c j g p hn
  show execPublish h b w s = _
  simp only [execPublish, (Publish.openTo_tests hopen).1, (Publish.openTo_tests hopen).2, Bool.false_eq_true, if_false, hd]
  rw [if_neg (by simpa [BitVec.ule] using hv)]
  simp only [p, g, j, c] at hn
  simp only [hn]
  rfl

/-- The region has been read: the swap is owed. -/
theorem exec_publish_copied :
    let c := s.focus.ctx
    let j := (s.ctx c).job
    let g := s.pubWin j w.toNat
    let p := u.readRegion j g.pbase.toNat g.units 0 []
    ∀ us, p.2 = some us → exec (.publish h b w) s = .next ((p.1.updPub j w.toNat
      (fun g => { g with run := some ((s.ctx c).reg b), back := us, owner := none })).retire c h g.version) := by
  intro c j g p us hn
  show execPublish h b w s = _
  simp only [execPublish, (Publish.openTo_tests hopen).1, (Publish.openTo_tests hopen).2, Bool.false_eq_true, if_false, hd]
  rw [if_neg (by simpa [BitVec.ule] using hv)]
  simp only [p, g, j, c] at hn
  simp only [hn]
  rfl

end

end

/-- A context that waits in an access to be tried again keeps its word (log entry 29). -/
theorem State.block_fence (s : State) {c : Nat} (hc : c < 64) :
    OnlyCtx c s (s.block c (.access .fence)) ∧
    (s.block c (.access .fence)).ctx c = { s.ctx c with st := .blocked, wait := .access .fence, cur := (s.ctx c).word } :=
  ⟨OnlyCtx.updCtx _ _ _, s.block_ctx _ hc⟩

/-- While a PUBLISH runs, the registers of its window keep their values. -/
theorem State.publishRegister_busy {s : State} {j w : Nat} (v : Word) (hb : (s.pubWin j w).busy = true) :
    s.publishRegister j w 0x008 v = s ∧ s.publishRegister j w 0x010 v = s ∧
    ((s.publishRegister j w 0x000 v).pubWin j w).pbase = (s.pubWin j w).pbase := by
  refine ⟨if_pos hb, if_pos hb, ?_⟩
  rw [State.publishRegister, State.pubWin_updPub]
  exact if_pos hb

theorem exec_publicationSwap {s : State} {j w : Nat} {v : Word} (h : (s.pubWin j w).run = some v) :
    let g := s.pubWin j w
    let u := s.updPub j w (fun g => { g with run := none, front := g.back, back := g.front, version := v })
    exec (.publicationSwap j w) s = .next { u with host := memWrite u.host g.pver.toNat 8 v.toNat } := by
  show execPublicationSwap j w s = _
  simp only [execPublicationSwap, h]

end Sys2Proof.Machine

open Sys2Proof Sys2Proof.Machine in
/-- Settles O26, instruction by instruction: PROGRD retires the newest record, PROGWR waits and lands as one write of its counter, and
PUBLISH ends at the first of its steps that cannot go on. -/
theorem progressAndPublication : Obligations.ProgressAndPublication := by
  intro h b k y xx m w s c x v hc
  refine ⟨?progrd, ?outside, ?progrdTrap, ?progwr, ?lands, ?publish, ?swap⟩
  case progrd =>
    intro r n q hp
    refine ⟨fun i e hi hreach hcell hctr hlast => ⟨_, exec_progrd_ok hp, ?_⟩, fun hno => ⟨_, exec_progrd_ok hp, ?_⟩⟩
    · rw [State.latestRecord_out q.hint hi ⟨hreach, hcell, hctr⟩ hlast]
      exact s.retire_goesOn h _ hc
    · have hgo := s.retire_goesOn h (BitVec.ofNat 64 (q.hint.toNat * 2 ^ 32)) hc
      rw [State.latestRecord_hint q.hint hno]
      simpa [b2n] using hgo
  case outside => exact fun r hr hs hl ho => State.progCounter_outside hr hs hl ho
  case progrdTrap => exact fun d e hp he => ⟨_, exec_progrd_error hp, s.detailTrap_traps v d hc he⟩
  case progwr =>
    intro r n q hp
    refine ⟨fun hok => ⟨_, (exec_progwr_ok hp).trans (if_neg ?_), OnlyCtx.updCtx _ _ _, s.block_ctx _ hc⟩,
      fun hq hover e he => ⟨_, (exec_progwr_ok hp).trans (if_pos ⟨hq, hover⟩), s.detailTrap_traps _ 6 hc he⟩⟩
    rintro ⟨hq, hover⟩
    rcases hok with hz | ⟨hm, hlt⟩
    · exact hq hz
    · rcases hover with hm1 | hle
      · exact absurd (hm.symm.trans hm1) (by decide)
      · exact Nat.not_le.mpr hlt hle
  case lands =>
    intro i id n j v add hi _ hb hw
    refine ⟨exec_progwrLand_over hb hw, ?_⟩
    intro z hz hsel hin q v32
    exact ⟨_, _, exec_progwrLand_lands hb hw hz hsel hin, rfl, rfl, Counter.write_eq _ _, Counter.write_changed⟩
  case publish =>
    intro j g ready z held
    refine ⟨fun u us hr hd hv hus => ?_, fun u hr hd hv => ?_, fun hr hd => ?_, fun u hr hd hv hn => ?_, fun hp hu hm hbusy => ?_,
      fun hbusy => ?_, fun hm hoff e he => ?_⟩
    · exact ⟨State.drain_spec hc hd, _, exec_publish_copied hr hd hv us hus, State.retire_goesOn _ h _ hc⟩
    · have hpc := congrArg (· + 4) (State.drain_spec hc hd).pc
      exact ⟨_, exec_publish_old hr hd hv, hpc ▸ State.retire_goesOn (u.updPub j w.toNat (fun g => { g with owner := none })) h _ hc⟩
    · exact ⟨_, exec_publish_undrained hr hd, State.block_fence _ hc⟩
    · exact ⟨_, exec_publish_unread hr hd hv hn, State.block_fence _ hc⟩
    · have hb : g.busy = true := by simpa [Publish.busy, Option.isSome_iff_ne_none] using hbusy
      exact ⟨_, exec_publish_busy hm hp hu hb, State.block_fence _ hc⟩
    · exact State.publishRegister_busy v (by simpa [Publish.busy, Option.isSome_iff_ne_none] using hbusy)
    · exact ⟨_, exec_publish_off hm hoff, s.detailTrap_traps _ 7 hc he⟩
  case swap =>
    intro job i v hm hrun g
    refine ⟨_, exec_publicationSwap hrun, rfl, ?_, memWord_memWrite _ hm _ _, fun a ha => memGet_memWrite_outside _ _ hm _ _ _ ?_⟩
    · exact s.pubWin_updPub _ _ _
    · have hout : ¬ (g.pver.toNat ≤ a ∧ a < g.pver.toNat + 8) := ha
      change a < g.pver.toNat ∨ g.pver.toNat + 8 ≤ a
      omega

end

/-!
PROOF. Seeds, gangs and ingress windows (05 R125, R127, 06 R140, 17 R309, 18 R314).
-/

section
namespace Sys2Proof.Machine

/-- The reach of a handle is the reach of its number. -/
theorem reach?_of_handle {s : State} {o : Option Nat} {r : Reach} (h : o.bind s.reach? = some r) : s.reach? r.id = some r := by
  obtain ⟨id, _, hid⟩ := Option.bind_eq_some_iff.mp h
  have : r.id = id := by simpa using List.find?_some hid
  rwa [this]

theorem reach?_id {s : State} {id : Nat} {r : Reach} (h : s.reach? id = some r) : r.id = id := by simpa using List.find?_some h

/-- A change that keeps a reach's number is seen when the reach is looked up. -/
theorem State.updReach_reach?_self {s : State} {id : Nat} {r : Reach} {f : Reach → Reach} (h : s.reach? id = some r) (hf : ∀ r, (f r).id = r.id) :
    (s.updReach id f).reach? id = some (f r) := by
  have hid : ∀ r : Reach, (if r.id = id then f r else r).id = r.id := fun r => by split <;> simp [hf]
  have hcomp : ((fun r : Reach => r.id == id) ∘ fun r => if r.id = id then f r else r) = fun r => r.id == id :=
    funext fun r => by simp only [Function.comp, hid]
  simp only [State.reach?, State.updReach, List.find?_map, hcomp]
  rw [State.reach?] at h
  rw [h]
  simp [reach?_id (s := s) h]

/-! ### SEED (05 R125) -/

section
variable {s : State} {c id port : Nat} {tag : BitVec 2} {v h : Word} {w : BitVec 32} {r : Reach} (hr : s.reach? id = some r)
include hr

theorem State.trySeed_loading (hl : r.loaded = false) : s.trySeed c id port tag v h w = s.block c (.seed id port tag v h w) := by
  simp only [State.trySeed, hr, hl, Bool.not_false, if_true]

theorem State.trySeed_noPort (hl : r.loaded = true) (hp : vget none r.seedRoutes port = none) :
    s.trySeed c id port tag v h w = s.detailTrap c h 3 w := by
  simp only [State.trySeed, hr, hl, hp, Bool.not_true, Bool.false_eq_true, if_false]

theorem State.trySeed_enters {rt : Route} (hl : r.loaded = true) (hp : vget none r.seedRoutes port = some rt) (ht : r.takesSeeds = true)
    (hs : s.seedRoom rt = true) : s.trySeed c id port tag v h w = (s.seedInto r rt (scalarTok v tag)).advance c := by
  simp only [State.trySeed, hr, hl, hp, ht, hs, Bool.not_true, Bool.false_eq_true, if_false, Bool.and_self, if_true]

theorem State.trySeed_waits {rt : Route} (hl : r.loaded = true) (hp : vget none r.seedRoutes port = some rt)
    (hw : r.takesSeeds = false ∨ s.seedRoom rt = false) : s.trySeed c id port tag v h w = s.block c (.seed id port tag v h w) := by
  have : (r.takesSeeds && s.seedRoom rt) = false := Bool.and_eq_false_iff.mpr hw
  simp only [State.trySeed, hr, hl, hp, this, Bool.not_true, Bool.false_eq_true, if_false]

end

section
variable {s : State} {h b : Reg} {tg : BitVec 2} {p : BitVec 3}

theorem exec_seed_noReach (hr : ((s.ctx s.focus.ctx).handleReach ((s.ctx s.focus.ctx).reg h)).bind s.reach? = none) :
    exec (.seed h b tg p) s = .next (s.detailTrap s.focus.ctx ((s.ctx s.focus.ctx).reg h) 1 (wordOf (.seed h b tg p))) := by
  show execSeed h b tg p s = _
  simp only [execSeed, hr]

theorem exec_gang_noReach (hr : ((s.ctx s.focus.ctx).handleReach ((s.ctx s.focus.ctx).reg h)).bind s.reach? = none) :
    exec (.gang h b) s = .next (s.detailTrap s.focus.ctx ((s.ctx s.focus.ctx).reg h) 1 (wordOf (.gang h b))) := by
  show execGang h b s = _
  simp only [execGang, hr]

variable {r : Reach} (hr : ((s.ctx s.focus.ctx).handleReach ((s.ctx s.focus.ctx).reg h)).bind s.reach? = some r)
include hr

theorem exec_seed_tries (hs : r.shows = .running ∨ r.shows = .armed) :
    exec (.seed h b tg p) s = .next (s.trySeed s.focus.ctx r.id p.toNat tg ((s.ctx s.focus.ctx).reg b) ((s.ctx s.focus.ctx).reg h)
      (wordOf (.seed h b tg p))) := by
  have hno : (decide (r.shows ≠ .running) && decide (r.shows ≠ .armed)) = false := by rcases hs with hs | hs <;> simp [hs]
  show execSeed h b tg p s = _
  simp only [execSeed, hr, hno, Bool.false_eq_true, if_false]

theorem exec_seed_wrongState (hn : r.shows ≠ .running) (ha : r.shows ≠ .armed) :
    exec (.seed h b tg p) s = .next (s.detailTrap s.focus.ctx ((s.ctx s.focus.ctx).reg h) 2 (wordOf (.seed h b tg p))) := by
  show execSeed h b tg p s = _
  simp only [execSeed, hr, hn, ha, ne_eq, not_false_eq_true, decide_true, Bool.and_self, if_true]

/-! ### GANG (05 R127) -/

theorem exec_gang_wrongState (ha : r.shows ≠ .armed) :
    exec (.gang h b) s = .next (s.detailTrap s.focus.ctx ((s.ctx s.focus.ctx).reg h) 2 (wordOf (.gang h b))) := by
  show execGang h b s = _
  simp only [execGang, hr, if_pos ha]

theorem exec_gang_sets (ha : r.shows = .armed) {late : Bool} (hl : decide (((s.ctx s.focus.ctx).reg b).toNat < s.tick) = late) :
    let c := s.focus.ctx
    let u := ((s.updReach r.id (fun r => { r with gang := some ((s.ctx c).reg b) })).updCtx c (fun x => { x with glate := x.glate || late })).advance c
    exec (.gang h b) s = .next (if (late && r.st == .armed) = true then u.startReach r true else u) := by
  show execGang h b s = _
  simp only [execGang, hr, ha, ne_eq, not_true_eq_false, if_false, hl]

end

/-- A reach that starts is running. -/
theorem State.startReach_running {s : State} {r : Reach} (now : Bool) (h : s.reach? r.id = some r) :
    ((s.startReach r now).reach? r.id).map (·.st) = some .running := by
  have hcells : ∀ (l : List Nat) (u : State), u.reach? r.id = some r → (l.foldl (fun s n => s.startCell r.id n now) u).reach? r.id = some r := by
    intro l
    induction l with
    | nil => exact fun _ hu => hu
    | cons n l ih => exact fun u hu => ih _ hu
  have hrun := State.updReach_reach?_self (f := fun r => { r with st := .running, quiet := 0, swDone := false }) (hcells r.cells s h) (fun _ => rfl)
  exact congrArg (Option.map (·.st)) hrun

theorem exec_gangStart {s : State} {r : Reach} {tk : Word} (h : s.reach? r.id = some r) (ha : r.st = .armed) (hg : r.gang = some tk)
    (ht : tk.toNat ≤ s.tick) : exec (.gangStart r.id) s = .next (s.startReach r true) := by
  show execGangStart r.id s = _
  simp only [execGangStart, h, State.gangDue, ha, hg, ht, beq_self_eq_true, decide_true, Bool.and_self, if_true]

/-! ### Seeds of a queue and of an ingress window (06 R140, 17 R309) -/

theorem exec_seedDeliver_ctx {s : State} {c id port : Nat} {tag : BitVec 2} {v h : Word} {w : BitVec 32} (hc : c < 64)
    (hb : (s.ctx c).st = .blocked) (hw : (s.ctx c).wait = .seed id port tag v h w) :
    exec (.seedDeliver c) s = .next (s.trySeed c id port tag v h w) := by
  show execSeedDeliver c s = _
  simp only [execSeedDeliver, if_pos hc, hb, hw]

theorem exec_seedDeliver_queue (s : State) {j q : Nat} (hj : j < 64) (hq : q < 16) :
    exec (.seedDeliver (64 + 16 * j + q)) s = .next (s.queueSeed j q) := by
  show execSeedDeliver _ s = _
  have hj' : (64 + 16 * j + q - 64) / 16 = j := by omega
  have hq' : (64 + 16 * j + q - 64) % 16 = q := by omega
  rw [execSeedDeliver, if_neg (by omega), if_pos (by omega), hj', hq']

theorem exec_seedDeliver_ingress (s : State) {j ch : Nat} (hc : ch < 8) :
    exec (.seedDeliver (1088 + 8 * j + ch)) s = .next (s.ingressToken j ch) := by
  show execSeedDeliver _ s = _
  have hj' : (1088 + 8 * j + ch - 1088) / 8 = j := by omega
  have hc' : (1088 + 8 * j + ch - 1088) % 8 = ch := by omega
  rw [execSeedDeliver, if_neg (by omega), if_neg (by omega), hj', hc']

/-- The first seed of a queue enters once its wave has crossed and its port has room. -/
theorem State.queueSeed_first {s : State} {j q id port : Nat} {tag : BitVec 2} {v : Word} {rest : List (Nat × Nat × BitVec 2 × Word)} {r : Reach}
    {rt : Route} (hl : (s.queue j q).seeds = (id, port, tag, v) :: rest) (hr : s.reach? id = some r) (hc : r.crossed = true)
    (hp : vget none r.seedRoutes port = some rt) (ht : r.takesSeeds = true) (hs : s.seedRoom rt = true) :
    s.queueSeed j q = (s.updQueue j q (fun k => { k with seeds := rest })).seedInto r rt (scalarTok v tag) := by
  have hdue : s.seedDue ((id, port, tag, v) :: rest) 0 = true := by
    simp [State.seedDue, hr, hc, hp, ht, hs]
  have hfirst : (List.range ((id, port, tag, v) :: rest).length).find? (s.seedDue ((id, port, tag, v) :: rest)) = some 0 := by
    rw [List.length_cons, List.range_succ_eq_map, List.find?_cons_of_pos hdue]
  have hupd : s.updQueue j q (fun k => { k with seeds := k.seeds.eraseIdx 0 }) = s.updQueue j q (fun k => { k with seeds := rest }) := by
    rw [State.queue] at hl
    simp only [State.updQueue, State.updJob, hl, List.eraseIdx_cons_zero]
  have hr' : (s.updQueue j q (fun k => { k with seeds := k.seeds.eraseIdx 0 })).reach? id = some r := hr
  rw [State.queueSeed]
  simp only [hl, hfirst, List.getElem?_cons_zero, hr', hp]
  rw [hupd]

/-- The oldest token of a window enters once its task's wave has crossed and its channel has room. -/
theorem State.ingressToken_first {s : State} {j ch : Nat} {off : BitVec 32} {len : BitVec 7} {rest : List (BitVec 32 × BitVec 7)} {r : Reach} {rt : Route}
    (hl : (s.ingress j ch).heldToks = (off, len) :: rest) (hr : s.ingressTask j ch = some r) (hc : r.crossed = true)
    (hp : vget none r.seedRoutes (s.ingress j ch).iport = some rt) (ht : r.takesSeeds = true) (hs : s.seedRoom rt = true) :
    s.ingressToken j ch = (s.updIngress j ch (fun g => { g with heldToks := rest })).seedInto r rt
      (orderTok 4 (len.setWidth 64 ++ off |>.setWidth 64) 0) := by
  simp only [State.ingressToken, hl, hr, hc, hp, ht, hs, Bool.not_true, Bool.false_eq_true, if_false, Bool.and_self, if_true]

/-- A data token that enters an address generator's channel joins its end. -/
theorem State.seedInto_ag (s : State) (r : Reach) {rt : Route} {tok : Token} (hk : tok.kind = .data) (hd : rt.dkind = 1) (hc : rt.chan < 8) :
    ∃ pk : Packet, pk.tok = { tok with vchan := pk.tok.vchan } ∧ pk.reach = r.id ∧
      vget [] ((s.seedInto r rt tok).aset rt.dst).iss.chans rt.chan = vget [] (s.aset rt.dst).iss.chans rt.chan ++ [pk] := by
  let k := Config.openWord s.freeCount
  refine ⟨{ mkPacket s rt.dst (bitsN k 0 5) r.id rt tok with ran := true, src := bits k 5 9 }, ?_, rfl, ?_⟩
  · simp [mkPacket, hk]
  · rw [State.seedInto]
    simp only [hd]
    simp only [State.updIssue, State.updA, State.aset, State.updCell_self, OfNat.one_ne_ofNat, one_ne_zero, if_false]
    rw [vget_vset_self _ _ _ _ hc]
    rfl

/-! ### Seeds and ingress words written by the host (06 R140, 17 R309; log entry 69) -/

section
variable {s : State} {j q n : Nat} {tg : BitVec 2} {v : Word} (hin : (1 ≤ j ∧ j ≤ 63) ∧ q < 16 ∧ n < 8)
include hin

/-- A seed that no token owes is dropped. -/
theorem exec_seedIngress_none (ho : (s.queue j q).seedOwed = []) :
    exec (.seedIngress j q n tg.toNat v) s = .next (s.updQueue j q (fun k => { k with seedDrop := k.seedDrop + 1 })) := by
  have hok : (j = 0 || 63 < j || 16 ≤ q || 8 ≤ n || 4 ≤ tg.toNat) = false := by simp; omega
  show execSeedIngress j q n tg.toNat v s = _
  simp only [execSeedIngress, hok, ho, Bool.false_eq_true, if_false]

variable {id k : Nat} {rest : List (Nat × Nat)} {r : Reach} (ho : (s.queue j q).seedOwed = (id, k) :: rest) (hr : s.reach? id = some r)
include ho hr

/-- A seed joins its token's list when the wave has crossed. -/
theorem exec_seedIngress_joins (hc : r.crossed = true) :
    let u := s.updQueue j q (fun z => { z with seedOwed := if k ≤ 1 then rest else (id, k - 1) :: rest })
    exec (.seedIngress j q n tg.toNat v) s =
      .next ((u.updQueue j q (fun z => { z with seeds := z.seeds ++ [(id, n, tg, v)] })).queueSeed j q) := by
  intro u
  have hok : (j = 0 || 63 < j || 16 ≤ q || 8 ≤ n || 4 ≤ tg.toNat) = false := by simp; omega
  have hru : u.reach? id = some r := hr
  show execSeedIngress j q n tg.toNat v s = _
  simp only [execSeedIngress, hok, ho, Bool.false_eq_true, if_false]
  rw [if_neg (by rw [hru]; simp [hc]), BitVec.ofNat_toNat, BitVec.setWidth_eq]

/-- Eight seeds are held before the wave has crossed; a ninth is dropped. -/
theorem exec_seedIngress_full (hc : r.crossed = false) :
    let u := s.updQueue j q (fun z => { z with seedOwed := if k ≤ 1 then rest else (id, k - 1) :: rest })
    8 ≤ ((u.queue j q).seeds.filter (fun e => !((s.reach? e.1).map Reach.crossed).getD false)).length →
    exec (.seedIngress j q n tg.toNat v) s = .next (u.updQueue j q (fun k => { k with seedDrop := k.seedDrop + 1 })) := by
  intro u hfull
  have hok : (j = 0 || 63 < j || 16 ≤ q || 8 ≤ n || 4 ≤ tg.toNat) = false := by simp; omega
  have hru : u.reach? id = some r := hr
  show execSeedIngress j q n tg.toNat v s = _
  simp only [execSeedIngress, hok, ho, Bool.false_eq_true, if_false]
  refine if_pos ?_
  rw [hru, Bool.and_eq_true]
  exact ⟨by simp [hc], decide_eq_true hfull⟩

end

/-- A word written to an open ingress window that reaches its place lands there and raises its token. -/
theorem exec_ingressWindowWrite_at {s : State} {j ch off len st sa : Nat} {v : Unit64} (hj : 1 ≤ j ∧ j ≤ 63) (hc : ch < 8)
    (hi : (s.ingress j ch).ien = true) (hl : 8 ≤ len ∧ len ≤ 64) (ha : off % len = 0) (hu : off % 64 + len ≤ 64) (hr : off < 64 * (s.ingress j ch).ilen)
    (hs : (s.sysReach j ((s.ingress j ch).ibase.toNat + off) .write (whoOf 2 (0x010 + ch))).2 = .at st sa) :
    let va := (s.ingress j ch).ibase.toNat + off
    exec (.ingressWindowWrite j ch off len v) s =
      .next (((s.sysReach j va .write (whoOf 2 (0x010 + ch))).1.writeAt j va st sa len (v.toNat % 2 ^ (8 * len))).raiseIngress j ch off len) := by
  have hnum : (j = 0 || 63 < j || 8 ≤ ch) = false := by simp; omega
  have hok : (!(s.ingress j ch).ien || len < 8 || 64 < len || off % len ≠ 0 || 64 < off % 64 + len || 64 * (s.ingress j ch).ilen ≤ off) = false := by
    simp [hi, ha]; omega
  show execIngressWindowWrite j ch off len v s = _
  simp only [execIngressWindowWrite, hnum, hok, hs, Bool.false_eq_true, if_false]

end Sys2Proof.Machine

open Sys2Proof Sys2Proof.Machine in
/-- Settles O25, agent by agent: a context's seed or GANG, a delivery, a gang's tick, and the host's words. -/
theorem seedsAndGangs : Obligations.SeedsAndGangs := by
  intro h b tg p s c x hv hc
  refine ⟨?seed, ?gang, ?noReach, ?ctxSeed, ?queueSeed, ?ingressToken, ?channel, ?gangStart, ?hostSeed, ?ingressWord⟩
  case seed =>
    intro r hr w hw
    have hid : s.reach? r.id = some r := reach?_of_handle hr
    refine ⟨fun hs => ?_, fun hn ha => ⟨_, exec_seed_wrongState hr hn ha, s.detailTrap_traps hv 2 hc hw⟩⟩
    have hx := exec_seed_tries (b := b) (tg := tg) (p := p) hr hs
    have hblock (hy : s.trySeed c r.id p.toNat tg (x.reg b) hv (wordOf (.seed h b tg p)) =
        s.block c (.seed r.id p.toNat tg (x.reg b) hv (wordOf (.seed h b tg p)))) :
        ∃ t, exec (.seed h b tg p) s = .next t ∧ OnlyCtx c s t ∧
          t.ctx c = { x with st := .blocked, wait := .seed r.id p.toNat tg (x.reg b) hv w } := by
      refine ⟨_, hx.trans (congrArg Host.Outcome.next hy), OnlyCtx.updCtx _ _ _, ?_⟩
      rw [State.block_ctx _ _ hc, wordOf_of_encode hw]
      rfl
    refine ⟨fun rt hl hp => ⟨fun ht hroom => ?_, fun hwait => hblock (State.trySeed_waits hid hl hp hwait)⟩,
      fun hl => hblock (State.trySeed_loading hid hl), fun hl hp => ?_⟩
    · exact ⟨_, hx.trans (congrArg Host.Outcome.next (State.trySeed_enters hid hl hp ht hroom)), rfl⟩
    · exact ⟨_, hx.trans (congrArg Host.Outcome.next (State.trySeed_noPort hid hl hp)), s.detailTrap_traps hv 3 hc hw⟩
  case gang =>
    intro r hr w hw u
    refine ⟨fun ha ht => ?_, fun ha ht => ?_, fun ha => ⟨_, exec_gang_wrongState hr ha, s.detailTrap_traps hv 2 hc hw⟩⟩
    · have hx := exec_gang_sets hr ha (decide_eq_false (Nat.not_lt.mpr ht))
      simp only [Bool.or_false, Bool.false_and, Bool.false_eq_true, if_false] at hx
      rw [State.advance, State.updCtx_updCtx _ _ _ hc] at hx
      exact ⟨_, hx, u.advance_goesOn hc⟩
    · have hx := exec_gang_sets hr ha (decide_eq_true ht)
      simp only [Bool.or_true, Bool.true_and, beq_iff_eq] at hx
      rw [State.advance, State.updCtx_updCtx _ _ _ hc] at hx
      simp only [Context.advance_eq] at hx
      exact ⟨_, _, hx, rfl, rfl⟩
  case noReach =>
    intro hr e he w hw
    simp only [List.mem_cons, List.not_mem_nil, or_false] at he
    rcases he with rfl | rfl
    · exact ⟨_, exec_seed_noReach hr, s.detailTrap_traps hv 1 hc hw⟩
    · exact ⟨_, exec_gang_noReach hr, s.detailTrap_traps hv 1 hc hw⟩
  case ctxSeed =>
    intro k id port v hw w r rt hk hb hwait hr hl hp ht hs
    exact ⟨_, (exec_seedDeliver_ctx hk hb hwait).trans (congrArg Host.Outcome.next (State.trySeed_enters hr hl hp ht hs)), rfl⟩
  case queueSeed =>
    intro j q id port v rest r rt hj hq hl hr hcr hp ht hs
    exact ⟨_, (exec_seedDeliver_queue s hj hq).trans (congrArg Host.Outcome.next (State.queueSeed_first hl hr hcr hp ht hs)), rfl⟩
  case ingressToken =>
    intro j ch off len rest r rt _ hch hl hr hcr hp ht hs
    exact ⟨_, (exec_seedDeliver_ingress s hch).trans (congrArg Host.Outcome.next (State.ingressToken_first hl hr hcr hp ht hs)), rfl⟩
  case channel => exact fun r rt tok hk hd hch => s.seedInto_ag r hk hd hch
  case gangStart =>
    intro r tk hr ha hg ht
    exact ⟨_, exec_gangStart hr ha hg ht, rfl, State.startReach_running true hr⟩
  case hostSeed =>
    intro job q n v hj hj' hq hn
    have hin : (1 ≤ job ∧ job ≤ 63) ∧ q < 16 ∧ n < 8 := ⟨⟨hj, hj'⟩, hq, hn⟩
    refine ⟨fun ho => ⟨_, exec_seedIngress_none hin ho, rfl⟩, ?_⟩
    intro id k rest r ho hr u
    exact ⟨fun hcr => ⟨_, exec_seedIngress_joins hin ho hr hcr, rfl⟩, fun hcr hfull => ⟨_, exec_seedIngress_full hin ho hr hcr hfull, rfl⟩⟩
  case ingressWord =>
    intro job ch off len v st sa hj hj' hch g hi hl hl' ha hu hroom hs
    exact ⟨_, exec_ingressWindowWrite_at ⟨hj, hj'⟩ hch hi ⟨hl, hl'⟩ ha hu hroom hs, rfl⟩

end

/-!
PROOF. LAUNCH and its acceptance, CFGLD and the loads of images, and CFGSW (05 R123, R124, R126, 06 R141 to R144, 02 R40 to R43).
-/

section
namespace Sys2Proof.Machine

/-! ### LAUNCH (05 R124) -/

/-- LAUNCH reads its token after the stores of its context, and waits for the sequencer. -/
theorem exec_launch_at {s m : State} {h b : Reg} {a sh : BitVec 1} {st sa : Nat} (hn : ¬ (a = 1 ∧ sh = 1))
    (hal : ((s.ctx s.focus.ctx).reg b).toNat % 64 = 0) (hd : s.drain s.focus.ctx = some m)
    (hr : (m.coreReach s.focus.ctx ((s.ctx s.focus.ctx).reg b) .read).2 = .at st sa) :
    let u := (m.coreReach s.focus.ctx ((s.ctx s.focus.ctx).reg b) .read).1
    exec (.launch h b a sh) s = .next ((u.countAccess st sa).block s.focus.ctx (.launch h (u.hbmUnit st sa) (sh == 1) (a == 1))) := by
  have hn' : (decide (a = 1) && decide (sh = 1)) = false := by simpa using hn
  show execLaunch h b a sh s = _
  simp only [execLaunch, hn', if_neg (aligned64 hal), hd, hr, Bool.false_eq_true, if_false]

theorem exec_launch_illegal (s : State) (h b : Reg) :
    exec (.launch h b 1 1) s = .next (s.syncTrap s.focus.ctx 0x01 ((wordOf (.launch h b 1 1)).setWidth 64) 0 0) := rfl

/-! ### The acceptance (06 R141, R144) -/

/-- A context has no free slot exactly when all eight hold a reach. -/
theorem Context.freeSlot_none {x : Context} (h : ∀ i, i < 8 → (vget ⟨0, none⟩ x.slots i).reach.isSome = true) : x.freeSlot = none := by
  rw [Context.freeSlot, List.find?_eq_none]
  intro i hi
  rw [← Option.not_isSome, h i (List.mem_range.mp hi)]
  exact Bool.false_ne_true

/-- A rejection without a signal writes nothing. -/
theorem State.signal_none (s : State) (j : Nat) (add : Bool) (v : Word) : s.signal j 0 add v = (s, true) := rfl

section
variable {s : State} {c : Nat} {h : Reg} {tok : Unit64} {sh ar : Bool} (hb : (s.ctx c).st = .blocked) (hw : (s.ctx c).wait = .launch h tok sh ar)
include hb hw

theorem exec_launchAccept_full (hf : (s.ctx c).freeSlot = none) : exec (.launchAccept c) s = .next (s.retire c h 0x8000000000000001) := by
  show execLaunchAccept c s = _
  simp only [execLaunchAccept, hb, hw, hf]

variable {slot : Nat} (hf : (s.ctx c).freeSlot = some slot)
include hf

theorem exec_launchAccept_rejected {k : Nat} (hk : (s.checkToken (s.ctx c).job tok true false).2 = .reject k) (hs : tokSignal tok = 0) :
    exec (.launchAccept c) s =
      .next ((s.checkToken (s.ctx c).job tok true false).1.retire c h (BitVec.ofNat 64 (0x8000000000000100 + k))) := by
  show execLaunchAccept c s = _
  simp only [execLaunchAccept, hb, hw, hf, hk, hs, State.signal_none, if_true]

theorem exec_launchAccept_ok {w hh : Nat} (hk : (s.checkToken (s.ctx c).job tok true false).2 = .ok w hh) :
    let u := (s.checkToken (s.ctx c).job tok true false).1
    let p := u.fillHandle c slot (u.nextId + 1)
    exec (.launchAccept c) s = .next (State.retire { p.1 with
      nextId := u.nextId + 1
      reaches := p.1.reaches ++ [{ newLaunch (u.nextId + 1) (s.ctx c).job tok with
        device := true, ctx := c, bound := true, slot := slot, handle := p.2, shadow := sh, armedReq := ar,
        cx := (s.job (s.ctx c).job).x0 + tokRx tok, cy := (s.job (s.ctx c).job).y0 + tokRy tok, w := w, h := hh, checked := true }] } c h p.2) := by
  show execLaunchAccept c s = _
  simp only [execLaunchAccept, hb, hw, hf, hk]

end

/-- The context of an accepted launch: its slot holds the new reach, and its register the handle. -/
theorem State.fillHandle_retire (u w : State) {c slot id : Nat} (d : Reg) (v : Word) (hc : c < 64) (hw : w.ctxs = (u.fillHandle c slot id).1.ctxs) :
    let t := w.retire c d v
    let slots := vset (u.ctx c).slots slot ⟨(vget ⟨0, none⟩ (u.ctx c).slots slot).gen + 1, some id⟩
    (∀ k, k ≠ c → t.ctx k = u.ctx k) ∧ (∀ r, (t.ctx c).reg r = if r ≠ 0 ∧ r = d then v else (u.ctx c).reg r) ∧
    t.ctx c = { u.ctx c with
      x := (t.ctx c).x, slots := slots, st := .ready, wait := .none, pc := (u.ctx c).pc + 4
      fetch := keptFetch (u.ctx c).fetch ((u.ctx c).pc + 4) } := by
  intro t slots
  have hfill (k : Nat) : w.ctx k = (u.fillHandle c slot id).1.ctx k := by rw [State.ctx, hw]; rfl
  have hctx : w.ctx c = { u.ctx c with slots := slots } := (hfill c).trans (u.updCtx_self _ hc)
  refine ⟨fun k hk => ?_, fun r => ?_, ?_⟩
  · exact (State.updCtx_of_ne w _ hk).trans ((hfill k).trans (u.updCtx_of_ne _ hk))
  · have hreg := (w.retire_goesOn d v hc).2.1 r
    rwa [hctx] at hreg
  · have hself : t.ctx c = ((w.ctx c).setReg d v).advance := w.updCtx_self _ hc
    rw [hself, hctx, Context.advance_eq, Context.setReg_eq]

/-! ### CFGLD (05 R123) -/

section
variable {s : State} {h b : Reg} {y : BitVec 4} {x : BitVec 5} {st sa : Nat} (hal : ((s.ctx s.focus.ctx).reg b).toNat % 64 = 0)
  (hr : (s.coreReach s.focus.ctx ((s.ctx s.focus.ctx).reg b) .read).2 = .at st sa)
include hal hr

/-- An image within the partition begins to load. -/
theorem exec_cfgld_begins :
    let c := s.focus.ctx
    let va := (s.ctx c).reg b
    let u := (s.coreReach c va .read).1
    let m := [u.hbmUnit st sa]
    let p := s.job (s.ctx c).job
    let id := u.nextId + 1
    p.valid = true → p.x0 + x.toNat + imgWidth m - 1 ≤ p.x1 → p.y0 + y.toNat + imgHeight m - 1 ≤ p.y1 →
    exec (.cfgld h b y x) s = .next (State.block { u.countAccess st sa with
      nextId := id
      loads := u.loads ++ [⟨id, c, (s.ctx c).job, va.toNat, p.x0 + x.toNat, p.y0 + y.toNat, wordOf (.cfgld h b y x), p.reqsig, m⟩] }
      c (.cfgld h id)) := by
  intro c va u m p id hv hx hy
  have hin : (!p.valid || decide (p.x1 < p.x0 + x.toNat + imgWidth m - 1) || decide (p.y1 < p.y0 + y.toNat + imgHeight m - 1)) = false := by
    simp [hv, hx, hy]
  simp only [m, p, u, va, c] at hin
  show execCfgld h b y x s = _
  simp only [execCfgld, if_neg (aligned64 hal), hr, hin, Bool.false_eq_true, if_false]
  rfl

/-- One outside it traps. -/
theorem exec_cfgld_outside :
    let c := s.focus.ctx
    let va := (s.ctx c).reg b
    let u := (s.coreReach c va .read).1
    let m := [u.hbmUnit st sa]
    let p := s.job (s.ctx c).job
    p.valid = false ∨ p.x1 < p.x0 + x.toNat + imgWidth m - 1 ∨ p.y1 < p.y0 + y.toNat + imgHeight m - 1 →
    exec (.cfgld h b y x) s = .next ((u.countAccess st sa).detailTrap c va 4 (wordOf (.cfgld h b y x))) := by
  intro c va u m p hout
  have hout' : (!p.valid || decide (p.x1 < p.x0 + x.toNat + imgWidth m - 1) || decide (p.y1 < p.y0 + y.toNat + imgHeight m - 1)) = true := by
    simpa [or_assoc] using hout
  simp only [m, p, u, va, c] at hout'
  show execCfgld h b y x s = _
  simp only [execCfgld, if_neg (aligned64 hal), hr, hout', if_true]
  rfl

end

/-! ### The load of a CFGLD's image, a unit at a time (02 R41) -/

theorem exec_configLoadDone_load {s : State} {l : Load} (hl : s.loads.find? (fun q => q.id == l.id) = some l) :
    exec (.configLoadDone l.id) s = .next (s.loadDone l) := by
  show execConfigLoadDone l.id s = _
  simp only [execConfigLoadDone, hl]

section
variable {s : State} {l : Load} (hc : s.cache.find? (fun e => e.job == l.job && e.va == l.va) = none)
include hc

/-- A load that has units left makes one access. -/
theorem State.loadDone_unit (hu : l.units.length < unitsOf l.units) :
    let z := s.imageUnit l.job l.va l.units.length
    let ended : State := { z.1 with loads := s.loads.filter (fun q => q.id != l.id) }
    (z.2 = none → s.loadDone l = z.1) ∧
    (∀ cause code a, z.2 = some (.error (cause, code, a)) →
      s.loadDone l = ended.accessTrap l.ctx (BitVec.ofNat 64 a) 2 cause code (l.word.setWidth 64)) ∧
    (∀ v, z.2 = some (.ok v) →
      s.loadDone l = { z.1 with loads := s.loads.map (fun q => if q.id = l.id then { q with units := q.units ++ [v] } else q) }) := by
  refine ⟨fun hz => ?_, fun cause code a hz => ?_, fun v hz => ?_⟩ <;>
    simp only [State.loadDone, hc, Option.bind_none, Option.isSome_none, Bool.false_eq_true, if_false, if_pos hu, hz]

/-- A load whose units have been read ends as the checks say. -/
theorem State.loadDone_refused {i code : Nat} (hu : unitsOf l.units ≤ l.units.length)
    (hr : s.loadRefusal l.job l.reqsig l.units (imgWidth l.units) (imgHeight l.units) (l.cells l.units) l.va false = some (i, code)) :
    s.loadDone l = s.loadEnds l (BitVec.ofNat 64 (2 ^ 63 + i * 2 ^ 16 + code)) := by
  simp only [State.loadDone, hc, Option.bind_none, Option.isSome_none, Bool.false_eq_true, if_false, if_neg (Nat.not_lt.mpr hu), hr]
theorem State.loadDone_cached (hu : unitsOf l.units ≤ l.units.length)
    (hr : s.loadRefusal l.job l.reqsig l.units (imgWidth l.units) (imgHeight l.units) (l.cells l.units) l.va false = none) :
    s.loadDone l = (s.cacheFill (l.cells l.units) l.job l.va l.units).loadEnds l (BitVec.ofNat 64 l.va) := by
  simp only [State.loadDone, hc, Option.bind_none, Option.isSome_none, Bool.false_eq_true, if_false, if_neg (Nat.not_lt.mpr hu), hr]

end

/-- The CFGLD of a load that ends goes on. -/
theorem State.loadEnds_goesOn {s : State} {l : Load} {h : Reg} (v : Word) (hc : l.ctx < 64) (hw : (s.ctx l.ctx).wait = .cfgld h l.id) :
    GoesOn { s with loads := s.loads.filter (fun q => q.id != l.id) } (s.loadEnds l v) l.ctx h v ((s.ctx l.ctx).pc + 4) := by
  have hw' : (State.ctx { s with loads := s.loads.filter (fun q => q.id != l.id) } l.ctx).wait = .cfgld h l.id := hw
  simp only [State.loadEnds, hw', if_true]
  exact State.retire_goesOn _ h v hc

/-- The configuration cache is no context's. -/
theorem State.cacheFill_ctx (s : State) (cells : List Nat) (j va : Nat) (m : List Unit64) (k : Nat) : (s.cacheFill cells j va m).ctx k = s.ctx k := by
  rw [State.cacheFill]
  induction cells.filter (fun n => s.cellJob n == j) generalizing s with
  | nil => rfl
  | cons n l ih => exact ih (s.cachePut n j va m)

/-! ### The load of an admitted launch (02 R40 to R43) -/

theorem exec_configLoadDone_launch {s : State} {r : Reach} (hl : s.loads.find? (fun q => q.id == r.id) = none) (hr : s.reach? r.id = some r)
    (hst : r.st = .loading) : exec (.configLoadDone r.id) s = .next (s.launchDone r) := by
  show execConfigLoadDone r.id s = _
  simp only [execConfigLoadDone, hl, hr, hst, beq_self_eq_true, if_true]

theorem State.launchDone_held {s : State} {r : Reach} {m : List Unit64} (hm : s.cachedIn r.cells r.job r.image = some m) (hb : s.bindFault r.job m = none)
    (hw : imgWidth m = r.w) (hh : imgHeight m = r.h) : s.launchDone r = s.launchLoaded r m := by
  have hext : (decide (imgWidth m ≠ r.w) || decide (imgHeight m ≠ r.h)) = false := by simp [hw, hh]
  simp only [State.launchDone, hm, hext, hb, Bool.false_eq_true, if_false]

section
variable {s : State} {r : Reach} (hm : s.cachedIn r.cells r.job r.image = none)
include hm

theorem State.launchDone_unit (hu : r.units.length < unitsOf r.units) :
    let z := s.imageUnit r.job r.image r.units.length
    (∀ e, z.2 = some (.error e) → s.launchDone r = (z.1.endLaunch r false (sigRefused 0 0x0001)).1) ∧
    (∀ v, z.2 = some (.ok v) → s.launchDone r = z.1.updReach r.id (fun r => { r with units := r.units ++ [v] })) := by
  refine ⟨fun e hz => ?_, fun v hz => ?_⟩ <;> simp only [State.launchDone, hm, if_pos hu, hz]

variable (hu : unitsOf r.units ≤ r.units.length)
include hu

theorem State.launchDone_refused {i code : Nat} (hr : s.loadRefusal r.job r.reqsig r.units r.w r.h r.cells r.image true = some (i, code)) :
    s.launchDone r = (s.endLaunch r false (sigRefused i code)).1 := by
  simp only [State.launchDone, hm, if_neg (Nat.not_lt.mpr hu), hr]
theorem State.launchDone_loaded (hr : s.loadRefusal r.job r.reqsig r.units r.w r.h r.cells r.image true = none) :
    s.launchDone r = (s.cacheFill r.cells r.job r.image r.units).launchLoaded r r.units := by
  simp only [State.launchDone, hm, if_neg (Nat.not_lt.mpr hu), hr]

end

/-! ### CFGSW (05 R126) -/

section
variable {s : State} {h b : Reg} {o r : Reach} (ho : ((s.ctx s.focus.ctx).handleReach ((s.ctx s.focus.ctx).reg h)).bind s.reach? = some o)
  (hr : ((s.ctx s.focus.ctx).handleReach ((s.ctx s.focus.ctx).reg b)).bind s.reach? = some r)
include ho hr

theorem exec_cfgsw_notShadowed (hs : o.shows ≠ .shadowed) :
    exec (.cfgsw h b) s = .next (s.detailTrap s.focus.ctx ((s.ctx s.focus.ctx).reg h) 2 (wordOf (.cfgsw h b))) := by
  show execCfgsw h b s = _
  simp only [execCfgsw, ho, hr, if_pos hs]

theorem exec_cfgsw_notRunning (hs : o.shows = .shadowed) (hn : r.shows ≠ .running) :
    exec (.cfgsw h b) s = .next (s.detailTrap s.focus.ctx ((s.ctx s.focus.ctx).reg b) 2 (wordOf (.cfgsw h b))) := by
  show execCfgsw h b s = _
  simp only [execCfgsw, ho, hr, hs, ne_eq, not_true_eq_false, if_false, if_pos hn]

theorem exec_cfgsw_elsewhere (hs : o.shows = .shadowed) (hn : r.shows = .running) (he : ¬ (o.cx = r.cx ∧ o.cy = r.cy ∧ o.w = r.w ∧ o.h = r.h)) :
    exec (.cfgsw h b) s = .next (s.detailTrap s.focus.ctx ((s.ctx s.focus.ctx).reg h) 5 (wordOf (.cfgsw h b))) := by
  have he' : (!(decide (o.cx = r.cx) && decide (o.cy = r.cy) && decide (o.w = r.w) && decide (o.h = r.h))) = true := by
    rw [Bool.not_eq_true', ← Bool.not_eq_true]
    simpa [and_assoc] using he
  show execCfgsw h b s = _
  simp only [execCfgsw, ho, hr, hs, hn, ne_eq, not_true_eq_false, if_false, he', if_true]

theorem exec_cfgsw_swaps (hs : o.st = .shadowed) (hn : r.st = .running) (he : o.cx = r.cx ∧ o.cy = r.cy ∧ o.w = r.w ∧ o.h = r.h)
    (hh : s.swapHeld o.id = false) (hg : r.gang = none) :
    exec (.cfgsw h b) s = .next ((({ s with images := s.images.filter (fun i => i.reach != o.id) } : State).startEbb r (.swap o.id)).block
      s.focus.ctx (.cfgsw o.id r.id)) := by
  have ho' : o.shows = .shadowed := by rw [Reach.shows, hs]
  have hr' : r.shows = .running := by rw [Reach.shows, hn]
  have he' : (!(decide (o.cx = r.cx) && decide (o.cy = r.cy) && decide (o.w = r.w) && decide (o.h = r.h))) = false := by simp [he]
  have hheld : (o.st != .shadowed || r.st != .running || s.swapHeld o.id || r.gang.isSome) = false := by simp [hs, hn, hh, hg]
  show execCfgsw h b s = _
  simp only [execCfgsw, ho, hr, ho', hr', he', hheld, ne_eq, not_true_eq_false, if_false, Bool.false_eq_true]

end

end Sys2Proof.Machine

open Sys2Proof Sys2Proof.Machine in
/-- Settles O24, row by row: each instruction and event takes the branch of its tests. -/
theorem launchesAndConfigurations : Obligations.LaunchesAndConfigurations := by
  intro h b s c x va hc
  refine ⟨?launch, ?illegal, ?full, ?rejected, ?accepted, ?cfgld, ?load, ?launchLoad, ?swap, ?swapTraps⟩
  case launch =>
    intro a sh m st sa hn hal hd hr u
    have hdr := State.drain_spec hc hd
    have htr : Translates m u (m.ctx c).job va.toNat := State.coreReach_at hr
    have hctx : (u.countAccess st sa).ctx c = m.ctx c := htr.ctx c
    refine ⟨hdr, htr, _, exec_launch_at hn hal hd hr, OnlyCtx.updCtx _ _ _, ?_⟩
    rw [State.block_ctx _ _ hc, hctx]
    rfl
  case illegal =>
    intro w hw
    refine ⟨_, exec_launch_illegal s h b, ?_⟩
    rw [wordOf_of_encode hw, setWidth_eq_ofNat]
    exact s.syncTrap_traps 1 _ 0 0 hc
  case full =>
    intro tok sh ar hb hw hall
    exact ⟨_, exec_launchAccept_full hb hw (Context.freeSlot_none hall), s.retire_goesOn h _ hc⟩
  case rejected =>
    intro tok sh ar k hb hw hslot hk hsig u
    obtain ⟨slot, hf⟩ := Option.isSome_iff_exists.mp hslot
    exact ⟨_, exec_launchAccept_rejected hb hw hf hk hsig, u.retire_goesOn h _ hc⟩
  case accepted =>
    intro tok sh ar slot w hh hb hw hf hk u g hv
    exact ⟨_, exec_launchAccept_ok hb hw hf hk, rfl, State.fillHandle_retire u _ h hv hc rfl⟩
  case cfgld =>
    intro y xx st sa hal hr u m p
    have htr : Translates s u x.job va.toNat := State.coreReach_at hr
    refine ⟨htr, fun hv hx hy => ⟨_, exec_cfgld_begins hal hr hv hx hy, rfl, fun k hk => ?_, ?_⟩, fun hout w hw => ?_⟩
    · exact (State.updCtx_of_ne _ _ hk).trans (htr.ctx k)
    · have hctx : State.ctx u c = x := htr.ctx c
      exact (State.block_ctx _ _ hc).trans (congrArg (fun y : Context => { y with st := .blocked, wait := .cfgld h (u.nextId + 1) }) hctx)
    · exact ⟨_, exec_cfgld_outside hal hr hout, State.detailTrap_traps _ va 4 hc hw⟩
  case load =>
    intro l hl hlc hw hcache m
    have hx := exec_configLoadDone_load hl
    refine ⟨?_, fun hu => ⟨fun i code hr => ?_, fun hr => ?_⟩⟩
    · intro hu z
      obtain ⟨hwait, hfault, hok⟩ := State.loadDone_unit hcache hu
      refine ⟨fun hz => hx.trans (congrArg Host.Outcome.next (hwait hz)), fun code a hz => ⟨_, hx.trans (congrArg Host.Outcome.next (hfault _ _ _ hz)), ?_⟩,
        fun code a hz => ⟨_, hx.trans (congrArg Host.Outcome.next (hfault _ _ _ hz)), ?_⟩, fun v hz => hx.trans (congrArg Host.Outcome.next (hok v hz))⟩
      · exact State.accessTrap_fault3 _ _ 2 code _ hlc
      · exact State.accessTrap_fault4 _ _ 2 code _ hlc
    · exact ⟨_, hx.trans (congrArg Host.Outcome.next (State.loadDone_refused hcache hu hr)), State.loadEnds_goesOn _ hlc hw⟩
    · refine ⟨_, _, hx.trans (congrArg Host.Outcome.next (State.loadDone_cached hcache hu hr)), rfl, ?_⟩
      exact State.loadEnds_goesOn _ hlc ((congrArg Context.wait (s.cacheFill_ctx _ _ _ _ _)).trans hw)
  case launchLoad =>
    intro r hl hr hst
    have hx := exec_configLoadDone_launch hl hr hst
    refine ⟨fun m hm hb hw hh => ⟨_, hx.trans (congrArg Host.Outcome.next (State.launchDone_held hm hb hw hh)), rfl⟩, ?_⟩
    intro hm m
    refine ⟨?_, fun hu => ⟨fun i code hi => ?_, fun hi => ?_⟩⟩
    · intro hu z
      obtain ⟨hfault, hok⟩ := State.launchDone_unit hm hu
      exact ⟨fun e hz => hx.trans (congrArg Host.Outcome.next (hfault e hz)), fun v hz => hx.trans (congrArg Host.Outcome.next (hok v hz))⟩
    · exact hx.trans (congrArg Host.Outcome.next (State.launchDone_refused hm hu hi))
    · exact hx.trans (congrArg Host.Outcome.next (State.launchDone_loaded hm hu hi))
  case swap =>
    intro o r ho hr hos hrs hcx hcy hw hh hheld hg
    exact ⟨_, exec_cfgsw_swaps ho hr hos hrs ⟨hcx, hcy, hw, hh⟩ hheld hg, rfl⟩
  case swapTraps =>
    intro o r w hw ho hr
    exact ⟨fun hs => ⟨_, exec_cfgsw_notShadowed ho hr hs, s.detailTrap_traps _ 2 hc hw⟩,
      fun hs hn => ⟨_, exec_cfgsw_notRunning ho hr hs hn, s.detailTrap_traps _ 2 hc hw⟩,
      fun hs hn he => ⟨_, exec_cfgsw_elsewhere ho hr hs hn he, s.detailTrap_traps _ 5 hc hw⟩⟩

end

/-!
PROOF. The nodes of a cell: where they stand, what leaves them alone, and what an abort leaves of one (19 R328, R334).
-/

section
namespace Sys2Proof.Machine

/-! ### A node and its place -/

/-- A node that is found stands at its place and passes the test. -/
theorem State.nodeAt_of_nodeWhere {s : State} {n k : Nat} {d : CNode} {ok : CNode → Bool} (h : s.nodeWhere n ok = some (k, d)) :
    s.nodeAt n k = some d ∧ ok d = true := by
  obtain ⟨i, -, hi⟩ := List.exists_of_findSome?_eq_some h
  split at hi
  case h_1 e he =>
    split at hi
    case isTrue hok =>
      obtain ⟨rfl, rfl⟩ := Prod.mk.inj (Option.some.inj hi)
      exact ⟨he, hok⟩
    case isFalse => exact nomatch hi
  case h_2 => exact nomatch hi

/-- The name of a node gives its cell. -/
theorem nodeName_mod {n : Nat} (r : Nat) (h : n < 512) : (n + 512 * r) % 512 = n := by omega

theorem State.updNodeAt_nodeAt (s : State) (n k m j : Nat) (f : CNode → CNode) :
    (s.updNodeAt n k f).nodeAt m j = if m = n ∧ j = k then (s.nodeAt n k).map f else s.nodeAt m j := by
  by_cases hm : m = n
  · subst hm
    rw [State.updNodeAt, State.nodeAt, State.updCell_self, State.nodeAt, State.nodeAt]
    dsimp only
    rw [List.getElem?_modify]
    by_cases hj : j = k
    · subst hj; simp
    · simp [hj, Ne.symm hj]
  · rw [if_neg (fun h => hm h.1), State.updNodeAt, State.nodeAt, State.updCell_of_ne _ _ hm, State.nodeAt]

theorem State.updNodeAt_self {s : State} {n k : Nat} {d : CNode} (f : CNode → CNode) (h : s.nodeAt n k = some d) :
    (s.updNodeAt n k f).nodeAt n k = some (f d) := by
  rw [State.updNodeAt_nodeAt, if_pos ⟨rfl, rfl⟩, h]
  rfl

/-- A change of a node is a change of what stands there. -/
theorem State.updNodeAt_congr {s : State} {n k : Nat} {d : CNode} {f g : CNode → CNode} (h : s.nodeAt n k = some d) (hfg : f d = g d) :
    s.updNodeAt n k f = s.updNodeAt n k g := by
  refine State.updCell_congr ?_
  have hl : (s.cell n).nodes[k]? = some d := h
  have : (s.cell n).nodes.modify k f = (s.cell n).nodes.modify k g := by
    refine List.ext_getElem? fun i => ?_
    rw [List.getElem?_modify, List.getElem?_modify]
    by_cases hi : k = i
    · subst hi; simp [hl, hfg]
    · simp [hi]
  rw [this]

/-! ### What leaves the nodes alone -/

/-- The cycle and the nodes of every cell are as before. -/
def SameNodes (s t : State) : Prop := t.cycle = s.cycle ∧ ∀ m, (t.cell m).nodes = (s.cell m).nodes

theorem SameNodes.refl (s : State) : SameNodes s s := ⟨rfl, fun _ => rfl⟩
theorem SameNodes.trans {s t u : State} (h : SameNodes s t) (g : SameNodes t u) : SameNodes s u :=
  ⟨g.1.trans h.1, fun m => (g.2 m).trans (h.2 m)⟩
theorem SameNodes.nodeAt {s t : State} (h : SameNodes s t) (n k : Nat) : t.nodeAt n k = s.nodeAt n k := by
  rw [State.nodeAt, State.nodeAt, h.2]
theorem SameNodes.tick {s t : State} (h : SameNodes s t) : t.tick = s.tick := by rw [State.tick, State.tick, h.1]

theorem SameButLogs.sameNodes {s t : State} (h : SameButLogs s t) : SameNodes s t := ⟨by rw [h], fun m => by rw [h.cell]⟩

/-- A write of one cell that keeps its nodes. -/
theorem SameNodes.of_cells {s t : State} {n : Nat} {c : Cell} (hc : t.cycle = s.cycle) (h : t.cells = Tbl.set s.cells n c)
    (hn : c.nodes = (s.cell n).nodes) : SameNodes s t := by
  refine ⟨hc, fun m => ?_⟩
  rw [State.cell, h, Tbl.get_set]
  split
  case isTrue hm => rw [hn, hm]
  case isFalse => rfl

theorem State.updA_sameNodes (s : State) (n : Nat) (f : ASet → ASet) : SameNodes s (s.updA n f) := .of_cells rfl rfl rfl
theorem State.updSet_sameNodes (s : State) (n r : Nat) (f : CSet → CSet) (g : ASet → ASet) : SameNodes s (s.updSet n r f g) :=
  .of_cells rfl rfl rfl

theorem State.updIssueOf_sameNodes (s : State) (n kind r : Nat) (f : Issue → Issue) : SameNodes s (s.updIssueOf n kind r f) := by
  unfold State.updIssueOf
  split <;> exact s.updSet_sameNodes ..

theorem State.event_sameNodes (s : State) (j cause ukind unit : Nat) (tp0 tp1 tp2 : Word) (reach : Option Nat) :
    SameNodes s (s.event j cause ukind unit tp0 tp1 tp2 reach) := (s.event_logs ..).sameNodes

theorem State.takeTriggers_sameNodes (s : State) (n r : Nat) : SameNodes s (s.takeTriggers n r).1 := by
  unfold State.takeTriggers
  dsimp only
  split
  · exact s.updIssueOf_sameNodes n kindA r _
  · exact .refl s

theorem State.lateEnd_sameNodes (s : State) (n r : Nat) (x : Xfer) (b : Bool) : SameNodes s (s.lateEnd n r x b) := by
  unfold State.lateEnd
  split
  · exact (s.event_sameNodes ..).trans (.of_cells rfl rfl rfl)
  · exact .refl s

theorem State.slotEvent_logs (s : State) (j n slot : Nat) (f : FSlot) (code r : Nat) : SameButLogs s (s.slotEvent j n slot f code r) := by
  unfold State.slotEvent
  dsimp only
  split
  · split <;> exact s.event_logs ..
  · exact s.event_logs ..

theorem State.fillSlot_sameNodes (s : State) (j n slot : Nat) (f : FSlot) (code r : Nat) : SameNodes s (s.fillSlot j n slot f code r) :=
  ((s.updJob_logs j _).trans (State.slotEvent_logs ..)).sameNodes

theorem State.freezeReq_sameNodes (s : State) (n id cause code : Nat) (stage : ReqStage) : SameNodes s (s.freezeReq n id cause code stage) := by
  unfold State.freezeReq
  split
  · exact .refl s
  · dsimp only
    split
    · exact s.updA_sameNodes n _
    · refine SameNodes.trans ?_ (State.fillSlot_sameNodes ..)
      exact s.updA_sameNodes n _

/-! ### A slot that closes (21 R345) -/

/-- A node that waits for a slot stands at a fault without a record. -/
theorem State.nodeAt_of_unrecorded {s : State} {j n k r code : Nat} {f : FSlot} (h : s.unrecorded j = some (.node n k r code f)) :
    ∃ d, s.nodeAt n k = some d ∧ d.frz = some (.unrecorded code f) := by
  obtain ⟨m, -, hm⟩ := List.mem_flatMap.mp (List.mem_of_head? h)
  simp only [State.waitingAt, List.mem_append, List.mem_flatMap, List.mem_filterMap] at hm
  rcases hm with (⟨_, _, e, _, he⟩ | ⟨x, _, hx⟩) | ⟨i, _, hi⟩
  · split at he <;> exact nomatch he
  · split at hx <;> exact nomatch hx
  · split at hi
    case h_1 d hd =>
      split at hi
      case h_1 hf =>
        obtain ⟨rfl, rfl, rfl, rfl, rfl⟩ := Waiting.node.inj (Option.some.inj hi)
        exact ⟨d, hd, hf⟩
      case h_2 => exact nomatch hi
    case h_2 => exact nomatch hi

/-- A node that does not wait for a slot is left alone when one closes. -/
theorem State.closeSlot_nodeAt {s : State} {n k : Nat} {d : CNode} (j slot : Nat) (h : s.nodeAt n k = some d) (hf : d.frz = none) :
    (s.closeSlot j slot).nodeAt n k = some d := by
  unfold State.closeSlot
  dsimp only
  set u := s.updJob j (fun b => { b with fslots := Tbl.upd FSlot.reset b.fslots slot (fun f => { f with isOpen := false }) })
  have hu : u.nodeAt n k = some d := h
  split
  case h_1 => rw [(u.freezeReq_sameNodes ..).nodeAt, hu]
  case h_2 =>
    rw [(State.fillSlot_sameNodes ..).nodeAt]
    exact ((u.updSet_sameNodes ..).nodeAt n k).trans hu
  case h_3 n' k' r code f hw =>
    obtain ⟨e, he, hef⟩ := State.nodeAt_of_unrecorded hw
    have hne : ¬ (n = n' ∧ k = k') := by
      rintro ⟨rfl, rfl⟩
      rw [hu] at he
      obtain rfl := Option.some.inj he
      exact nomatch hf.symm.trans hef
    rw [(State.fillSlot_sameNodes ..).nodeAt]
    exact (State.updNodeAt_nodeAt u n' k' n k _).trans (by rw [if_neg hne, hu])
  case h_4 => exact hu

/-! ### An abort (19 R334) -/

/-- A node after an abort at a tick, which owes so many null tokens. -/
def CNode.aborted (d : CNode) (tick nulls : Nat) : CNode :=
  { d with
    op := none, cstate := 3, epoch := d.epoch + 1, frz := none, rd := none, wr := none, flight := [], gate := [], pins := d.pins ++ d.pages,
    pinUntil := some (tick + 1000000), owed := d.owed ++ List.replicate nulls (nullTok 7 0) }

theorem State.lateEnds_sameNodes (n r : Nat) (l : List NodeReq) : ∀ s : State, SameNodes s (l.foldl (fun s q => s.lateEnd n r q.x true) s) := by
  induction l with
  | nil => exact .refl
  | cons q l ih => exact fun s => (s.lateEnd_sameNodes ..).trans (ih _)

theorem State.thawNode_nodeAt {s : State} {n k : Nat} {d e : CNode} (h : s.nodeAt n k = some e) (hf : e.frz = none) :
    ∃ slot, (s.thawNode n k d).nodeAt n k = some { e with slot := slot } := by
  unfold State.thawNode
  split
  case h_1 i => exact ⟨none, State.closeSlot_nodeAt _ _ (State.updNodeAt_self _ h) hf⟩
  case h_2 => exact ⟨e.slot, h⟩

/-- What an abort leaves of a node: its operation owes a null token, and so does every trigger that waited. -/
theorem State.abortNode_nodeAt {s : State} {n k : Nat} {d : CNode} (first reason : Nat) (h : s.nodeAt n k = some d) :
    ∃ slot nulls, (s.abortNode n k first reason).nodeAt n k = some { d.aborted s.tick (b2n d.op.isSome + nulls) with slot := slot } := by
  unfold State.abortNode
  simp only [h]
  set p := s.takeTriggers n d.reach
  set u : State := { p.1 with shoreOut := p.1.shoreOut ++ d.aborts n first reason }
  set v := (d.rd.toList ++ d.wr.toList ++ d.flight).foldl (fun s q => s.lateEnd n d.reach q.x true) u
  have hsame : SameNodes s v := (s.takeTriggers_sameNodes n d.reach).trans (SameNodes.trans (t := u) ⟨rfl, fun _ => rfl⟩ (State.lateEnds_sameNodes n d.reach _ u))
  have hw := State.updNodeAt_self (fun e : CNode => e.aborted v.tick (b2n e.op.isSome + p.2)) ((hsame.nodeAt n k).trans h)
  obtain ⟨slot, hslot⟩ := State.thawNode_nodeAt (d := d) hw rfl
  refine ⟨slot, p.2, ?_⟩
  rw [(State.event_sameNodes ..).nodeAt, ← hsame.tick]
  exact hslot

end Sys2Proof.Machine
end

/-!
PROOF. The slots of the tide (19 R332): the sequencer visits the nodes one after another, and a grant at one leaves the others.
-/

section
namespace Sys2Proof.Machine

/-- What a table lists at a number, if it does not hold the default there. -/
theorem Tbl.get_mem {α : Type} (d : α) (m : Tbl α) (n : Nat) : Tbl.get d m n = d ∨ (n, Tbl.get d m n) ∈ m := by
  induction m with
  | nil => exact .inl rfl
  | cons p m ih =>
    obtain ⟨k, v⟩ := p
    by_cases h : n = k
    · subst h; exact .inr (by simp [Tbl.get])
    · rw [Tbl.get, if_neg h]
      exact ih.imp_right (List.mem_cons_of_mem _)

theorem Tbl.mem_set {α : Type} {m : Tbl α} {n : Nat} {x : α} {p : Nat × α} (h : p ∈ Tbl.set m n x) : p = (n, x) ∨ p ∈ m := by
  induction m with
  | nil => exact .inl (List.mem_singleton.mp h)
  | cons e m ih =>
    rw [Tbl.set] at h
    split at h
    · exact (List.mem_cons.mp h).imp_right (List.mem_cons_of_mem _)
    · split at h
      · exact List.mem_cons.mp h
      · rcases List.mem_cons.mp h with h | h
        · exact .inr (h ▸ List.mem_cons_self)
        · exact (ih h).imp_right (List.mem_cons_of_mem _)

/-- A cell with a node is listed. -/
theorem State.cell_mem_of_node {s : State} {n k : Nat} {d : CNode} (h : (s.cell n).nodes[k]? = some d) : (n, s.cell n) ∈ s.cells := by
  refine (Tbl.get_mem Cell.reset s.cells n).resolve_left fun hd => ?_
  rw [State.cell, hd] at h
  exact nomatch h

/-! ### One grant -/

/-- A node with a slot from a cycle on. -/
def CNode.granted (d : CNode) (now : Nat) : CNode := { d with slotEnd := some (now + d.slotLen) }

/-- A node may be granted a slot, apart from its gateway ports. -/
def CNode.wantsSlot (d : CNode) (now : Nat) : Bool := !d.shared && d.enabled && d.op.isSome && !d.holdsSlot now

/-- The sequencer visits a place. -/
def State.grantSlot (s : State) (q : Nat × Nat) : State :=
  match s.nodeAt q.1 q.2 with
  | some d => if s.slotEligible d then s.updNodeAt q.1 q.2 (fun d => d.granted s.cycle) else s
  | none => s

/-- The places of the nodes, in the order of the cells. -/
def State.nodePlaces (s : State) : List (Nat × Nat) := s.cells.flatMap (fun p => (List.range p.2.nodes.length).map (fun k => (p.1, k)))

theorem exec_tideSlotGrant {s : State} (h : s.tide + 256 ≤ s.cycle) :
    exec .tideSlotGrant s = .next (s.nodePlaces.foldl State.grantSlot { s with tide := s.cycle }) := by
  show execTideSlotGrant s = _
  rw [execTideSlotGrant, if_neg (by omega), State.nodePlaces, List.foldl_flatMap]
  simp only [List.foldl_map]
  rfl

theorem State.slotEligible_eq (s : State) (d : CNode) : s.slotEligible d = (d.wantsSlot s.cycle && !s.gatewayBusy d) := rfl

theorem CNode.slotLen_pos (d : CNode) : 0 < d.slotLen :=
  Nat.lt_of_lt_of_le (by decide : 0 < 256) (Nat.le_max_left 256 _)

/-- A node that has been granted a slot wants none. -/
theorem CNode.granted_wants (d : CNode) (now : Nat) : (d.granted now).wantsSlot now = false := by
  have hlt : now < now + d.slotLen := Nat.lt_add_of_pos_right d.slotLen_pos
  simp [CNode.wantsSlot, CNode.granted, CNode.holdsSlot, hlt]

section
variable {s : State} {n k : Nat} {d : CNode}

theorem State.grantSlot_frame (s : State) (q : Nat × Nat) : s.grantSlot q = { s with cells := (s.grantSlot q).cells } := by
  unfold State.grantSlot
  split
  · split <;> rfl
  · rfl

theorem State.grantSlot_cycle (s : State) (q : Nat × Nat) : (s.grantSlot q).cycle = s.cycle := by rw [s.grantSlot_frame q]

/-- A visit elsewhere leaves a node. -/
theorem State.grantSlot_other {q : Nat × Nat} (hq : (n, k) ≠ q) : (s.grantSlot q).nodeAt n k = s.nodeAt n k := by
  unfold State.grantSlot
  split
  · split
    · rw [State.updNodeAt_nodeAt, if_neg (fun h => hq (Prod.ext h.1 h.2))]
    · rfl
  · rfl

theorem State.grantSlot_eligible (h : s.nodeAt n k = some d) (he : s.slotEligible d = true) :
    (s.grantSlot (n, k)).nodeAt n k = some (d.granted s.cycle) := by
  simp only [State.grantSlot, h, he, if_true]
  exact State.updNodeAt_self _ h
theorem State.grantSlot_ineligible (h : s.nodeAt n k = some d) (he : s.slotEligible d = false) : s.grantSlot (n, k) = s := by
  simp only [State.grantSlot, h, he, Bool.false_eq_true, if_false]

/-! ### The whole round -/

theorem State.grantSlots_frame (l : List (Nat × Nat)) : ∀ s : State, l.foldl State.grantSlot s = { s with cells := (l.foldl State.grantSlot s).cells } := by
  induction l with
  | nil => exact fun _ => rfl
  | cons q l ih =>
    intro s
    rw [List.foldl_cons, ih, s.grantSlot_frame q]

/-- A node that wants no slot keeps its state. -/
theorem State.grantSlots_keep (l : List (Nat × Nat)) : ∀ {s : State}, s.nodeAt n k = some d → d.wantsSlot s.cycle = false →
    (l.foldl State.grantSlot s).nodeAt n k = some d := by
  induction l with
  | nil => exact fun h _ => h
  | cons q l ih =>
    intro s h hw
    refine ih ?_ (by rw [s.grantSlot_cycle]; exact hw)
    by_cases hq : (n, k) = q
    · rw [← hq, State.grantSlot_ineligible h (by rw [State.slotEligible_eq, hw, Bool.false_and]), h]
    · rw [State.grantSlot_other hq, h]

/-- A node keeps its state or is granted one slot. -/
theorem State.grantSlots_cases (l : List (Nat × Nat)) : ∀ {s : State}, s.nodeAt n k = some d →
    (l.foldl State.grantSlot s).nodeAt n k = some d ∨ (l.foldl State.grantSlot s).nodeAt n k = some (d.granted s.cycle) := by
  induction l with
  | nil => exact fun h => .inl h
  | cons q l ih =>
    intro s h
    have hc := s.grantSlot_cycle q
    by_cases hq : (n, k) = q
    · cases he : s.slotEligible d with
      | false => rw [List.foldl_cons, ← hq, State.grantSlot_ineligible h he]; exact ih h
      | true =>
        refine .inr (State.grantSlots_keep l ?_ (by rw [hc]; exact d.granted_wants _))
        rw [← hq, State.grantSlot_eligible h he]
    · have := ih ((State.grantSlot_other hq).trans h)
      rwa [hc] at this

/-- The gateway ports of a node are free, and no other node has one of them. -/
def State.portsFree (s : State) (n k : Nat) (d : CNode) : Prop :=
  s.gatewayBusy d = false ∧ ∀ p ∈ s.cells, ∀ (j : Nat) (e : CNode), p.2.nodes[j]? = some e → (p.1, j) ≠ (n, k) → ∀ g ∈ e.gws, g ∉ d.gws

theorem State.gatewayBusy_false_iff (s : State) (d : CNode) :
    s.gatewayBusy d = false ↔ ∀ p ∈ s.cells, ∀ e ∈ p.2.nodes, e.holdsSlot s.cycle = true → ∀ g ∈ e.gws, g ∉ d.gws := by
  simp only [State.gatewayBusy, List.any_eq_false, List.any_eq_true, not_exists, not_and, Bool.and_eq_true, List.contains_iff_mem]

/-- A visit elsewhere takes none of the node's ports. -/
theorem State.grantSlot_portsFree {q : Nat × Nat} (hq : (n, k) ≠ q) (h : s.portsFree n k d) : (s.grantSlot q).portsFree n k d := by
  unfold State.grantSlot
  split
  case h_2 => exact h
  case h_1 e he =>
    split
    case isFalse => exact h
    case isTrue =>
      obtain ⟨hbusy, hother⟩ := h
      rw [State.gatewayBusy_false_iff] at hbusy
      have hnew (p : Nat × Cell) (hp : p ∈ (s.updNodeAt q.1 q.2 (fun d => d.granted s.cycle)).cells) (j : Nat) (e' : CNode)
          (hj : p.2.nodes[j]? = some e') :
          ∃ p₀ ∈ s.cells, ∃ e₀, p₀.1 = p.1 ∧ p₀.2.nodes[j]? = some e₀ ∧ e₀.gws = e'.gws ∧ (e₀ = e' ∨ (p.1, j) = q) := by
        rcases Tbl.mem_set hp with rfl | hp
        · rw [List.getElem?_modify] at hj
          cases h₀ : (s.cell q.1).nodes[j]? with
          | none => rw [h₀] at hj; exact nomatch hj
          | some e₀ =>
            rw [h₀] at hj
            refine ⟨(q.1, s.cell q.1), State.cell_mem_of_node h₀, e₀, rfl, h₀, ?_⟩
            obtain rfl := Option.some.inj hj
            by_cases hjq : q.2 = j
            · subst hjq; exact ⟨by simp [CNode.granted], .inr rfl⟩
            · simp [hjq]
        · exact ⟨p, hp, e', rfl, hj, rfl, .inl rfl⟩
      refine ⟨(State.gatewayBusy_false_iff _ _).mpr fun p hp e' he' hh g hg => ?_, fun p hp j e' hj hne g hg => ?_⟩
      · obtain ⟨j, hj⟩ := List.mem_iff_getElem?.mp he'
        obtain ⟨p₀, hp₀, e₀, hn₀, hj₀, hg₀, heq⟩ := hnew p hp j e' hj
        rcases heq with rfl | hpq
        · exact hbusy p₀ hp₀ e₀ (List.mem_of_getElem? hj₀) hh g hg
        · exact hother p₀ hp₀ j e₀ hj₀ (by rw [hn₀, hpq]; exact fun h => hq h.symm) g (hg₀ ▸ hg)
      · obtain ⟨p₀, hp₀, e₀, hn₀, hj₀, hg₀, -⟩ := hnew p hp j e' hj
        exact hother p₀ hp₀ j e₀ hj₀ (by rw [hn₀]; exact hne) g (hg₀ ▸ hg)

/-- A node that wants a slot and whose ports are free is granted one. -/
theorem State.grantSlots_grant (l : List (Nat × Nat)) : ∀ {s : State}, (n, k) ∈ l → s.nodeAt n k = some d → d.wantsSlot s.cycle = true →
    s.portsFree n k d → (l.foldl State.grantSlot s).nodeAt n k = some (d.granted s.cycle) := by
  induction l with
  | nil => exact fun h => nomatch h
  | cons q l ih =>
    intro s hmem h hw hfree
    have hc := s.grantSlot_cycle q
    by_cases hq : (n, k) = q
    · refine State.grantSlots_keep l ?_ (by rw [hc]; exact d.granted_wants _)
      rw [← hq, State.grantSlot_eligible h (by rw [State.slotEligible_eq, hw, hfree.1]; rfl)]
    · have := ih ((List.mem_cons.mp hmem).resolve_left hq) ((State.grantSlot_other hq).trans h) (by rw [hc]; exact hw)
        (State.grantSlot_portsFree hq hfree)
      rwa [hc] at this

end

theorem State.mem_nodePlaces {s : State} {n k : Nat} {d : CNode} (h : s.nodeAt n k = some d) : (n, k) ∈ s.nodePlaces := by
  refine List.mem_flatMap.mpr ⟨_, State.cell_mem_of_node h, List.mem_map.mpr ⟨k, ?_, rfl⟩⟩
  exact List.mem_range.mpr (List.getElem?_eq_some_iff.mp h).1

theorem CNode.wantsSlot_false {d : CNode} {now : Nat}
    (h : d.kind ≥ 5 ∨ d.enabled = false ∨ d.op = none ∨ ∃ e, d.slotEnd = some e ∧ now < e) : d.wantsSlot now = false := by
  rcases h with h | h | h | ⟨e, h, hlt⟩
  · simp [CNode.wantsSlot, CNode.shared, h]
  · simp [CNode.wantsSlot, h]
  · simp [CNode.wantsSlot, h]
  · simp [CNode.wantsSlot, CNode.holdsSlot, h, hlt]

theorem CNode.wantsSlot_true {d : CNode} {now : Nat} (hk : d.kind < 5) (he : d.enabled = true) (ho : d.op ≠ none)
    (hs : ∀ e, d.slotEnd = some e → e ≤ now) : d.wantsSlot now = true := by
  have hfree : d.holdsSlot now = false := by
    unfold CNode.holdsSlot
    split
    case h_1 t ht => simpa using hs t ht
    case h_2 => rfl
  simp [CNode.wantsSlot, CNode.shared, he, hfree, Option.isSome_iff_ne_none.mpr ho, hk]

end Sys2Proof.Machine
end

/-!
PROOF. Collective nodes (19 R327 to R335, 05 R128): COLL, triggers and done tokens, units at a gateway, and shared engines.
-/

section
namespace Sys2Proof.Machine

/-- The kinds of the shared engines (19 R327). -/
theorem CNode.shared_of_kind (d : CNode) (h : 5 ≤ d.kind) : d.shared = true := by simp [CNode.shared, h]

/-! ### COLL (05 R128) -/

section
variable {s : State} {h b : Reg} {i : BitVec 8} {n k : Nat} {d : CNode}

theorem exec_collEnable_ok (hc : s.collTarget s.focus.ctx ((s.ctx s.focus.ctx).reg h) i.toNat = .ok (some (n, k, d))) :
    exec (.collEnable h b i) s = .next ((s.updNodeAt n k (fun d => { d with
      enabled := true, limit := max 256 (min ((s.ctx s.focus.ctx).reg b).toNat 65536) })).advance s.focus.ctx) := by
  show execCollEnable h b i s = _
  simp only [execCollEnable, hc]

theorem exec_collQuery_ok (hc : s.collTarget s.focus.ctx ((s.ctx s.focus.ctx).reg h) i.toNat = .ok (some (n, k, d))) :
    exec (.collQuery h 0 i) s = .next ((s.updCtx s.focus.ctx (fun x => { x with
      cstate := BitVec.ofNat 2 d.cstate, ccount := BitVec.ofNat 32 d.count })).advance s.focus.ctx) := by
  show execCollQuery h 0 i s = _
  simp only [execCollQuery, hc, ne_eq, not_true_eq_false, if_false]

theorem exec_collAbort_ok (hc : s.collTarget s.focus.ctx ((s.ctx s.focus.ctx).reg h) i.toNat = .ok (some (n, k, d))) :
    exec (.collAbort h b i) s = .next ((s.abortNode n k d.rank 1).advance s.focus.ctx) := by
  show execCollAbort h b i s = _
  simp only [execCollAbort, hc]

/-- A COLL whose node is not there traps with the detail. -/
theorem exec_coll_error {e : Nat} {j : Instr} (hj : j ∈ [Instr.collEnable h b i, .collQuery h 0 i, .collAbort h b i])
    (hc : s.collTarget s.focus.ctx ((s.ctx s.focus.ctx).reg h) i.toNat = .error e) :
    exec j s = .next (s.detailTrap s.focus.ctx ((s.ctx s.focus.ctx).reg h) e (wordOf j)) := by
  simp only [List.mem_cons, List.not_mem_nil, or_false] at hj
  rcases hj with rfl | rfl | rfl
  · show execCollEnable h b i s = _
    simp only [execCollEnable, hc]
  · show execCollQuery h 0 i s = _
    simp only [execCollQuery, hc, ne_eq, not_true_eq_false, if_false]
  · show execCollAbort h b i s = _
    simp only [execCollAbort, hc]

/-- A COLL whose image is on its way is tried again. -/
theorem exec_coll_loading {j : Instr} (hj : j ∈ [Instr.collEnable h b i, .collQuery h 0 i, .collAbort h b i])
    (hc : s.collTarget s.focus.ctx ((s.ctx s.focus.ctx).reg h) i.toNat = .ok none) :
    exec j s = .next (s.block s.focus.ctx (.access .fence)) := by
  simp only [List.mem_cons, List.not_mem_nil, or_false] at hj
  rcases hj with rfl | rfl | rfl
  · show execCollEnable h b i s = _
    simp only [execCollEnable, hc]
  · show execCollQuery h 0 i s = _
    simp only [execCollQuery, hc, ne_eq, not_true_eq_false, if_false]
  · show execCollAbort h b i s = _
    simp only [execCollAbort, hc]

theorem exec_collQuery_illegal (hb : b ≠ 0) :
    exec (.collQuery h b i) s = .next (s.syncTrap s.focus.ctx 0x01 ((wordOf (.collQuery h b i)).setWidth 64) 0 0) := if_pos hb

end

/-! ### Triggers and done tokens (19 R329) -/

section
variable {s : State} {n k : Nat} {d : CNode} {tok : Token}
  (hn : s.nodeWhere n (fun d => s.nodeLive n d && d.op.isNone && d.owed.isEmpty) = some (k, d)) (ht : (s.aset n).iss.head 7 = some tok)
include hn ht

theorem exec_trigger_null (hk : tok.kind = .null) :
    exec (.collectiveTrigger n) s = .next ((s.updIssue n 1 (fun x => x.deq 7)).updNodeAt n k (fun d => { d with owed := [nullTok 7 0] })) := by
  show execCollectiveTrigger n s = _
  simp only [execCollectiveTrigger, hn, ht, hk, if_true, kindA]

theorem exec_trigger_empty (hk : tok.kind = .order ∨ (tok.kind = .data ∧ bitsN tok.payload 0 24 = 0)) :
    exec (.collectiveTrigger n) s = .next ((s.updIssue n 1 (fun x => x.deq 7)).updNodeAt n k (fun d => d.finished 0)) := by
  show execCollectiveTrigger n s = _
  rcases hk with hk | ⟨hk, h0⟩
  · simp only [execCollectiveTrigger, hn, ht, hk, kindA, reduceCtorEq, if_true, if_false]
  · simp only [execCollectiveTrigger, hn, ht, hk, h0, kindA, reduceCtorEq, if_true, if_false]

variable (hk : tok.kind = .data) (h0 : bitsN tok.payload 0 24 ≠ 0)
include hk h0

theorem exec_trigger_starts {m : Nat} (hm : d.totalOf (bitsN tok.payload 0 24) = some m) :
    exec (.collectiveTrigger n) s = .next ((s.updIssue n 1 (fun x => x.deq 7)).updNodeAt n k (fun d => { d with
      cstate := 1, op := some ⟨bitsN tok.payload 0 24, m, none, [], [], [], [], 0, 0, 0, Vector.replicate 4 0⟩ })) := by
  show execCollectiveTrigger n s = _
  simp only [execCollectiveTrigger, hn, ht, hk, h0, hm, kindA, reduceCtorEq, if_false]

theorem exec_trigger_partial (hm : d.totalOf (bitsN tok.payload 0 24) = none) :
    let u := s.updIssue n 1 (fun x => x.deq 7)
    let w := Config.openWord s.freeCount
    exec (.collectiveTrigger n) s = .next ((({ u with freeCount := s.freeCount + 1 } : State).updNodeAt n k
      (fun d => d.finished (bitsN tok.payload 0 24))).event (s.reachJob d.reach) 0x04 0 (n % 512 + 512) w w w (some d.reach)) := by
  show execCollectiveTrigger n s = _
  simp only [execCollectiveTrigger, hn, ht, hk, h0, hm, kindA, reduceCtorEq, if_false]
  rfl

end

section
variable {d : CNode} {n : Nat}

theorem CNode.totalOf_whole (h : d.kind = 6 → n * lanesOf d.g2.fmt.toNat % 128 = 0) :
    d.totalOf n = some (if d.kind = 4 then (d.peers + 1) * n
      else if d.kind = 6 then n * lanesOf d.g2.fmt.toNat / 128 + (n * lanesOf d.g2.fmt.toNat / 128 + 7) / 8 else n) := by
  unfold CNode.totalOf
  split
  · rfl
  · split
    case isTrue h6 => simp only [h h6, ne_eq, not_true_eq_false, if_false]
    case isFalse => rfl

theorem CNode.totalOf_partial (h6 : d.kind = 6) (h : n * lanesOf d.g2.fmt.toNat % 128 ≠ 0) : d.totalOf n = none := by
  simp only [CNode.totalOf, h6, h, ne_eq, not_false_eq_true, Nat.reduceEqDiff, if_true, if_false]

end

section
variable {s : State} {n k : Nat} {d : CNode}

/-- An operation whose last write has been applied ends. -/
theorem exec_done_complete (h : s.nodeWhere n CNode.complete = some (k, d)) :
    exec (.collectiveDone n) s = .next (s.updNodeAt n k (fun d' => d'.finished ((d.op.map (·.n)).getD 0))) := by
  show execCollectiveDone n s = _
  simp only [execCollectiveDone, h]
  exact congrArg Host.Outcome.next (State.updNodeAt_congr (State.nodeAt_of_nodeWhere h).1 rfl)

/-- A token that is owed leaves on o7. -/
theorem exec_done_sends {tok : Token} {rest : List Token} (hn : s.nodeWhere n CNode.complete = none)
    (h : s.nodeWhere n (fun d => s.nodeLive n d && !d.owed.isEmpty) = some (k, d)) (ho : d.owed = tok :: rest)
    (hr : (s.cell n).routeFree 6 (vget none (s.aset n).iss.routes 7) = true) :
    exec (.collectiveDone n) s = .next ((s.emit n 1 (s.aset n).iss 7 tok).updNodeAt n k (fun d => { d with owed := rest })) := by
  have hr' : (s.cell n).routeFree portA (vget none (s.aset n).iss.routes 7) = true := hr
  show execCollectiveDone n s = _
  simp only [execCollectiveDone, hn, h, ho, hr', Bool.not_true, Bool.false_eq_true, if_false, kindA]

end

/-- A slot ends at its end. -/
theorem exec_slotEnd {s : State} {n k : Nat} {d : CNode}
    (h : s.nodeWhere n (fun d => match d.slotEnd with | some t => t ≤ s.cycle | none => false) = some (k, d)) :
    exec (.collectiveSlotEnd n) s = .next (s.updNodeAt n k (fun d => { d with slotEnd := none })) := by
  have h' : execCollectiveSlotEnd n s = match some (k, d) with
      | some (k, _) => .next (s.updNodeAt n k (fun d => { d with slotEnd := none }))
      | none => .next s := by rw [← h]; rfl
  exact h'

/-! ### A node named by its reach -/

section
variable {s : State} {n k : Nat} {d : CNode} (hn : n < 512) (hd : s.nodeOf (n + 512 * d.reach) = some (k, d))
include hn hd

theorem exec_peerAbort (r why : Nat) (hs : d.shared = false) :
    exec (.collectiveAbort (n + 512 * d.reach) r why) s = .next (if d.epoch = why / 8 then s.abortNode n k r (why % 8) else s) := by
  show execCollectiveAbort _ r why s = _
  simp only [execCollectiveAbort, hd, hs, nodeName_mod d.reach hn, Bool.false_or, decide_eq_true_eq, ite_not, apply_ite Host.Outcome.next]

theorem exec_pinRelease (hp : d.pinUntil.isSome = true) :
    let u := s.updNodeAt n k (fun d => { d with pinUntil := none, pins := [] })
    exec (.pinRelease (n + 512 * d.reach)) s =
      .next (u.updCell n (fun c => { c with nodes := c.nodes.filter (fun d => (u.reach? d.reach).isSome) })) := by
  have hp' : d.pinUntil.isNone = false := by rw [← Option.not_isSome, hp]; rfl
  show execPinRelease _ s = _
  simp only [execPinRelease, hd, hp', nodeName_mod d.reach hn, Bool.false_eq_true, if_false]

/-- A peer's unit stands at the gateway, unless its operation has been aborted since. -/
theorem exec_unit_arrives {pos : Nat} (epoch u : Nat) (v : Unit64) (h1 : 1 ≤ pos) (h3 : pos ≤ 3) (hs : d.shared = false) :
    exec (.collectiveUnit (n + 512 * d.reach) (pos + 4 * epoch) u v) s = .next
      (if d.epoch = epoch then s.updNodeAt n k (fun d => { d with gate := d.gate ++ [(pos, u, v)] }) else s) := by
  have hpos : (pos + 4 * epoch) % 4 = pos := by omega
  have hepoch : (pos + 4 * epoch) / 4 = epoch := by omega
  have h0 : pos ≠ 0 := by omega
  show execCollectiveUnit _ _ u v s = _
  simp only [execCollectiveUnit, hd, hs, hpos, hepoch, h0, nodeName_mod d.reach hn, Bool.false_eq_true, if_false, ne_eq, ite_not,
    apply_ite Host.Outcome.next]

/-- In its slot a node acts. -/
theorem exec_unit_pumps (u : Nat) (v : Unit64) {o : COp} (ho : d.op = some o) (hk : d.kind < 5) (hs : s.inSlot d = true) :
    exec (.collectiveUnit (n + 512 * d.reach) 0 u v) s = .next (s.pumpNode n k d o) := by
  have hsh : d.shared = false := by simp [CNode.shared, hk]
  show execCollectiveUnit _ 0 u v s = _
  simp only [execCollectiveUnit, hd, hsh, ho, hs, nodeName_mod d.reach hn, Nat.zero_mod, Bool.false_eq_true, if_true, if_false]

variable {o : COp} (h5 : 5 ≤ d.kind) (hf : d.frz = none) (ho : d.op = some o)
include h5 hf ho

theorem exec_engine_placed {fb : Bool} (he : o.engine = none) (hm : fb = true → d.g3.marked = true) :
    exec (.engineCommand (n + 512 * d.reach) fb) s = .next ((s.updJob (s.reachJob d.reach) (fun b =>
      if fb then { b with fallbk := b.fallbk + 1 } else { b with engcmd := b.engcmd + 1 })).updNodeAt n k
        (fun d => d.updOp (fun o => { o with engine := some (!fb) }))) := by
  have hmark : (fb && !d.g3.marked) = false := by
    cases fb
    · rfl
    · rw [hm rfl]; rfl
  show execEngineCommand _ fb s = _
  simp only [execEngineCommand, hd, d.shared_of_kind h5, hf, ho, he, hmark, nodeName_mod d.reach hn, Bool.not_true, Option.isSome_none, Bool.or_self,
    Bool.false_eq_true, if_false]

omit hn in
/-- An unmarked command misses no deadline. -/
theorem exec_engine_unmarked (he : o.engine = none) (hm : d.g3.marked = false) : exec (.engineCommand (n + 512 * d.reach) true) s = .next s := by
  show execEngineCommand _ true s = _
  simp only [execEngineCommand, hd, d.shared_of_kind h5, hf, ho, he, hm, Bool.not_true, Bool.not_false, Option.isSome_none, Bool.or_self,
    Bool.and_self, Bool.false_eq_true, if_false, if_true]

theorem exec_engine_accepts (fb : Bool) (he : o.engine = some true) (hu : o.nextOwn < o.total) (hw : d.wr = none) :
    exec (.engineCommand (n + 512 * d.reach) fb) s = .next (s.acceptUnit n k true false o.nextOwn) := by
  show execEngineCommand _ fb s = _
  simp only [execEngineCommand, hd, d.shared_of_kind h5, hf, ho, he, hw, nodeName_mod d.reach hn, Nat.not_le.mpr hu, Bool.not_true,
    Option.isSome_none, Bool.or_self, Bool.false_eq_true, if_false]

theorem exec_engine_makes (fb : Bool) {r : NodeReq} (he : o.engine = some true) (hu : o.nextOwn < o.total) (hw : d.wr = some r)
    (hfree : o.nextOwn ≠ 0 ∨ s.engineFree n d = true) :
    exec (.engineCommand (n + 512 * d.reach) fb) s = .next (s.engineUnit n k d o r).1 := by
  have hgo : (decide (o.nextOwn = 0) && !s.engineFree n d) = false := by
    rcases hfree with h | h <;> simp [h]
  show execEngineCommand _ fb s = _
  simp only [execEngineCommand, hd, d.shared_of_kind h5, hf, ho, he, hw, hgo, nodeName_mod d.reach hn, Nat.not_le.mpr hu, Bool.not_true,
    Option.isSome_none, Bool.or_self, Bool.false_eq_true, if_false]

theorem exec_engine_fallback (fb : Bool) (he : o.engine = some false) :
    exec (.engineCommand (n + 512 * d.reach) fb) s = .next (s.pumpFallback n k d o) := by
  show execEngineCommand _ fb s = _
  simp only [execEngineCommand, hd, d.shared_of_kind h5, hf, ho, he, nodeName_mod d.reach hn, Bool.not_true, Option.isSome_none, Bool.or_self,
    Bool.false_eq_true, if_false]

end

/-! ### What a node does in its slot (19 R329, R331) -/

/-- A unit goes up to the parent, or, at the root, into the result. -/
theorem State.unitUp_eq (s : State) (n k : Nat) (d : CNode) (u : Nat) (v : Unit64) :
    s.unitUp n k d u v = if d.rank = 0 then s.updNodeAt n k (fun d => d.updOp (fun o => { o with result := o.result ++ [(u, v)] }))
      else { s with shoreOut := s.shoreOut ++ [⟨n, d.reach, d.epoch, (d.rank - 1) / 2, u, if d.rank % 2 = 1 then 1 else 2, 0, v⟩] } := by
  unfold State.unitUp CNode.parent
  by_cases h : d.rank = 0
  · rw [if_pos h, if_pos h]
  · rw [if_neg h, if_neg h]
    rfl

section
variable {s : State} {n k : Nat} {d : CNode} {o : COp}

/-- A node that has a write under way, or no result, has no write to make. -/
theorem CNode.writes_none (hw : d.wr ≠ none ∨ o.result = []) : (if d.wr.isNone then o.result.head? else none) = none := by
  rcases hw with hw | hw
  · rw [Option.isNone_eq_false_iff.mpr (Option.isSome_iff_ne_none.mpr hw)]; rfl
  · simp [hw]

theorem CNode.combines_none (hv : d.kind < 3 → d.combined o = none) : (if d.kind < 3 then d.combined o else none) = none := by
  split
  case isTrue h => exact hv h
  case isFalse => rfl

theorem State.pumpNode_takes {i pos u : Nat} {v : Unit64} (hg : d.gateNext o = some (i, pos, u, v)) :
    s.pumpNode n k d o = s.takeGate n k i pos u v d := by
  simp only [State.pumpNode, hg]

variable (hg : d.gateNext o = none)
include hg

theorem State.pumpNode_combines {v : Unit64} (hk : d.kind < 3) (hv : d.combined o = some v) :
    s.pumpNode n k d o = (s.updNodeAt n k (fun d => d.updOp (fun o' => { o' with
      own := unitDrop o'.own o.nextUp, left := unitDrop o'.left o.nextUp, right := unitDrop o'.right o.nextUp, nextUp := o.nextUp + 1 }))).unitUp
      n k d o.nextUp v := by
  simp only [State.pumpNode, hg, if_pos hk, hv]

variable (hv : d.kind < 3 → d.combined o = none)
include hv

theorem State.pumpNode_writes {e : Nat × Unit64} {rest : List (Nat × Unit64)} (hw : d.wr = none) (hr : o.result = e :: rest) :
    s.pumpNode n k d o = s.acceptUnit n k true false e.1 := by
  simp only [State.pumpNode, hg, CNode.combines_none hv, hw, hr, Option.isNone_none, if_true, List.head?_cons]

theorem State.pumpNode_reads (hw : d.wr ≠ none ∨ o.result = []) (hr : d.rd = none) (ho : d.readsOwn o = true) :
    s.pumpNode n k d o = s.acceptUnit n k false false o.nextOwn := by
  simp only [State.pumpNode, hg, CNode.combines_none hv, CNode.writes_none hw, hr, ho, Option.isNone_none, Bool.and_self, if_true]

end

/-- What a unit from the gateway does: all-gather passes its children's units on. -/
theorem State.takeGate_eq (s : State) (n k i pos u : Nat) (v : Unit64) (d : CNode) :
    let w := s.updNodeAt n k (fun d => { d with
      gate := d.gate.eraseIdx i, op := d.op.map (fun o => { o with took := vset o.took pos (vget 0 o.took pos + 1) }) })
    s.takeGate n k i pos u v d =
      if d.kind = 4 ∧ pos ≠ 3 ∧ d.rank ≠ 0 then w.unitUp n k d u v else w.updNodeAt n k (fun d => d.takeUnit pos u v) := by
  simp only [State.takeGate, Bool.and_eq_true, decide_eq_true_eq, and_assoc]
  rfl

/-- A parent with two children combines the three units in the order of their positions. -/
theorem CNode.combined_three {d : CNode} {o : COp} {a l r : Unit64} (ha : unitGet o.own o.nextUp = some a) (hl : unitGet o.left o.nextUp = some l)
    (hr : unitGet o.right o.nextUp = some r) (hp : 2 * d.rank + 2 ≤ d.peers) : d.combined o = some (d.combine (d.combine a l) r) := by
  have hp' : 2 * d.rank + 1 ≤ d.peers := by omega
  simp only [CNode.combined, ha, hl, hr, hp, hp', if_true, Option.map_some]

/-! ### Fallback kernels and engines (19 R335) -/

section
variable {s : State} {n k : Nat} {d : CNode} {o : COp}

theorem State.pumpFallback_pair (h5 : d.kind = 5) (hr : d.rd = none) (hu : o.nextOwn < o.total) :
    s.pumpFallback n k d o = s.acceptUnit n k false true o.nextOwn := by
  simp only [State.pumpFallback, h5, hr, hu, Option.isNone_none, decide_true, Bool.and_self, if_true]

variable (h5 : d.kind ≠ 5)
include h5

theorem State.pumpFallback_forms {o' : COp} (hq : d.quantNext o = some o') :
    s.pumpFallback n k d o = s.updNodeAt n k (fun d => { d with op := some o' }) := by
  simp only [State.pumpFallback, h5, hq, if_false]

variable (hq : d.quantNext o = none)
include hq

theorem State.pumpFallback_writes {e : Nat × Unit64} {rest : List (Nat × Unit64)} (hr : o.result = e :: rest) (hw : d.wr = none) :
    s.pumpFallback n k d o = s.acceptUnit n k true false e.1 := by
  simp only [State.pumpFallback, h5, hq, hw, hr, Option.isNone_none, if_true, if_false, List.head?_cons]

theorem State.pumpFallback_reads (hw : d.wr ≠ none ∨ o.result = []) (hr : d.rd = none) (hu : o.nextOwn < o.n) :
    s.pumpFallback n k d o = s.acceptUnit n k false false o.nextOwn := by
  simp only [State.pumpFallback, h5, hq, CNode.writes_none hw, hr, hu, Option.isNone_none, decide_true, Bool.and_self, if_true, if_false]

end

section
variable {d : CNode} {o : COp}

/-- A fallback quantisation has nothing to form after its last unit, and while a source unit of the next is missing. -/
theorem CNode.quantNext_none
    (h : o.total ≤ o.nextUp ∨ (o.nextUp < o.n * lanesOf d.g2.fmt.toNat / 128 ∧ o.nextOwn < (o.nextUp + 1) * (128 / lanesOf d.g2.fmt.toNat))) :
    d.quantNext o = none := by
  unfold CNode.quantNext
  dsimp only
  rcases h with h | ⟨hd, ho⟩
  · rw [if_pos h]
  · rw [if_pos hd, if_pos ho, ite_self]

theorem CNode.quantNext_data (ht : o.nextUp < o.total) (hd : o.nextUp < o.n * lanesOf d.g2.fmt.toNat / 128)
    (ho : (o.nextUp + 1) * (128 / lanesOf d.g2.fmt.toNat) ≤ o.nextOwn) :
    let m := 128 / lanesOf d.g2.fmt.toNat
    let q := quantUnit d.g2.fmt.toNat ((List.range m).filterMap (fun i => unitGet o.own (o.nextUp * m + i)))
    d.quantNext o = some { o with
      own := o.own.filter (fun e => (o.nextUp + 1) * m ≤ e.1), left := o.left ++ [(o.nextUp, q.2)], result := o.result ++ [(o.nextUp, q.1)]
      nextUp := o.nextUp + 1 } := by
  simp only [CNode.quantNext, Nat.not_le.mpr ht, hd, Nat.not_lt.mpr ho, if_true, if_false]

theorem CNode.quantNext_companion (ht : o.nextUp < o.total) (hd : o.n * lanesOf d.g2.fmt.toNat / 128 ≤ o.nextUp) :
    let g := o.nextUp - o.n * lanesOf d.g2.fmt.toNat / 128
    d.quantNext o = some { o with
      left := o.left.filter (fun e => 8 * (g + 1) ≤ e.1), result := o.result ++ [(o.nextUp, companionUnit o.left g)], nextUp := o.nextUp + 1 } := by
  simp only [CNode.quantNext, Nat.not_le.mpr ht, Nat.not_lt.mpr hd, if_false]

end

/-- A copy on an engine: one unit read and written. -/
theorem State.engineUnit_copy {s u w : State} {n k : Nat} {d : CNode} {o : COp} {r : NodeReq} {v : Unit64} {applied : Bool} (h5 : d.kind = 5)
    (hr : s.nodeRead n k d o.nextOwn = (u, some v)) (hw : u.nodeWrite n k d r o.nextOwn v = (w, some applied)) :
    s.engineUnit n k d o r = (((w.updNodeAt n k (fun d => { d with rd := none, wr := none })).wrote n k d r applied).updNodeAt n k (fun d =>
      d.updOp (fun o' => { o' with nextOwn := o.nextOwn + 1 })), true) := by
  simp only [State.engineUnit, h5, hr, hw, if_true, id_eq]

theorem State.updNodeAt_aset (s : State) (n k m : Nat) (f : CNode → CNode) : (s.updNodeAt n k f).aset m = s.aset m := by
  by_cases hm : m = n
  · rw [hm, State.aset, State.updNodeAt, State.updCell_self, State.aset]
  · rw [State.aset, State.updNodeAt, State.updCell_of_ne _ _ hm, State.aset]

/-- A request that the address generator accepts takes its next number, and stands in its node. -/
theorem State.acceptUnit_accepts {s : State} {n k : Nat} {d : CNode} (wr pair : Bool) (u : Nat) (h : s.nodeAt n k = some d) :
    let t := d.tmpl wr
    let m := match d.op with
      | some o => if d.kind = 4 ∧ wr = true then u % o.n else u
      | none => u
    let q : NodeReq := ⟨u, (s.aset n).nextId + 1, ⟨if wr then 3 else 2, t.reqno, t.markOf (unitKv m), t.mcell, t.mctr, wr || pair, none⟩, t.marked, 0, false, false⟩
    ((s.acceptUnit n k wr pair u).aset n).nextId = (s.aset n).nextId + 1 ∧
    (s.acceptUnit n k wr pair u).nodeAt n k = some (if wr then { d with wr := some q, g3 := { d.g3 with reqno := d.g3.reqno + 1 } }
      else { d with rd := some q, g2 := { d.g2 with reqno := d.g2.reqno + 1 } }) := by
  have hu : (s.updA n (fun a => { a with nextId := a.nextId + 1 })).nodeAt n k = some d :=
    ((s.updA_sameNodes n _).nodeAt n k).trans h
  simp only [State.acceptUnit, h, Bool.and_eq_true, decide_eq_true_eq]
  refine ⟨?_, ?_⟩
  · rw [State.updNodeAt_aset, State.aset_updA]
  · rw [State.updNodeAt_self _ hu]
    cases wr <;> rfl

end Sys2Proof.Machine

open Sys2Proof Sys2Proof.Machine in
/-- Settles O56, event by event: each takes the branch of its tests; an abort is followed through to the node it leaves, and the grants of a
tide one node at a time. -/
theorem collectiveNodes : Obligations.CollectiveNodes := by
  refine ⟨?coll, ?node, ?tide, ?slotLen, ?slotEnd, ?peerUnit, ?pump, ?combined, ?engine, ?quant, ?copy, ?accept⟩
  case coll =>
    intro h b i s c x hv hc
    refine ⟨fun n k d ht => ⟨⟨_, exec_collEnable_ok ht, rfl⟩, ⟨_, exec_collQuery_ok ht, ?_⟩, ⟨_, exec_collAbort_ok ht, rfl⟩⟩,
      fun e he j hj w hw => ⟨_, exec_coll_error hj he, s.detailTrap_traps hv e hc hw⟩, fun ht j hj => ⟨_, exec_coll_loading hj ht, rfl⟩,
      fun hb w hw => ⟨_, exec_collQuery_illegal hb, ?_⟩⟩
    · rw [State.advance, State.updCtx_updCtx _ _ _ hc]
      exact ⟨OnlyCtx.updCtx _ _ _, (s.updCtx_self _ hc).trans (Context.advance_eq _)⟩
    · rw [wordOf_of_encode hw, setWidth_eq_ofNat]
      exact s.syncTrap_traps 1 _ 0 0 hc
  case node =>
    intro s n k d
    refine ⟨?trigger, fun m => rfl, fun h => ⟨_, exec_done_complete h, rfl⟩, fun tok rest hn h ho hr => ⟨_, exec_done_sends hn h ho hr, rfl⟩,
      fun r why hn hd hs => exec_peerAbort hn hd r why hs, ?abort, ?pins⟩
    case trigger =>
      intro tok hn ht u m lanes
      refine ⟨fun hk => ⟨_, exec_trigger_null hn ht hk, rfl⟩, fun hk => ⟨_, exec_trigger_empty hn ht hk, rfl⟩,
        fun hk h0 hw => ⟨_, exec_trigger_starts hn ht hk h0 (CNode.totalOf_whole hw), rfl⟩,
        fun hk h0 h6 hw => ⟨_, exec_trigger_partial hn ht hk h0 (CNode.totalOf_partial h6 hw), rfl⟩⟩
    case abort =>
      intro o first reason h ho
      obtain ⟨slot, nulls, hd⟩ := State.abortNode_nodeAt first reason h
      refine ⟨_, hd, rfl, rfl, rfl, rfl, rfl, rfl, rfl, rfl, rfl, ?_⟩
      refine List.mem_append_right _ (List.mem_replicate.mpr ⟨?_, rfl⟩)
      rw [ho]
      exact Nat.ne_of_gt (Nat.lt_of_lt_of_le Nat.zero_lt_one (Nat.le_add_right 1 nulls))
    case pins =>
      intro hn hd hp
      refine ⟨_, exec_pinRelease hn hd hp, ?_, ?_⟩
      · exact (OnlyCell.updCell s n _).trans (OnlyCell.updCell _ n _)
      · rw [State.updCell_self, State.updNodeAt, State.updCell_self]
        rfl
  case tide =>
    intro s hs
    refine ⟨_, exec_tideSlotGrant hs, State.grantSlots_frame _ _, fun n k d h => ?_⟩
    have h' : State.nodeAt { s with tide := s.cycle } n k = some d := h
    refine ⟨State.grantSlots_cases s.nodePlaces h', fun hno => State.grantSlots_keep s.nodePlaces h' (CNode.wantsSlot_false hno),
      fun hk he ho hslot hbusy hother => ?_⟩
    exact State.grantSlots_grant s.nodePlaces (State.mem_nodePlaces h) h' (CNode.wantsSlot_true hk he ho hslot) ⟨hbusy, hother⟩
  case slotLen =>
    intro d o ho
    rw [CNode.slotLen, ho]
  case slotEnd =>
    exact fun s n k d h => ⟨_, exec_slotEnd h, rfl⟩
  case peerUnit => exact fun s n k d pos epoch u v h1 h3 hn hd hs => exec_unit_arrives hn hd epoch u v h1 h3 hs
  case pump =>
    intro s n k i d o x hn hd ho hk hs acts up
    have hx := exec_unit_pumps hn hd i x ho hk hs
    refine ⟨fun i pos u v hg => ⟨_, hx.trans (congrArg Host.Outcome.next (State.pumpNode_takes hg)), ?_⟩,
      fun v hg hk3 hv => ⟨_, hx.trans (congrArg Host.Outcome.next (State.pumpNode_combines hg hk3 hv)), State.unitUp_eq _ _ _ _ _ _⟩,
      fun e rest hg hv hw hr => ⟨_, hx.trans (congrArg Host.Outcome.next (State.pumpNode_writes hg hv hw hr)), rfl⟩,
      fun hg hv hw hr hown => ⟨_, hx.trans (congrArg Host.Outcome.next (State.pumpNode_reads hg hv hw hr hown)), rfl⟩⟩
    rw [State.takeGate_eq, State.unitUp_eq]
  case combined => exact fun d o a l r ha hl hr hp => CNode.combined_three ha hl hr hp
  case engine =>
    intro s n k d o fb hn hd h5 hf ho acts
    have hx := exec_engine_fallback hn hd h5 hf ho fb
    refine ⟨fun he hm => ⟨_, exec_engine_placed hn hd h5 hf ho he hm, rfl⟩, fun he hfb hm => ?_,
      fun he hu hw => ⟨_, exec_engine_accepts hn hd h5 hf ho fb he hu hw, rfl⟩,
      fun r he hu hw hfree => ⟨_, exec_engine_makes hn hd h5 hf ho fb he hu hw hfree, rfl⟩,
      fun he hk hr hu => (hx he).trans (congrArg Host.Outcome.next (State.pumpFallback_pair hk hr hu)), fun he hk => ⟨fun o' hq => ?_, fun hq e rest hr hw => ?_,
        fun hq hw hr hu => ?_⟩⟩
    · subst hfb
      exact exec_engine_unmarked hd h5 hf ho he hm
    · exact (hx he).trans (congrArg Host.Outcome.next (State.pumpFallback_forms hk hq))
    · exact (hx he).trans (congrArg Host.Outcome.next (State.pumpFallback_writes hk hq hr hw))
    · exact (hx he).trans (congrArg Host.Outcome.next (State.pumpFallback_reads hk hq hw hr hu))
  case quant =>
    intro d o m data u
    exact ⟨CNode.quantNext_none, fun ht hd ho => ⟨_, CNode.quantNext_data ht hd ho, rfl, rfl, rfl⟩,
      fun ht hd => ⟨_, CNode.quantNext_companion ht hd, rfl, rfl⟩⟩
  case copy => exact fun s n k d o r u w v applied h5 _ hr hw => State.engineUnit_copy h5 hr hw
  case accept => exact fun s n k d wr pair u h => State.acceptUnit_accepts wr pair u h

end

/-!
PROOF. The check of a host token at its queue's head (06 R137, R141): whose partition the launches of the head's number are placed in.
-/

section
namespace Sys2Proof.Machine

/-! ### The check leaves the launches alone -/

/-- An access of the harbour die that reaches its place. -/
theorem State.sysReach_at {s : State} {j va who st sa : Nat} {k : Kind} (h : (s.sysReach j va k who).2 = .at st sa) :
    Translates s (s.sysReach j va k who).1 j va := by
  obtain ⟨hok, -, hend⟩ := State.settleAccess_at h
  obtain ⟨hdie, -⟩ := State.dieAccess_changes (s := s) (die := 0) (j := j) (va := va) (k := k) (by rw [hok]; simp)
  rw [State.sysReach, hend]
  exact (hdie.trans (State.memErrDone_changes _ _ _ _ _ _)).translates

/-- A token that passes has had the first unit of its image read. -/
theorem State.checkToken_ok {s u : State} {j w h : Nat} {t : Unit64} {device homev : Bool} (hz : s.checkToken j t device homev = (u, .ok w h)) :
    ∃ st sa, (s.sysReach j (tokImage t) .read whoSeq).2 = .at st sa ∧ u = (s.sysReach j (tokImage t) .read whoSeq).1.countAccess st sa := by
  unfold State.checkToken at hz
  iterate 4 (split at hz; · cases hz)
  dsimp only at hz
  split at hz
  · cases hz
  · cases hz
  · next st sa hr =>
    refine ⟨st, sa, hr, ?_⟩
    split at hz
    · cases hz
    · exact (Prod.mk.inj hz).1.symm

theorem State.updReach_reaches (s : State) (id : Nat) (f : Reach → Reach) :
    (s.updReach id f).reaches = s.reaches.map (fun r => if r.id = id then f r else r) := rfl

theorem State.checkToken_reaches {s u : State} {j w h : Nat} {t : Unit64} {device homev : Bool} (hz : s.checkToken j t device homev = (u, .ok w h)) :
    u.reaches = s.reaches := by
  obtain ⟨st, sa, hr, rfl⟩ := State.checkToken_ok hz
  rw [State.countAccess_reaches, (State.sysReach_at hr).1]

/-! ### The check of a queue's head (06 R137, R141) -/

/-- A launch that has passed its check stands at its token's offset in a partition. -/
def Reach.place (o : Reach) (b : Job) (w h : Nat) : Reach :=
  { o with checked := true, pollStuck := false, cx := b.x0 + tokRx o.token, cy := b.y0 + tokRy o.token, w := w, h := h }

section
variable {s u : State} {r : Reach} {w h : Nat} (hr : s.reach? r.id = some r) (hst : r.st = .accepted) (hc : r.checked = false)
  (hq : (s.queueTokens r.job r.queue).head?.map (·.id) = some r.id)
  (hz : s.checkToken r.job r.token false (s.queue r.job r.queue).homev = (u, .ok w h))
include hr hst hc hq hz

/-- Every launch of the head's number is placed in the partition of the head's job. -/
theorem exec_admitLaunch_checked : exec (.admitLaunch r.id) s = .next (u.updReach r.id (fun o => o.place (s.job r.job) w h)) := by
  show execAdmit r.id s = _
  simp only [execAdmit, hr, hst, hc, hq, hz, bne_self_eq_false, Bool.not_false, Bool.false_eq_true, if_false, if_true, ne_eq, not_true_eq_false]
  rfl

/-- Where no other launch has the head's number, that is the partition of each launch's own job. -/
theorem exec_admitLaunch_ownJob (hone : ∀ o ∈ s.reaches, o.id = r.id → o = r) :
    exec (.admitLaunch r.id) s = .next (u.updReach r.id (fun o => o.place (s.job o.job) w h)) := by
  rw [exec_admitLaunch_checked hr hst hc hq hz, State.updReach, State.updReach, State.checkToken_reaches hz]
  congr 2
  refine List.map_congr_left fun o ho => ?_
  split
  · next hid => rw [hone o ho hid]
  · rfl

end

/-! ### Two launches of one number -/

/-- A launch of job 1 whose control program stands at 64. -/
def head1 : Reach := newLaunch 1 1 (BitVec.ofNat 512 (64 * 2 ^ 192))
/-- It heads its queue, and another launch of its number belongs to job 2. Job 1 has the cells 0 and 1 and the page at 0; the partition
of job 2 begins at column 2. -/
def sameNumber : State :=
  { (State.reset.updJob 1 (fun b => { b with valid := true, x1 := 1 })).updJob 2 (fun b => { b with valid := true, x0 := 2, x1 := 3 }) with
    dtlb := #v[[⟨1, 0, 4096, 0x7F⟩], []], reaches := [head1, { head1 with job := 2 }] }

theorem sameNumber_passes : ∃ u, sameNumber.checkToken head1.job head1.token false (sameNumber.queue head1.job head1.queue).homev = (u, .ok 1 1) := by
  have hok : (sameNumber.checkToken head1.job head1.token false (sameNumber.queue head1.job head1.queue).homev).2 = .ok 1 1 := by decide +kernel
  generalize sameNumber.checkToken head1.job head1.token false (sameNumber.queue head1.job head1.queue).homev = z at hok ⊢
  exact ⟨z.1, by rw [← hok]⟩

end Sys2Proof.Machine

open Sys2Proof Sys2Proof.Machine in
/-- Refutes O27, by its clause on the check of a queue's head: it places every launch of the head's number in the partition of that
launch's own job (the binder of the update hides the head), while the model places them all in the partition of the head's job. The
statement does not exclude two launches of one number; `sameNumber` holds two, of jobs whose partitions begin at different columns.
`exec_admitLaunch_ownJob` is the clause where the number is the head's alone. -/
theorem not_theLaunchSequencer : ¬ Obligations.TheLaunchSequencer := by
  intro h
  obtain ⟨-, -, hcheck, -⟩ := h sameNumber head1 rfl
  obtain ⟨u, hz⟩ := sameNumber_passes
  have hq : (sameNumber.queueTokens head1.job head1.queue).head?.map (·.id) = some head1.id := rfl
  obtain ⟨t, hclaim, rfl⟩ := (hcheck 1 1 u rfl rfl hq).1 hz
  rw [exec_admitLaunch_checked rfl rfl rfl hq hz] at hclaim
  have hcolumns := congrArg (fun v : State => v.reaches.map (·.cx)) (Host.Outcome.next.inj hclaim)
  have hmodel : (u.updReach head1.id (fun o => o.place (sameNumber.job head1.job) 1 1)).reaches.map (·.cx) = [0, 0] := by
    rw [State.updReach_reaches, State.checkToken_reaches hz]; decide +kernel
  have hstated : (u.updReach head1.id (fun o => o.place (sameNumber.job o.job) 1 1)).reaches.map (·.cx) = [0, 2] := by
    rw [State.updReach_reaches, State.checkToken_reaches hz]; decide +kernel
  cases hmodel.symm.trans (hcolumns.trans hstated)

end

/-!
PROOF. Register writes and the platform's own events: stack control (14 R266) and PCREQ clears (15 R281), partitions (07 R145 to R147),
islands (07 R157) and package power (24 R373), the event log's read index (24 R362), the mailbox (24 R372), and the routing of a
register write (00 R15, 24 R370).
-/

section
namespace Sys2Proof

/-! ### Tables: a number that is not listed, the entries of some numbers, and writes of one table's entries into another -/

theorem Tbl.get_of_not_mem {α : Type} (d : α) (m : Tbl α) {n : Nat} (h : n ∉ Tbl.keys m) : Tbl.get d m n = d := by
  induction m with
  | nil => rfl
  | cons e m ih =>
    rw [Tbl.get, if_neg (List.ne_of_not_mem_cons h), ih (List.not_mem_of_not_mem_cons h)]

theorem Tbl.get_filter_key {α : Type} (d : α) (p : Nat → Bool) (m : Tbl α) (n : Nat) :
    Tbl.get d (m.filter (fun e => p e.1)) n = if p n then Tbl.get d m n else d := by
  induction m with
  | nil => simp [Tbl.get]
  | cons e m ih =>
    obtain ⟨k, x⟩ := e
    rw [List.filter_cons]
    by_cases hk : n = k
    · subst hk
      cases hp : p n <;> simp [hp, Tbl.get, ih]
    · cases hp : p k <;> simp [Tbl.get, hk, ih]

theorem Tbl.keys_filter_key {α : Type} (p : Nat → Bool) (m : Tbl α) :
    Tbl.keys (m.filter (fun e => p e.1)) = (Tbl.keys m).filter p := by
  rw [Tbl.keys, Tbl.keys, List.filter_map]; rfl

/-- Where each number is listed once, the order of the writes does not matter. -/
theorem Tbl.get_foldl_set {α β : Type} (d : β) (e : α) (g : α → β) (n : Nat) (l : Tbl α) : ∀ m : Tbl β, (Tbl.keys l).Nodup →
    Tbl.get d (l.foldl (fun m p => Tbl.set m p.1 (g p.2)) m) n = if n ∈ Tbl.keys l then g (Tbl.get e l n) else Tbl.get d m n := by
  induction l with
  | nil => exact fun _ _ => rfl
  | cons p l ih =>
    intro m h
    obtain ⟨hp, hl⟩ := List.nodup_cons.mp h
    rw [List.foldl_cons, ih _ hl]
    by_cases hn : n = p.1
    · subst hn
      have hmem : p.1 ∈ Tbl.keys (p :: l) := List.mem_cons_self
      have hget : Tbl.get e (p :: l) p.1 = p.2 := if_pos rfl
      rw [if_neg (show p.1 ∉ Tbl.keys l from hp), Tbl.get_set_self, if_pos hmem, hget]
    · have hmem : n ∈ Tbl.keys (p :: l) ↔ n ∈ Tbl.keys l := List.mem_cons.trans (or_iff_right hn)
      have hget : Tbl.get e (p :: l) n = Tbl.get e l n := if_neg hn
      rw [Tbl.get_set_of_ne d m _ hn, hget]
      simp only [hmem]

namespace Machine

/-! ### Stack control (14 R266) and PCREQ (15 R281) -/

theorem exec_stackControlWrite (s : State) (k : Nat) (v : Word) : exec (.stackControlWrite k v) s = .next (s.updStk k (fun q => { q with
    quiesce := bitB v 63
    hmask := if q.quiesce then bits v 13 27 else q.hmask
    herr := q.herr || (!q.quiesce && bits v 13 27 != q.hmask) })) := by
  show execStackControlWrite k v s = _
  unfold execStackControlWrite
  refine congrArg (fun f => Host.Outcome.next (s.updStk k f)) (funext fun q => ?_)
  by_cases hm : bits v 13 27 = q.hmask
  · simp [hm]
  · cases hq : q.quiesce <;> simp [hm, hq, Stack.idle]

/-- The counters of a stack's 64 pseudo-channels. -/
def pcOfStack (k i : Nat) : Bool := k * 64 ≤ i && i < k * 64 + 64

theorem pcOfStack_iff {k i : Nat} : pcOfStack k i = true ↔ 64 * k ≤ i ∧ i < 64 * k + 64 := by
  simp [pcOfStack, Nat.mul_comm k]

/-- A clear leaves at each counter of its stack what the accesses of the same cycle make of it, and the other counters. -/
theorem State.pcClear_pcreq (s : State) (k i : Nat) (h : (Tbl.keys s.pcNow).Nodup) : Tbl.get 0 (s.pcClear k).pcreq i =
    if 64 * k ≤ i ∧ i < 64 * k + 64 then (if Tbl.get 0 s.pcNow i = 0 then 0 else 1) else Tbl.get 0 s.pcreq i := by
  have hkeys := Tbl.keys_filter_key (pcOfStack k) s.pcNow
  have hnow := Tbl.get_filter_key 0 (pcOfStack k) s.pcNow i
  have hreq : Tbl.get 0 (s.pcreq.filter (fun p => !pcOfStack k p.1)) i = if !pcOfStack k i then Tbl.get 0 s.pcreq i else 0 :=
    Tbl.get_filter_key 0 (fun i => !pcOfStack k i) s.pcreq i
  have hfold := Tbl.get_foldl_set 0 0 (fun x : BitVec 32 => if x = 0 then (0 : BitVec 32) else 1) i
    (s.pcNow.filter (fun p => pcOfStack k p.1)) (s.pcreq.filter (fun p => !pcOfStack k p.1)) (hkeys ▸ h.filter (pcOfStack k))
  refine hfold.trans ?_
  simp only [hkeys, hnow, hreq, List.mem_filter, ← pcOfStack_iff]
  cases pcOfStack k i
  · simp
  · by_cases hi : i ∈ Tbl.keys s.pcNow
    · simp [hi]
    · simp [hi, Tbl.get_of_not_mem]

theorem exec_pcclr {s : State} {k : Nat} {v : Word} (h : bitB v 0 = true) : exec (.pcclr k v) s = .next (s.pcClear k) := by
  show execPcclr k v s = _
  rw [execPcclr, if_pos h]

/-! ### Rounds over cells -/

/-- Turns that each change cells only, one after another. -/
theorem State.foldl_cells_frame {f : State → Nat → State} (hf : ∀ s n, f s n = { s with cells := (f s n).cells }) (l : List Nat) :
    ∀ s : State, l.foldl f s = { s with cells := (l.foldl f s).cells } := by
  induction l with
  | nil => exact fun _ => rfl
  | cons n l ih =>
    intro s
    rw [List.foldl_cons, ih, hf s n]

/-- Turns of other cells leave a cell. -/
theorem State.foldl_cell_of_not_mem {f : State → Nat → State} (hf : ∀ s n k, k ≠ n → (f s n).cell k = s.cell k) {k : Nat} (l : List Nat)
    (h : k ∉ l) (s : State) : (l.foldl f s).cell k = s.cell k := by
  induction l generalizing s with
  | nil => rfl
  | cons n l ih =>
    rw [List.foldl_cons, ih (List.not_mem_of_not_mem_cons h), hf s n k (List.ne_of_not_mem_cons h)]

/-- In a round that visits each cell once, a cell has its turn as the round began. -/
theorem State.foldl_cell_of_mem {f : State → Nat → State} (hf : ∀ s n k, k ≠ n → (f s n).cell k = s.cell k) {k : Nat} (l : List Nat)
    (hd : l.Nodup) (h : k ∈ l) (s : State) : ∃ u : State, u.cell k = s.cell k ∧ (l.foldl f s).cell k = (f u k).cell k := by
  induction l generalizing s with
  | nil => cases h
  | cons n l ih =>
    obtain ⟨hn, hd⟩ := List.nodup_cons.mp hd
    rw [List.foldl_cons]
    rcases List.mem_cons.mp h with rfl | hl
    · exact ⟨s, rfl, State.foldl_cell_of_not_mem hf l hn _⟩
    · obtain ⟨u, hu, he⟩ := ih hd hl (f s n)
      exact ⟨u, hu.trans (hf s n k (fun e => hn (e ▸ hl))), he⟩

/-! ### Partitions (07 R145 to R147) -/

/-- A job's partition, as a word of its entry gives it. -/
def Job.partitioned (b : Job) (v : Word) : Job :=
  { b with x0 := partX0 v, y0 := partY0 v, x1 := partX1 v, y1 := partY1 v, valid := partValid v, bwdrop := 0 }

/-- The cells that a write of an entry takes from the job's partition, and those that it adds. -/
def Job.gone (b : Job) (v : Word) : List Nat := b.cells.filter (fun n => !(b.partitioned v).cells.contains n)
def Job.come (b : Job) (v : Word) : List Nat := (b.partitioned v).cells.filter (fun n => !b.cells.contains n)

theorem Job.mem_gone {b : Job} {v : Word} {n : Nat} : n ∈ b.gone v ↔ n ∈ b.cells ∧ n ∉ (b.partitioned v).cells := by
  simp [Job.gone]
theorem Job.mem_come {b : Job} {v : Word} {n : Nat} : n ∈ b.come v ↔ n ∈ (b.partitioned v).cells ∧ n ∉ b.cells := by
  simp [Job.come]

theorem State.partCheck_of_reversed {s : State} {v : Word} (j : Nat) (h : bitsN v 16 5 < bitsN v 0 5 ∨ bitsN v 21 4 < bitsN v 5 4) :
    s.partCheck j v = some 0 := by
  have hr : (partX1 v < partX0 v || partY1 v < partY0 v || partReserved v) = true := by
    simp only [Bool.or_eq_true, decide_eq_true_eq]; exact .inl h
  rw [State.partCheck]
  exact if_pos hr

theorem State.resetNeed_frame (s : State) (l : List Nat) : s.resetNeed l = { s with cells := (s.resetNeed l).cells } := by
  unfold State.resetNeed
  dsimp only
  rw [State.foldl_cells_frame (fun _ _ => rfl)]

/-- A write of an entry that moves cells: their need-by blocks and SWTHR return to reset, and the cells that leave are to be cleared. -/
def State.partitionMoved (s : State) (j : Nat) (v : Word) : State :=
  let t := ((s.updJob j (fun b => b.partitioned v)).resetNeed ((s.job j).gone v ++ (s.job j).come v)).updJob j
    (fun b => { b with swthr := Job.reset.swthr })
  { t with
    clearing := t.clearing ++ (s.job j).gone v
    cache := t.cache.filter (fun e => !(((s.job j).gone v).contains e.cell && e.job == j)) }

theorem State.partitionMoved_frame (s : State) (j : Nat) (v : Word) : s.partitionMoved j v = { s with
    jobs := Tbl.set s.jobs j { (s.job j).partitioned v with swthr := Job.reset.swthr }
    cells := (s.partitionMoved j v).cells
    clearing := s.clearing ++ (s.job j).gone v
    cache := (s.partitionMoved j v).cache } := by
  unfold State.partitionMoved
  rw [State.resetNeed_frame]
  simp only [State.updJob, State.job, Tbl.get_set_self, Tbl.set_set]

theorem State.partitionMoved_job (s : State) (i j : Nat) (v : Word) : (s.partitionMoved j v).job i =
    if i = j then { (s.job j).partitioned v with swthr := Job.reset.swthr } else s.job i := by
  rw [State.partitionMoved_frame]
  exact Tbl.get_set Job.reset s.jobs j i _

/-- The jobs that have registers (00 R15). -/
theorem job_in_range {j : Nat} (h1 : 1 ≤ j) (h63 : j ≤ 63) : ¬ (j = 0 || decide (63 < j)) = true := by
  simp only [Bool.or_eq_true, decide_eq_true_eq]; omega

section
variable {s : State} {j : Nat} {v : Word} (h1 : 1 ≤ j) (h63 : j ≤ 63)
include h1 h63

theorem exec_partitionWrite_refused {b : Nat} (hc : s.partCheck j v = some b) :
    exec (.partitionWrite j v) s = .next { s with partErr := putBit s.partErr b true, partErrJob := BitVec.ofNat 6 j } := by
  show execPartitionWrite j v s = _
  simp only [execPartitionWrite, if_neg (job_in_range h1 h63), hc]

theorem exec_partitionWrite_waits (hc : s.partCheck j v = none) (hw : s.clearing ≠ []) :
    exec (.partitionWrite j v) s = .next { s with inputs := .act (.partitionWrite j v) :: s.inputs } := by
  show execPartitionWrite j v s = _
  simp only [execPartitionWrite, if_neg (job_in_range h1 h63), hc, List.isEmpty_eq_false_iff.mpr hw, Bool.not_false, if_true]

/-- A write that passes its checks while no cell is being cleared sets the entry. The cells that leave are to be cleared, and one that
moves cells resets SWTHR. -/
theorem exec_partitionWrite_applied (hc : s.partCheck j v = none) (hw : s.clearing = []) :
    ∃ t, exec (.partitionWrite j v) s = .next t ∧
      t.job j = { (s.job j).partitioned v with swthr := (t.job j).swthr } ∧ (∀ i, i ≠ j → t.job i = s.job i) ∧
      t.clearing = (s.job j).gone v ∧ SameMemory s t ∧
      ((s.job j).gone v ≠ [] ∨ (s.job j).come v ≠ [] → (t.job j).swthr = Job.reset.swthr) := by
  have hnew : ((s.updJob j (fun b => b.partitioned v)).job j).cells = ((s.job j).partitioned v).cells := by rw [State.updJob_self]
  have hx : execPartitionWrite j v s = if (s.job j).gone v = [] ∧ (s.job j).come v = [] then .next (s.updJob j (fun b => b.partitioned v))
      else .next (s.partitionMoved j v) := by
    simp only [execPartitionWrite, if_neg (job_in_range h1 h63), hc, hw, List.isEmpty_nil, Bool.not_true, Bool.false_eq_true, if_false,
      ← Job.partitioned.eq_1, hnew, ← Job.gone.eq_1, ← Job.come.eq_1, Bool.and_eq_true, List.isEmpty_iff, ← State.partitionMoved.eq_1]
  by_cases hstay : (s.job j).gone v = [] ∧ (s.job j).come v = []
  · refine ⟨_, hx.trans (if_pos hstay), by rw [State.updJob_self], fun i hi => State.updJob_of_ne s _ hi, hw.trans hstay.1.symm, .refl s,
      fun hmoves => ?_⟩
    exact absurd hstay (by tauto)
  · refine ⟨_, hx.trans (if_neg hstay), by rw [State.partitionMoved_job, if_pos rfl], fun i hi => by rw [State.partitionMoved_job, if_neg hi],
      ?_, ?_, fun _ => ?_⟩
    · rw [State.partitionMoved_frame, hw]; rfl
    · rw [State.partitionMoved_frame]; exact fun _ => ⟨rfl, rfl, rfl⟩
    · rw [State.partitionMoved_job, if_pos rfl]

end

/-! ### The clearing of cells that have left (07 R147) -/

theorem memGet_filter_key (p : Nat → Bool) (m : List Host.Cell) (a : Nat) : ∀ {b : Nat}, memWfFrom b m = true →
    memGet (m.filter (fun c => p c.1)) a = if p a then memGet m a else unlisted := by
  induction m with
  | nil => simp [memGet]
  | cons c m ih =>
    intro b h
    obtain ⟨k, w⟩ := c
    simp only [memWfFrom, Bool.and_eq_true, decide_eq_true_eq] at h
    obtain ⟨-, hm⟩ := h
    have hrest := ih hm
    rw [List.filter_cons]
    by_cases hk : a = k
    · subst hk
      cases hp : p a <;> simp [hp, hrest, memGet]
    · by_cases hlt : a < k
      · have hlow : memGet (m.filter (fun c => p c.1)) a = unlisted := memGet_of_lt _ (memFilter_wfFrom _ m _ hm) (Nat.lt_succ_of_lt hlt)
        cases hp : p k <;> simp [memGet, hk, hlt, hlow]
      · cases hp : p k <;> simp [memGet, hk, hlt, hrest]

/-- A byte read after a range of a memory in canonical form was cleared. -/
theorem memGet_memClear (m : List Host.Cell) (hm : Memory.wf m = true) (a n x : Nat) :
    memGet (memClear m a n) x = if a ≤ x ∧ x < a + n then unlisted else memGet m x := by
  have h := memGet_filter_key (fun x => !(decide (a ≤ x) && decide (x < a + n))) m x hm
  refine h.trans ?_
  by_cases hx : a ≤ x ∧ x < a + n <;> simp [hx]

theorem exec_partitionClearDone {s : State} {n : Nat} (h : s.clearing = [n]) :
    exec .partitionClearDone s = .next { s.clearCell n with clearing := [] } := by
  show execPartitionClearDone s = _
  rw [execPartitionClearDone, h]; rfl

theorem State.clearCell_self (s : State) (n : Nat) : (s.clearCell n).cell n = { Cell.reset with island := (s.cell n).island } :=
  s.updCell_self n (fun c => { Cell.reset with island := c.island })
theorem State.clearCell_of_ne (s : State) {n k : Nat} (h : k ≠ n) : (s.clearCell n).cell k = s.cell k :=
  s.updCell_of_ne (fun c => { Cell.reset with island := c.island }) h

theorem State.clearCell_sram (s : State) (n : Nat) : (s.clearCell n).sram = memClear s.sram (sramKey n 0) sliceBytes := by
  simp only [State.clearCell, State.updCell_sram]

/-- The cell's slice of the scratchpads reads zero, and the others as before. -/
theorem State.memGet_clearCell (s : State) (h : Memory.wf s.sram = true) (n a : Nat) :
    memGet (s.clearCell n).sram a = if n * 2 ^ 22 ≤ a ∧ a < n * 2 ^ 22 + 2 ^ 22 then 0 else memGet s.sram a := by
  rw [State.clearCell_sram, memGet_memClear _ h, sramKey, sliceBytes, Nat.add_zero, unlisted]

/-! ### Islands (07 R157) -/

theorem State.setThrot_frame (s : State) : ∃ b, s.setThrot = { s with throt := b } := ⟨_, rfl⟩

@[simp] theorem State.setThrot_cell (s : State) (n : Nat) : s.setThrot.cell n = s.cell n := by
  simp only [State.cell, State.setThrot]

theorem State.setThrot_throt (s : State) :
    s.setThrot.throt = true ↔ ∃ n, n < 512 ∧ (s.setThrot.cell n).island.fnow < (s.setThrot.cell n).island.fstep := by
  simp only [State.setThrot_cell]
  simp [State.setThrot]

theorem State.setStep_of_ne (s : State) {n k : Nat} (f : Nat) (h : k ≠ n) : (s.setStep n f).cell k = s.cell k :=
  s.updCell_of_ne _ h

theorem State.setStep_onlyCell (s : State) (n f : Nat) : OnlyCell n s (s.setStep n f) := by
  unfold State.setStep
  exact .updCell s n _

theorem State.setStep_self (s : State) (n f : Nat) : (s.setStep n f).cell n = { s.cell n with
    island := { (s.cell n).island with fnow := f, busy := true, base := s.islandCycle n, baseAt := s.cycle } } :=
  s.updCell_self n _

/-- The registers of an island's word. -/
def Island.written (i : Island) (v : Word) : Island :=
  { i with fstep := min 19 (bitsN v 0 5), vstep := min 70 (bitsN v 5 7), gate := bitB v 12 }

/-- The registers of a cell's island written, and its step set. -/
def State.islandWritten (s : State) (n : Nat) (v : Word) : State :=
  (s.updCell n (fun c => { c with island := c.island.written v })).setStep n (min 19 (bitsN v 0 5))

theorem exec_islandWrite {s : State} {n : Nat} (v : Word) (hn : n < 512) :
    exec (.islandWrite n v) s = .next (s.islandWritten n v).setThrot := by
  show execIslandWrite n v s = _
  rw [execIslandWrite, if_neg (Nat.not_le.mpr hn)]; rfl

theorem State.islandWritten_self (s : State) (n : Nat) (v : Word) : ∃ base, (s.islandWritten n v).cell n = { s.cell n with
    island := { (s.cell n).island.written v with fnow := min 19 (bitsN v 0 5), busy := true, base := base, baseAt := s.cycle } } :=
  ⟨_, by rw [State.islandWritten, State.setStep_self, State.updCell_self]; rfl⟩

theorem State.islandWritten_onlyCell (s : State) (n : Nat) (v : Word) : OnlyCell n s (s.islandWritten n v) :=
  (OnlyCell.updCell s n (fun c => { c with island := c.island.written v })).trans (State.setStep_onlyCell _ n _)

/-- THROT is a register beside the cells. -/
theorem OnlyCell.setThrot {n : Nat} {s t : State} (h : OnlyCell n s t) : OnlyCell n { s with throt := t.setThrot.throt } t.setThrot := by
  obtain ⟨hframe, hcell, hmem⟩ := h
  obtain ⟨b, hb⟩ := t.setThrot_frame
  rw [hb]
  refine ⟨?_, hcell, hmem⟩
  rw [hframe]

theorem exec_islandTransitionDone {s : State} {n : Nat} (h : (s.cell n).island.busy = true) : exec (.islandTransitionDone n) s =
    .next (s.updCell n (fun c => { c with island := { c.island with busy := false } })) := by
  show execIslandTransitionDone n s = _
  rw [execIslandTransitionDone, if_pos h]

/-! ### Package power (24 R373) -/

/-- The step in effect that a power check leaves an island. -/
def Island.poweredStep (i : Island) (lim now : Nat) : Nat :=
  if lim < now then i.fnow - 1 else if now * 100 ≤ lim * 95 ∧ i.fnow < i.fstep then i.fnow + 1 else i.fnow

/-- A power check's turn at a cell. -/
def State.powerTurn (lim now : Nat) (s : State) (n : Nat) : State :=
  let i := (s.cell n).island
  if lim < now then (if 0 < i.fnow then s.setStep n (i.fnow - 1) else s)
  else if now * 100 ≤ lim * 95 && i.fnow < i.fstep then s.setStep n (i.fnow + 1)
  else s

/-- A power check's round over the islands. -/
def State.powerRound (s : State) (lim now : Nat) : State := (List.range 512).foldl (State.powerTurn lim now) s

/-- The state that a power check leaves. -/
def State.powerChecked (s : State) : State :=
  State.setThrot (State.powerRound { s with powerMs := s.powerMs + 1, pnow := Config.powerNow (s.powerMs + 1) } (min 2400 s.plim.toNat)
    (Config.powerNow (s.powerMs + 1)).toNat)

theorem exec_powerCheck {s : State} (h : (s.powerMs + 1) * 1000000 ≤ s.tick) : exec .powerCheck s = .next s.powerChecked := by
  have hdue : s.powerDue = true := decide_eq_true h
  show execPowerCheck s = _
  simp only [execPowerCheck, hdue, Bool.not_true, Bool.false_eq_true, if_false]
  rfl

section
variable (lim now : Nat) (s : State) (n : Nat)

/-- A turn leaves the state or sets a step of its cell. -/
theorem State.powerTurn_cases : (State.powerTurn lim now s n = s ∧ (s.cell n).island.poweredStep lim now = (s.cell n).island.fnow) ∨
    State.powerTurn lim now s n = s.setStep n ((s.cell n).island.poweredStep lim now) := by
  unfold State.powerTurn Island.poweredStep
  by_cases hdown : lim < now
  · by_cases hpos : 0 < (s.cell n).island.fnow
    · exact .inr (by simp only [hdown, hpos, if_true])
    · exact .inl ⟨by simp only [hdown, hpos, if_true, if_false], by simp only [hdown, if_true]; omega⟩
  · by_cases hup : now * 100 ≤ lim * 95 ∧ (s.cell n).island.fnow < (s.cell n).island.fstep
    · exact .inr (by simp [hdown, hup])
    · exact .inl ⟨by simp [hdown, hup], by simp only [hdown, hup, if_false]⟩

theorem State.powerTurn_frame : State.powerTurn lim now s n = { s with cells := (State.powerTurn lim now s n).cells } := by
  rcases State.powerTurn_cases lim now s n with ⟨h, -⟩ | h <;> rw [h]
  rfl

theorem State.powerTurn_of_ne {k : Nat} (hk : k ≠ n) : (State.powerTurn lim now s n).cell k = s.cell k := by
  rcases State.powerTurn_cases lim now s n with ⟨h, -⟩ | h
  · rw [h]
  · rw [h, State.setStep_of_ne s _ hk]

theorem State.powerTurn_self : ((State.powerTurn lim now s n).cell n).island.fnow = (s.cell n).island.poweredStep lim now := by
  rcases State.powerTurn_cases lim now s n with ⟨h, he⟩ | h
  · rw [h, he]
  · rw [h, State.setStep_self]

theorem State.powerRound_frame : s.powerRound lim now = { s with cells := (s.powerRound lim now).cells } :=
  State.foldl_cells_frame (State.powerTurn_frame lim now) _ s

/-- Every island has its turn once. -/
theorem State.powerRound_fnow (hn : n < 512) :
    ((s.powerRound lim now).cell n).island.fnow = (s.cell n).island.poweredStep lim now := by
  obtain ⟨u, hu, he⟩ := State.foldl_cell_of_mem (fun s n _ h => State.powerTurn_of_ne lim now s n h) _ List.nodup_range
    (List.mem_range.mpr hn) s
  rw [State.powerRound, he, State.powerTurn_self, hu]

end

theorem State.powerChecked_frame (s : State) : s.powerChecked = { s with
    powerMs := s.powerMs + 1, pnow := Config.powerNow (s.powerMs + 1), cells := s.powerChecked.cells, throt := s.powerChecked.throt } := by
  unfold State.powerChecked
  obtain ⟨b, hb⟩ := State.setThrot_frame (State.powerRound { s with powerMs := s.powerMs + 1, pnow := Config.powerNow (s.powerMs + 1) }
    (min 2400 s.plim.toNat) (Config.powerNow (s.powerMs + 1)).toNat)
  rw [hb, State.powerRound_frame]

theorem State.powerChecked_pnow (s : State) : s.powerChecked.pnow = Config.powerNow (s.powerMs + 1) := by rw [State.powerChecked_frame]
theorem State.powerChecked_powerMs (s : State) : s.powerChecked.powerMs = s.powerMs + 1 := by rw [State.powerChecked_frame]
theorem State.powerChecked_memory (s : State) : SameMemory s s.powerChecked := by
  rw [State.powerChecked_frame]; exact fun _ => ⟨rfl, rfl, rfl⟩

theorem State.powerChecked_throt (s : State) : s.powerChecked.throt = true ↔
    ∃ n, n < 512 ∧ (s.powerChecked.cell n).island.fnow < (s.powerChecked.cell n).island.fstep := by
  unfold State.powerChecked; exact State.setThrot_throt _

theorem State.powerChecked_fnow (s : State) {n : Nat} (hn : n < 512) : (s.powerChecked.cell n).island.fnow =
    (s.cell n).island.poweredStep (min 2400 s.plim.toNat) (Config.powerNow (s.powerMs + 1)).toNat := by
  unfold State.powerChecked
  rw [State.setThrot_cell, State.powerRound_fnow _ _ _ _ hn]
  rfl

/-! ### The event log's read index (24 R362) and the mailbox (24 R372) -/

/-- RDIDX as written: IRQPEND keeps only what a record written since the message asks for. -/
def Job.indexRead (b : Job) (r : BitVec 32) : Job := { b with rdidx := r, irqpend := b.irqMore, irqMore := false }

theorem exec_rdidxWrite {s : State} {j : Nat} (r : BitVec 32) (h1 : 1 ≤ j) (h63 : j ≤ 63) : exec (.rdidxWrite j r) s =
    .next { s.updJob j (fun b => b.indexRead r) with msix := if (s.job j).irqMore then Tbl.upd 0 s.msix j (· + 1) else s.msix } := by
  show execRdidxWrite j r s = _
  rw [execRdidxWrite, if_neg (job_in_range h1 h63), State.readIndex]
  cases hmore : (s.job j).irqMore <;> simp [State.updJob, Job.indexRead, hmore]

theorem exec_attestationReport {s : State} (h : s.mailRun = 1) : exec .attestationReport s = .next { s with
    mailRun := 0, host := hostWords s.host s.mailBuf.toNat (s.report ++ (List.range 64).map (Config.reportSignature s.report)) } := by
  show execAttestationReport s = _
  rw [execAttestationReport, if_neg (not_not.mpr h)]

theorem exec_identityCertificate {s : State} (h : s.mailRun = 2) : exec .identityCertificate s = .next { s with
    mailRun := 0, host := hostWords s.host s.mailBuf.toNat ((List.range 512).map Config.identityWord) } := by
  show execIdentityCertificate s = _
  rw [execIdentityCertificate, if_neg (not_not.mpr h)]

/-! ### The routing of a register write (00 R15, 24 R370) -/

theorem exec_registerWrite_outside (s : State) {fn off : Nat} (v : Word) (h : 63 < fn ∨ 0x800000 ≤ off) :
    exec (.registerWrite fn off v) s = .fault .outsideBar := by
  have hout : (decide (63 < fn) || decide (0x800000 ≤ off)) = true := by simpa only [Bool.or_eq_true, decide_eq_true_eq] using h
  show execRegisterWrite fn off v s = _
  rw [execRegisterWrite, if_pos hout]

section
variable {s : State} {fn off : Nat} (hoff : off < 0x800000)
include hoff

theorem exec_registerWrite_pf (v : Word) (hb : s.bootOk = true) (h8 : off % 8 = 0) :
    exec (.registerWrite 0 off v) s = s.pfRegister off v := by
  have hin : ¬ (decide (63 < 0) || decide (0x800000 ≤ off)) = true := by simpa using hoff
  show execRegisterWrite 0 off v s = _
  rw [execRegisterWrite, if_neg hin, if_neg (not_not.mpr h8), if_pos rfl, hb, Bool.true_or, if_pos rfl]

theorem exec_registerWrite_vf (v : Word) (hb : s.bootOk = true) (h1 : 1 ≤ fn) (h63 : fn ≤ 63) (h8 : off % 8 = 0) :
    exec (.registerWrite fn off v) s = s.vfRegister fn off v := by
  have hin : ¬ (decide (63 < fn) || decide (0x800000 ≤ off)) = true := by
    simp only [Bool.or_eq_true, decide_eq_true_eq]; omega
  show execRegisterWrite fn off v s = _
  rw [execRegisterWrite, if_neg hin, if_neg (not_not.mpr h8), if_neg (by omega), if_pos hb]

/-- Before the firmware has been verified only the mailbox answers. -/
theorem exec_registerWrite_unbooted (v : Word) (hb : s.bootOk = false) (h63 : fn ≤ 63) (hm : ¬ (fn = 0 ∧ 0x70000 ≤ off ∧ off < 0x70018)) :
    exec (.registerWrite fn off v) s = .next s := by
  have hin : ¬ (decide (63 < fn) || decide (0x800000 ≤ off)) = true := by
    simp only [Bool.or_eq_true, decide_eq_true_eq]; omega
  show execRegisterWrite fn off v s = _
  rw [execRegisterWrite, if_neg hin, hb]
  by_cases h8 : off % 8 = 0
  · by_cases hfn : fn = 0
    · have hmail : ¬ (decide (0x70000 ≤ off) && decide (off < 0x70018)) = true := by
        simpa only [Bool.and_eq_true, decide_eq_true_eq] using fun h => hm ⟨hfn, h⟩
      rw [if_neg (not_not.mpr h8), if_pos hfn, Bool.false_or, if_neg hmail]
    · rw [if_neg (not_not.mpr h8), if_neg hfn, if_neg Bool.false_ne_true]
  · rw [if_pos h8]

end

/-- The low bits of a word. -/
theorem bits_zero_eq_ofNat (v : Word) (k : Nat) : bits v 0 k = BitVec.ofNat k v.toNat := by
  apply BitVec.eq_of_toNat_eq
  rw [bits_toNat, pow_zero, Nat.div_one, BitVec.toNat_ofNat]

section
variable (s : State) (v : Word)

theorem State.pfRegister_partition {j : Nat} (hj : j < 64) : s.pfRegister (0x20000 + 16 * j) v = execPartitionWrite j v s := by
  have hin : (decide (0x20000 ≤ 0x20000 + 16 * j) && decide (0x20000 + 16 * j < 0x20400)) = true := by
    simp only [Bool.and_eq_true, decide_eq_true_eq]; omega
  have hidx : (0x20000 + 16 * j - 0x20000) / 16 = j := by omega
  rw [State.pfRegister, if_pos hin, if_pos (by omega), hidx]

theorem State.pfRegister_island {n : Nat} (hn : n < 512) : s.pfRegister (0x30000 + 8 * n) v = execIslandWrite n v s := by
  have hpart : ¬ (decide (0x20000 ≤ 0x30000 + 8 * n) && decide (0x30000 + 8 * n < 0x20400)) = true := by
    simp only [Bool.and_eq_true, decide_eq_true_eq]; omega
  have hin : (decide (0x30000 ≤ 0x30000 + 8 * n) && decide (0x30000 + 8 * n < 0x31000)) = true := by
    simp only [Bool.and_eq_true, decide_eq_true_eq]; omega
  have hidx : (0x30000 + 8 * n - 0x30000) / 8 = n := by omega
  rw [State.pfRegister, if_neg hpart, if_neg (by omega), if_pos hin, hidx]

theorem State.pfRegister_partErr : s.pfRegister 0x20400 v = .next { s with partErr := s.partErr &&& ~~~(BitVec.ofNat 4 v.toNat) } := by
  rw [← bits_zero_eq_ofNat]; rfl
theorem State.pfRegister_plim : s.pfRegister 0x31000 v = .next { s with plim := BitVec.ofNat 12 v.toNat } := by
  rw [← bits_zero_eq_ofNat]; rfl

theorem State.vfRegister_token (j : Nat) {q : Nat} (hq : q < 16) :
    s.vfRegister j (0x10038 + 0x1000 * q) v = execLaunchTokenSubmit j q v s := by
  have hin : (decide (0x10000 ≤ 0x10038 + 0x1000 * q) && decide (0x10038 + 0x1000 * q < 0x20000)) = true := by
    simp only [Bool.and_eq_true, decide_eq_true_eq]; omega
  have hqueue : (0x10038 + 0x1000 * q - 0x10000) / 0x1000 = q := by omega
  have hword : (0x10038 + 0x1000 * q) % 0x1000 = 0x38 := by omega
  rw [State.vfRegister]
  dsimp only
  rw [if_pos hin, hqueue, hword, State.queueRegister, if_pos rfl]

/-- A watchdog limit as written: it holds from the next µs of the global tick on (21 R343). -/
def Job.limited (b : Job) (v : Word) (tick : Nat) : Job :=
  { b with wdlim := bits v 0 32, wdOld := b.wdNow tick, wdAt := (tick / 1000 + 1) * 1000 }

theorem State.vfRegister_wdlim (j : Nat) : s.vfRegister j 0x150020 v = .next (s.updJob j (fun b => b.limited v s.tick)) := rfl

theorem Job.limited_wdNow_self (b : Job) (tick : Nat) : (b.limited v tick).wdNow tick = b.wdNow tick :=
  if_pos (show tick < (tick / 1000 + 1) * 1000 by omega)
theorem Job.limited_wdNow_of_le (b : Job) {tick x : Nat} (h : (tick / 1000 + 1) * 1000 ≤ x) : (b.limited v tick).wdNow x = bits v 0 32 :=
  if_neg (Nat.not_lt.mpr h)

end

end Machine
end Sys2Proof

open Sys2Proof Sys2Proof.Machine in
/-- Settles O58: each write and each event of the platform has its equation above; the conjuncts read their parts off it. -/
theorem platformRegisters : Obligations.PlatformRegisters := by
  intro s v
  refine ⟨?stack, ?pcclr, ?waits, ?refused, ?applied, fun j => State.partCheck_of_reversed j, ?cleared, ?island, ?settles, ?power, ?rdidx,
    fun h => ⟨_, exec_attestationReport h, rfl⟩, fun h => ⟨_, exec_identityCertificate h, rfl⟩,
    fun fn off => exec_registerWrite_outside s v, ?routes, ?unbooted⟩
  case stack =>
    exact fun k hk => ⟨_, exec_stackControlWrite s k v, rfl, fun i hi => State.updStk_of_ne s _ hi, State.updStk_self s _ hk⟩
  case pcclr => exact fun k h => ⟨_, exec_pcclr h, rfl, fun hd i => s.pcClear_pcreq k i hd⟩
  case waits => exact fun j h1 h63 hc hw => ⟨_, exec_partitionWrite_waits h1 h63 hc hw, rfl⟩
  case refused => exact fun j b h1 h63 hc => ⟨_, exec_partitionWrite_refused h1 h63 hc, rfl⟩
  case applied =>
    intro j h1 h63 hc hw
    obtain ⟨t, hx, hjob, hother, hclearing, hmem, hswthr⟩ := exec_partitionWrite_applied h1 h63 hc hw
    have hcells : (t.job j).cells = ((s.job j).partitioned v).cells := by rw [hjob]; rfl
    refine ⟨t, hx, congrArg Job.x0 hjob, congrArg Job.y0 hjob, congrArg Job.x1 hjob, congrArg Job.y1 hjob, congrArg Job.valid hjob,
      congrArg Job.bwdrop hjob, hother, fun n => ?_, hmem, fun hmoves => hswthr ?_⟩
    · rw [hclearing, hcells, Job.mem_gone]
    · rw [hcells] at hmoves
      obtain ⟨n, h | h⟩ := hmoves
      · exact .inl (List.ne_nil_of_mem (Job.mem_gone.mpr h))
      · exact .inr (List.ne_nil_of_mem (Job.mem_come.mpr h))
  case cleared =>
    intro n hn hwf
    exact ⟨_, exec_partitionClearDone hn, rfl, s.clearCell_self n, fun k hk => s.clearCell_of_ne hk, s.memGet_clearCell hwf n⟩
  case island =>
    intro n hn
    obtain ⟨base, hself⟩ := s.islandWritten_self n v
    rw [← State.setThrot_cell] at hself
    refine ⟨_, exec_islandWrite v hn, (s.islandWritten_onlyCell n v).setThrot, State.setThrot_throt _, ?_⟩
    rw [hself]
    exact ⟨rfl, rfl, rfl, rfl, rfl, rfl⟩
  case settles =>
    exact fun n hb => ⟨_, exec_islandTransitionDone hb, OnlyCell.updCell s n _, State.updCell_self s n _⟩
  case power =>
    intro hdue
    exact ⟨_, exec_powerCheck hdue, s.powerChecked_pnow, s.powerChecked_powerMs, s.powerChecked_memory, fun n hn => s.powerChecked_fnow hn,
      s.powerChecked_throt⟩
  case rdidx =>
    intro j r h1 h63
    refine ⟨_, exec_rdidxWrite r h1 h63, rfl, State.updJob_self s j (fun b => b.indexRead r), ?_⟩
    cases (s.job j).irqMore <;> simp [Tbl.upd]
  case routes =>
    intro hb
    refine ⟨⟨_, (exec_registerWrite_pf (by decide) v hb rfl).trans (s.pfRegister_plim v), rfl⟩,
      ⟨_, (exec_registerWrite_pf (by decide) v hb rfl).trans (s.pfRegister_partErr v), rfl⟩, fun j h1 h63 => ?_,
      fun j h1 h63 => ?_, fun n hn => ?_, fun j q h1 h63 hq => ?_⟩
    · refine ⟨_, (exec_registerWrite_vf (by decide) v hb h1 h63 rfl).trans (s.vfRegister_wdlim v j), rfl, ?_, ?_, fun x hx => ?_⟩
      · rw [State.updJob_self, Job.limited, bits_zero_eq_ofNat]
      · rw [State.updJob_self, Job.limited_wdNow_self]
      · rw [State.updJob_self, Job.limited_wdNow_of_le v _ hx, bits_zero_eq_ofNat]
    · exact (exec_registerWrite_pf (by omega) v hb (by omega)).trans (s.pfRegister_partition v (by omega))
    · exact (exec_registerWrite_pf (by omega) v hb (by omega)).trans (s.pfRegister_island v hn)
    · exact (exec_registerWrite_vf (by omega) v hb h1 h63 (by omega)).trans (s.vfRegister_token v j hq)
  case unbooted => exact fun hb fn off h63 hoff hm => ⟨s, exec_registerWrite_unbooted hoff v hb h63 hm, rfl⟩

end

/-!
PROOF. What a firing, a nullified firing and an abort leave in the issue state (08 R167, R168, R172; 03 R78): the channels after dequeues,
the predicates after their update, and the null result of a rule that has a null source.
-/

section
namespace Sys2Proof

/-! ### Dequeues (01 R37) -/

theorem Rule.mem_deqs {r : Rule} {k : Nat} :
    k ∈ r.deqs ↔ (r.dqa = 1 ∧ k = r.condA.chan) ∨ (r.dqb = 1 ∧ k = r.condB.chan) := by
  simp [Rule.deqs]

/-- A dequeued channel is one of the eight. -/
theorem Rule.lt_of_mem_deqs {r : Rule} {k : Nat} (h : k ∈ r.deqs) : k < 8 := by
  rcases Rule.mem_deqs.mp h with ⟨_, rfl⟩ | ⟨_, rfl⟩
  · exact (bits r.ca 3 3).isLt
  · exact (bits r.cb 3 3).isLt

/-- A rule whose conditions name different channels, or that dequeues for one of them at most, dequeues no channel twice. -/
theorem Rule.nodup_deqs {r : Rule} (h : r.condA.chan ≠ r.condB.chan ∨ r.dqa = 0 ∨ r.dqb = 0) : r.deqs.Nodup := by
  unfold Rule.deqs
  rcases h with h | h | h
  · split <;> split <;> simp [h]
  · rw [if_neg (by simp [h])]
    split <;> simp
  · split <;> simp [h]

theorem Rule.puMode_lt (r : Rule) : r.puMode < 4 := (bits r.pu 3 2).isLt

namespace Machine

/-- A dequeue takes the head of its channel. -/
theorem Issue.vget_chans_deq (x : Issue) {i : Nat} (hi : i < 8) (k : Nat) :
    vget [] (x.deq i).chans k = if k = i then (vget [] x.chans k).tail else vget [] x.chans k := by
  split
  case isTrue h => subst h; exact vget_vset_self _ _ _ _ hi
  case isFalse h => exact vget_vset_of_ne _ _ _ h

/-- Dequeues of different channels take the head of each. -/
theorem Issue.vget_chans_deqs {l : List Nat} (hl : ∀ i ∈ l, i < 8) (hd : l.Nodup) (x : Issue) (k : Nat) :
    vget [] (l.foldl Issue.deq x).chans k = if k ∈ l then (vget [] x.chans k).tail else vget [] x.chans k := by
  induction l generalizing x with
  | nil => rfl
  | cons i l ih =>
    obtain ⟨hi, hl⟩ := List.forall_mem_cons.mp hl
    obtain ⟨hnot, hd⟩ := List.nodup_cons.mp hd
    rw [List.foldl_cons, ih hl hd, Issue.vget_chans_deq x hi]
    by_cases h : k = i
    · subst h; simp [hnot]
    · simp [h]

/-- Without a block binding dequeues change the channels and nothing else (04 R93). -/
theorem CSet.deqs_plain (l : List Nat) {cs : CSet} (h : ∀ k, (vget VChan.reset cs.vch k).block = false) :
    l.foldl CSet.deq cs = { cs with iss := l.foldl Issue.deq cs.iss } := by
  induction l generalizing cs with
  | nil => rfl
  | cons i l ih =>
    rw [List.foldl_cons, CSet.deq_plain cs h]
    exact ih h

/-! ### What a firing leaves (08 R167, R168) -/

/-- A mask that gains bit i. -/
theorem bitB_putBit_true {w : Nat} (x : BitVec w) (i : Nat) {k : Nat} (h : k < w) :
    bitB (putBit x i true) k = (bitB x k || k == i) := by
  rw [bitB_putBit _ _ _ _ h]
  by_cases hk : k = i <;> simp [hk]

/-- A predicate update writes the predicate it names: with the condition, with 1 or with 0 (01 R37). -/
theorem Issue.bitB_predUpdate (x : Issue) (r : Rule) (cond : Bool) {k : Nat} (hk : k < 8) :
    bitB (x.predUpdate r cond).preds k =
      if r.puMode ≠ 0 ∧ k = r.puIdx then decide (r.puMode = 1 ∧ cond = true ∨ r.puMode = 2) else bitB x.preds k := by
  have hmode : r.puMode = 0 ∨ r.puMode = 1 ∨ r.puMode = 2 ∨ r.puMode = 3 := by
    have := r.puMode_lt
    omega
  rcases hmode with h | h | h | h <;> simp [Issue.predUpdate, h, bitB_putBit _ _ _ _ hk]

/-- A predicate update changes nothing else. -/
theorem Issue.predUpdate_eq (x : Issue) (r : Rule) (cond : Bool) :
    x.predUpdate r cond = { x with preds := (x.predUpdate r cond).preds } := by
  unfold Issue.predUpdate
  split <;> rfl

/-- Age and run of aborts become zero, and beside them a firing changes FIRED and the predicates alone. -/
theorem Issue.fired!_eq (x : Issue) (i : Nat) (r : Rule) (cond : Bool) :
    x.fired! i r cond = { x with
      preds := (x.fired! i r cond).preds, age := vset x.age i 0, runs := vset x.runs i 0, fired := putBit x.fired i true } :=
  Issue.predUpdate_eq _ r cond

theorem Issue.fired!_chans (x : Issue) (i : Nat) (r : Rule) (cond : Bool) : (x.fired! i r cond).chans = x.chans := by
  rw [Issue.fired!_eq]

/-- FIRED gains the bit of the rule. -/
theorem Issue.bitB_fired! (x : Issue) (i : Nat) (r : Rule) (cond : Bool) {k : Nat} (hk : k < 16) :
    bitB (x.fired! i r cond).fired k = (bitB x.fired k || k == i) := by
  rw [Issue.fired!_eq, bitB_putBit_true _ _ hk]

/-- A firing without a result changes the issue state and the companions alone. -/
theorem CSet.finish_none_eq (cs : CSet) (i : Nat) (r : Rule) (cond : Bool) :
    cs.finish i r cond none = { cs with iss := (cs.finish i r cond none).iss, comp := (cs.finish i r cond none).comp } := by
  have h := CSet.deqs_same r.deqs cs
  unfold CSet.finish
  generalize r.deqs.foldl CSet.deq cs = y at h ⊢
  rw [SameButChans] at h
  rw [h]
  simp

/-- The issue state that a firing finds after its dequeues differs in the channels alone. -/
theorem CSet.deqs_iss (cs : CSet) (l : List Nat) :
    (l.foldl CSet.deq cs).iss = { cs.iss with chans := (l.foldl CSet.deq cs).iss.chans } :=
  congrArg CSet.iss (CSet.deqs_same l cs)

/-- The issue state that a firing leaves. -/
theorem CSet.finish_iss (cs : CSet) (i : Nat) (r : Rule) (cond : Bool) (res : Option Hist) :
    (cs.finish i r cond res).iss =
      ({ cs.iss with chans := (r.deqs.foldl CSet.deq cs).iss.chans } : Issue).fired! i r cond := by
  rw [← CSet.deqs_iss]
  rfl

theorem CSet.finish_comp (cs : CSet) (i : Nat) (r : Rule) (cond : Bool) (res : Option Hist) :
    (cs.finish i r cond res).comp = (r.deqs.foldl CSet.deq cs).comp := rfl

/-- An offered NOP fires with a true condition and no result (09 R209). -/
theorem exec_ruleNop {s : State} {r : Rule} (h : s.RuleReady r false) :
    exec (.ruleNop r) s = .next (s.updC s.focus.cell (fun c => c.finish s.focus.idx r true none)) :=
  State.fireC_ready h .none (fun s _ _ => .fire s true none)

/-! ### A nullified firing (03 R78) -/

/-- The format of the null token that a nullified rule sends on output o. -/
def NullOut.format (cs : CSet) : NullOut → Nat → BitVec 3
  | .none, _ => 0
  | .scalar, _ => 7
  | .vector, o => (cs.outEntry o).fmt

@[simp] theorem State.emit_focus (s : State) (n kind : Nat) (x : Issue) (o : Nat) (t : Token) :
    (s.emit n kind x o t).focus = s.focus := by
  unfold State.emit
  split <;> rfl

/-- A rule of a null source fires nullified, whatever its body is. -/
theorem State.fireC_nullifies {s : State} {r : Rule} {b1 : Bool} (h : s.RuleOffered r)
    (hn : (s.cset s.focus.cell).nullSource r b1 = true) (out : NullOut) (body : State → Nat → CSet → Offer) :
    ∃ t, s.fireC r out b1 body = .next t ∧ RuleNullified s t r (out.format (s.cset s.focus.cell)) (out != .none) := by
  refine ⟨s.nullified s.focus.cell (s.cset s.focus.cell) r out, (h.ite_eq ..).trans (if_pos hn), ?_⟩
  unfold RuleNullified RuleFires State.nullified
  cases out with
  | none => exact rfl
  | scalar => cases opdOf r.dst <;> simp [nullTok, kindC, nullHist, NullOut.format]
  | vector => cases opdOf r.dst <;> simp [nullTok, kindC, nullHist, NullOut.format]

/-- A scalar form of a null source fires nullified. -/
theorem scalarForm_nullifies {s : State} {r : Rule} {b1 : Bool} (h : s.RuleOffered r)
    (hn : (s.cset s.focus.cell).nullSource r b1 = true) (f : CSet → Word → Word → Word) :
    ∃ t, scalarForm b1 f r s = .next t ∧ RuleNullified s t r (fun _ => 7) true :=
  State.fireC_nullifies h hn .scalar _

/-- FIL starts no fetch and freezes no port where a source nullifies it (09 R206). -/
theorem execFil_nullifies {s : State} {r : Rule} (h : s.RuleOffered r) (hn : (s.cset s.focus.cell).nullSource r false = true) :
    ∃ t, execFil r s = .next t ∧ RuleNullified s t r (fun o => ((s.cset s.focus.cell).outEntry o).fmt) true := by
  unfold execFil
  simp only [hn, Bool.not_true, Bool.and_false, Bool.false_and, Bool.false_eq_true, if_false]
  split <;> exact State.fireC_nullifies h hn .vector _

/-! ### An abort (08 R172) -/

/-- An abort marks the rule in ABORTED. -/
theorem Issue.bitB_aborted_abort (x : Issue) (i reason : Nat) {j : Nat} (hj : j < 16) :
    bitB (x.abort i reason).aborted j = (bitB x.aborted j || j == i) := by
  rw [Issue.abort, bitB_putBit_true _ _ hj]

end Machine
end Sys2Proof

open Sys2Proof Sys2Proof.Machine in
/-- Settles O28: a NOP leaves what `finish` leaves, and every compute opcode with a null source is a `fireC` that never asks its body. -/
theorem ruleFiringBookkeeping : Obligations.RuleFiringBookkeeping := by
  refine ⟨?nop, ?nullified, ?abort⟩
  case nop =>
    intro s r n cs hready _
    refine ⟨_, exec_ruleNop hready, OnlyCell.updCell s n _, ?_⟩
    rw [State.cset_updC]
    refine ⟨State.updCell_self .., CSet.finish_none_eq .., ?_⟩
    simp only [CSet.finish_iss]
    refine ⟨?frame, fun k hk => Issue.bitB_fired! _ _ r true hk, fun k hk => ?preds, fun hplain => ?plain⟩
    case frame => rw [Issue.fired!_eq]
    case preds =>
      refine (Issue.bitB_predUpdate _ r true hk).trans (if_ctx_congr Iff.rfl (fun h => ?_) (fun _ => rfl))
      have := r.puMode_lt
      rw [decide_eq_decide, and_iff_left rfl]
      omega
    case plain =>
      have hdeqs := CSet.deqs_plain r.deqs hplain
      refine ⟨by rw [CSet.finish_comp, hdeqs], fun hdiff k _ => ?_⟩
      rw [Issue.fired!_chans, hdeqs, Issue.vget_chans_deqs (fun _ => Rule.lt_of_mem_deqs) (Rule.nodup_deqs hdiff)]
      simp only [Rule.mem_deqs]
  case nullified =>
    intro s r cs hoff
    refine ⟨?scalar, ?sel, ?vector, ?vsel, ?silent⟩
    case scalar =>
      intro hn e he
      fin_cases he <;> dsimp only [exec] <;> exact scalarForm_nullifies hoff hn _
    case sel =>
      intro hn
      dsimp only [exec]
      exact scalarForm_nullifies hoff hn _
    case vector =>
      intro hn e he
      fin_cases he
      on_goal -1 => exact execFil_nullifies hoff hn
      all_goals
        dsimp only [exec, execVadd, execVsub, execVmul, execVmax, execVmin, execVabs, execVneg, execVexp2, execVrcp, execVrsq, execVscale]
        exact State.fireC_nullifies hoff hn .vector _
    case vsel =>
      intro hn
      dsimp only [exec]
      exact State.fireC_nullifies hoff hn .vector _
    case silent =>
      intro hn e he
      fin_cases he <;> dsimp only [exec] <;> exact State.fireC_nullifies hoff hn .none _
  case abort => exact fun x i reason _ => ⟨rfl, fun j hj => x.bitB_aborted_abort i reason hj⟩

end

/-!
PROOF. The start of a matrix command (10 R212, R216, R217, R218, R222): what a write of the node's banks and modes leaves, the flags of
a command (10 R220), and the node that each command starts on or leaves.
-/

section
namespace Sys2Proof.Machine

/-! ### The banks and their modes (10 R211, R212) -/

theorem mBank_lt_two (w : Word) : mBank w < 2 := (w.extractLsb' 7 1).isLt

@[simp] theorem Node.bank_setBank_self (x : Node) (b : Nat) (v : Tbl (BitVec 32)) : (x.setBank b v).bank b = v := by
  unfold Node.setBank Node.bank
  split <;> rfl

/-- A write of a bank leaves the other. -/
theorem Node.bank_setBank_other (x : Node) {b : Nat} (hb : b < 2) (v : Tbl (BitVec 32)) :
    (x.setBank b v).bank (1 - b) = x.bank (1 - b) := by
  interval_cases b <;> rfl

@[simp] theorem Node.mode_setMode_self (x : Node) (b : Nat) (m : Bool) : (x.setMode b m).mode b = m := by
  unfold Node.setMode Node.mode
  split <;> rfl

theorem Node.mode_setMode_other (x : Node) {b : Nat} (hb : b < 2) (m : Bool) :
    (x.setMode b m).mode (1 - b) = x.mode (1 - b) := by
  interval_cases b <;> rfl

/-- A write of a bank changes nothing but the banks. -/
theorem Node.setBank_eq (x : Node) (b : Nat) (v : Tbl (BitVec 32)) :
    x.setBank b v = { x with bank0 := (x.setBank b v).bank0, bank1 := (x.setBank b v).bank1 } := by
  unfold Node.setBank
  split <;> rfl

/-- A write of a mode changes nothing but the modes. -/
theorem Node.setMode_eq (x : Node) (b : Nat) (m : Bool) :
    x.setMode b m = { x with mode0 := (x.setMode b m).mode0, mode1 := (x.setMode b m).mode1 } := by
  unfold Node.setMode
  split <;> rfl

@[simp] theorem Node.setBank_mode (x : Node) (b : Nat) (v : Tbl (BitVec 32)) (k : Nat) : (x.setBank b v).mode k = x.mode k := by
  rw [Node.setBank_eq]; rfl
@[simp] theorem Node.setBank_queue (x : Node) (b : Nat) (v : Tbl (BitVec 32)) : (x.setBank b v).queue = x.queue := by
  rw [Node.setBank_eq]
@[simp] theorem Node.setBank_done (x : Node) (b : Nat) (v : Tbl (BitVec 32)) : (x.setBank b v).done = x.done := by
  rw [Node.setBank_eq]
@[simp] theorem Node.setMode_bank (x : Node) (b : Nat) (m : Bool) (k : Nat) : (x.setMode b m).bank k = x.bank k := by
  rw [Node.setMode_eq]; rfl
@[simp] theorem Node.setMode_queue (x : Node) (b : Nat) (m : Bool) : (x.setMode b m).queue = x.queue := by
  rw [Node.setMode_eq]
@[simp] theorem Node.setMode_done (x : Node) (b : Nat) (m : Bool) : (x.setMode b m).done = x.done := by
  rw [Node.setMode_eq]

@[simp] theorem Node.complete_bank (x : Node) (i k : Nat) : (x.complete i).bank k = x.bank k := rfl
@[simp] theorem Node.complete_queue (x : Node) (i : Nat) : (x.complete i).queue = x.queue.eraseIdx i := rfl
@[simp] theorem Node.complete_done (x : Node) (i : Nat) : (x.complete i).done = x.done + 1 := rfl
@[simp] theorem Node.setCmd_bank (x : Node) (i : Nat) (c : Cmd) (k : Nat) : (x.setCmd i c).bank k = x.bank k := rfl

/-- The node with command i under way (10 R216). -/
def Node.start (x : Node) (i : Nat) : Node := { x with queue := x.queue.modify i (fun c => { c with started := true }) }

/-- The node with a bank cleared in a mode (10 R218). -/
def Node.clear (x : Node) (b : Nat) (m : Bool) : Node := (x.setBank b []).setMode b m

@[simp] theorem Node.clear_queue (x : Node) (b : Nat) (m : Bool) : (x.clear b m).queue = x.queue := by simp [Node.clear]
@[simp] theorem Node.clear_done (x : Node) (b : Nat) (m : Bool) : (x.clear b m).done = x.done := by simp [Node.clear]
@[simp] theorem Node.clear_mode_self (x : Node) (b : Nat) (m : Bool) : (x.clear b m).mode b = m := Node.mode_setMode_self ..
@[simp] theorem Node.clear_get (x : Node) (b : Nat) (m : Bool) (e : Nat) : Tbl.get 0 ((x.clear b m).bank b) e = 0 := by
  rw [Node.clear, Node.setMode_bank, Node.bank_setBank_self]; rfl
theorem Node.clear_mode_other (x : Node) {b : Nat} (hb : b < 2) (m : Bool) : (x.clear b m).mode (1 - b) = x.mode (1 - b) :=
  (Node.mode_setMode_other _ hb m).trans (x.setBank_mode ..)
theorem Node.clear_bank_other (x : Node) {b : Nat} (hb : b < 2) (m : Bool) : (x.clear b m).bank (1 - b) = x.bank (1 - b) :=
  (Node.setMode_bank ..).trans (x.bank_setBank_other hb [])

/-- A table that lists the values of f that are not the default, at the numbers of a list. -/
theorem Tbl.get_filterMap {α : Type} [DecidableEq α] (d : α) (f : Nat → α) (l : List Nat) (n : Nat) :
    Tbl.get d (l.filterMap (fun i => if f i = d then none else some (i, f i))) n = if n ∈ l then f n else d := by
  induction l with
  | nil => rfl
  | cons i l ih =>
    rw [List.filterMap_cons]
    by_cases hn : n = i
    · subst hn
      by_cases hd : f n = d <;> simp [hd, ih, Tbl.get]
    · by_cases hd : f i = d <;> simp [hd, hn, ih, Tbl.get]

/-- A bank that is rebuilt holds the new elements. -/
theorem get_bankBuild (f : Nat → BitVec 32) {e : Nat} (he : e < 6144) : Tbl.get 0 (bankBuild f) e = f e :=
  (Tbl.get_filterMap 0 f _ e).trans (if_pos (List.mem_range.mpr he))

/-! ### Writes of the node -/

@[simp] theorem State.updNode_node (s : State) (n : Nat) (f : Node → Node) :
    ((s.updNode n f).cset n).node = f (s.cset n).node := by
  rw [State.updNode, State.cset_updC]

theorem State.updNode_cset (s : State) (n : Nat) (f : Node → Node) :
    (s.updNode n f).cset n = { s.cset n with node := f (s.cset n).node } :=
  State.cset_updC ..

theorem State.updNode_onlyCell (s : State) (n : Nat) (f : Node → Node) : OnlyCell n s (s.updNode n f) := by
  unfold State.updNode State.updC
  exact OnlyCell.updCell ..

/-- A write of a tile's node changes nothing else. -/
theorem State.updNode_only (s : State) (n : Nat) (f : Node → Node) :
    s.updNode n f = s.updC n (fun c => { c with node := f (s.cset n).node }) :=
  State.updC_congr s n _ _ rfl

/-- A write of a tile's set depends on the set that it finds. -/
theorem State.updC_const (s : State) (n : Nat) (f : CSet → CSet) : s.updC n f = s.updC n (fun _ => f (s.cset n)) :=
  State.updC_congr s n _ _ rfl

@[simp] theorem State.event_cset (s : State) (j cause ukind unit : Nat) (tp0 tp1 tp2 : Word) (reach : Option Nat) (n : Nat) :
    (s.event j cause ukind unit tp0 tp1 tp2 reach).cset n = s.cset n := by
  rw [State.cset, State.event_cell]; rfl

/-- A token that leaves changes no tile's set. -/
@[simp] theorem State.emit_cset (s : State) (n kind : Nat) (x : Issue) (o : Nat) (t : Token) (k : Nat) :
    (s.emit n kind x o t).cset k = s.cset k := by
  unfold State.emit
  split
  · rfl
  · exact State.pushPacket_csetAt ..

@[simp] theorem CSet.deq_node (cs : CSet) (i : Nat) : (cs.deq i).node = cs.node :=
  (congrArg CSet.node (CSet.deq_same cs i)).trans rfl

/-! ### Flags (10 R220) -/

/-- The model's flags of a command are those of R220. -/
theorem State.nodeFlags_spec (v : State) (n i fl step : Nat) : NodeFlags v (v.nodeFlags n i fl step) n i fl step := by
  unfold NodeFlags State.nodeFlags
  intro cs m w c hc
  by_cases h0 : fl = 0
  · rw [if_pos h0, if_pos h0]
  · rw [if_neg h0, if_neg h0]
    dsimp only
    rw [show (v.cset n).node.queue[i]? = some c from hc]
    have htest : (cs.traps fl = 0 || c.trapped) = true ↔ m = 0 ∨ c.trapped = true := by rw [Bool.or_eq_true, decide_eq_true_eq]; rfl
    by_cases hm : m = 0 ∨ c.trapped = true
    · exact (if_pos (htest.mpr hm)).trans (if_pos hm).symm
    · refine (if_neg (mt htest.mp hm)).trans (Eq.trans ?_ (if_neg hm).symm)
      rw [State.tileEvent, show (w.issue n kindC).reach = cs.iss.reach from congrArg (fun c => c.iss.reach) (v.cset_updC n _)]
      rfl

/-- Flags change a node's queue alone, and of that only the command that they are of. -/
theorem State.nodeFlags_node (v : State) (n i fl step : Nat) :
    ∃ q, ((v.nodeFlags n i fl step).cset n).node = { (v.cset n).node with queue := q } ∧
      q.eraseIdx i = (v.cset n).node.queue.eraseIdx i := by
  unfold State.nodeFlags
  split
  · exact ⟨_, rfl, rfl⟩
  · dsimp only
    split
    case h_1 => exact ⟨_, by rw [State.cset_updC]; rfl, rfl⟩
    case h_2 c _ =>
      split
      · exact ⟨_, by rw [State.cset_updC]; rfl, rfl⟩
      · refine ⟨(v.cset n).node.queue.set i { c with trapped := true }, ?_, List.eraseIdx_set_eq⟩
        rw [State.updNode_node, State.tileEvent, State.event_cset, State.cset_updC]
        rfl

/-! ### How a command starts (10 R216) -/

section
variable {s : State} {n i : Nat} {w : Word}

theorem exec_mma_starts (h : s.startable n 0x51 w = some i) :
    exec (.mma n w) s = .next (s.updNode n (fun x =>
      (if mmaZero w then x.setBank (mBank w) [] else x).start i)) := by
  show execMma n w s = _
  rw [execMma, show s.startable n opMMA w = some i from h]
  rfl

theorem exec_mdrn_starts (h : s.startable n 0x52 w = some i) :
    exec (.mdrn n w) s = .next (s.updNode n (fun x => x.start i)) := by
  show execMdrn n w s = _
  rw [execMdrn, show s.startable n opMDRN w = some i from h]
  rfl

theorem exec_mclr_completes (h : s.startable n 0x53 w = some i) :
    exec (.mclr n w) s = .next (s.updNode n (fun x =>
      (x.clear (mBank w) (mclrMode w)).complete i)) := by
  show execMclr n w s = _
  rw [execMclr, show s.startable n opMCLR w = some i from h]
  rfl

theorem exec_mswp_completes (h : s.startable n 0x54 w = some i) :
    exec (.mswp n w) s = .next (s.updNode n (fun x =>
      { x with bank0 := x.bank1, bank1 := x.bank0, mode0 := x.mode1, mode1 := x.mode0 }.complete i)) := by
  show execMswp n w s = _
  rw [execMswp, show s.startable n opMSWP w = some i from h]

theorem exec_mldc_starts (h : s.startable n 0x55 w = some i) :
    exec (.mldc n w) s = .next (s.updNode n (fun x =>
      (if x.mode (mBank w) = mldcMode w then x else x.clear (mBank w) (mldcMode w)).start i)) := by
  show execMldc n w s = _
  rw [execMldc, show s.startable n opMLDC w = some i from h]
  rfl

end

end Sys2Proof.Machine

open Sys2Proof Sys2Proof.Machine in
/-- Settles O40: each command writes its tile's node alone, and the node it writes has the banks, modes and queue that are stated. -/
theorem matrixCommandsStart : Obligations.MatrixCommandsStart := by
  intro s n i w x b only started
  have hb : b < 2 := mBank_lt_two w
  refine ⟨fun h => ?mma, fun h => ?mdrn, fun h => ?mclr, fun h => ?mswp, fun h => ?mldc⟩
  case mma =>
    refine ⟨_, _, exec_mma_starts h, State.updNode_only .., ?_⟩
    split
    case isTrue hz =>
      refine ⟨?_, fun e => congrArg (Tbl.get 0 · e) (x.bank_setBank_self b []), x.bank_setBank_other hb []⟩
      rw [Node.start, Node.setBank_eq]
    case isFalse hz => exact ⟨rfl, fun _ => rfl, rfl⟩
  case mdrn => exact ⟨_, _, exec_mdrn_starts h, State.updNode_only .., rfl⟩
  case mclr =>
    exact ⟨_, _, exec_mclr_completes h, State.updNode_only .., x.clear_get b _, x.clear_mode_self b _, x.clear_bank_other hb _,
      x.clear_mode_other hb _, congrArg (List.eraseIdx · i) (x.clear_queue b _), congrArg (· + 1) (x.clear_done b _)⟩
  case mswp => exact ⟨_, _, exec_mswp_completes h, State.updNode_only .., rfl⟩
  case mldc =>
    refine ⟨_, _, exec_mldc_starts h, State.updNode_only .., ?_⟩
    split
    case isTrue hm => exact ⟨rfl, rfl, hm, rfl, fun _ => rfl, rfl⟩
    case isFalse hm =>
      exact ⟨congrArg (List.modify · i _) (x.clear_queue b _), x.clear_done b _, x.clear_mode_self b _, x.clear_mode_other hb _,
        x.clear_get b _, x.clear_bank_other hb _⟩

end

/-!
PROOF. The matrix node at work (10 R217 to R219): a group of an MMA and the bound on its operands, and the tokens that the bank port
drains and loads.
-/

section
namespace Sys2Proof.Machine

/-! ### A cycle of the array (10 R217, R219) -/

/-- What accumulator e takes from a group of g steps of an MMA, and its flags (04 R104, R105). -/
def Cmd.update (c : Cmd) (x : Node) (g e : Nat) : BitVec 32 × Nat :=
  (if x.mode (mBank c.tok) then accI32 else accF32) (Tbl.get 0 (x.bank (mBank c.tok)) e) (c.pairs g (e / 96) (e % 96))

/-- The flags of a group. -/
def Cmd.groupFlags (c : Cmd) (x : Node) (g : Nat) : Nat := (List.range 6144).foldl (fun f e => f ||| (c.update x g e).2) 0

/-- The node after a group of g steps, but for its flags. -/
def Node.addGroup (x : Node) (i g : Nat) (c : Cmd) : Node :=
  { (x.setBank (mBank c.tok) (bankBuild (fun e => (c.update x g e).1))).setCmd i
      { c with k := c.k + g, aEl := c.aEl.drop (64 * g), bEl := c.bEl.drop (96 * g) } with
    groups := x.groups + 1 }

/-- The bank takes the sums, the flags of all of them are raised, and the last group ends the command. -/
theorem State.accumulate_eq (s : State) (n i g : Nat) (c : Cmd) :
    let u := (s.updNode n (fun x => x.addGroup i g c)).nodeFlags n i (c.groupFlags (s.cset n).node g) c.k
    s.accumulate n i g c = if c.kEnd = some (c.k + g) then u.updNode n (fun x => x.complete i) else u := by
  unfold State.accumulate
  dsimp only
  rw [State.updNode_only s n (fun x => x.addGroup i g c), State.updNode_only s n]
  rfl

/-- The store takes elements that keep the stream within its steps, and beyond those only what log entry 15 lets it take. -/
theorem Cmd.storeTakes_bound {c : Cmd} {es : List Elem} {held cap : Nat} {other : Feed} {oh oc : Nat}
    (h : c.storeTakes es held cap other oh oc = true) :
    held + es.length ≤ cap ∨ (c.groupSize = none ∧ other.stops oh oc = true) := by
  simp only [Cmd.storeTakes, Bool.or_eq_true, Bool.and_eq_true, decide_eq_true_eq, Option.isNone_iff_eq_none] at h
  exact h.imp_right fun ⟨⟨_, hg⟩, hs⟩ => ⟨hg, hs⟩

section
variable {cs : CSet} {c : Cmd} {z : CSet × Cmd}

theorem CSet.takeA_bound (h : cs.takeA c = some z) :
    z.2.aEl.length ≤ 256 ∨ (c.groupSize = none ∧ (cs.feedB c).stops c.bEl.length 384 = true) := by
  unfold CSet.takeA at h
  split at h
  case h_1 =>
    split at h
    case isTrue => cases h
    case isFalse htakes =>
      cases h
      rw [Bool.not_eq_true', Bool.not_eq_false] at htakes
      exact (Cmd.storeTakes_bound htakes).imp_left List.length_append.trans_le
  case h_2 => cases h

theorem CSet.takeB_bound (h : cs.takeB c = some z) :
    z.2.bEl.length ≤ 384 ∨ (c.groupSize = none ∧ (cs.feedA c).stops c.aEl.length 256 = true) := by
  unfold CSet.takeB at h
  split at h
  case h_1 =>
    split at h
    case isTrue => cases h
    case isFalse htakes =>
      cases h
      rw [Bool.not_eq_true', Bool.not_eq_false] at htakes
      exact (Cmd.storeTakes_bound htakes).imp_left List.length_append.trans_le
  case h_2 => cases h

end

section
variable {s : State} {n i : Nat} {c : Cmd}

/-- A node that runs and is not held passes the first test of its two events. -/
theorem CSet.not_idle {cs : CSet} {held : Bool} (hrun : cs.nodeRuns = true) (hheld : held = false) :
    ¬ (!cs.nodeRuns || held) = true := by
  simp [hrun, hheld]

theorem exec_mmaGroup_group {g : Nat} (hrun : (s.cset n).nodeRuns = true) (hheld : s.nodeHeld n = false)
    (hc : (s.cset n).node.running (· == 0x51) = some (i, c)) (hg : c.groupSize = some g) :
    exec (.mmaGroup n) s = .next (s.accumulate n i g c) := by
  refine (if_neg (CSet.not_idle hrun hheld)).trans ?_
  rw [show (s.cset n).node.running (· == opMMA) = some (i, c) from hc]
  dsimp only
  rw [hg]

theorem exec_mmaGroup_takes (hrun : (s.cset n).nodeRuns = true) (hheld : s.nodeHeld n = false)
    (hc : (s.cset n).node.running (· == 0x51) = some (i, c)) (hg : c.groupSize = none) :
    let a := ((s.cset n).takeA c).getD (s.cset n, c)
    let b := (a.1.takeB a.2).getD a
    exec (.mmaGroup n) s = .next (s.updC n (fun _ => { b.1 with node := b.1.node.setCmd i b.2 })) := by
  refine (if_neg (CSet.not_idle hrun hheld)).trans ?_
  rw [show (s.cset n).node.running (· == opMMA) = some (i, c) from hc]
  dsimp only
  rw [hg]

/-! ### The bank port (10 R218, R219) -/

/-- The bank port moves a token of the drain or load that runs. -/
theorem exec_bankPortMove (hrun : (s.cset n).nodeRuns = true) (hheld : s.nodeHeld n = false)
    (hc : (s.cset n).node.running (fun o => o == 0x52 || o == 0x55) = some (i, c)) :
    exec (.bankPortMove n) s = .next (
      if mOp c.tok ≠ 0x52 then s.loadMove n i c
      else if (s.cset n).iss.run == .stopped then s
      else s.drainMove n i c) := by
  refine (if_neg (CSet.not_idle hrun hheld)).trans ?_
  rw [show (s.cset n).node.running (fun o => o == opMDRN || o == opMLDC) = some (i, c) from hc]
  rfl

end

/-- The first element that the next token of a drain carries, counted from the drain's first row. -/
def Cmd.drainFirst (c : Cmd) : Nat :=
  let l := lanesOf (mdrnFmt c.tok)
  let per := (96 + l - 1) / l
  if mRowtag c.tok then c.k / per * 96 + c.k % per * l else c.k * l

/-- The end of the elements that it may carry: its row's, or the last row's. -/
def Cmd.drainStop (c : Cmd) : Nat :=
  let l := lanesOf (mdrnFmt c.tok)
  let per := (96 + l - 1) / l
  if mRowtag c.tok then c.k / per * 96 + 96 else mCount c.tok * 96

/-- The number of tokens of a drain. -/
def Cmd.drainTotal (c : Cmd) : Nat :=
  let l := lanesOf (mdrnFmt c.tok)
  let per := (96 + l - 1) / l
  if mRowtag c.tok then mCount c.tok * per else (mCount c.tok * 96 + l - 1) / l

/-- Lane j of the next token of a drain, and its flags. -/
def Cmd.drainLane (c : Cmd) (cs : CSet) (j : Nat) : Nat × Nat :=
  if c.drainFirst + j < c.drainStop then
    drainElem (cs.node.mode (mBank c.tok)) (mdrnFmt c.tok) cs.rmode.toNat cs.sat
      (Tbl.get 0 (cs.node.bank (mBank c.tok)) (mFirst c.tok * 96 + c.drainFirst + j))
  else (0, 0)

/-- The tag of the next token of a drain: the last one's, a row's last one's, or none. -/
def Cmd.drainTag (c : Cmd) : BitVec 2 :=
  let l := lanesOf (mdrnFmt c.tok)
  let per := (96 + l - 1) / l
  if c.k + 1 = c.drainTotal then 3 else if mRowtag c.tok ∧ (c.k + 1) % per = 0 then 1 else 0

/-- What a drain leaves in the cell before its flags: the token on its output and one more token counted. -/
def State.drained (s : State) (n i : Nat) (c : Cmd) : State :=
  let cs := s.cset n
  let f := mdrnFmt c.tok
  (s.emit n 0 cs.iss (mChan c.tok)
    ⟨.data, BitVec.ofNat 3 f, 0, c.drainTag, packLanes (elemBits f) ((List.range (lanesOf f)).map (fun j => (c.drainLane cs j).1))⟩
    ).updNode n (fun x => x.setCmd i { c with k := c.k + 1 })

theorem State.drained_node (s : State) (n i : Nat) (c : Cmd) :
    ((s.drained n i c).cset n).node = (s.cset n).node.setCmd i { c with k := c.k + 1 } := by
  rw [State.drained, State.updNode_node, State.emit_cset]

/-- The flags of the next token of a drain. -/
def Cmd.drainFlags (c : Cmd) (cs : CSet) : Nat :=
  (List.range (lanesOf (mdrnFmt c.tok))).foldl (fun f j => f ||| (c.drainLane cs j).2) 0

/-- The node after the last token of a drain: the rows are zeroed where the drain asks for it, and the drain is complete. -/
def Node.endDrain (x : Node) (i : Nat) (w : Word) : Node :=
  (if mdrnZero w then
    x.setBank (mBank w) ((x.bank (mBank w)).filter (fun e => e.1 < mFirst w * 96 || mFirst w * 96 + mCount w * 96 ≤ e.1))
  else x).complete i

theorem Node.endDrain_queue (x : Node) (i : Nat) (w : Word) : (x.endDrain i w).queue = x.queue.eraseIdx i := by
  unfold Node.endDrain
  split <;> simp

theorem Node.endDrain_done (x : Node) (i : Nat) (w : Word) : (x.endDrain i w).done = x.done + 1 := by
  unfold Node.endDrain
  split <;> simp

theorem Node.endDrain_bank_other (x : Node) (i : Nat) (w : Word) :
    (x.endDrain i w).bank (1 - mBank w) = x.bank (1 - mBank w) := by
  unfold Node.endDrain
  split
  · exact x.bank_setBank_other (mBank_lt_two w) _
  · rfl

/-- The rows that the drain zeroes, and the others. -/
theorem Node.endDrain_get (x : Node) (i : Nat) (w : Word) (e : Nat) :
    Tbl.get 0 ((x.endDrain i w).bank (mBank w)) e =
      if mdrnZero w ∧ mFirst w * 96 ≤ e ∧ e < mFirst w * 96 + mCount w * 96 then 0 else Tbl.get 0 (x.bank (mBank w)) e := by
  unfold Node.endDrain
  split
  case isTrue hz =>
    rw [Node.complete_bank, Node.bank_setBank_self,
      Tbl.get_filter_key 0 (fun k => k < mFirst w * 96 || mFirst w * 96 + mCount w * 96 ≤ k)]
    by_cases hin : mFirst w * 96 ≤ e ∧ e < mFirst w * 96 + mCount w * 96
    · exact (if_neg (by simpa using hin)).trans (if_pos ⟨hz, hin⟩).symm
    · refine (if_pos ?_).trans (if_neg (fun h => hin h.2)).symm
      simp only [Bool.or_eq_true, decide_eq_true_eq]
      omega
  case isFalse hz => exact (if_neg (fun h => hz h.1)).symm

/-- A drain with a free output moves one token, and ends after its last. -/
theorem State.drainMove_free {s : State} {n : Nat} {c : Cmd} (i : Nat)
    (hfree : (s.cell n).routeFree 4 (vget none (s.cset n).iss.routes (mChan c.tok)) = true) :
    let u := (s.drained n i c).nodeFlags n i (c.drainFlags (s.cset n)) (mFirst c.tok + c.drainFirst / 96)
    s.drainMove n i c = if c.k + 1 = c.drainTotal then u.updNode n (fun x => x.endDrain i c.tok) else u := by
  unfold State.drainMove
  rw [if_neg (by simp [portC, hfree])]
  simp only [List.map_map, List.foldl_map, beq_iff_eq, Bool.and_eq_true, Function.comp_def]
  rfl

/-- The number of elements that a load takes from a token of len lanes. -/
def Cmd.loadCount (c : Cmd) (len : Nat) : Nat :=
  if mRowtag c.tok then min (96 - c.k % 96) len else min (mCount c.tok * 96 - c.k) len

/-- The flags of the elements that a load takes. -/
def Cmd.loadFlags (c : Cmd) (es : List Elem) : Nat :=
  (es.take (c.loadCount es.length)).foldl (fun f e => f ||| (loadElem (mldcMode c.tok) e).2) 0

/-- The bank after a token of a load: its elements fill the next places of the rows. -/
def Cmd.filledBank (c : Cmd) (x : Node) (es : List Elem) : Tbl (BitVec 32) :=
  let base := mFirst c.tok * 96 + c.k
  let vs := (es.take (c.loadCount es.length)).map (loadElem (mldcMode c.tok))
  bankBuild (fun e =>
    if base ≤ e && e < base + c.loadCount es.length then (vs.getD (e - base) (0, 0)).1 else Tbl.get 0 (x.bank (mBank c.tok)) e)

/-- The node after a token of a load, but for its flags. -/
def Node.fill (x : Node) (i : Nat) (c : Cmd) (es : List Elem) : Node :=
  (x.setBank (mBank c.tok) (c.filledBank x es)).setCmd i { c with k := c.k + c.loadCount es.length }

/-- A load has taken a token k: it is gone from its channel, and its elements are in the bank. -/
def State.filled (s : State) (n i : Nat) (c : Cmd) (k : Token) : State :=
  s.updC n (fun d => { d.deq (mChan c.tok) with node := d.node.fill i c ((s.cset n).elems k) })

theorem State.filled_eq (s : State) (n i : Nat) (c : Cmd) (k : Token) :
    s.filled n i c k = s.updC n (fun _ =>
      { (s.cset n).deq (mChan c.tok) with node := (s.cset n).node.fill i c ((s.cset n).elems k) }) := State.updC_const ..

theorem State.filled_cset (s : State) (n i : Nat) (c : Cmd) (k : Token) :
    (s.filled n i c k).cset n =
      { (s.cset n).deq (mChan c.tok) with node := (s.cset n).node.fill i c ((s.cset n).elems k) } := State.cset_updC ..

theorem State.filled_onlyCell (s : State) (n i : Nat) (c : Cmd) (k : Token) : OnlyCell n s (s.filled n i c k) := by
  unfold State.filled State.updC
  exact OnlyCell.updCell ..

theorem Cmd.loadCount_le (c : Cmd) (len : Nat) : c.loadCount len ≤ len := by
  unfold Cmd.loadCount
  split <;> exact Nat.min_le_right ..

/-- The places that a token fills, and the others. -/
theorem Node.fill_get (x : Node) (i : Nat) (c : Cmd) (es : List Elem) (z : Elem) {e : Nat} (he : e < 6144) :
    let base := mFirst c.tok * 96 + c.k
    Tbl.get 0 ((x.fill i c es).bank (mBank c.tok)) e =
      if base ≤ e ∧ e < base + c.loadCount es.length then (loadElem (mldcMode c.tok) (es.getD (e - base) z)).1
      else Tbl.get 0 (x.bank (mBank c.tok)) e := by
  intro base
  rw [Node.fill, Node.setCmd_bank, Node.bank_setBank_self, Cmd.filledBank, get_bankBuild _ he]
  by_cases h : base ≤ e ∧ e < base + c.loadCount es.length
  · have hm : e - base < c.loadCount es.length := by omega
    have hl : e - base < es.length := hm.trans_le (c.loadCount_le _)
    rw [if_pos h, if_pos (by simpa using h), List.getD_eq_getElem _ _ hl, List.getD_eq_getElem _ _ (by simpa using ⟨hm, hl⟩),
      List.getElem_map, List.getElem_take]
  · rw [if_neg h, if_neg (by simpa using h)]

/-- A load with a token at hand fills its places, raises the flags of the elements, and ends after its last. -/
theorem State.loadMove_head {s : State} {n : Nat} {c : Cmd} {k : Token} (i : Nat) (hk : (s.cset n).head (mChan c.tok) = some k) :
    let es := (s.cset n).elems k
    let u := (s.filled n i c k).nodeFlags n i (c.loadFlags es) (mFirst c.tok + c.k / 96)
    s.loadMove n i c = if c.k + c.loadCount es.length = mCount c.tok * 96 then u.updNode n (fun x => x.complete i) else u := by
  unfold State.loadMove
  dsimp only
  rw [hk]
  dsimp only
  rw [State.updC_const s n, CSet.deq_node, List.foldl_map, State.filled_eq]
  rfl

section
variable {s : State} {n i : Nat} {c : Cmd} (hrun : (s.cset n).nodeRuns = true) (hheld : s.nodeHeld n = false)
  (hc : (s.cset n).node.running (fun o => o == 0x52 || o == 0x55) = some (i, c))
include hrun hheld hc

theorem exec_bankPortMove_drain (hop : mOp c.tok = 0x52) (hstop : (s.cset n).iss.run ≠ .stopped)
    (hfree : (s.cell n).routeFree 4 (vget none (s.cset n).iss.routes (mChan c.tok)) = true) :
    let u := (s.drained n i c).nodeFlags n i (c.drainFlags (s.cset n)) (mFirst c.tok + c.drainFirst / 96)
    exec (.bankPortMove n) s = .next (if c.k + 1 = c.drainTotal then u.updNode n (fun x => x.endDrain i c.tok) else u) := by
  rw [exec_bankPortMove hrun hheld hc, if_neg (not_not.mpr hop), if_neg (by simpa using hstop), State.drainMove_free i hfree]

theorem exec_bankPortMove_stopped (hop : mOp c.tok = 0x52) (hstop : (s.cset n).iss.run = .stopped) :
    exec (.bankPortMove n) s = .next s := by
  rw [exec_bankPortMove hrun hheld hc, if_neg (not_not.mpr hop), if_pos (beq_iff_eq.mpr hstop)]

theorem exec_bankPortMove_load (hop : mOp c.tok = 0x55) {k : Token} (hk : (s.cset n).head (mChan c.tok) = some k) :
    let es := (s.cset n).elems k
    let u := (s.filled n i c k).nodeFlags n i (c.loadFlags es) (mFirst c.tok + c.k / 96)
    exec (.bankPortMove n) s = .next
      (if c.k + c.loadCount es.length = mCount c.tok * 96 then u.updNode n (fun x => x.complete i) else u) := by
  rw [exec_bankPortMove hrun hheld hc, if_pos (by rw [hop]; decide), State.loadMove_head i hk]

end

end Sys2Proof.Machine

open Sys2Proof Sys2Proof.Machine in
/-- Settles O41: a group is one `accumulate`, whose bank and flags are those of the products; the store bounds what is taken. -/
theorem matrixAccumulates : Obligations.MatrixAccumulates := by
  intro s n i c cs x b hrun hheld hc
  have hb : b < 2 := mBank_lt_two c.tok
  refine ⟨fun g hg => ?group, fun z => CSet.takeA_bound, fun z => CSet.takeB_bound,
    fun hg => ⟨_, exec_mmaGroup_takes hrun hheld hc hg, rfl⟩⟩
  case group =>
    refine ⟨_, (s.updNode n (fun x => x.addGroup i g c)).nodeFlags n i (c.groupFlags x g) c.k, s.updNode n (fun x => x.addGroup i g c),
      exec_mmaGroup_group hrun hheld hc hg, s.updNode_onlyCell n _, ?_⟩
    rw [State.updNode_cset]
    refine ⟨fun e he => ?sums, rfl, x.bank_setBank_other hb _, rfl, x.setBank_mode b _ 0, x.setBank_mode b _ 1, x.setBank_done b _,
      congrArg (List.set · i _) (x.setBank_queue b _), State.nodeFlags_spec _ n i _ _, State.accumulate_eq ..⟩
    exact (congrArg (Tbl.get 0 · e) (x.bank_setBank_self b _)).trans (get_bankBuild _ he)

open Sys2Proof Sys2Proof.Machine in
/-- Settles O42: a drain's move is one token, its flags and, after the last one, the end of the drain; a load's fills its places. -/
theorem bankPortMoves : Obligations.BankPortMoves := by
  intro s n i c cs x w b hrun hheld hc
  have hb : b < 2 := mBank_lt_two w
  refine ⟨fun hop hrun' hfree => ?drain, fun hop hstop => ?stopped, fun hop k hk => ?load⟩
  case drain =>
    intro l rows per first stop total lane tag
    refine ⟨_, (s.drained n i c).nodeFlags n i (c.drainFlags cs) (mFirst w + c.drainFirst / 96),
      exec_bankPortMove_drain hrun hheld hc hop hrun' hfree, State.nodeFlags_spec _ n i _ _, fun h => if_neg h, fun h => ?last⟩
    rw [if_pos (show c.k + 1 = c.drainTotal from h), State.updNode_node]
    obtain ⟨q, hnode, hq⟩ := (s.drained n i c).nodeFlags_node n i (c.drainFlags cs) (mFirst w + c.drainFirst / 96)
    rw [State.drained_node] at hnode hq
    rw [hnode]
    refine ⟨(State.updNode_only ..).trans (by rw [hnode]), (Node.endDrain_queue ..).trans (hq.trans List.eraseIdx_set_eq),
      Node.endDrain_done .., Node.endDrain_bank_other .., Node.endDrain_get _ i w⟩
  case stopped => exact exec_bankPortMove_stopped hrun hheld hc hop hstop
  case load =>
    refine ⟨_, (s.filled n i c k).nodeFlags n i (c.loadFlags (cs.elems k)) (mFirst w + c.k / 96), s.filled n i c k,
      exec_bankPortMove_load hrun hheld hc hop hk, s.filled_onlyCell n i c k, ?_⟩
    intro es m base y
    have hy : y = x.fill i c es := congrArg CSet.node (s.filled_cset n i c k)
    refine ⟨(s.filled_cset n i c k).trans (by rw [hy]), ?_, ?_, ?_, ?_, State.nodeFlags_spec _ n i _ _, rfl⟩
    all_goals rw [hy]
    · exact x.bank_setBank_other hb _
    · exact x.setBank_done b _
    · exact fun e he => x.fill_get i c es _ he
    · exact congrArg (List.set · i _) (x.setBank_queue b _)

end

/-!
PROOF. Templates of the address generator (11 R227): addresses and marks as sums over the counter values, and the step of the
counter chain.
-/

section
namespace Sys2Proof.Machine

/-- Products added one by one to a start are the start and their sum. -/
theorem foldl_add_ofInt {w : Nat} (f : Nat → BitVec w) (g : Nat → Int) (l : List Nat) (h : ∀ j ∈ l, f j = BitVec.ofInt w (g j))
    (b : BitVec w) : l.foldl (fun a j => a + f j) b = b + BitVec.ofInt w (l.map g).sum := by
  induction l generalizing b with
  | nil => simp
  | cons j l ih =>
    rw [List.foldl_cons, ih (fun k hk => h k (List.mem_cons_of_mem _ hk)), h j List.mem_cons_self, List.map_cons, List.sum_cons,
      BitVec.ofInt_add, BitVec.add_assoc]

/-- A signed stride times an unsigned counter value (11 R227). -/
theorem signExtend_mul_setWidth {n : Nat} (m : Nat) (a : BitVec n) (k : BitVec 32) :
    a.signExtend m * k.setWidth m = BitVec.ofInt m (a.toInt * k.toNat) := by
  rw [signExtend_eq_ofInt, setWidth_eq_ofNat, BitVec.ofInt_mul, BitVec.ofInt_natCast]

/-- The counter values that a request uses: an index stands for k7 (11 R227). -/
def Issue.kvOf (x : Issue) : Option (BitVec 32) → Vector (BitVec 32) 8
  | some i => vset x.kv 7 i
  | none => x.kv

theorem Issue.vget_kv (x : Issue) {j : Nat} (hj : j < 8) : vget 0 x.kv j = (x.counter j).val := by
  simp [Issue.kv, Issue.counter, vget, Vector.getD, hj]

theorem Issue.vget_kvOf_none (x : Issue) {j : Nat} (hj : j < 8) : vget 0 (x.kvOf none) j = (x.counter j).val := x.vget_kv hj

theorem Issue.vget_kvOf_some (x : Issue) (i : BitVec 32) {j : Nat} (hj : j < 8) :
    vget 0 (x.kvOf (some i)) j = if j = 7 then i else (x.counter j).val := by
  rw [Issue.kvOf]
  split_ifs with h
  · rw [h, vget_vset_self _ _ _ _ (by decide)]
  · rw [vget_vset_of_ne _ _ _ h, x.vget_kv hj]

section
variable (t : Template) {kv : Vector (BitVec 32) 8} {k : Nat → BitVec 32} (h : ∀ j, j < 8 → vget 0 kv j = k j)
include h

/-- The sum of strides and counter values from a base. -/
theorem Template.addrSum (base : Word) :
    (List.range 8).foldl (fun (a : Word) j => a + (vget 0 t.stride j).signExtend 64 * (vget 0 kv j).setWidth 64) base =
      base + BitVec.ofInt 64 ((List.range 8).map (fun j => (vget 0 t.stride j).toInt * (k j).toNat)).sum :=
  foldl_add_ofInt _ _ _ (fun j hj => by rw [h j (List.mem_range.mp hj), signExtend_mul_setWidth]) base

theorem Template.addrOf_virt (base : Word) (hs : t.space = .virt) : t.addrOf base kv =
    (base + BitVec.ofInt 64 ((List.range 8).map (fun j => (vget 0 t.stride j).toInt * (k j).toNat)).sum) &&& 0xFFFFFFFFFFFFF#64 := by
  rw [Template.addrOf, t.addrSum h, hs]

theorem Template.addrOf_of_ne_virt (base : Word) (hs : t.space ≠ .virt) : t.addrOf base kv =
    base + BitVec.ofInt 64 ((List.range 8).map (fun j => (vget 0 t.stride j).toInt * (k j).toNat)).sum := by
  rw [Template.addrOf, t.addrSum h]
  cases e : t.space with
  | virt => exact absurd e hs
  | stream => rfl
  | sram => rfl

theorem Template.markOf_eq : t.markOf kv =
    t.mark0 + BitVec.ofInt 32 ((List.range 8).map (fun j => (vget 0 t.mstep j).toInt * (k j).toNat)).sum :=
  foldl_add_ofInt _ _ _ (fun j hj => by
    rw [h j (List.mem_range.mp hj), ← signExtend_mul_setWidth, BitVec.setWidth_eq]) _

end

section
variable (t : Template) (x : Issue) (idx : Option (BitVec 32))

theorem Template.issue_addr : (t.issue x idx).addr = t.addrOf (t.base x) (x.kvOf idx) := by cases idx <;> rfl
theorem Template.issue_mark : (t.issue x idx).mark = t.markOf (x.kvOf idx) := by cases idx <;> rfl

/-- A template with a step counter steps its chain; the wraps of the chain give the tag (11 R227). -/
theorem Template.issue_steps {j : Nat} (h : t.stepCounter idx.isSome = some j) :
    (t.issue x idx).iss = (x.stepCtr 8 j).1 ∧ (t.issue x idx).carry = (x.stepCtr 8 j).2 ∧
      (t.issue x idx).tag = if (x.stepCtr 8 j).2 then 3 else if 2 ≤ x.wraps 8 j then 2 else if x.wraps 8 j = 1 then 1 else 0 := by
  simp only [Template.issue, h, and_self]

/-- A template without one steps nothing. -/
theorem Template.issue_stays (h : t.stepCounter idx.isSome = none) :
    (t.issue x idx).iss = x ∧ (t.issue x idx).carry = true ∧ (t.issue x idx).tag = 3 := by
  simp only [Template.issue, h, if_true, and_self]

end

end Sys2Proof.Machine

open Sys2Proof Sys2Proof.Machine in
/-- Settles O45: the values used are the counters', with the index in the place of k7; address and mark are sums over them. -/
theorem templateAddresses : Obligations.TemplateAddresses := by
  intro t x idx c k sum marks
  have hk (j : Nat) (hj : j < 8) : vget 0 (x.kvOf idx) j = k j := by
    cases idx with
    | none => exact x.vget_kvOf_none hj
    | some i => exact x.vget_kvOf_some i hj
  exact ⟨fun hs => (t.issue_addr x idx).trans (t.addrOf_of_ne_virt hk _ hs), fun hs => (t.issue_addr x idx).trans (t.addrOf_virt hk _ hs),
    (t.issue_mark x idx).trans (t.markOf_eq hk), fun j h => t.issue_steps x idx h, fun h => t.issue_stays x idx h⟩

end

/-!
PROOF. The request rules of the address generator (11 R227 to R234): what an accepted request leaves in its set and on the walks, and
that each opcode offers one.
-/

section
namespace Sys2Proof.Machine

/-! ### A step of a counter chain is one of the counters alone -/

@[simp] theorem Issue.stepCtr_reach (fuel : Nat) : ∀ (x : Issue) (n : Nat), (x.stepCtr fuel n).1.reach = x.reach := by
  induction fuel with
  | zero => intro x n; rfl
  | succ fuel ih =>
    intro x n
    simp only [Issue.stepCtr]
    split_ifs <;> simp only [ih] <;> rfl

@[simp] theorem Template.issue_reach (t : Template) (x : Issue) (idx : Option (BitVec 32)) : (t.issue x idx).iss.reach = x.reach := by
  cases h : t.stepCounter idx.isSome with
  | none => rw [(t.issue_stays x idx h).1]
  | some j => rw [(t.issue_steps x idx h).1, Issue.stepCtr_reach]

/-! ### What acceptance leaves -/

/-- The template of a set after a change of one. -/
theorem ASet.tmpl_setTmpl (a : ASet) {g k : Nat} (hk : k < 4) (f : Template → Template) :
    (a.setTmpl g f).tmpl k = if k = g then f (a.tmpl g) else a.tmpl k := by
  unfold ASet.tmpl ASet.setTmpl
  split_ifs with h
  · subst h; exact vget_vset_self _ _ _ _ hk
  · exact vget_vset_of_ne _ _ _ h

theorem ASet.countWrite_eq (a : ASet) : a.countWrite = { a with phases := a.countWrite.phases } := by
  unfold ASet.countWrite
  split_ifs <;> rfl

/-- A write is counted by the phases and the number of the open one alone. -/
theorem ASet.countWrite_phases {a b : ASet} (hp : b.phases = a.phases) (hn : b.phase = a.phase) :
    b.countWrite.phases = a.countWrite.phases := by
  unfold ASet.countWrite
  rw [hp, hn]
  split_ifs <;> rfl

/-- The set after it has accepted a request that steps the template as c says (11 R227, R228, R235, 12 R260). -/
def ASet.accepted (a : ASet) (q : Req) (c : Issued) (t : Template) (miss write : Bool) : ASet :=
  let a := a.numbered q.g c
  let a := { a with q := a.q ++ [if miss then { q with stage := .walking, counted := true } else q], nextId := q.id }
  let a := if miss then a.setTmpl q.g (fun t => { t with issued := t.issued + 1 }) else a
  let a := if write then a.countWrite else a
  if q.marked then { a with xfers := a.xfers ++ [⟨q.g, q.reqno, q.mark, t.mcell, t.mctr, write, none⟩] } else a

section
variable (a : ASet) (q : Req) (c : Issued) (t : Template) (miss write : Bool)

theorem ASet.accepted_eq : a.accepted q c t miss write = { a with
    iss := c.iss, q := a.q ++ [if miss then { q with stage := .walking, counted := true } else q], nextId := q.id
    tm := (a.accepted q c t miss write).tm, xfers := (a.accepted q c t miss write).xfers
    phases := (a.accepted q c t miss write).phases } := by
  unfold ASet.accepted
  dsimp only
  rw [ASet.countWrite_eq]
  cases miss <;> cases write <;> cases q.marked <;> rfl

theorem ASet.accepted_tmpl {k : Nat} (hk : k < 4) : (a.accepted q c t miss write).tmpl k =
    if k = q.g then { a.tmpl q.g with reqno := (a.tmpl q.g).reqno + 1, issued := if miss then (a.tmpl q.g).issued + 1 else (a.tmpl q.g).issued }
    else a.tmpl k := by
  have htm : (a.accepted q c t miss write).tm = (if miss then
      (a.setTmpl q.g (fun t => { t with reqno := t.reqno + 1 })).setTmpl q.g (fun t => { t with issued := t.issued + 1 })
      else a.setTmpl q.g (fun t => { t with reqno := t.reqno + 1 })).tm := by
    unfold ASet.accepted
    dsimp only
    rw [ASet.countWrite_eq]
    cases miss <;> cases write <;> cases q.marked <;> rfl
  rw [ASet.tmpl, htm]
  change ASet.tmpl _ k = _
  by_cases hkg : k = q.g
  · subst hkg
    cases miss <;> simp [ASet.tmpl_setTmpl _ hk]
  · cases miss <;> simp [ASet.tmpl_setTmpl _ hk, hkg]

theorem ASet.accepted_xfers : (a.accepted q c t miss write).xfers =
    if q.marked then a.xfers ++ [⟨q.g, q.reqno, q.mark, t.mcell, t.mctr, write, none⟩] else a.xfers := by
  unfold ASet.accepted
  dsimp only
  rw [ASet.countWrite_eq]
  cases miss <;> cases write <;> cases q.marked <;> rfl

theorem ASet.accepted_phases : (a.accepted q c t miss write).phases = if write then a.countWrite.phases else a.phases := by
  have count (b : ASet) (h : b.phases = a.phases ∧ b.phase = a.phase) :
      (if write then b.countWrite else b).phases = if write then a.countWrite.phases else a.phases := by
    cases write
    · exact h.1
    · exact ASet.countWrite_phases h.1 h.2
  unfold ASet.accepted
  dsimp only
  rw [apply_ite ASet.phases, ite_self]
  exact count _ (by cases miss <;> exact ⟨rfl, rfl⟩)

end

@[simp] theorem State.joinWalk_aset (s : State) (n j page : Nat) (half : Bool) (id k : Nat) :
    (s.joinWalk n j page half id).aset k = s.aset k := by
  unfold State.joinWalk
  dsimp only
  split_ifs <;> rfl

/-- A set written twice holds what the second write leaves. -/
theorem State.updA_const (s : State) (n : Nat) (f : ASet → ASet) : s.updA n f = s.updA n (fun _ => f (s.aset n)) := rfl

section
variable (s : State)

theorem State.accept_eq (n : Nat) (q : Req) (c : Issued) (t : Template) (miss write : Bool) (hc : c.iss.reach = (s.aset n).iss.reach) :
    s.accept n q c t miss write = (if miss then
      (s.updA n (fun a => a.accepted q c t miss write)).joinWalk n (s.reachJob (s.aset n).iss.reach) (q.addr / 4096) false q.id
      else s.updA n (fun a => a.accepted q c t miss write)) := by
  have hr : ((s.updA n (fun a => a.accepted q c t miss write)).aset n).iss.reach = (s.aset n).iss.reach := by
    rw [State.updA_aset, ASet.accepted_eq]; exact hc
  cases miss
  · rfl
  · rw [← hr]; rfl

/-- The state that accepts a request has it in the queue (11 R227, R228). -/
theorem State.accept_queued {q : Req} {c : Issued} (miss write : Bool) (hc : c.iss.reach = (s.aset s.focus.cell).iss.reach)
    (hid : q.id = (s.aset s.focus.cell).nextId + 1) :
    RequestQueued s (s.accept s.focus.cell q c ((s.aset s.focus.cell).tmpl q.g) miss write) q.g c q write miss := by
  have hb : (s.accept s.focus.cell q c ((s.aset s.focus.cell).tmpl q.g) miss write).aset s.focus.cell =
      (s.aset s.focus.cell).accepted q c ((s.aset s.focus.cell).tmpl q.g) miss write := by
    rw [State.accept_eq s _ _ _ _ _ _ hc]
    cases miss <;> simp
  unfold RequestQueued
  dsimp only
  rw [hb]
  refine ⟨State.accept_eq s _ _ _ _ _ _ hc, ?_, fun k hk => ASet.accepted_tmpl _ _ _ _ _ _ hk, ASet.accepted_xfers .., ASet.accepted_phases ..⟩
  rw [← hid]
  exact ASet.accepted_eq ..

end

/-! ### What the checks of a space let through -/

/-- A reduce-store that finds a sparse-update port takes a sequence number (11 R246). -/
def State.takesNumber (s : State) (n : Nat) (a : ASet) (t : Template) (addr : Word) (u : PortUse) : Prop :=
  u = .reduce ∧ t.space = .sram ∧ ∃ d off, s.checkS n a t.homePort addr u = .ok d off ∧ (s.port d t.homePort).role = 6

section
variable {s : State} {q : Req} {c : Issued} {t : Template} {u : PortUse} {miss : Bool} (write : Bool)

theorem State.request_accepts (h : s.Accepts t c.addr q.kind.access u miss)
    (hs : ¬ s.takesNumber s.focus.cell (s.aset s.focus.cell) t c.addr u) :
    s.request s.focus.cell (s.aset s.focus.cell) q c t u write = (s, .fire (s.accept s.focus.cell q c t miss write) c.carry none) := by
  unfold State.Accepts at h
  unfold State.request
  cases e : t.space <;> rw [e] at h <;> dsimp only at h ⊢
  case stream => rw [h]
  case virt =>
    rw [h]
    cases miss <;> rfl
  case sram =>
    obtain ⟨rfl, d, off, hd⟩ := h
    have hn : (u == .reduce && (s.port d t.homePort).role == 0x06) = false := by
      rw [Bool.and_eq_false_iff, beq_eq_false_iff_ne, beq_eq_false_iff_ne, ← not_and_or]
      exact fun ⟨hu, hr⟩ => hs ⟨hu, e, d, off, hd, hr⟩
    simp only [hd, hn, Bool.false_eq_true, if_false]

theorem State.request_numbered (hsp : t.space = .sram) {d off : Nat}
    (hd : s.checkS s.focus.cell (s.aset s.focus.cell) t.homePort c.addr .reduce = .ok d off) (hr : (s.port d t.homePort).role = 6) :
    s.request s.focus.cell (s.aset s.focus.cell) q c t .reduce write =
      (s, .fire (s.accept s.focus.cell { q with seq := some 0 } c t false write) c.carry none) := by
  simp only [State.request, hsp, hd, hr, beq_self_eq_true, Bool.and_self, if_true]

/-- A body that offers an acceptance fires with the request in the queue. -/
theorem State.fireA_accepts {r : Rule} (h : s.RuleReadyA r) {body : State → Nat → ASet → State × Offer} {cond : Bool}
    (hc : c.iss.reach = (s.aset s.focus.cell).iss.reach) (hid : q.id = (s.aset s.focus.cell).nextId + 1)
    (e : body s s.focus.cell (s.aset s.focus.cell) =
      (s, .fire (s.accept s.focus.cell q c ((s.aset s.focus.cell).tmpl q.g) miss write) cond none)) :
    ∃ v u, s.fireA r body = .next v ∧ RequestQueued s u q.g c q write miss ∧ RuleFiresA s u v r cond := by
  obtain ⟨v, hx, hf⟩ := State.fireA_fires h e
  exact ⟨v, _, hx, s.accept_queued miss write hc hid, hf⟩

/-- A body that offers a request which its space accepts fires with the request in the queue. -/
theorem State.fireA_requests {r : Rule} (h : s.RuleReadyA r) {body : State → Nat → ASet → State × Offer}
    (hc : c.iss.reach = (s.aset s.focus.cell).iss.reach) (hid : q.id = (s.aset s.focus.cell).nextId + 1)
    (ha : s.Accepts ((s.aset s.focus.cell).tmpl q.g) c.addr q.kind.access u miss)
    (hs : ¬ s.takesNumber s.focus.cell (s.aset s.focus.cell) ((s.aset s.focus.cell).tmpl q.g) c.addr u)
    (e : body s s.focus.cell (s.aset s.focus.cell) =
      s.request s.focus.cell (s.aset s.focus.cell) q c ((s.aset s.focus.cell).tmpl q.g) u write) :
    ∃ v u, s.fireA r body = .next v ∧ RequestQueued s u q.g c q write miss ∧ RuleFiresA s u v r c.carry :=
  State.fireA_accepts write h hc hid (e.trans (State.request_accepts write ha hs))

end

/-! ### The requests of the opcodes -/

/-- The request of ISSW and SCTW (11 R232). -/
def ASet.writeReq (a : ASet) (r : Rule) (c : Issued) : Req :=
  { a.newReq (tmplOf r.srcB) .write (a.tmpl (tmplOf r.srcB)) c with tok := a.data r }

/-- The request of S2S (11 R233). -/
def ASet.s2sReq (a : ASet) (r : Rule) (c : Issued) : Req :=
  { a.newReq (tmplOf r.srcB) .s2s (a.tmpl (tmplOf r.srcB)) c with tok := a.data r }

/-- The address of the write half of CPY (11 R233). -/
def ASet.copyAddr (a : ASet) (r : Rule) (c : Issued) : Word :=
  (a.tmpl (tmplOf r.srcB + 1)).addrOf ((a.tmpl (tmplOf r.srcB + 1)).base a.iss) c.kv

/-- The request of CPY (11 R233). -/
def ASet.copyReq (a : ASet) (r : Rule) (c : Issued) : Req :=
  { a.newReq (tmplOf r.srcB) .cpy (a.tmpl (tmplOf r.srcB)) c with
    wg := tmplOf r.srcB + 1, waddr := (a.copyAddr r c).toNat, wmark := (a.tmpl (tmplOf r.srcB + 1)).markOf c.kv }

/-- What refuses the write half of CPY, and the port that counts it (11 R233). -/
def State.copyRefusal (s : State) (n : Nat) (a : ASet) (r : Rule) (c : Issued) : Option (Offer × Option (Nat × Nat)) :=
  match (a.tmpl (tmplOf r.srcB + 1)).space with
  | .sram => match s.checkS n a (a.tmpl (tmplOf r.srcB + 1)).homePort (a.copyAddr r c) .write with
    | .refuse o d => some (o, d)
    | .ok _ _ => none
  | .virt => if a.copyAddr r c &&& 63#64 ≠ 0 then some (.refuseEvent 2 0x02 (a.copyAddr r c), none) else none
  | .stream => none

theorem State.copyRefusal_none {s : State} {n : Nat} {a : ASet} {r : Rule} {c : Issued}
    (hs : (a.tmpl (tmplOf r.srcB + 1)).space = .sram →
      ∃ d off, s.checkS n a (a.tmpl (tmplOf r.srcB + 1)).homePort (a.copyAddr r c) .write = .ok d off)
    (hv : (a.tmpl (tmplOf r.srcB + 1)).space = .virt → (a.copyAddr r c).toNat % 64 = 0) : s.copyRefusal n a r c = none := by
  unfold State.copyRefusal
  cases e : (a.tmpl (tmplOf r.srcB + 1)).space with
  | stream => rfl
  | virt => exact if_neg (aligned64 (hv e))
  | sram =>
    obtain ⟨d, off, hd⟩ := hs e
    simp only [hd]

/-- The request of ATOM with the constant k and the output o (11 R234). -/
def ASet.atomReq (a : ASet) (r : Rule) (c : Issued) (k : Word) (o : Nat) : Req :=
  { a.newReq (tmplOf r.srcB) (.atom (bits k 0 4) (bits k 4 3) o r.et) (a.tmpl (tmplOf r.srcB)) c with tok := a.data r, marked := false }

/-! ### The opcodes -/

theorem not_takesNumber_of_ne {s : State} {n : Nat} {a : ASet} {t : Template} {addr : Word} {u : PortUse} (hu : u ≠ .reduce) :
    ¬ s.takesNumber n a t addr u := fun ⟨h, _⟩ => hu h

section
variable {s : State} {r : Rule} {miss : Bool} (h : s.RuleReadyA r)
include h

/-- LDSY with the flag of its constant (11 R231). -/
theorem execLdsy_queues :
    let a := s.aset s.focus.cell; let g := tmplOf r.srcB; let t := a.tmpl g; let c := t.issue a.iss none
    let clear : Bool := match opdOf r.srcA with | .q i => bitB (vget (0 : Word) a.iss.consts i) 0 | _ => false
    s.Accepts t c.addr .read .read miss → ∃ v u, execLdsy r s = .next v ∧
      RequestQueued s u g c (a.newReq g (.ldsy clear) t c) false miss ∧ RuleFiresA s u v r c.carry := by
  intro a g t c clear ha
  exact State.fireA_requests (q := a.newReq g (.ldsy clear) t c) false h (t.issue_reach _ _) rfl ha (not_takesNumber_of_ne nofun) rfl

/-- ATOM of an operand and a condition that are not null (11 R234). -/
theorem execAtom_queues {k o : Nat} {y : Token} (hk : opdOf r.srcA = .q k) (ho : opdOf r.dst = .ch o)
    (hy : (s.aset s.focus.cell).iss.head r.condB.chan = some y) (hx : ((s.aset s.focus.cell).data r).kind ≠ .null) (hyk : y.kind ≠ .null) :
    let a := s.aset s.focus.cell; let g := tmplOf r.srcB; let t := a.tmpl g; let c := t.issue a.iss none; let x := a.data r
    let q := vget (0 : Word) a.iss.consts k
    s.Accepts t c.addr .atomic (.atom (bits q 0 4) (bitsN x.payload 64 3) x.word) miss → ∃ v u, execAtom r s = .next v ∧
      RequestQueued s u g c (a.atomReq r c q o) false miss ∧ RuleFiresA s u v r true := by
  intro a g t c x q ha
  have hreq := State.request_accepts (q := a.atomReq r c q o) false ha (not_takesNumber_of_ne nofun)
  refine State.fireA_accepts (q := a.atomReq r c q o) false h (t.issue_reach _ _) rfl ?_
  dsimp only
  rw [hk, ho, hy, Option.getD_some, if_neg (by simpa using ⟨hx, hyk⟩)]
  exact congrArg (fun p : State × Offer => match p.2 with | .fire s' _ res => (p.1, Offer.fire s' true res) | o => (p.1, o)) hreq

section
variable (hn : (s.aset s.focus.cell).srcNull r = false)
include hn

/-- ISSR and GATR (11 R231). -/
theorem readForm_queues (indexed : Bool) :
    let a := s.aset s.focus.cell; let g := tmplOf r.srcB; let t := a.tmpl g
    let c := t.issue a.iss (if indexed then some (a.index r) else none)
    s.Accepts t c.addr .read .read miss → ∃ v u, readForm .read indexed r s = .next v ∧
      RequestQueued s u g c (a.newReq g .read t c) false miss ∧ RuleFiresA s u v r c.carry := by
  intro a g t c ha
  refine State.fireA_requests (q := a.newReq g .read t c) false h (t.issue_reach _ _) rfl ha (not_takesNumber_of_ne nofun) ?_
  exact if_neg (Bool.eq_false_iff.mp hn)

/-- S2S (11 R233). -/
theorem execS2s_queues :
    let a := s.aset s.focus.cell; let g := tmplOf r.srcB; let t := a.tmpl g; let c := t.issue a.iss none
    s.Accepts t c.addr .read .read miss → ∃ v u, execS2s r s = .next v ∧
      RequestQueued s u g c (a.s2sReq r c) false miss ∧ RuleFiresA s u v r c.carry := by
  intro a g t c ha
  refine State.fireA_requests (q := a.s2sReq r c) false h (t.issue_reach _ _) rfl ha (not_takesNumber_of_ne nofun) ?_
  exact if_neg (Bool.eq_false_iff.mp hn)

/-- CPY: its write half is one that its space can take (11 R233). -/
theorem execCpy_queues :
    let a := s.aset s.focus.cell; let g := tmplOf r.srcB; let t := a.tmpl g; let c := t.issue a.iss none; let w := a.tmpl (g + 1)
    (w.space = .sram → ∃ d off, s.checkS s.focus.cell a w.homePort (a.copyAddr r c) .write = .ok d off) →
      (w.space = .virt → (a.copyAddr r c).toNat % 64 = 0) →
      s.Accepts t c.addr .read .read miss → ∃ v u, execCpy r s = .next v ∧
      RequestQueued s u g c (a.copyReq r c) true miss ∧ RuleFiresA s u v r c.carry := by
  intro a g t c w hs hv ha
  refine State.fireA_requests (q := a.copyReq r c) true h (t.issue_reach _ _) rfl ha (not_takesNumber_of_ne nofun) ?_
  refine (if_neg (Bool.eq_false_iff.mp hn)).trans ?_
  change (match s.copyRefusal s.focus.cell (s.aset s.focus.cell) r c with
    | some (o, d) => ((match d with | some (d, p) => s.portRefused d p | none => s), o)
    | none => s.request s.focus.cell (s.aset s.focus.cell) (a.copyReq r c) c t .read true) = _
  rw [State.copyRefusal_none hs hv]
  rfl

section
variable (hx : ((s.aset s.focus.cell).data r).nullish = false)
include hx

/-- ISSW (11 R232). -/
theorem writeForm_queues :
    let a := s.aset s.focus.cell; let g := tmplOf r.srcB; let t := a.tmpl g; let c := t.issue a.iss none
    s.Accepts t c.addr .write .write miss → ∃ v u, writeForm false r s = .next v ∧
      RequestQueued s u g c (a.writeReq r c) true miss ∧ RuleFiresA s u v r c.carry := by
  intro a g t c ha
  refine State.fireA_requests (q := a.writeReq r c) true h (t.issue_reach _ _) rfl ha (not_takesNumber_of_ne nofun) ?_
  exact if_neg (by rw [hn, hx]; decide)

/-- SCTW to a place that numbers no stores (11 R232). -/
theorem writeForm_indexed_queues :
    let a := s.aset s.focus.cell; let g := tmplOf r.srcB; let t := a.tmpl g; let c := t.issue a.iss (some (a.index r))
    (t.space ≠ .sram ∨ ∃ d off, s.checkS s.focus.cell a t.homePort c.addr .reduce = .ok d off ∧ (s.port d t.homePort).role ≠ 6) →
      s.Accepts t c.addr .write .reduce miss → ∃ v u, writeForm true r s = .next v ∧
      RequestQueued s u g c (a.writeReq r c) true miss ∧ RuleFiresA s u v r c.carry := by
  intro a g t c hp ha
  refine State.fireA_requests (q := a.writeReq r c) true h (t.issue_reach _ _) rfl ha ?plain ?offers
  case offers => exact if_neg (by rw [hn, hx]; decide)
  case plain =>
    rintro ⟨-, hsp, d, off, hd, hr⟩
    obtain hp | ⟨d', off', hd', hr'⟩ := hp
    · exact hp hsp
    · cases hd.symm.trans hd'
      exact hr' hr

/-- SCTW to a sparse-update port takes a number when it leaves (11 R246). -/
theorem writeForm_indexed_numbered :
    let a := s.aset s.focus.cell; let g := tmplOf r.srcB; let t := a.tmpl g; let c := t.issue a.iss (some (a.index r))
    t.space = .sram → ∀ d off, s.checkS s.focus.cell a t.homePort c.addr .reduce = .ok d off → (s.port d t.homePort).role = 6 →
      ∃ v u, writeForm true r s = .next v ∧
        RequestQueued s u g c { a.writeReq r c with seq := some 0 } true false ∧ RuleFiresA s u v r c.carry := by
  intro a g t c hsp d off hd hr
  refine State.fireA_accepts (q := { a.writeReq r c with seq := some 0 }) true h (t.issue_reach _ _) rfl ?_
  refine Eq.trans ?_ (State.request_numbered (q := a.writeReq r c) true hsp hd hr)
  exact if_neg (by rw [hn, hx]; decide)

end
end
end

end Sys2Proof.Machine

open Sys2Proof Sys2Proof.Machine in
/-- Settles O43: each opcode offers its request, and a request that the checks of its space let through is accepted. -/
theorem requestRules : Obligations.RequestRules := by
  intro s r miss n a g t c ci x h hg
  refine ⟨?forms, execLdsy_queues h, fun hn hx hp => writeForm_indexed_queues h hn hx hp, fun hn hx => writeForm_indexed_numbered h hn hx,
    fun hn => execCpy_queues h hn, fun k o y hk ho hy hx hyk => execAtom_queues h hk ho hy hx hyk⟩
  case forms =>
    simp only [List.forall_mem_cons]
    exact ⟨fun hn _ => readForm_queues h hn false, fun hn _ => readForm_queues h hn true, fun hn _ => execS2s_queues h hn,
      fun hn hx => writeForm_queues h hn (hx trivial), List.forall_mem_nil _⟩

end

/-!
PROOF. MARK, TBASE, WPT, RELS and ACQ (11 R235 to R237): what the body of each offers.
-/

section
namespace Sys2Proof.Machine

/-- Two updates of a cell's address-generator set that agree on what it holds are one. -/
theorem State.updA_congr {s : State} {n : Nat} {f g : ASet → ASet} (h : f (s.aset n) = g (s.aset n)) : s.updA n f = s.updA n g := by
  rw [s.updA_const n f, h]; rfl

/-- A mask of the low k bits. -/
theorem and_mask_eq_ofNat (x m : Word) {k : Nat} (hm : m.toNat = 2 ^ k - 1) : x &&& m = BitVec.ofNat 64 (x.toNat % 2 ^ k) := by
  apply BitVec.eq_of_toNat_eq
  rw [BitVec.toNat_and, hm, Nat.and_two_pow_sub_one_eq_mod, BitVec.toNat_ofNat,
    Nat.mod_eq_of_lt (Nat.lt_of_le_of_lt (Nat.mod_le _ _) x.isLt)]

/-! ### The write pointer that WPT gives (11 R237) -/

/-- The home port of a template as its set finds it. -/
def State.homeOf (s : State) (a : ASet) (t : Template) : MPort :=
  s.port (match s.reach? a.iss.reach with | some rr => (rr.absCell t.homeCell).getD 0 | none => 0) t.homePort

theorem State.homeOf_eq {s : State} {a : ASet} {t : Template} {rr : Reach} {d : Nat} (hr : s.reach? a.iss.reach = some rr)
    (hd : rr.absCell t.homeCell = some d) : s.homeOf a t = s.port d t.homePort := by
  simp only [State.homeOf, hr, hd, Option.getD_some]

/-- The mirror of the pointer of port p; 0 at a port without one. -/
def Template.pointerAt (t : Template) (p : MPort) : BitVec 32 := if p.wpx then t.mirror else 0

/-- The pointer m delivered to the destination of a rule. -/
def State.pointerTo (s : State) (n : Nat) (a : ASet) (r : Rule) (m : BitVec 32) : State :=
  match opdOf r.dst with
  | .k i => s.updA n (fun a => { a with iss := a.iss.setCtr i ((a.iss.counter i).write ((a.iss.counter i).bounded m).1) })
  | .ch o => s.emit n 1 a.iss o (scalarTok (m.setWidth 64) r.et)
  | _ => s

section
variable {s : State} {n : Nat} {a : ASet} {r : Rule} {m : BitVec 32}

theorem State.pointerTo_output {o : Nat} (ho : opdOf r.dst = .ch o) :
    s.pointerTo n a r m = s.emit n 1 a.iss o ⟨.data, 7, 0, r.et, m.setWidth 512⟩ := by
  simp only [State.pointerTo, ho, scalarTok]
  rw [BitVec.setWidth_setWidth (by omega)]

theorem State.pointerTo_null (ho : opdOf r.dst = .null) : s.pointerTo n a r m = s := by simp only [State.pointerTo, ho]

theorem Counter.bounded_fst (c : Counter) (y : BitVec 32) :
    (c.bounded y).1 = if c.bound ≠ 0 ∧ c.bound.toNat ≤ y.toNat then c.bound - 1 else y := by
  unfold Counter.bounded
  simp only [Bool.and_eq_true, decide_eq_true_eq, BitVec.le_def]
  split_ifs <;> rfl

theorem State.pointerTo_counter {k : Nat} (hk : opdOf r.dst = .k k) : let c := (s.aset n).iss.counter k
    s.pointerTo n a r m = s.updA n (fun a => { a with
      iss := (s.aset n).iss.setCtr k (c.write (if c.bound ≠ 0 ∧ c.bound.toNat ≤ m.toNat then c.bound - 1 else m)) }) := by
  simp only [State.pointerTo, hk]
  exact State.updA_congr (by simp only [Counter.bounded_fst])

/-- 0 is below every bound. -/
theorem State.pointerTo_counter_zero {k : Nat} (hk : opdOf r.dst = .k k) :
    s.pointerTo n a r 0 = s.updA n (fun a => { a with iss := (s.aset n).iss.setCtr k (((s.aset n).iss.counter k).write 0) }) := by
  rw [State.pointerTo_counter hk, if_neg]
  rintro ⟨hb, hle⟩
  exact hb (BitVec.eq_of_toNat_eq (Nat.le_zero.mp hle))

end

/-! ### Phases that close (11 R235) -/

/-- A phase as RELS closes it. -/
def Phase.closing (p : Phase) (a : ASet) (r : Rule) : Phase :=
  { p with closed := true, out := dstOut r, et := r.et, since := a.nextId + 1 }

/-- The phases of a set after RELS. -/
def ASet.released (a : ASet) (r : Rule) : List Phase :=
  if a.phases.any (fun p => p.p == a.phase && !p.closed) then
    a.phases.map (fun p => if p.p = a.phase && !p.closed then p.closing a r else p)
  else a.phases ++ [Phase.closing ⟨a.phase, [], 0, false, false, 0, 0, 0, []⟩ a r]

/-- The open phase is the last one. -/
theorem ASet.released_open {a : ASet} {p : Phase} {rest : List Phase} (r : Rule) (hp : a.phases = rest ++ [p]) (hn : p.p = a.phase)
    (hc : p.closed = false) (hrest : ∀ q ∈ rest, q.p ≠ a.phase) : a.released r = rest ++ [p.closing a r] := by
  have hmap : rest.map (fun p => if p.p = a.phase && !p.closed then p.closing a r else p) = rest :=
    (List.map_congr_left (fun q hq => if_neg (by simp [hrest q hq]))).trans (List.map_id _)
  unfold ASet.released
  rw [hp, if_pos (by simp [hn, hc]), List.map_append, hmap, List.map_singleton, if_pos (by simp [hn, hc])]

/-- A phase without a write has no entry before it closes. -/
theorem ASet.released_empty {a : ASet} (r : Rule) (hq : ∀ q ∈ a.phases, q.p ≠ a.phase) :
    a.released r = a.phases ++ [⟨a.phase, [], 0, true, false, dstOut r, r.et, a.nextId + 1, []⟩] :=
  if_neg (by simpa using fun q hm hp => absurd hp (hq q hm))

/-! ### Acquires (11 R236) -/

/-- The state in which ACQ has taken the head of channel i, which its rule's own dequeues may already name. -/
def State.acqTakes (s : State) (n i : Nat) (r : Rule) : State :=
  if r.deqs.contains i then s else s.updA n (fun b => { b with iss := b.iss.deq i })

theorem State.acqTakes_aset (s : State) (n i : Nat) (r : Rule) :
    (s.acqTakes n i r).aset n = { s.aset n with iss := ((s.acqTakes n i r).aset n).iss } := by
  unfold State.acqTakes
  split_ifs
  · rfl
  · rw [State.updA_aset]

/-- The scope of an acquire: the low bits of the constant in srcB. -/
def ASet.acqScope (a : ASet) (r : Rule) : BitVec 3 :=
  match opdOf r.srcB with | .q k => (vget (0 : Word) a.iss.consts k).setWidth 3 | _ => 0

section
variable {s : State} {r : Rule} (h : s.RuleReadyA r)
include h

/-! ### MARK and TBASE (11 R237) -/

theorem execMark_sets (hn : (s.aset s.focus.cell).setNull r = false) :
    let n := s.focus.cell; let a := s.aset n
    ∃ v, execMark r s = .next v ∧
      RuleFiresA s (s.updA n (fun b => b.setTmpl (tmplOf r.srcB) (fun t => { t with mark0 := a.index r }))) v r true :=
  State.fireA_fires h (if_neg (Bool.eq_false_iff.mp hn))

theorem execTbase_sets (hn : (s.aset s.focus.cell).setNull r = false) :
    let n := s.focus.cell; let a := s.aset n; let t := a.tmpl (tmplOf r.srcB)
    let b := BitVec.ofNat 64 ((a.value r.srcA).toNat % (if t.space = .sram then 2 ^ 31 else 2 ^ 52))
    ∃ v, execTbase r s = .next v ∧
      RuleFiresA s (s.updA n (fun a => a.setTmpl (tmplOf r.srcB) (fun t => { t with rbase := b }))) v r true := by
  intro n a t b
  refine State.fireA_fires (w := s) (res := none) h ((if_neg (Bool.eq_false_iff.mp hn)).trans ?_)
  have hb : (if t.space = .sram then a.value r.srcA &&& 0x7FFFFFFF#64 else a.value r.srcA &&& 0xFFFFFFFFFFFFF#64) = b := by
    rw [and_mask_eq_ofNat _ 0x7FFFFFFF#64 (k := 31) rfl, and_mask_eq_ofNat _ 0xFFFFFFFFFFFFF#64 (k := 52) rfl,
      ← apply_ite (fun m => BitVec.ofNat 64 (_ % m))]
  rw [← hb]

theorem execMark_null (hn : (s.aset s.focus.cell).setNull r = true) : ∃ v, execMark r s = .next v ∧ RuleFiresA s s v r false :=
  State.fireA_fires h (if_pos hn)

theorem execTbase_null (hn : (s.aset s.focus.cell).setNull r = true) : ∃ v, execTbase r s = .next v ∧ RuleFiresA s s v r false :=
  State.fireA_fires h (if_pos hn)

/-! ### WPT (11 R237) -/

theorem execWpt_fires {p : MPort} (hp : s.homeOf (s.aset s.focus.cell) ((s.aset s.focus.cell).tmpl (tmplOf r.srcB)) = p) :
    let n := s.focus.cell; let a := s.aset n; let t := a.tmpl (tmplOf r.srcB)
    ∃ v, execWpt r s = .next v ∧
      RuleFiresA s (s.pointerTo n a r (t.pointerAt p)) v r (p.wpx && (t.pointerAt p).toNat == p.wpLen * 64) := by
  subst hp
  exact State.fireA_fires h rfl

/-! ### RELS (11 R235) -/

theorem execRels_refused (hp : 3 ≤ ((s.aset s.focus.cell).phases.filter (fun p => p.closed && !p.complete)).length) :
    execRels r s = .next (s.abortRule s.focus.cell 1 (.refuse 2)) := by
  rw [execRels, State.fireA_ready h, if_pos hp]
  rfl

theorem execRels_fires (hp : ((s.aset s.focus.cell).phases.filter (fun p => p.closed && !p.complete)).length < 3) :
    let n := s.focus.cell; let a := s.aset n
    ∃ v, execRels r s = .next v ∧ RuleFiresA s
      (s.updA n (fun b => { b with phases := a.released r, phase := b.phase + 1, nextId := b.nextId + 1 })) v r true :=
  State.fireA_fires h (if_neg (Nat.not_le.mpr hp))

/-! ### ACQ (11 R236) -/

section
variable {i o : Nat} {t : Token} (hi : opdOf r.srcA = .ch i) (ho : opdOf r.dst = .ch o) (ht : (s.aset s.focus.cell).iss.head i = some t)
include hi ho ht

theorem execAcq_null (hk : t.kind = .null) : let n := s.focus.cell; let a := s.aset n
    ∃ v, execAcq r s = .next v ∧ RuleFiresA s ((s.acqTakes n i r).emit n 1 a.iss o ⟨.null, 0, 0, r.et, 0⟩) v r false := by
  refine State.fireA_fires (w := s) (res := none) h ?_
  simp only [hi, ht, Option.getD_some, if_pos hk, dstOut, ho]
  rfl

theorem execAcq_opens (hk : t.kind ≠ .null) : let n := s.focus.cell; let a := s.aset n
    ∃ v, execAcq r s = .next v ∧ RuleFiresA s ((s.acqTakes n i r).updA n (fun b => { b with
      acqs := a.acqs ++ [⟨a.nextId + 1, (a.q.filter Req.undelivered).map (·.id), o, r.et, a.acqScope r, false⟩]
      nextId := a.nextId + 1 })) v r true := by
  intro n a
  have hset : (s.acqTakes n i r).updA n (fun b => { b with
      acqs := b.acqs ++ [⟨b.nextId + 1, (b.q.filter Req.undelivered).map (·.id), o, r.et, a.acqScope r, false⟩]
      nextId := b.nextId + 1 }) = _ := State.updA_congr (g := fun b => { b with
      acqs := a.acqs ++ [⟨a.nextId + 1, (a.q.filter Req.undelivered).map (·.id), o, r.et, a.acqScope r, false⟩]
      nextId := a.nextId + 1 }) (by rw [State.acqTakes_aset])
  rw [← hset]
  refine State.fireA_fires (w := s) (res := none) h ?_
  simp only [hi, ht, Option.getD_some, if_neg hk, dstOut, ho]
  rfl

end
end

end Sys2Proof.Machine

open Sys2Proof Sys2Proof.Machine in
/-- Settles O46: the body of each opcode offers what the rule says. -/
theorem templateAndPhaseRules : Obligations.TemplateAndPhaseRules := by
  intro s r n a g t h hg
  refine ⟨execMark_sets h, execTbase_sets h, fun hn => ?null, fun rr d hr hd hw => ?pointer, fun rr d hr hd hw => ?noPointer,
    fun hp => ⟨_, execRels_refused h hp, rfl⟩, fun o ho hp => ?rels, fun i o x hi ho hx => ⟨execAcq_null h hi ho hx, execAcq_opens h hi ho hx⟩⟩
  case null =>
    simp only [List.forall_mem_cons]
    exact ⟨execMark_null h hn, execTbase_null h hn, List.forall_mem_nil _⟩
  case pointer =>
    intro full
    have hm : t.pointerAt (s.port d t.homePort) = t.mirror := if_pos hw
    have hf := execWpt_fires h (State.homeOf_eq hr hd)
    dsimp only at hf
    rw [hm, hw, Bool.true_and, beq_eq_decide] at hf
    refine ⟨fun o ho => ?_, fun k hk => ?_, fun hk => ?_⟩
    · rwa [State.pointerTo_output ho] at hf
    · rwa [State.pointerTo_counter hk] at hf
    · rwa [State.pointerTo_null hk] at hf
  case noPointer =>
    have hm : t.pointerAt (s.port d t.homePort) = 0 := if_neg (Bool.eq_false_iff.mp hw)
    have hf := execWpt_fires h (State.homeOf_eq hr hd)
    dsimp only at hf
    rw [hm, hw, Bool.false_and] at hf
    refine ⟨fun o ho => ?_, fun k hk => ?_, fun hk => ?_⟩
    · rwa [State.pointerTo_output ho, show (0 : BitVec 32).setWidth 512 = 0 from BitVec.setWidth_zero ..] at hf
    · rwa [State.pointerTo_counter_zero hk] at hf
    · rwa [State.pointerTo_null hk] at hf
  case rels =>
    have hout : dstOut r = o := by simp only [dstOut, ho]
    have hf := execRels_fires h hp
    dsimp only at hf
    refine ⟨fun p rest hps hn hc hrest => ?_, fun hq => ?_⟩
    · rw [ASet.released_open r hps hn hc hrest, Phase.closing, hout] at hf
      exact hf
    · rw [ASet.released_empty r hq, hout] at hf
      exact hf

end

/-!
PROOF. The issue stage of a tile (12 R257): what it chooses among and what it serves; and the ends of closed phases and of acquires
(11 R235, R236, 16 R294).
-/

section
namespace Sys2Proof.Machine

/-! ### What the stage chooses among -/

theorem filterMap_range_four_none {α : Type} {f : Nat → Option α} (h : ∀ k, k < 4 → f k = none) : (List.range 4).filterMap f = [] :=
  List.filterMap_eq_nil_iff.mpr (fun k hk => h k (List.mem_range.mp hk))

theorem filterMap_range_four_one {α : Type} {f : Nat → Option α} {g : Nat} {x : α} (hg : g < 4) (hx : f g = some x)
    (h : ∀ k, k < 4 → k ≠ g → f k = none) : (List.range 4).filterMap f = [x] := by
  have hr : List.range 4 = [0, 1, 2, 3] := rfl
  interval_cases g <;> simp [hr, hx, h]

/-- The head of template g's queue as the stage offers it (12 R257). -/
def State.offered (s : State) (n g : Nat) : Option (Staged × Head) :=
  match s.stageHead n g with
  | some q =>
    if s.ordered n q && !s.isHeld n q && s.canLeave n q then
      some (.request q, ⟨q.cls.toNat, s.reqSlack n q, q.id, n, g,
        (((s.aset n).q.find? (fun x => x.g == g && x.stage == .queued && q.id < x.id)).map (fun x => !s.isHeld n x)).getD false⟩)
    else none
  | none => none

section
variable {s : State} {n : Nat}

theorem State.offered_none {g : Nat} (h : s.stageHead n g = none) : s.offered n g = none := by rw [State.offered, h]

/-- The heads of the request queues, and a RELS or an ACQ, where no collective node waits. -/
theorem State.stageHeads_eq (hnode : s.nodeRequests n = []) : s.stageHeads n = (List.range 4).filterMap (s.offered n)
    ++ ((if (s.aset n).iss.issuing then (s.aset n).relsHead else none).map (fun p =>
      (Staged.rels, (⟨5, slackMax, p.since, n, 4, false⟩ : Head)))).toList
    ++ ((s.aset n).acqHead.map (fun c => (Staged.acq, (⟨5, slackMax, c.id, n, 4, false⟩ : Head)))).toList := by
  unfold State.stageHeads
  rw [hnode, List.filter_nil, List.map_nil, List.append_nil]
  rfl

theorem State.stageHeads_rels {p : Phase} (hnode : s.nodeRequests n = []) (hheads : ∀ g, g < 4 → s.stageHead n g = none)
    (hissue : (s.aset n).iss.issuing = true) (hp : (s.aset n).relsHead = some p) (hacq : (s.aset n).acqHead = none) :
    s.stageHeads n = [(.rels, ⟨5, slackMax, p.since, n, 4, false⟩)] := by
  rw [State.stageHeads_eq hnode, filterMap_range_four_none (fun g hg => State.offered_none (hheads g hg)), if_pos hissue, hp, hacq]
  rfl

theorem State.stageHeads_acq {q : Acq} (hnode : s.nodeRequests n = []) (hheads : ∀ g, g < 4 → s.stageHead n g = none)
    (hrels : (s.aset n).iss.issuing = true → (s.aset n).relsHead = none) (hacq : (s.aset n).acqHead = some q) :
    s.stageHeads n = [(.acq, ⟨5, slackMax, q.id, n, 4, false⟩)] := by
  rw [State.stageHeads_eq hnode, filterMap_range_four_none (fun g hg => State.offered_none (hheads g hg)), hacq,
    (ite_eq_right_iff.mpr hrels : (if (s.aset n).iss.issuing = true then (s.aset n).relsHead else none) = none)]
  rfl

theorem State.stageHeads_request {g : Nat} {x : Staged × Head} (hnode : s.nodeRequests n = []) (hg : g < 4)
    (hx : s.offered n g = some x) (hheads : ∀ k, k < 4 → k ≠ g → s.stageHead n k = none)
    (hrels : (s.aset n).iss.issuing = true → (s.aset n).relsHead = none) (hacq : (s.aset n).acqHead = none) :
    s.stageHeads n = [x] := by
  rw [State.stageHeads_eq hnode, filterMap_range_four_one hg hx (fun k hk hne => State.offered_none (hheads k hk hne)), hacq,
    (ite_eq_right_iff.mpr hrels : (if (s.aset n).iss.issuing = true then (s.aset n).relsHead else none) = none)]
  rfl

/-- The oldest acquire is the stage's once the reads it waits for have been delivered (11 R236). -/
theorem ASet.acqHead_eq {a : ASet} {q : Acq} {rest : List Acq} (h : a.acqs = q :: rest) (hs : q.served = false)
    (hr : ∀ x ∈ a.q, x.id ∉ q.reads) : a.acqHead = some q := by
  unfold ASet.acqHead
  rw [h, List.head?_cons, Option.filter_eq_some_iff]
  exact ⟨rfl, by simpa [hs] using hr⟩

/-! ### What the stage serves -/

/-- The state in which the stage of cell n has decided. -/
def State.stageDecided (s : State) (n : Nat) (arb : Arb) : State :=
  s.updCell n (fun c => { c with aArb := arb, decided := s.islandCycle n + 1 })

@[simp] theorem State.stageDecided_aset (s : State) (n : Nat) (arb : Arb) (k : Nat) : (s.stageDecided n arb).aset k = s.aset k := by
  unfold State.aset State.stageDecided
  by_cases h : k = n
  · rw [h, State.updCell_self]
  · rw [State.updCell_of_ne _ _ h]

/-- The write half of a CPY pair whose data have returned goes before what the stage would decide (11 R233). -/
def State.copyReady (s : State) (n g : Nat) : Option Req :=
  ((s.aset n).copyHead g).bind (fun q => if s.canLeave n q then some q else none)

theorem State.copyReady_none {g : Nat} (h : (s.aset n).copyHead g = none) : s.copyReady n g = none := by rw [State.copyReady, h]; rfl

theorem exec_issueStageDecision_copy {g : Nat} {q : Req} (hdue : s.recordDue n = false) (hg : g < 4)
    (hbefore : ∀ k, k < g → (s.aset n).copyHead k = none) (hq : (s.aset n).copyHead g = some q) (hl : s.canLeave n q = true) :
    exec (.issueStageDecision n) s = .next (s.leave n q) := by
  have hr : s.copyReady n g = some q := by rw [State.copyReady, hq]; exact if_pos hl
  have hb (k : Nat) (hk : k < g) : s.copyReady n k = none := State.copyReady_none (hbefore k hk)
  have hf : (List.range 4).findSome? (s.copyReady n) = some q := by
    have hlist : List.range 4 = [0, 1, 2, 3] := rfl
    interval_cases g <;> simp [hlist, hr, hb]
  show execIssueStageDecision n s = _
  unfold execIssueStageDecision
  unfold State.copyReady at hf
  dsimp only
  rw [if_neg (Bool.eq_false_iff.mp hdue), hf]

section
variable {arb : Arb} {h : Head} (hdue : s.recordDue n = false) (hcopy : ∀ g, g < 4 → (s.aset n).copyHead g = none)
  (harb : (s.cell n).aArb.decide (s.cell n).need.qwgt [h] = some (0, arb))
include hdue hcopy harb

/-- With one head and no CPY write in the way, the stage serves that head. -/
theorem exec_issueStageDecision_one {x : Staged} (hheads : s.stageHeads n = [(x, h)]) :
    exec (.issueStageDecision n) s = .next (match x with
      | .request q => (s.stageDecided n arb).leave n q
      | .rels => (match (s.aset n).relsHead with
        | some p => (s.stageDecided n arb).sendCounts n p
        | none => s)
      | .acq => (s.stageDecided n arb).updA n (fun a => { a with acqs := a.acqs.modify 0 (fun c => { c with served := true }) })
      | .node k w => let p := (s.stageDecided n arb).serveNode n k w; if p.2 then p.1 else s) := by
  have hf : (List.range 4).findSome? (s.copyReady n) = none :=
    List.findSome?_eq_none_iff.mpr (fun g hg => State.copyReady_none (hcopy g (List.mem_range.mp hg)))
  show execIssueStageDecision n s = _
  unfold execIssueStageDecision
  unfold State.copyReady at hf
  dsimp only
  rw [if_neg (Bool.eq_false_iff.mp hdue), hf]
  simp only [hheads, List.map_cons, List.map_nil, harb, List.getElem?_cons_zero]
  cases x with
  | request q => rfl
  | rels => cases (s.aset n).relsHead <;> rfl
  | acq => rfl
  | node k w => rfl

end
end

/-! ### Releases (11 R235, 16 R294) -/

/-- A phase that has sent its counts. -/
def ASet.countsSent (a : ASet) (p : Phase) : ASet :=
  { a with phases := a.phases.map (fun h => if h = p then { h with sent := true } else h) }

theorem State.sendCounts_eq (s : State) (n : Nat) (p : Phase) : s.sendCounts n p = { s with
    cells := (s.sendCounts n p).cells, phaseMsgs := s.phaseMsgs ++ p.dests.map (fun d => ⟨d.1, s.phaseSrc n, p.p, d.2⟩) } := rfl

theorem State.sendCounts_cell (s : State) (n : Nat) (p : Phase) :
    (s.sendCounts n p).cell n = { s.cell n with a := { (s.cell n).a with act := (s.aset n).countsSent p } } :=
  State.updCell_self ..

theorem State.stageDecided_phaseSrc (s : State) (n : Nat) (arb : Arb) (k : Nat) : (s.stageDecided n arb).phaseSrc k = s.phaseSrc k := by
  rw [State.phaseSrc, State.stageDecided_aset, State.phaseSrc]

/-- What the stage leaves that has served a RELS. -/
theorem State.stageDecided_sendCounts (s : State) (n : Nat) (arb : Arb) (p : Phase) :
    (s.stageDecided n arb).sendCounts n p = { s with
      cells := ((s.stageDecided n arb).sendCounts n p).cells
      phaseMsgs := s.phaseMsgs ++ p.dests.map (fun d => ⟨d.1, s.phaseSrc n, p.p, d.2⟩) } := by
  rw [State.sendCounts_eq, State.stageDecided_phaseSrc]
  rfl

theorem State.stageDecided_sendCounts_cell (s : State) (n : Nat) (arb : Arb) (p : Phase) :
    ((s.stageDecided n arb).sendCounts n p).cell n = { s.cell n with
      aArb := arb, decided := s.islandCycle n + 1, a := { (s.cell n).a with act := (s.aset n).countsSent p } } := by
  rw [State.sendCounts_cell, State.stageDecided_aset, State.stageDecided, State.updCell_self]

theorem Phase.complete_iff (p : Phase) : p.complete = true ↔
    p.closed = true ∧ (p.total = 0 ∨ (p.sent = true ∧ ∀ d ∈ p.dests, p.ackd.contains d.1 = true)) := by
  simp [Phase.complete]

@[simp] theorem State.emit_aset (s : State) (n kind : Nat) (x : Issue) (o : Nat) (t : Token) (k : Nat) :
    (s.emit n kind x o t).aset k = s.aset k := by
  unfold State.emit
  split
  · rfl
  · rw [State.pushPacket_asetAt]

/-- The oldest phase ends with its order token when its counts have matched. -/
theorem exec_relsDone {s : State} {n : Nat} {p : Phase} {rest : List Phase} (hp : (s.aset n).phases = p :: rest)
    (hc : p.complete = true) (hfree : (s.cell n).routeFree 6 (vget none (s.aset n).iss.routes p.out) = true) :
    exec (.relsDone n) s = .next ((s.emit n 1 (s.aset n).iss p.out
      ⟨.order, 1, 0, p.et, (BitVec.ofNat 64 (p.p.toNat + p.total * 2 ^ 32)).setWidth 512⟩).updA n (fun a => { a with phases := rest })) := by
  have hfind : (s.aset n).phases.find? (fun p => p.complete && (s.cell n).routeFree portA (vget none (s.aset n).iss.routes p.out)) = some p := by
    rw [hp]; exact List.find?_cons_of_pos (by rw [hc]; exact hfree)
  have herase (t : Token) : (s.emit n kindA (s.aset n).iss p.out t).updA n (fun a => { a with phases := a.phases.erase p }) =
      (s.emit n kindA (s.aset n).iss p.out t).updA n (fun a => { a with phases := rest }) :=
    State.updA_congr (by rw [State.emit_aset, hp, List.erase_cons_head])
  show execRelsDone n s = _
  simp only [execRelsDone, hfind, herase]
  rfl

/-! ### Phase counts at their destination (16 R294) -/

/-- A phase that a destination has acknowledged. -/
def Phase.acked (m : PhaseMsg) (h : Phase) : Phase :=
  if h.p = m.p ∧ h.sent = true ∧ h.complete = false then { h with ackd := m.dest :: h.ackd } else h

/-- The state in which message k has met its count. -/
def State.counted (s : State) (k : Nat) (m : PhaseMsg) : State := { s with
  phaseMsgs := s.phaseMsgs.eraseIdx k
  phaseCnts := s.phaseCnts.filter (fun c => !(c.dest == m.dest && c.src == m.src && c.p == m.p)) }

theorem exec_phaseCount {s : State} {k : Nat} {m : PhaseMsg} {c : PhaseCnt} (hm : s.phaseMsgs[k]? = some m)
    (hc : s.phaseCnts.find? (fun c => c.dest == m.dest && c.src == m.src && c.p == m.p) = some c) (hn : m.count ≤ c.n) :
    exec (.phaseCount k) s = .next (if s.phaseSrc (m.src % 512) = m.src then
      (s.counted k m).updA (m.src % 512) (fun a => { a with phases := a.phases.map (Phase.acked m) }) else s.counted k m) := by
  have hack : (fun h : Phase => if h.p = m.p && h.sent && !h.complete then { h with ackd := m.dest :: h.ackd } else h) = Phase.acked m := by
    funext h
    simp [Phase.acked, and_assoc]
  show execPhaseCount k s = _
  simp only [execPhaseCount, hm, hc, if_neg (Nat.not_lt.mpr hn), hack]
  rfl

/-! ### Acquires (11 R236) -/

/-- An order token without a value. -/
theorem orderTok_zero (scope : BitVec 3) (et : BitVec 2) : orderTok scope 0 et = ⟨.order, scope, 0, et, 0⟩ := by
  rw [orderTok, show (0 : Word).setWidth 512 = 0 from BitVec.setWidth_zero ..]

theorem exec_acqDone {s : State} {n : Nat} {q : Acq} {rest : List Acq} (hq : (s.aset n).acqs = q :: rest) (hs : q.served = true)
    (hfree : (s.cell n).routeFree 6 (vget none (s.aset n).iss.routes q.out) = true) :
    exec (.acqDone n) s = .next ((s.emit n 1 (s.aset n).iss q.out ⟨.order, q.scope, 0, q.et, 0⟩).updA n (fun a => { a with acqs := rest })) := by
  show execAcqDone n s = _
  unfold execAcqDone
  dsimp only
  rw [hq]
  dsimp only
  rw [if_neg (by rw [hs, show (s.cell n).routeFree portA _ = true from hfree]; decide), orderTok_zero]
  rfl

end Sys2Proof.Machine

open Sys2Proof Sys2Proof.Machine in
/-- Settles O47: the stage has one head, which it serves; then the destinations' counts and the oldest entries end. -/
theorem phasesAndAcquiresComplete : Obligations.PhasesAndAcquiresComplete := by
  intro s n a
  refine ⟨fun p arb hdue hissue hno hnode hacq hp harb => ?rels, fun q rest arb hdue hno hnode hrels hq hs hr harb => ?acq,
    fun p rest hp hc ht hfree => ⟨_, exec_relsDone hp (p.complete_iff.mpr ⟨hc, ht⟩) hfree, rfl⟩, fun k m c hm hc hn => ?counts,
    fun q rest hq hs hfree => ⟨_, exec_acqDone hq hs hfree, rfl⟩⟩
  case rels =>
    have hx := exec_issueStageDecision_one hdue (fun g hg => (hno g hg).1) harb
      (State.stageHeads_rels hnode (fun g hg => (hno g hg).2) hissue hp hacq)
    have hrels : a.relsHead = some p := hp
    dsimp only at hx
    rw [hrels] at hx
    exact ⟨_, hx, State.stageDecided_sendCounts .., State.stageDecided_sendCounts_cell ..⟩
  case acq =>
    have hx := exec_issueStageDecision_one hdue (fun g hg => (hno g hg).1) harb
      (State.stageHeads_acq hnode (fun g hg => (hno g hg).2) hrels (ASet.acqHead_eq hq hs hr))
    exact ⟨_, hx, State.updA_congr (by rw [State.stageDecided_aset, show (s.aset n).acqs = _ from hq]; rfl)⟩
  case counts =>
    refine ⟨_, exec_phaseCount hm hc hn, ?_, fun hlt hsrc => ?_, fun hsrc => by rw [if_neg hsrc]; rfl⟩
    · split_ifs <;> rfl
    · have hmod : m.src % 512 = n := by
        rw [← hsrc, State.phaseSrc]; omega
      rw [hmod, if_pos hsrc, State.updA_aset]
      rfl

end

/-!
PROOF. Requests at the issue stage (12 R257, R258) and the ends of walks (14 R272, 22 R360): the request that the stage serves leaves to
its space, a held request is released, hold figures are adopted, and a walk lets its requests go or freezes them.
-/

section
namespace Sys2Proof.Machine

/-! ### The decided request -/

section
variable {s : State} {n : Nat}

theorem State.stageHead_g {g : Nat} {q : Req} (h : s.stageHead n g = some q) : q.g = g := by
  have hp := List.find?_some h
  simp only [Bool.and_eq_true, beq_iff_eq] at hp
  exact hp.1.1

theorem Req.tmplNow_of_not_writeHalf {q : Req} (h : q.writeHalf = false) : q.tmplNow = q.g := by rw [Req.tmplNow, h]; rfl

/-- A request whose translation, if it needs one, is at hand or can be asked for may leave (11 R226). -/
theorem State.canLeave_of {q : Req} (h : ((s.aset n).tmpl q.tmplNow).space = .virt →
      (tlbFind (s.cell n).utlb (s.reachJob (s.aset n).iss.reach) q.addrNow q.accessNow).isSome = true ∨
      s.canMiss n (s.reachJob (s.aset n).iss.reach) (q.addrNow / 4096) = true) : s.canLeave n q = true := by
  unfold State.canLeave
  by_cases hv : ((s.aset n).tmpl q.tmplNow).space = .virt
  · obtain ht | hm := h hv
    · simp [ht]
    · simp [hm]
  · simp [hv]

theorem State.offered_some {g : Nat} {q : Req} (hq : s.stageHead n g = some q) (ho : s.ordered n q = true) (hh : s.isHeld n q = false)
    (hl : s.canLeave n q = true) : s.offered n g = some (.request q, ⟨q.cls.toNat, s.reqSlack n q, q.id, n, g,
      (((s.aset n).q.find? (fun x => x.g == g && x.stage == .queued && q.id < x.id)).map (fun x => !s.isHeld n x)).getD false⟩) := by
  rw [State.offered, hq]
  exact if_pos (by rw [ho, hh, hl]; rfl)

/-! ### Where it goes -/

theorem State.leave_stream {q : Req} (h : ((s.aset n).tmpl q.tmplNow).space = .stream) :
    s.leave n q = s.updA n (fun a => a.updReq q.id (fun r =>
      { r with stage := .answered, counted := true, ans := some { q.tok with vchan := ((s.aset n).tmpl q.tmplNow).vchan } })) := by
  unfold State.leave
  dsimp only
  rw [h]

/-- The state in which a reduce-store has taken its number (11 R246). -/
def State.numberStore (s : State) (n : Nat) (q : Req) : State :=
  if q.seq.isSome then
    s.updA n (fun a => { a.updReq q.id (fun r => { r with seq := some (BitVec.ofNat 32 a.seq) }) with seq := a.seq + 1 })
  else s

theorem State.leave_sram {q : Req} {d off : Nat} (h : ((s.aset n).tmpl q.tmplNow).space = .sram)
    (ht : s.sramTarget n (s.aset n).iss.reach (BitVec.ofNat 64 q.addrNow) = .ok (d, off)) :
    s.leave n q = (s.numberStore n q).placeAt n q (q.writeHalf || q.kind == .write) (destPort d ((s.aset n).tmpl q.tmplNow).homePort)
      ((s.numberStore n q).placedOf n q (q.writeHalf || q.kind == .write) off ((s.numberStore n q).islandCycle d)) := by
  unfold State.leave
  dsimp only
  rw [h]
  dsimp only
  rw [ht]
  rfl

end

/-! ### What numbering and placing a request leave -/

/-- An update of an address-generator set leaves the records and islands of every cell. -/
theorem State.updA_cell (s : State) (n : Nat) (f : ASet → ASet) (k : Nat) :
    (s.updA n f).cell k = { s.cell k with a := ((s.updA n f).cell k).a } := by
  by_cases h : k = n
  · rw [h, State.updA, State.updCell_self]
  · rw [State.updA_of_ne s f h]

theorem State.updA_islandCycle (s : State) (n : Nat) (f : ASet → ASet) (k : Nat) : (s.updA n f).islandCycle k = s.islandCycle k :=
  State.islandCycle_updCell rfl k

theorem State.updA_slackAt (s : State) (n : Nat) (f : ASet → ASet) (k : Nat) (marked : Bool) (mark : BitVec 32) (mctr : BitVec 12) :
    (s.updA n f).slackAt k marked mark mctr = s.slackAt k marked mark mctr := by
  unfold State.slackAt State.recordAt State.implicitRecord
  rw [State.updA_csetAt, State.updA_cell]

/-- A request's entry at a place depends on its templates alone. -/
theorem State.updA_placedOf {s : State} {n : Nat} {f : ASet → ASet} (h : (f (s.aset n)).tm = (s.aset n).tm) (q : Req) (write : Bool)
    (addr now : Nat) : (s.updA n f).placedOf n q write addr now = s.placedOf n q write addr now := by
  have ht (g : Nat) : ((s.updA n f).aset n).tmpl g = (s.aset n).tmpl g := by
    rw [State.updA_aset]; exact congrArg (vget Template.reset · g) h
  unfold State.placedOf
  simp only [ht, State.updA_slackAt, State.updA_cycle]

@[simp] theorem State.updA_port (s : State) (n : Nat) (f : ASet → ASet) (d p : Nat) : (s.updA n f).port d p = s.port d p := by
  rw [State.port, State.updA_msetAt, State.port]

@[simp] theorem State.updPort_asetAt (s : State) (d p : Nat) (f : MPort → MPort) (n : Nat) : (s.updPort d p f).aset n = s.aset n :=
  State.updM_asetAt ..

section
variable (s : State) (n : Nat) (q : Req)

theorem State.numberStore_port (d p : Nat) : (s.numberStore n q).port d p = s.port d p := by
  unfold State.numberStore
  split_ifs
  · exact State.updA_port ..
  · rfl

theorem State.numberStore_islandCycle (d : Nat) : (s.numberStore n q).islandCycle d = s.islandCycle d := by
  unfold State.numberStore
  split_ifs
  · exact State.updA_islandCycle ..
  · rfl

theorem State.numberStore_placedOf (write : Bool) (addr now : Nat) :
    (s.numberStore n q).placedOf n q write addr now = s.placedOf n q write addr now := by
  unfold State.numberStore
  split_ifs
  · exact State.updA_placedOf rfl ..
  · rfl

theorem State.numberStore_seq : ((s.numberStore n q).aset n).seq = (s.aset n).seq + (if q.seq.isSome then 1 else 0) := by
  unfold State.numberStore
  split_ifs
  · rw [State.updA_aset]
  · rfl

end

/-- A request on its way leaves the numbers of the stores as they are. -/
theorem ASet.sendOut_seq (a : ASet) (q : Req) (stage : Req → ReqStage) : (a.sendOut q stage).seq = a.seq := by
  unfold ASet.sendOut
  dsimp only
  split_ifs <;> rfl

theorem State.placeAt_port_queues (s : State) (n : Nat) (q : Req) (write : Bool) {d p : Nat} (x : Placed) (hd : d < 512) (hp : p < 4) :
    ((s.placeAt n q write (destPort d p) x).port d p).q = (s.port d p).q ++ [x] ∧
    ((s.placeAt n q write (destPort d p) x).port d p).accept = (s.port d p).accept + 1 ∧
    ((s.placeAt n q write (destPort d p) x).aset n).seq = (s.aset n).seq := by
  have hlt : destPort d p < 4096 := by unfold destPort; omega
  have hdiv : destPort d p / 4 = d := by unfold destPort; omega
  have hmod : destPort d p % 4 = p := by unfold destPort; omega
  unfold State.placeAt
  dsimp only
  rw [if_pos hlt, hdiv, hmod, State.updPort_self _ _ _ hp, State.updA_port, State.updPort_asetAt, State.updA_aset]
  refine ⟨rfl, rfl, ?_⟩
  split_ifs
  · exact ASet.sendOut_seq ..
  · exact ASet.sendOut_seq ..

/-! ### Hold-back (12 R258, R259) -/

theorem exec_holdRelease {s : State} {n g : Nat} {q : Req} (hq : s.stageHead n g = some q) (hm : q.marked = true) (hu : q.unheld = false)
    (h64 : 64 ≤ q.held) (hmax : (s.cell n).need.holdMax ≤ q.held) :
    exec (.holdRelease n g) s = .next ((s.updA n (fun a => a.updReq q.id (fun r => { r with unheld := true }))).updCell n (fun c => { c with
      need := { c.need with holdrel := (c.need.holdrel + 1) % 2 ^ 32 } })) := by
  have hpast : (q.marked && !q.unheld && max 64 (s.cell n).need.holdMax ≤ q.held) = true := by
    simp [hm, hu, h64, hmax]
  show execHoldRelease n g s = _
  unfold execHoldRelease
  dsimp only
  simp only [hq, Option.filter_some, hpast, if_true]

/-- One figure put into a table, unless it stands there. -/
def Tbl.put (h : Tbl Nat) (v : Nat × Nat) : Tbl Nat := if Tbl.get 0x2000 h v.1 = v.2 then h else h.set v.1 v.2

theorem Tbl.get_put (h : Tbl Nat) (v : Nat × Nat) (k : Nat) : Tbl.get 0x2000 (Tbl.put h v) k = if k = v.1 then v.2 else Tbl.get 0x2000 h k := by
  unfold Tbl.put
  split_ifs with heq hk hk
  · rw [hk, heq]
  · rfl
  · rw [hk, Tbl.get_set_self]
  · rw [Tbl.get_set_of_ne _ _ _ hk]

/-- Figures that are a function of their places, put into a table one by one. -/
theorem Tbl.get_foldl_put {F : Nat → Nat} (l : List (Nat × Nat)) (hF : ∀ v ∈ l, v.2 = F v.1) (h : Tbl Nat) (k : Nat) :
    Tbl.get 0x2000 (l.foldl Tbl.put h) k = if k ∈ l.map (·.1) then F k else Tbl.get 0x2000 h k := by
  induction l generalizing h with
  | nil => rfl
  | cons v l ih =>
    rw [List.foldl_cons, ih (fun w hw => hF w (List.mem_cons_of_mem _ hw)), Tbl.get_put, hF v List.mem_cons_self]
    by_cases hk : k = v.1
    · rw [if_pos hk, hk, ite_self, if_pos (by simp)]
    · simp only [if_neg hk, List.map_cons, List.mem_cons, or_iff_right hk]

/-- The HOLD figures of a list of cells, each at its cell and port. -/
def State.holdFigures (s : State) (cells : List Nat) : List (Nat × Nat) :=
  cells.flatMap (fun d => (List.range 4).map (fun p => (d * 4 + p, vget 0x2000 (s.cell d).need.hold p)))

/-- The table of a generator after it has adopted them. -/
def State.holdTable (s : State) (n : Nat) : Tbl Nat := (s.holdFigures (s.job (s.cellJob n)).cells).foldl Tbl.put (s.cell n).hold

theorem exec_holdAdopt (s : State) (n : Nat) :
    exec (.holdAdopt n) s = .next (s.updCell n (fun c => { c with holdSince := none, hold := s.holdTable n })) := rfl

theorem State.mem_holdFigures {s : State} {cells : List Nat} {d p : Nat} (hp : p < 4) :
    d * 4 + p ∈ (s.holdFigures cells).map (·.1) ↔ d ∈ cells := by
  simp only [State.holdFigures, List.map_flatMap, List.map_map, List.mem_flatMap, List.mem_map, List.mem_range, Function.comp]
  constructor
  · rintro ⟨e, he, k, hk, h⟩
    rwa [show d = e by omega]
  · exact fun hd => ⟨d, hd, p, hp, rfl⟩

theorem State.holdTable_get (s : State) (n : Nat) {d p : Nat} (hp : p < 4) : Tbl.get 0x2000 (s.holdTable n) (d * 4 + p) =
    if d ∈ (s.job (s.cellJob n)).cells then vget 0x2000 (s.cell d).need.hold p else (s.cell n).adopted d p := by
  have hF : ∀ v ∈ s.holdFigures (s.job (s.cellJob n)).cells, v.2 = vget 0x2000 (s.cell (v.1 / 4)).need.hold (v.1 % 4) := by
    simp only [State.holdFigures, List.mem_flatMap, List.mem_map, List.mem_range]
    rintro _ ⟨e, -, k, hk, rfl⟩
    dsimp only
    rw [show (e * 4 + k) / 4 = e by omega, show (e * 4 + k) % 4 = k by omega]
  have hdiv : (d * 4 + p) / 4 = d := by omega
  have hmod : (d * 4 + p) % 4 = p := by omega
  rw [State.holdTable, Tbl.get_foldl_put (F := fun k => vget 0x2000 (s.cell (k / 4)).need.hold (k % 4)) _ hF, hdiv, hmod]
  simp only [State.mem_holdFigures hp]
  rfl

/-! ### A translation leaves the walks that wait (14 R271, R272) -/

theorem State.wsRecord_walks (s : State) (j va : Nat) : (s.wsRecord j va).walks = s.walks := by
  unfold State.wsRecord
  dsimp only
  split_ifs <;> rfl

theorem State.walkLeaf_walks (s : State) (j va : Nat) (k : Kind) (lv stack sa : Nat) (e : Word) :
    (s.walkLeaf j va k lv stack sa e).1.walks = s.walks := by
  have hread : (State.wsRecord (if pteAc e then s else (s.hbmPut stack sa 8 (e ||| 0x20#64).toNat).countAccess stack sa) j va).walks = s.walks :=
    (State.wsRecord_walks ..).trans (by split_ifs <;> rfl)
  unfold State.walkLeaf
  dsimp only
  generalize State.wsRecord (if pteAc e then s else _) j va = t at hread ⊢
  split
  · rfl
  · split
    · rfl
    · split
      · exact hread
      · split
        · exact hread
        · split
          · exact hread
          · split
            · exact hread
            · split <;> exact hread

theorem State.walkFrom_walks (fuel : Nat) : ∀ (s : State) (j va : Nat) (k : Kind) (lv stack base : Nat),
    (s.walkFrom j va k fuel lv stack base).1.walks = s.walks := by
  induction fuel with
  | zero => intros; rfl
  | succ fuel ih =>
    intro s j va k lv stack base
    unfold State.walkFrom
    dsimp only
    split_ifs
    · rfl
    · rfl
    · rfl
    · rfl
    · rfl
    · exact State.walkLeaf_walks ..
    · exact ih ..

theorem State.walk_walks (s : State) (j va : Nat) (k : Kind) : (s.walk j va k).1.walks = s.walks := by
  unfold State.walk
  split_ifs
  · rfl
  · rfl
  · exact State.walkFrom_walks ..

theorem State.dieTranslate_walks (s : State) (die j va : Nat) (k : Kind) : (s.dieTranslate die j va k).1.walks = s.walks := by
  unfold State.dieTranslate
  split
  · rfl
  · dsimp only
    split <;> exact State.walk_walks ..

/-! ### Walks (14 R272, 22 R360) -/

/-- The tiles that wait for a walk take the entry of its leaf, if it gives one. -/
def State.cacheLeaf (s : State) (x : Option TlbEnt) (rs : List (Nat × Req)) : State :=
  match x with
  | some e => s.cacheAt e rs
  | none => s

section
variable {s : State} {k : Nat} {w : Walk} (hw : s.walks[k]? = some w)
  (hfree : ((s.walks.take k).filter (fun x => x.die == w.die)).length < 64)
include hw hfree

/-- A walk that ends in an address: the entry is cached and its requests are let go or frozen. -/
theorem exec_walkComplete_ok {va st sa : Nat} {kd : Kind} {e : TlbEnt} {u : State}
    (hva : (((s.walkReqs w).head?.map (fun e => (e.2.addrNow, e.2.accessNow))).or w.own) = some (va, kd))
    (ht : s.dieTranslate w.die w.job va kd = (u, some e, .ok st sa)) :
    exec (.walkComplete k) s = .next ((({ u with walks := s.walks.eraseIdx k } : State).cacheAt e (s.walkReqs w)).walkEnd (s.walkReqs w)
      (u.walkFault kd (some e) (.ok st sa))) := by
  have hu : u.walks = s.walks := by
    have := s.dieTranslate_walks w.die w.job va kd
    rwa [ht] at this
  show execWalkComplete k s = _
  simp only [execWalkComplete, hw, if_neg (Nat.not_le.mpr hfree), hva, ht, hu]

/-- A walk that ends in a fault. -/
theorem exec_walkComplete_fault {va cause code : Nat} {kd : Kind} {x : Option TlbEnt} {u : State}
    (hva : (((s.walkReqs w).head?.map (fun e => (e.2.addrNow, e.2.accessNow))).or w.own) = some (va, kd))
    (ht : s.dieTranslate w.die w.job va kd = (u, x, .fault cause code)) :
    exec (.walkComplete k) s = .next ((({ u with walks := s.walks.eraseIdx k } : State).cacheLeaf x (s.walkReqs w)).walkEnd (s.walkReqs w)
      (u.walkFault kd x (.fault cause code))) := by
  have hu : u.walks = s.walks := by
    have := s.dieTranslate_walks w.die w.job va kd
    rwa [ht] at this
  show execWalkComplete k s = _
  simp only [execWalkComplete, hw, if_neg (Nat.not_le.mpr hfree), hva, ht, hu]
  cases x <;> rfl

end

/-- No request of a list without a fault stands behind a faulting one. -/
theorem walkFaulting_none {rs : List (Nat × Req)} {f : Req → Option (Nat × Nat)} (h : ∀ e ∈ rs, f e.2 = none) (e : Nat × Req) :
    walkFaulting rs f e = none := by
  have hnil : rs.filter (fun x => x.1 == e.1 && x.2.g == e.2.g && x.2.id ≤ e.2.id && (f x.2).isSome) = [] :=
    List.filter_eq_nil_iff.mpr (fun x hx => by simp [h x hx])
  rw [walkFaulting, hnil]
  rfl

/-- Where none faults, each is looked up again. -/
theorem State.walkEnd_none (s : State) {rs : List (Nat × Req)} {f : Req → Option (Nat × Nat)} (h : ∀ e ∈ rs, f e.2 = none) :
    s.walkEnd rs f = rs.foldl (fun (s : State) e => s.updA e.1 (fun a => a.updReq e.2.id (fun q => { q with stage := q.again }))) s := by
  unfold State.walkEnd
  simp only [walkFaulting_none h]

/-- The oldest of a template that faults freezes it, and a younger one of that template is held with it. -/
theorem State.walkEnd_pair (s : State) (n : Nat) {q x : Req} {f : Req → Option (Nat × Nat)} {cause code : Nat} (hg : q.g = x.g)
    (hid : q.id < x.id) (hq : f q = some (cause, code)) : s.walkEnd [(n, q), (n, x)] f =
      (s.freezeReq n q.id cause code .faulted).updA n (fun a => a.updReq x.id (fun r => { r with stage := .faulted, heldBy := q.id })) := by
  have h1 : walkFaulting [(n, q), (n, x)] f (n, q) = some q.id := by
    simp [walkFaulting, hg, hq, Nat.not_le.mpr hid]
  have h2 : walkFaulting [(n, q), (n, x)] f (n, x) = some q.id := by
    cases hx : f x <;> simp [walkFaulting, hg, hq, hx, hid.le]
  simp only [State.walkEnd, List.foldl_cons, List.foldl_nil, h1, h2, hq, if_true, if_neg hid.ne]

theorem State.walkEnd_single (s : State) (n : Nat) {q : Req} {f : Req → Option (Nat × Nat)} {cause code : Nat} (hq : f q = some (cause, code)) :
    s.walkEnd [(n, q)] f = s.freezeReq n q.id cause code .faulted := by
  have h1 : walkFaulting [(n, q)] f (n, q) = some q.id := by simp [walkFaulting, hq]
  simp only [State.walkEnd, List.foldl_cons, List.foldl_nil, h1, hq, if_true]

end Sys2Proof.Machine

open Sys2Proof Sys2Proof.Machine in
/-- Settles O48: the stage's only head is served; numbering and placing a request change its place's queue alone; a walk's end goes through
its requests in order. -/
theorem requestsLeaveTheIssueStage : Obligations.RequestsLeaveTheIssueStage := by
  intro s n g q a
  refine ⟨fun arb hdue hcopy hothers hg hq ho hh hw hv hrels hacq hnode harb => ?decided,
    fun hdue hg hbefore hq hl => ⟨_, exec_issueStageDecision_copy hdue hg hbefore hq hl, rfl⟩, State.leave_stream,
    fun d off hsp ht hd hp => ?placed, fun hq hm hu h64 hmax => ⟨_, exec_holdRelease hq hm hu h64 hmax, rfl⟩, ?adopt,
    fun k w e st sa hk hfree rs q0 c0 u hrs ht => ?walk, fun rs f hf => s.walkEnd_none hf,
    fun f cause code x hg hid hf => s.walkEnd_pair n hg hid hf, fun k w va kd e st sa u hk hfree hrs hown ht => ?core,
    fun k w cause code hk hfree c0 u x hrs ht => ?fault⟩
  case decided =>
    have hl : s.canLeave n q = true := State.canLeave_of (by
      rw [Req.tmplNow_of_not_writeHalf hw, State.stageHead_g hq]; exact hv)
    exact ⟨_, exec_issueStageDecision_one hdue hcopy harb
      (State.stageHeads_request hnode hg (State.offered_some hq ho hh hl) hothers hrels hacq), rfl⟩
  case placed =>
    rw [State.leave_sram hsp ht]
    obtain ⟨hqs, hacc, hseq⟩ := State.placeAt_port_queues (s.numberStore n q) n q (q.writeHalf || q.kind == .write)
      ((s.numberStore n q).placedOf n q (q.writeHalf || q.kind == .write) off ((s.numberStore n q).islandCycle d)) hd hp
    rw [State.numberStore_port] at hqs hacc
    rw [State.numberStore_placedOf, State.numberStore_islandCycle] at hqs hacc hseq ⊢
    exact ⟨hqs, hacc, hseq.trans (State.numberStore_seq ..)⟩
  case adopt =>
    refine ⟨_, exec_holdAdopt s n, OnlyCell.updCell .., by rw [State.updCell_self], fun d p hd hp => ?_, fun d p hd hp => ?_⟩
    all_goals rw [State.updCell_self]
    · exact (s.holdTable_get n hp).trans (if_pos hd)
    · exact (s.holdTable_get n hp).trans (if_neg hd)
  case walk =>
    have hx := exec_walkComplete_ok hk hfree (va := q0.addrNow) (kd := q0.accessNow) (by rw [hrs]; rfl) ht
    rw [hrs] at hx
    exact ⟨_, hx, rfl⟩
  case core =>
    have hx := exec_walkComplete_ok hk hfree (by rw [hrs]; exact hown) ht
    rw [hrs] at hx
    exact ⟨_, hx, rfl⟩
  case fault =>
    have hx := exec_walkComplete_fault hk hfree (va := q.addrNow) (kd := q.accessNow) (by rw [hrs]; rfl) ht
    have hf : u.walkFault q.accessNow x (.fault cause code) q = some (cause, code) := if_pos (by simp)
    rw [hrs, State.walkEnd_single _ _ hf] at hx
    exact ⟨_, hx, rfl⟩

end

/-!
PROOF. How requests are served (11 R228, 12 R254, 16 R292): delivery of the oldest answered read, the request that a stack picks, and
atomics.
-/

section
namespace Sys2Proof.Machine

/-! ### Delivery (11 R228) -/

/-- The packet of an answered read on its template's stream. -/
def State.streamPacket (s : State) (n g : Nat) (q : Req) (tok : Token) : Packet :=
  let a := s.aset n; let t := a.tmpl g
  { mkPacket s n (streamSrck n g) a.iss.reach t.route tok with
    marked := q.marked, mark := q.mark, mctr := BitVec.ofNat 12 (t.mcell + t.mctr * 2 ^ 9)
    xfer := if q.marked then some ⟨n, g, q.reqno.toNat⟩ else none }

/-- A stream has no boundary node, so its tokens keep their format. -/
theorem State.streamPacket_tok (s : State) (n g : Nat) (q : Req) (tok : Token) :
    (s.streamPacket n g q tok).tok = { tok with vchan := ((s.aset n).tmpl g).vchan } := by
  simp [State.streamPacket, mkPacket, Template.route]

section
variable {s : State} {n g : Nat} {q : Req} {tok : Token}

theorem exec_readDeliver (hq : (s.aset n).q.find? (fun q => q.g == g && q.streams) = some q) (hs : q.stage = .answered)
    (ha : q.ans = some tok) (hst : ((s.aset n).tmpl g).hasStream = true)
    (hfree : (s.cell n).routeFree 6 (some ((s.aset n).tmpl g).route) = true) :
    exec (.readDeliver n g) s = .next ((s.pushPacket n 6 (s.streamPacket n g q tok)).updA n (fun a => (a.dropReq q.id).setTmpl g (fun t =>
      { t with delivered := t.delivered + (if q.kind = .s2s then 0 else 1) }))) := by
  have hone : (b2n (q.kind != .s2s) : BitVec 32) = if q.kind = .s2s then 0 else 1 := by
    by_cases h : q.kind = .s2s <;> simp [h, b2n]
  have hnfree : ¬ (!(s.cell n).routeFree portA (some ((s.aset n).tmpl g).route)) = true := by
    rw [show (s.cell n).routeFree portA _ = true from hfree]; decide
  show execReadDeliver n g s = _
  unfold execReadDeliver
  dsimp only
  rw [hq]
  dsimp only
  rw [hs, ha]
  dsimp only
  rw [if_neg (by rw [hst]; decide), if_neg hnfree, hone]
  rfl

/-! ### Stacks (12 R254) -/

section
variable {k i : Nat} {p : Placed} {u : State} (hp : s.stackPick k = some (i, p, u)) (hq : s.reqOf p = some q)
  (hk : ∀ op sc out et, q.kind ≠ .atom op sc out et)
include hp hq hk

/-- What a stack does with a request that is not an atomic. -/
theorem exec_hbmRequest : exec (.hbmRequest k) s = .next (
    if p.write then
      ((u.stackTake k i).writeAt (s.reachJob (s.aset p.cell).iss.reach) q.addrNow k p.addr 64
        (if q.writeHalf then (q.ans.getD Token.zero).payload else q.tok.payload).toNat).applied p.cell q (destStack k) true
    else if (u.stackTake k i).hbmBad k p.addr then ((u.stackTake k i).countAccess k p.addr).stackBad k p q
    else ((u.stackTake k i).countAccess k p.addr).answer p.cell q
      (((u.stackTake k i).aset p.cell).readTok q ((u.stackTake k i).hbmUnit k p.addr))) := by
  show execHbmRequest k s = _
  unfold execHbmRequest
  rw [hp]
  dsimp only
  rw [hq]
  dsimp only
  cases hkind : q.kind with
  | atom op sc out et => exact absurd hkind (hk op sc out et)
  | _ => dsimp only; split_ifs <;> rfl

end

/-! ### Atomics (16 R292) -/

section
variable {op : BitVec 4} {sc : BitVec 3} {out : Nat} {et : BitVec 2} (hk : q.kind = .atom op sc out et)
  (hq : (s.aset n).req? q.id = some q)
include hk hq

/-- The token of a performed atomic leaves when its output has room. -/
theorem exec_atomPerformed_answered (hs : q.stage = .answered) (ha : q.ans = some tok)
    (hfree : (s.cell n).routeFree 6 (vget none (s.aset n).iss.routes out) = true) :
    exec (.atomPerformed n q.id) s = .next ((s.emit n 1 (s.aset n).iss out tok).updA n (fun a => a.dropReq q.id)) := by
  show execAtomPerformed n q.id s = _
  simp only [execAtomPerformed, hq, hk, hs, State.emitAtom, ha]
  exact congrArg _ (if_pos hfree)

theorem exec_atomPerformed_placed (hs : q.stage = .placed) {t : State} (ht : s.performAtom n q = some t) :
    exec (.atomPerformed n q.id) s = .next (t.emitAtom n q.id) := by
  show execAtomPerformed n q.id s = _
  simp only [execAtomPerformed, hq, hk, hs, ht]

end

/-- An atomic that a plain port serves: the word is combined in its unit, and the old word is the answer. -/
theorem State.performAtom_sram {op : BitVec 4} {sc : BitVec 3} {out : Nat} {et : BitVec 2} (hk : q.kind = .atom op sc out et)
    (hsp : ((s.aset n).tmpl q.g).space = .sram) {d off i : Nat} {p : Placed} {u : State}
    (ht : s.sramTarget n (s.aset n).iss.reach (BitVec.ofNat 64 q.addr) = .ok (d, off))
    (hp : s.portPick d ((s.aset n).tmpl q.g).homePort = some (i, p, u)) (hc : p.cell = n) (hid : p.id = q.id)
    (hr : (s.port d ((s.aset n).tmpl q.g).homePort).role = 1) (hb : s.sramBad d p.addr = false) :
    let key := d * 2 ^ 22 + p.addr + 8 * q.atomWord; let old := memWord s.sram key
    s.performAtom n q = some (((u.portTake d ((s.aset n).tmpl q.g).homePort i).sramPut d p.addr
      (memUnit (memWrite s.sram key 8 (amoNew op old (q.tok.payload.setWidth 64)).toNat) (d * 2 ^ 22 + p.addr))).answer n q
        ⟨.order, sc, 0, et, old.setWidth 512⟩) := by
  have hop : q.atomOp = op := by rw [Req.atomOp, hk]
  have htok (old : Word) : q.atomTok old = ⟨.order, sc, 0, et, old.setWidth 512⟩ := by rw [Req.atomTok, hk]; rfl
  intro key old
  unfold State.performAtom
  dsimp only
  rw [hsp]
  dsimp only
  rw [ht]
  dsimp only
  rw [hp]
  dsimp only
  rw [if_neg (by simp [hc, hid]), if_neg (Bool.eq_false_iff.mp hb), if_neg (by rw [hr]; decide), hop, htok]
  rfl

end

end Sys2Proof.Machine

open Sys2Proof Sys2Proof.Machine in
/-- Settles O49: each place serves the request that it picks. -/
theorem requestsAreServed : Obligations.RequestsAreServed := by
  intro s n g q tok a t
  refine ⟨fun hq hs ha hst hfree => ?deliver, fun k i p u hp hq hc hk => ?stack,
    fun op sc out et hk hq hs ha hfree => ⟨_, exec_atomPerformed_answered hk hq hs ha hfree, rfl⟩,
    fun op sc out et d off i p u hk hq hs hsp ht hp hc hid hr hb => ?atomic⟩
  case deliver =>
    exact ⟨_, _, exec_readDeliver hq hs ha hst hfree, s.streamPacket_tok n g q tok, rfl, rfl, rfl, rfl, rfl, rfl, rfl, rfl⟩
  case stack =>
    have hne : ∀ op sc out et, q.kind ≠ .atom op sc out et := fun op sc out et h => by simp only [h] at hk
    have hx := exec_hbmRequest hp hq hne
    rw [hc] at hx
    refine ⟨fun hw hb => ?_, fun hw hh => ?_⟩
    · rw [hw, hb] at hx
      exact ⟨_, hx, rfl⟩
    · rw [hw, hh] at hx
      exact ⟨_, hx, rfl⟩
  case atomic =>
    exact ⟨_, _, exec_atomPerformed_placed hk hq hs (State.performAtom_sram hk hsp ht hp hc hid hr hb), rfl, rfl⟩

end

/-!
PROOF. The words of the port table (11 R238): a role word resets its port, the words that tune a role act in it, and PBAR with INIT
writes zeros over every object of its window (16 R287, R289).
-/

section
namespace Sys2Proof.Machine

/-! ### Bytes of words that read zero -/

theorem memGet_of_memRead_zero (m : List Host.Cell) (n : Nat) : ∀ a, memRead m a n = 0 → ∀ i, i < n → memGet m (a + i) = 0 := by
  induction n with
  | zero => intro a _ i hi; omega
  | succ n ih =>
    intro a h i hi
    rw [memRead] at h
    cases i with
    | zero => exact BitVec.eq_of_toNat_eq (by simpa using (by omega : (memGet m a).toNat = 0))
    | succ i => rw [show a + (i + 1) = a + 1 + i by omega]; exact ih (a + 1) (by omega) i (by omega)

theorem memRead_lt (m : List Host.Cell) (n : Nat) : ∀ a, memRead m a n < 256 ^ n := by
  induction n with
  | zero => intro a; exact Nat.one_pos
  | succ n ih =>
    intro a
    have h := ih (a + 1)
    have hb := (memGet m a).isLt
    rw [memRead, pow_succ]
    omega

theorem memGet_of_memWord_zero {m : List Host.Cell} {a : Nat} (h : memWord m a = 0) {i : Nat} (hi : i < 8) : memGet m (a + i) = 0 := by
  refine memGet_of_memRead_zero m 8 a ?_ i hi
  have hlt := memRead_lt m 8 a
  have ht := congrArg BitVec.toNat h
  rw [memWord, BitVec.toNat_ofNat, Nat.mod_eq_of_lt (by omega)] at ht
  exact ht

theorem State.memGet_of_objWord_zero {s : State} {key : Nat} (h : ∀ i, 1 ≤ i → i < 8 → s.objWord key i = 0) {a : Nat}
    (ha : key + 8 ≤ a) (hb : a < key + 64) : memGet s.sram a = 0 := by
  have := memGet_of_memWord_zero (h ((a - key) / 8) (by omega) (by omega)) (i := (a - key) % 8) (by omega)
  rwa [show key + 8 * ((a - key) / 8) + (a - key) % 8 = a by omega] at this

/-! ### A change of the objects of a range -/

/-- From s to t no byte and no entry of cell n outside the range [lo, hi) of the scratchpads changes, and no memory tile's set. -/
def ObjRange (n lo hi : Nat) (s t : State) : Prop :=
  Memory.wf t.sram = true ∧ (∀ k, t.mset k = s.mset k) ∧
    ∀ a, a < lo ∨ hi ≤ a → memGet t.sram a = memGet s.sram a ∧ (t.cell n).entriesOf a = (s.cell n).entriesOf a

/-- Nobody is known at an object and nobody has arrived (16 R289). -/
def State.ObjQuiet (s : State) (n key : Nat) : Prop := (s.cell n).entriesOf key = [] ∧ ∀ x, x < 4 → s.objArrived key x = 0

/-- An object that a write of zeros leaves, which is broken unless it was quiet (16 R285, R289). -/
def State.ObjZeroed (s : State) (n key : Nat) (quiet : Prop) : Prop :=
  (∀ a, key + 8 ≤ a → a < key + 64 → memGet s.sram a = 0) ∧ (s.objWord key 0).setWidth 33 = 0 ∧
    (s.objBroken key = true ↔ ¬ quiet) ∧ (s.cell n).entriesOf key = []

theorem ObjRange.mono {n lo hi lo' hi' : Nat} {s t : State} (h : ObjRange n lo hi s t) (hl : lo' ≤ lo) (hh : hi ≤ hi') :
    ObjRange n lo' hi' s t := by
  obtain ⟨hwf, hm, ha⟩ := h
  exact ⟨hwf, hm, fun a h => ha a (by omega)⟩

theorem ObjRange.trans {n lo hi : Nat} {s t u : State} (h : ObjRange n lo hi s t) (g : ObjRange n lo hi t u) : ObjRange n lo hi s u := by
  obtain ⟨_, hm, ha⟩ := h
  obtain ⟨gwf, gm, ga⟩ := g
  exact ⟨gwf, fun k => (gm k).trans (hm k), fun a h => ⟨(ga a h).1.trans (ha a h).1, (ga a h).2.trans (ha a h).2⟩⟩

section
variable {n lo hi key : Nat} {s t : State}

theorem ObjRange.objWord (h : ObjRange n lo hi s t) (hk : key + 64 ≤ lo ∨ hi ≤ key) {i : Nat} (hi : i < 8) :
    t.objWord key i = s.objWord key i := by
  unfold State.objWord memWord
  rw [memRead_congr 8 (fun j hj => (h.2.2 _ (by omega)).1)]

theorem ObjRange.quiet_iff (h : ObjRange n lo hi s t) (hk : key + 64 ≤ lo ∨ hi ≤ key) :
    t.ObjQuiet n key ↔ s.ObjQuiet n key := by
  have hent := (h.2.2 key (by omega)).2
  have harr : ∀ x, x < 4 → t.objArrived key x = s.objArrived key x := fun x hx => by
    rw [State.objArrived, State.objArrived, h.objWord hk (by omega)]
  unfold State.ObjQuiet
  rw [hent]
  exact and_congr_right fun _ => forall₂_congr fun x hx => by rw [harr x hx]

theorem ObjRange.zeroed {quiet : Prop} (h : ObjRange n lo hi s t) (hk : key + 64 ≤ lo ∨ hi ≤ key)
    (hz : s.ObjZeroed n key quiet) : t.ObjZeroed n key quiet := by
  obtain ⟨hb, h0, hbr, he⟩ := hz
  have hw := h.objWord hk (i := 0) (by omega)
  refine ⟨fun a ha hb' => (h.2.2 a (by omega)).1.trans (hb a ha hb'), ?_, ?_, (h.2.2 key (by omega)).2.trans he⟩
  · rw [hw, h0]
  · rw [State.objBroken, hw]; exact hbr

end

/-- Writing the words of one object stays within it. -/
theorem ObjRange.setObjWord {n key : Nat} {s t : State} (h : ObjRange n key (key + 64) s t) {i : Nat} (hi : i < 8) (v : Word) :
    ObjRange n key (key + 64) s (t.setObjWord key i v) := by
  obtain ⟨hwf, hm, ha⟩ := h
  refine ⟨t.setObjWord_wf key i v hwf, hm, fun a hr => ⟨?_, (ha a hr).2⟩⟩
  exact (memGet_memWrite_outside 8 _ hwf _ _ _ (by omega)).trans (ha a hr).1

theorem ObjRange.mend {n lo hi : Nat} {s t : State} (h : ObjRange n lo hi s t) (k a : Nat) : ObjRange n lo hi s (t.mend k a) := h

/-! ### A write of zeros to an object -/

theorem SameButLogs.sram {s t : State} (h : SameButLogs s t) : t.sram = s.sram := by rw [h]

section
variable (s : State) (d : Nat) (addr : Word) (gen : BitVec 32) (reason released arriver : Nat)

theorem State.barEvent_sram : (s.barEvent d addr gen reason released arriver).sram = s.sram := (State.event_logs ..).sram
theorem State.barEvent_cell (k : Nat) : (s.barEvent d addr gen reason released arriver).cell k = s.cell k := (State.event_logs ..).cell k

end

/-- The entries of an object are freed (16 R290). -/
def Cell.freeObj (key : Nat) (c : Cell) : Cell := { c with bars := c.bars.filter (fun b => b.obj != key) }

theorem Cell.entriesOf_freeObj (c : Cell) (key a : Nat) : (c.freeObj key).entriesOf a = if a = key then [] else c.entriesOf a := by
  unfold Cell.entriesOf Cell.freeObj
  rw [List.filter_filter]
  split
  · next h => subst h; exact List.filter_eq_nil_iff.mpr (fun b _ => by simp)
  · next h => exact List.filter_congr (fun b _ => by by_cases hb : b.obj = a <;> simp [hb, h])

theorem State.setObjWord_sram (s : State) (key i : Nat) (v : Word) :
    (s.setObjWord key i v).sram = memWrite s.sram (key + 8 * i) 8 v.toNat := rfl

/-- What breaking an object sends to the tile of one of its entries (16 R290). -/
def State.breakSend (key : Nat) (s : State) (e : BarEnt) : State :=
  let s := match e.wait with
    | some (_, w) => s.send (.release e.tile e.reach (s.objName e) w (s.objGen key) true)
    | none => s
  s.send (.reset e.tile e.reach (s.objName e))

theorem State.breakSend_eq (key : Nat) (s : State) (e : BarEnt) : ∃ l, s.breakSend key e = { s with ctl := l } := by
  unfold State.breakSend
  split <;> exact ⟨_, rfl⟩

theorem State.foldl_breakSend (key : Nat) (es : List BarEnt) : ∀ s : State, ∃ l, es.foldl (State.breakSend key) s = { s with ctl := l } := by
  induction es with
  | nil => exact fun s => ⟨s.ctl, rfl⟩
  | cons e es ih =>
    intro s
    obtain ⟨l, hl⟩ := s.breakSend_eq key e
    obtain ⟨l', hl'⟩ := ih (s.breakSend key e)
    exact ⟨l', by rw [List.foldl_cons, hl', hl]⟩

/-- An object's entries are told of its end and freed (16 R290). -/
def State.breakFreed (s : State) (n key : Nat) : State :=
  (((s.cell n).entriesOf key).foldl (State.breakSend key) s).updCell n (Cell.freeObj key)

theorem State.breakObj_eq (s : State) (n key : Nat) (addr : Word) (reason arriver : Nat) (gen0 : BitVec 32) :
    s.breakObj n key addr reason arriver gen0 =
      (((s.breakFreed n key).setObjWord key 0 ((s.breakFreed n key).objWord key 0 ||| (1#64 <<< 33))).putEnt n key).barEvent n addr gen0
        reason (((s.cell n).entriesOf key).filter (fun e => e.wait.isSome)).length arriver := rfl

theorem State.putEnt_eq (s : State) (n key : Nat) (h : (s.cell n).entriesOf key = []) : s.putEnt n key = s.setObjWord key 5 0 := by
  rw [State.putEnt, h]; rfl

/-- Breaking an object sets BROKEN, leaves it no entry, and touches nothing else of a cell or of memory. -/
theorem State.breakObj_parts (s : State) (n key : Nat) (addr : Word) (reason arriver : Nat) (gen0 : BitVec 32) :
    let u := (s.updCell n (Cell.freeObj key)).setObjWord key 0
      (s.objWord key 0 ||| (1#64 <<< 33))
    let t := s.breakObj n key addr reason arriver gen0
    t.sram = (u.setObjWord key 5 0).sram ∧ ∀ k, t.cell k = u.cell k := by
  obtain ⟨l, hl⟩ := State.foldl_breakSend key ((s.cell n).entriesOf key) s
  have hfreed : s.breakFreed n key = State.updCell { s with ctl := l } n (Cell.freeObj key) := by
    rw [State.breakFreed, hl]
  have hent : ∀ v : Word, (((s.breakFreed n key).setObjWord key 0 v).cell n).entriesOf key = [] := fun v => by
    change ((s.breakFreed n key).cell n).entriesOf key = []
    rw [hfreed, State.updCell_self]
    exact (Cell.entriesOf_freeObj _ key key).trans (if_pos rfl)
  have he := s.breakObj_eq n key addr reason arriver gen0
  rw [State.putEnt_eq _ _ _ (hent _), hfreed] at he
  intro u t
  have hcell : ∀ k, t.cell k = u.cell k := fun k => by
    rw [show t = _ from he, State.barEvent_cell, State.setObjWord_cell, State.setObjWord_cell, State.setObjWord_cell]
    rfl
  refine ⟨?_, hcell⟩
  rw [show t.sram = _ from congrArg State.sram he, State.barEvent_sram]
  simp only [u, State.setObjWord_sram, State.objWord_updCell, State.updCell_sram]
  rfl

/-! ### Zeros over the objects of a window -/

/-- What a write of zeros stores in an object before it sees who was known there. -/
def State.zeroStored (s : State) (n key : Nat) (broken : Bool) : State :=
  let u := s.updCell n (fun c => { c with barRefused := c.barRefused.filter (· != key) })
  let u := ((((u.setObjWord key 0 (objHead 0 false broken)).setObjWord key 1 0).setObjWord key 2 0).setObjWord key 3 0).setObjWord key 4 0
  ((u.setObjWord key 6 0).setObjWord key 7 0).mend 0 (key / 64)

theorem bits_zero (lo w : Nat) : bits (0 : Unit64) lo w = 0 := by simp [bits]
theorem bitsN_zero (lo w : Nat) : bitsN (0 : Word) lo w = 0 := by simp [bitsN]
theorem objSlot_zero : objSlot 0 0 = 0 := by decide

theorem State.objQuiet_iff (s : State) (n key : Nat) :
    (((s.cell n).entriesOf key).isEmpty && (List.range 4).all (fun p => s.objArrived key p == 0)) = true ↔ s.ObjQuiet n key := by
  simp [State.ObjQuiet]

theorem foldl_range_four {α : Type} (f : α → Nat → α) (a : α) : (List.range 4).foldl f a = f (f (f (f a 0) 1) 2) 3 := rfl

theorem State.writeObj_zero_eq (s : State) (n off : Nat) (addr : Word) (arriver : Nat) : let key := sramKey n off
    (s.ObjQuiet n key → s.writeObj n off 0 addr arriver = (s.zeroStored n key false).setObjWord key 5 0) ∧
      (¬ s.ObjQuiet n key → s.writeObj n off 0 addr arriver =
        (s.zeroStored n key true).breakObj n key addr 2 arriver (s.objGen key)) := by
  intro key
  have hhead : (bits (0 : Unit64) (64 * 0) 64).setWidth 32 = (0 : BitVec 32) := by rw [bits_zero]; rfl
  have hvalid : bitB (bits (0 : Unit64) (64 * 0) 64) 32 = false := by rw [bits_zero]; rfl
  have hslot : ∀ p, objSlot (bitsN (bits (0 : Unit64) (64 * (1 + p)) 64) 0 16) (bitsN (bits (0 : Unit64) (64 * (1 + p)) 64) 16 16) = 0 :=
    fun p => by rw [bits_zero, bitsN_zero, bitsN_zero, objSlot_zero]
  constructor
  · intro hq
    unfold State.writeObj
    dsimp only
    rw [(s.objQuiet_iff n key).mpr hq, hhead, hvalid, foldl_range_four]
    simp only [hslot]
    rfl
  · intro hq
    unfold State.writeObj
    dsimp only
    rw [Bool.eq_false_iff.mpr (fun h => hq ((s.objQuiet_iff n key).mp h)), hhead, hvalid, foldl_range_four]
    simp only [hslot]
    rfl

theorem State.updCell_mset_of_keeps (s : State) (n : Nat) {f : Cell → Cell} (hf : ∀ c, (f c).m = c.m) (k : Nat) :
    (s.updCell n f).mset k = s.mset k := by
  by_cases hk : k = n
  · subst hk; rw [State.mset, State.updCell_self, hf]; rfl
  · rw [State.mset, State.updCell_of_ne s f hk]; rfl

theorem State.mset_of_cell {s t : State} {k : Nat} (h : t.cell k = s.cell k) : t.mset k = s.mset k := by
  rw [State.mset, h]; rfl

theorem State.objWord_of_sram {s t : State} (h : t.sram = s.sram) (key i : Nat) : t.objWord key i = s.objWord key i := by
  rw [State.objWord, State.objWord, h]

theorem State.zeroStored_sram (s : State) (n key : Nat) (broken : Bool) : (s.zeroStored n key broken).sram =
    (((((((s.setObjWord key 0 (objHead 0 false broken)).setObjWord key 1 0).setObjWord key 2 0).setObjWord key 3 0).setObjWord key 4
      0).setObjWord key 6 0).setObjWord key 7 0).sram := by
  unfold State.zeroStored
  simp only [State.mend_sram, State.setObjWord_sram, State.updCell_sram]

section
variable {s : State} {n key : Nat} (hwf : Memory.wf s.sram = true) (broken : Bool)
include hwf

theorem State.zeroStored_range : ObjRange n key (key + 64) s (s.zeroStored n key broken) := by
  have h : ObjRange n key (key + 64) s (s.updCell n (fun c => { c with barRefused := c.barRefused.filter (· != key) })) :=
    ⟨hwf, State.updCell_mset_of_keeps s n (fun _ => rfl), fun a _ => ⟨rfl, by rw [State.updCell_self]; rfl⟩⟩
  unfold State.zeroStored
  dsimp only
  have h := ((((h.setObjWord (i := 0) (by omega) (objHead 0 false broken)).setObjWord (i := 1) (by omega) 0).setObjWord (i := 2)
    (by omega) 0).setObjWord (i := 3) (by omega) 0).setObjWord (i := 4) (by omega) 0
  exact ((h.setObjWord (i := 6) (by omega) 0).setObjWord (i := 7) (by omega) 0).mend 0 (key / 64)

omit hwf in
theorem State.zeroStored_entries : ((s.zeroStored n key broken).cell n).entriesOf key = (s.cell n).entriesOf key := by
  unfold State.zeroStored
  simp only [State.mend_cell, State.setObjWord_cell, State.updCell_self]
  rfl

theorem State.zeroStored_objWord {i : Nat} (hi : i < 8) (h5 : i ≠ 5) : (s.zeroStored n key broken).objWord key i =
    if i = 0 then objHead 0 false broken else 0 := by
  have h0 := State.setObjWord_wf _ key 0 (objHead 0 false broken) hwf
  have h1 := State.setObjWord_wf _ key 1 0 h0
  have h2 := State.setObjWord_wf _ key 2 0 h1
  have h3 := State.setObjWord_wf _ key 3 0 h2
  have h4 := State.setObjWord_wf _ key 4 0 h3
  have h6 := State.setObjWord_wf _ key 6 0 h4
  rw [State.objWord_of_sram (s := State.setObjWord _ key 7 0) (s.zeroStored_sram n key broken), State.objWord_setObjWord _ h6,
    State.objWord_setObjWord _ h4, State.objWord_setObjWord _ h3, State.objWord_setObjWord _ h2, State.objWord_setObjWord _ h1,
    State.objWord_setObjWord _ h0, State.objWord_setObjWord _ hwf]
  interval_cases i <;> simp at h5 ⊢

/-- Breaking the object that a write of zeros left (16 R289). -/
theorem State.breakObj_range (addr : Word) (reason arriver : Nat) (gen0 : BitVec 32) :
    ObjRange n key (key + 64) s (s.breakObj n key addr reason arriver gen0) := by
  obtain ⟨hsram, hcell⟩ := s.breakObj_parts n key addr reason arriver gen0
  have h : ObjRange n key (key + 64) s (s.updCell n (Cell.freeObj key)) :=
    ⟨hwf, State.updCell_mset_of_keeps s n (fun _ => rfl), fun a ha => ⟨rfl, by
      rw [State.updCell_self]; exact (Cell.entriesOf_freeObj _ key a).trans (if_neg (by omega))⟩⟩
  obtain ⟨kwf, km, ka⟩ := (h.setObjWord (i := 0) (by omega) (s.objWord key 0 ||| (1#64 <<< 33))).setObjWord (i := 5) (by omega) 0
  refine ⟨by rw [hsram]; exact kwf, fun k => ?_, fun a ha => ?_⟩
  · exact (State.mset_of_cell (hcell k)).trans ((State.setObjWord_mset ..).symm.trans (km k))
  · obtain ⟨hb, he⟩ := ka a ha
    rw [State.setObjWord_cell] at he
    exact ⟨by rw [hsram]; exact hb, by rw [hcell]; exact he⟩

theorem State.breakObj_objWord (addr : Word) (reason arriver : Nat) (gen0 : BitVec 32) (i : Nat) :
    (s.breakObj n key addr reason arriver gen0).objWord key i =
      if i = 5 then (0 : Word) else if i = 0 then s.objWord key 0 ||| (1#64 <<< 33) else s.objWord key i := by
  obtain ⟨hsram, _⟩ := s.breakObj_parts n key addr reason arriver gen0
  have hu := State.setObjWord_wf (s.updCell n (Cell.freeObj key)) key 0
    (s.objWord key 0 ||| (1#64 <<< 33)) hwf
  rw [State.objWord_of_sram hsram, State.objWord_setObjWord _ hu, State.objWord_setObjWord (s.updCell n (Cell.freeObj key)) hwf,
    State.objWord_updCell]

omit hwf in
theorem State.breakObj_entries (addr : Word) (reason arriver : Nat) (gen0 : BitVec 32) :
    ((s.breakObj n key addr reason arriver gen0).cell n).entriesOf key = [] := by
  obtain ⟨_, hcell⟩ := s.breakObj_parts n key addr reason arriver gen0
  rw [hcell, State.setObjWord_cell, State.updCell_self]
  exact (Cell.entriesOf_freeObj _ key key).trans (if_pos rfl)

omit hwf in
theorem State.objZeroed_of_words {broken : Bool} {quiet : Prop}
    (h : ∀ i, i < 8 → s.objWord key i = if i = 0 then objHead 0 false broken else 0)
    (hb : broken = true ↔ ¬ quiet) (he : (s.cell n).entriesOf key = []) : s.ObjZeroed n key quiet := by
  have h0 := (h 0 (by omega)).trans (if_pos rfl)
  refine ⟨fun a => State.memGet_of_objWord_zero (fun i h1 hi => (h i hi).trans (if_neg (by omega))), ?_, ?_, he⟩
  · rw [h0]; cases broken <;> rfl
  · rw [State.objBroken, h0, (objHead_fields 0 false broken).2.2]; exact hb

/-- A write of zeros to an object: what it leaves, and what it leaves alone (16 R285, R289). -/
theorem State.writeObj_zero {off : Nat} (hkey : key = sramKey n off) (addr : Word) (arriver : Nat) :
    ObjRange n key (key + 64) s (s.writeObj n off 0 addr arriver) ∧
      (s.writeObj n off 0 addr arriver).ObjZeroed n key (s.ObjQuiet n key) := by
  obtain ⟨hquiet, hnoisy⟩ := s.writeObj_zero_eq n off addr arriver
  rw [← hkey] at hquiet hnoisy
  by_cases hq : s.ObjQuiet n key
  · rw [hquiet hq]
    have hz := State.zeroStored_range (n := n) (key := key) hwf false
    refine ⟨hz.setObjWord (by omega) 0, State.objZeroed_of_words (broken := false) (fun i hi => ?_)
      (iff_of_false (by decide) (not_not_intro hq)) ?_⟩
    · rw [State.objWord_setObjWord _ hz.1]
      split
      · next h5 => subst h5; rfl
      · next h5 => exact State.zeroStored_objWord hwf false hi h5
    · rw [State.setObjWord_cell, State.zeroStored_entries]; exact hq.1
  · rw [hnoisy hq]
    have hz := State.zeroStored_range (n := n) (key := key) hwf true
    refine ⟨hz.trans (State.breakObj_range hz.1 ..), State.objZeroed_of_words (broken := true) (fun i hi => ?_)
      (iff_of_true rfl hq) (State.breakObj_entries ..)⟩
    rw [State.breakObj_objWord hz.1]
    split
    · next h5 => subst h5; rfl
    · next h5 =>
      rw [State.zeroStored_objWord hwf true hi h5, State.zeroStored_objWord hwf true (by omega) (by omega)]
      split
      · rfl
      · rfl

end

theorem sramKey_add (n off k : Nat) : sramKey n (off + k) = sramKey n off + k := (Nat.add_assoc ..).symm

/-- Zeros written over a window: every object of it, and nothing beside it. -/
theorem State.zeroObjs_zeroes (n writer len : Nat) : ∀ (s : State) (off : Nat), Memory.wf s.sram = true →
    ObjRange n (sramKey n off) (sramKey n off + 64 * len) s (s.zeroObjs n writer off len) ∧
      ∀ i, i < len → (s.zeroObjs n writer off len).ObjZeroed n (sramKey n off + 64 * i) (s.ObjQuiet n (sramKey n off + 64 * i)) := by
  induction len with
  | zero => exact fun s off hwf => ⟨⟨hwf, fun _ => rfl, fun _ _ => ⟨rfl, rfl⟩⟩, fun i hi => absurd hi (Nat.not_lt_zero i)⟩
  | succ len ih =>
    intro s off hwf
    obtain ⟨hr, hz⟩ := State.writeObj_zero hwf rfl (off := off) (s.objAddr (s.mset n).reach (sramKey n off)) writer
    obtain ⟨kr, kz⟩ := ih (s.writeObj n off 0 (s.objAddr (s.mset n).reach (sramKey n off)) writer) (off + 64) hr.1
    rw [sramKey_add] at kr kz
    rw [State.zeroObjs]
    generalize s.writeObj n off 0 (s.objAddr (s.mset n).reach (sramKey n off)) writer = t at hr hz kr kz ⊢
    refine ⟨(hr.mono (by omega) (by omega)).trans (kr.mono (by omega) (by omega)), fun i hi => ?_⟩
    cases i with
    | zero => simpa only [Nat.mul_zero, Nat.add_zero] using kr.zeroed (by omega) hz
    | succ i =>
      have h := kz i (by omega)
      rw [show sramKey n off + 64 + 64 * i = sramKey n off + 64 * (i + 1) by omega] at h
      rwa [propext (hr.quiet_iff (key := sramKey n off + 64 * (i + 1)) (by omega))] at h

/-! ### The words -/

theorem OnlyCell.updPort (s : State) (n p : Nat) (f : MPort → MPort) : OnlyCell n s (s.updPort n p f) := by
  unfold State.updPort State.updM; exact OnlyCell.updCell ..

theorem OnlyCell.updM (s : State) (n : Nat) (f : MSet → MSet) : OnlyCell n s (s.updM n f) := by
  unfold State.updM; exact OnlyCell.updCell ..

/-- A port after PCLR with the given mask (11 R238). -/
def MPort.cleared (b : Nat → Bool) (p : MPort) : MPort :=
  let p := { p with discardSeen := false }
  let p := if b 0 && p.fe then { p with feInit := false, feBits := [] } else p
  let p := if b 1 then { p with cnt := 0 } else p
  let p := if b 2 then { p with wp := 0, reorder := [] } else p
  if b 4 then { p with fifo := [], refused := p.refused + BitVec.ofNat 32 p.fifo.length } else p

theorem MPort.cleared_eq (b : Nat → Bool) (p : MPort) : p.cleared b = { p with
    discardSeen := false, feInit := p.feInit && !(b 0 && p.fe), feBits := if b 0 && p.fe then [] else p.feBits
    cnt := if b 1 then 0 else p.cnt, wp := if b 2 then 0 else p.wp, reorder := if b 2 then [] else p.reorder
    fifo := if b 4 then [] else p.fifo
    refused := if b 4 then p.refused + BitVec.ofNat 32 p.fifo.length else p.refused } := by
  unfold MPort.cleared
  cases b 1 <;> cases b 2 <;> cases b 4 <;> cases h : b 0 && p.fe <;> simp [h]

theorem State.port_of_mset {s t : State} {n : Nat} (h : t.mset n = s.mset n) (k : Nat) : t.port n k = s.port n k :=
  congrArg (·.port k) h

theorem State.updPort_hwm (s : State) (n k : Nat) (f : MPort → MPort) : ((s.updPort n k f).cell n).hwm = (s.cell n).hwm := by
  unfold State.updPort State.updM
  rw [State.updCell_self]

/-- The high-water marks of a port are dropped. -/
def Cell.dropMarks (k : Nat) (c : Cell) : Cell := { c with hwm := c.hwm.filter (fun h => h.port != k) }

/-- PCLR with the given mask at a port whose reorder stage has been dropped where the mask says so (11 R238). -/
def State.maskPort (x : State) (n k : Nat) (b : Nat → Bool) : State :=
  let y := x.updPort n k (fun p => p.cleared b)
  if b 3 then y.updCell n (Cell.dropMarks k) else y

theorem State.doPclr_eq (s : State) (n : Nat) (w : PortWord) : s.doPclr n w =
    (if bitB w.ops 2 then s.forget ((s.port n w.port.toNat).reorder.map (·.2.2)) else s).maskPort n w.port.toNat (bitB w.ops) := rfl

theorem State.maskPort_parts (x : State) (n : Nat) {k : Nat} (hk : k < 4) (b : Nat → Bool) :
    OnlyCell n x (x.maskPort n k b) ∧ (x.maskPort n k b).port n k = (x.port n k).cleared b ∧
      ((x.maskPort n k b).cell n).hwm = if b 3 then (x.cell n).hwm.filter (fun h => h.port != k) else (x.cell n).hwm := by
  have hx : OnlyCell n x (x.updPort n k (fun p => p.cleared b)) := OnlyCell.updPort ..
  have hp := x.updPort_self n (fun p => p.cleared b) hk
  have hh := x.updPort_hwm n k (fun p => p.cleared b)
  unfold State.maskPort
  by_cases h3 : b 3 = true
  · rw [if_pos h3, if_pos h3]
    refine ⟨hx.trans (OnlyCell.updCell ..), ?_, ?_⟩
    · exact (State.port_of_mset (State.updCell_mset_of_keeps _ n (f := Cell.dropMarks k) (fun _ => rfl) n) k).trans hp
    · rw [State.updCell_self, ← hh]; rfl
  · rw [if_neg h3, if_neg h3]
    exact ⟨hx, hp, hh⟩

theorem State.updPort_bars (s : State) (n k : Nat) (f : MPort → MPort) : ((s.updPort n k f).cell n).bars = (s.cell n).bars := by
  unfold State.updPort State.updM
  rw [State.updCell_self]

theorem State.objQuiet_congr {s t : State} {n : Nat} (hs : t.sram = s.sram) (hb : (t.cell n).bars = (s.cell n).bars) (key : Nat) :
    t.ObjQuiet n key ↔ s.ObjQuiet n key := by
  unfold State.ObjQuiet Cell.entriesOf State.objArrived State.objWord
  rw [hs, hb]

theorem OnlyCell.setRole (s : State) (n : Nat) (w : PortWord) (role : Nat) (f : MPort → MPort) :
    let m := s.port n w.port.toNat
    OnlyCell n (s.forget (m.reorder.map (·.2.2) ++ m.spu.flatMap (·.reqs))) (s.setRole n w role f) := OnlyCell.updPort ..

theorem OnlyCell.setAttr (s : State) (n : Nat) (w : PortWord) (role : Nat) (f : MPort → MPort) : OnlyCell n s (s.setAttr n w role f) :=
  OnlyCell.updPort ..

theorem State.setAttr_port (s : State) (n : Nat) (w : PortWord) (role : Nat) (f : MPort → MPort) :
    (s.setAttr n w role f).port n w.port.toNat =
      if (s.port n w.port.toNat).role = role then f (s.port n w.port.toNat) else s.port n w.port.toNat :=
  State.updPort_self _ _ _ w.port.isLt

/-- A port as a role word leaves it, but for its role and the attributes of it (11 R238). -/
def MPort.fresh (p : MPort) (w : PortWord) : MPort := { MPort.reset with
  off := portOff w, len := portLen w, q := p.q, ldsy := p.ldsy, outq := p.outq, accept := p.accept
  refused := p.refused + BitVec.ofNat 32 p.fifo.length, dup := p.dup, discardSeen := p.discardSeen, frozen := p.frozen
  reached := p.reached }

theorem State.setRole_port (s : State) (n : Nat) (w : PortWord) (role : Nat) (f : MPort → MPort) :
    let m := s.port n w.port.toNat
    let p := (s.forget (m.reorder.map (·.2.2) ++ m.spu.flatMap (·.reqs))).port n w.port.toNat
    (s.setRole n w role f).port n w.port.toNat = f { p.fresh w with role := role } := by
  intro m p
  refine (State.updPort_self _ _ _ w.port.isLt).trans ?_
  dsimp only [MPort.fresh]

section
variable (s : State) (n : Nat) {w : PortWord}

theorem State.doPbar_plain (h : bitB w.ops 32 = false) (x : Option Nat) : s.doPbar n w x = s.setRole n w 0x08 id := by
  unfold State.doPbar
  dsimp only
  rw [h]; rfl

theorem State.doPbar_writes (h : bitB w.ops 32 = true) (x : Nat) :
    s.doPbar n w (some x) = (s.setRole n w 0x08 id).zeroObjs n x (portOff w * 64) (portLen w) := by
  unfold State.doPbar
  dsimp only
  rw [h]; rfl

/-- A barrier area that is cleared at configuration (16 R287). -/
def State.clearObjs (s : State) (n a len : Nat) : State :=
  State.updCell { s with sram := memClear s.sram a len } n (fun c => { c with
    bars := c.bars.filter (fun b => !(a ≤ b.obj && b.obj < a + len)), barRefused := c.barRefused.filter (fun k => !(a ≤ k && k < a + len)) })

theorem State.clearObjs_sram (s : State) (n a len : Nat) : (s.clearObjs n a len).sram = memClear s.sram a len := rfl

theorem State.clearObjs_mset (s : State) (n a len : Nat) : (s.clearObjs n a len).mset n = s.mset n := by
  unfold State.clearObjs
  refine (State.updCell_mset_of_keeps _ n ?_ n).trans rfl
  exact fun _ => rfl

theorem State.doPbar_clears (h : bitB w.ops 32 = true) :
    s.doPbar n w none = (s.setRole n w 0x08 id).clearObjs n (sramKey n (portOff w * 64)) (portLen w * 64) := by
  unfold State.doPbar
  dsimp only
  rw [h]; rfl

/-- A role word changes no object and no entry of its cell. -/
theorem State.setRole_quiet (w : PortWord) (role : Nat) (f : MPort → MPort) (key : Nat) : let m := s.port n w.port.toNat
    (s.setRole n w role f).ObjQuiet n key ↔ (s.forget (m.reorder.map (·.2.2) ++ m.spu.flatMap (·.reqs))).ObjQuiet n key := by
  intro m
  exact State.objQuiet_congr (State.updPort_sram ..) (State.updPort_bars ..) key

end

end Sys2Proof.Machine

open Sys2Proof Sys2Proof.Machine in
/-- Settles O51: a role word forgets what the port held and writes the port afresh, and PBAR with INIT writes zeros over the objects of
its window one by one, each of which touches its own 64 bytes and entries only. -/
theorem portWords : Obligations.PortWords := by
  unfold Obligations.PortWords
  intro s w n k m q u p off len fresh
  have hk : k < 4 := w.port.isLt
  have hfresh : fresh = p.fresh w := rfl
  have hrole : ∀ role f, (s.setRole n w role f).port n k = f { fresh with role := role } := fun role f =>
    hfresh ▸ State.setRole_port s n w role f
  clear_value fresh
  clear hfresh
  refine ⟨?_, ?_, ?_, ?_, ?_, ?_, ?_, ?_⟩
  · intro e he
    simp only [List.mem_cons, List.not_mem_nil, or_false] at he
    obtain rfl | rfl | rfl | rfl | rfl := he
    · exact ⟨s.doPbind n w, rfl, OnlyCell.setRole .., hrole 1 _⟩
    · exact ⟨s.doPfifo n w, rfl, OnlyCell.setRole .., hrole 2 _⟩
    · exact ⟨s.doPrdx n w, rfl, OnlyCell.setRole .., hrole 3 _⟩
    · exact ⟨s.doPspu n w, rfl, OnlyCell.setRole .., hrole 6 _⟩
    · exact ⟨s.doPnul n w, rfl, OnlyCell.setRole .., hrole 12 _⟩
  · intro hr hp
    show s.forget _ = s
    rw [hr, hp]
    rfl
  · intro e he
    simp only [List.mem_cons, List.not_mem_nil, or_false] at he
    obtain rfl | rfl | rfl | rfl := he
    · exact ⟨s.doPfe n w, rfl, OnlyCell.setAttr .., State.setAttr_port s n w _ _⟩
    · exact ⟨s.doPwpx n w, rfl, OnlyCell.setAttr .., State.setAttr_port s n w _ _⟩
    · exact ⟨s.doPord n w, rfl, OnlyCell.setAttr .., State.setAttr_port s n w _ _⟩
    · exact ⟨s.doPcnt n w, rfl, OnlyCell.setAttr .., State.setAttr_port s n w _ _⟩
  · intro hi
    exact ⟨s.setRole n w 8 id, congrArg Host.Outcome.next (s.doPbar_plain n hi _), OnlyCell.setRole .., hrole 8 id⟩
  · intro hi hwf
    obtain ⟨⟨_, hm, _⟩, hz⟩ := State.zeroObjs_zeroes n (tileUnit n 2) (portLen w) (s.setRole n w 0x08 id) (portOff w * 64) hwf
    refine ⟨_, congrArg Host.Outcome.next (s.doPbar_writes n hi _), ?_, ?_⟩
    · show (State.port _ n k).role = 8
      rw [State.port_of_mset (hm n)]
      exact congrArg MPort.role (hrole 8 id)
    · intro i hlt key quiet
      have h := hz i hlt
      have hkey : n * 2 ^ 22 + off * 64 + 64 * i = n * 2 ^ 22 + (off + i) * 64 := by omega
      rw [show sramKey n (portOff w * 64) + 64 * i = key from hkey, propext (s.setRole_quiet n w 8 id key)] at h
      exact h
  · intro hi hwf t
    have ht : t = _ := s.doPbar_clears n hi
    refine ⟨?_, fun a ha hb => ?_⟩
    · show (State.port _ n k).role = 8
      rw [ht, State.port_of_mset (State.clearObjs_mset ..)]
      exact congrArg MPort.role (hrole 8 id)
    · rw [ht, State.clearObjs_sram]
      refine (memGet_memClear _ (show Memory.wf (s.setRole n w 8 id).sram = true from hwf) ..).trans
        (if_pos (show sramKey n (off * 64) ≤ a ∧ a < sramKey n (off * 64) + len * 64 from ?_))
      unfold sramKey; omega
  · exact ⟨s.doPspl n w, rfl, OnlyCell.updM .., State.updM_mset ..⟩
  · intro x p
    obtain ⟨hx, hp, hh⟩ := x.maskPort_parts n hk (bitB w.ops)
    exact ⟨x.maskPort n k (bitB w.ops), congrArg Host.Outcome.next (s.doPclr_eq n w), hx, hp.trans (MPort.cleared_eq _ _), hh⟩
end

/-!
PROOF. Requests at a port (11 R239, R241, R242, R246, R247): the request that a port serves is read, written, or waits by the port's
role; the window of a sparse-update port and the reorder stage of a copy channel are applied entry by entry.
-/

section
namespace Sys2Proof.Machine

/-! ### What the end of a request leaves alone -/

/-- The memory tiles and the high-water marks of every cell are as before. -/
def SameMarks (s t : State) : Prop := (∀ k, t.mset k = s.mset k) ∧ ∀ k, (t.cell k).hwm = (s.cell k).hwm

theorem SameMarks.refl (s : State) : SameMarks s s := ⟨fun _ => rfl, fun _ => rfl⟩
theorem SameMarks.trans {s t u : State} (h : SameMarks s t) (g : SameMarks t u) : SameMarks s u :=
  ⟨fun k => (g.1 k).trans (h.1 k), fun k => (g.2 k).trans (h.2 k)⟩
theorem SameButLogs.sameMarks {s t : State} (h : SameButLogs s t) : SameMarks s t :=
  ⟨fun k => by rw [State.mset, h.cell]; rfl, fun k => by rw [h.cell]⟩

/-- A write of one cell that keeps its memory tile and its marks. -/
theorem SameMarks.of_cells {s t : State} {n : Nat} {c : Cell} (h : t.cells = Tbl.set s.cells n c) (hm : c.m = (s.cell n).m)
    (hh : c.hwm = (s.cell n).hwm) : SameMarks s t := by
  have hc : ∀ k, (t.cell k).m = (s.cell k).m ∧ (t.cell k).hwm = (s.cell k).hwm := fun k => by
    rw [State.cell, h, Tbl.get_set]
    split
    · next hk => subst hk; exact ⟨hm, hh⟩
    · exact ⟨rfl, rfl⟩
  exact ⟨fun k => congrArg (·.act) (hc k).1, fun k => (hc k).2⟩

theorem State.updCell_sameMarks (s : State) (n : Nat) (f : Cell → Cell) (hm : ∀ c, (f c).m = c.m) (hh : ∀ c, (f c).hwm = c.hwm) :
    SameMarks s (s.updCell n f) := .of_cells rfl (hm _) (hh _)
theorem State.updA_sameMarks (s : State) (n : Nat) (f : ASet → ASet) : SameMarks s (s.updA n f) := .of_cells rfl rfl rfl
theorem State.updSet_sameMarks (s : State) (n r : Nat) (f : CSet → CSet) (g : ASet → ASet) : SameMarks s (s.updSet n r f g) :=
  .of_cells rfl rfl rfl

theorem State.countApplied_sameMarks (s : State) (dest src : Nat) (p : BitVec 2) : SameMarks s (s.countApplied dest src p) := by
  unfold State.countApplied
  dsimp only
  split <;> exact .refl s

theorem State.lateEnd_sameMarks (s : State) (n r : Nat) (x : Xfer) (b : Bool) : SameMarks s (s.lateEnd n r x b) := by
  unfold State.lateEnd
  split
  · exact (State.event_logs ..).sameMarks.trans (.of_cells rfl rfl rfl)
  · exact .refl s

theorem State.completeXfer_sameMarks (s : State) (n g : Nat) (reqno : BitVec 32) : SameMarks s (s.completeXfer n g reqno) := by
  unfold State.completeXfer State.endXfer
  split
  · exact .refl s
  · exact (s.lateEnd_sameMarks ..).trans (State.updA_sameMarks ..)

theorem State.fillSlot_sameMarks (s : State) (j n slot : Nat) (f : FSlot) (code r : Nat) : SameMarks s (s.fillSlot j n slot f code r) :=
  ((s.updJob_logs j _).trans (State.slotEvent_logs ..)).sameMarks

theorem State.freezeReq_sameMarks (s : State) (n id cause code : Nat) (stage : ReqStage) : SameMarks s (s.freezeReq n id cause code stage) := by
  unfold State.freezeReq
  split
  · exact .refl s
  · dsimp only
    split
    · exact s.updA_sameMarks n _
    · exact SameMarks.trans (s.updA_sameMarks n _) (State.fillSlot_sameMarks ..)

theorem State.closeSlot_sameMarks (s : State) (j slot : Nat) : SameMarks s (s.closeSlot j slot) := by
  unfold State.closeSlot
  dsimp only
  refine SameMarks.trans (s.updJob_logs j (fun b => { b with
    fslots := Tbl.upd FSlot.reset b.fslots slot (fun f => { f with isOpen := false }) })).sameMarks ?_
  split
  · exact State.freezeReq_sameMarks ..
  · exact (State.updSet_sameMarks ..).trans (State.fillSlot_sameMarks ..)
  · refine SameMarks.trans (State.updCell_sameMarks _ _ _ ?_ ?_) (State.fillSlot_sameMarks ..)
    · exact fun _ => rfl
    · exact fun _ => rfl
  · exact .refl _

theorem State.thaw_sameMarks (s : State) (n g id : Nat) : SameMarks s (s.thaw n g id) := by
  unfold State.thaw
  split
  · exact .refl s
  · dsimp only
    split
    · exact (s.updA_sameMarks ..).trans (State.closeSlot_sameMarks ..)
    · exact s.updA_sameMarks ..

/-- An applied write changes no port and no high-water mark. -/
theorem State.applied_sameMarks (s : State) (n : Nat) (q : Req) (dest : Nat) (done : Bool) : SameMarks s (s.applied n q dest done) := by
  unfold State.applied
  dsimp only
  refine SameMarks.trans (s.countApplied_sameMarks dest n q.phase) (SameMarks.trans ?_ (State.thaw_sameMarks ..))
  split
  · exact (State.updA_sameMarks ..).trans (State.completeXfer_sameMarks ..)
  · exact State.updA_sameMarks ..

/-! ### The request that a port serves -/

/-- A cell after the arbiter of its port k has decided in an island cycle. -/
def Cell.picked (k cycle : Nat) (arb : Arb) (c : Cell) : Cell := { c with mArb := vset c.mArb k arb, decided := cycle + 1 }

section
variable {s w u : State} {n k i : Nat} {p : Placed}

theorem State.portPick_state (h : w.portPick n k = some (i, p, u)) : ∃ arb, u = w.updCell n (Cell.picked k (w.islandCycle n) arb) := by
  unfold State.portPick at h
  dsimp only at h
  split at h
  · exact nomatch h
  · split at h
    · exact nomatch h
    · next arb _ => exact ⟨arb, by cases h; rfl⟩

/-- A port that serves a request serves it at the state w. -/
theorem PortServes.exec (hk : k < 4) (hs : PortServes s n k w) : exec (.portRequest n k) s = .next (w.portServe n k) := by
  show execPortRequest n k s = _
  rw [execPortRequest, if_neg (by omega)]
  dsimp only
  obtain ⟨hspu, rfl⟩ | ⟨hspu, hord, hpick, hfree, rfl⟩ := hs
  · rw [hspu]
  · split
    · next h => exact absurd h hspu
    · rw [hord, Option.isNone_eq_false_iff.mpr hpick, if_neg (by decide), hfree, if_neg (Nat.lt_irrefl _)]

theorem exec_portRequest_window (hk : k < 4) (hspu : (s.port n k).spu ≠ []) :
    ((s.port n k).ord = true ∨ s.portPick n k = none → exec (.portRequest n k) s = .next (s.spuApply n k 0)) ∧
      ((s.port n k).ord = false → (s.portPick n k).isSome = true → i < (s.port n k).spu.length →
        (Config.openWord s.freeCount).toNat % ((s.port n k).spu.length + 1) = i →
        exec (.portRequest n k) s = .next (s.drawn.spuApply n k i)) := by
  refine ⟨fun h => ?_, fun hord hpick hi hfree => ?_⟩
  all_goals
    show execPortRequest n k s = _
    rw [execPortRequest, if_neg (by omega)]
    dsimp only
    split
    · next h' => exact absurd h' hspu
  · refine if_pos ?_
    obtain h | h := h
    · rw [h, Bool.true_or]
    · rw [h, Option.isNone_none, Bool.or_true]
  · rw [hord, Option.isNone_eq_false_iff.mpr hpick, if_neg (by decide), hfree, if_pos hi]

end

/-- A state in which port k of cell n has taken its next request from its queue: the port but for its queue, the address generators,
the scratchpads, the marks and the reaches are those of w. -/
structure TookRequest (w v : State) (n k : Nat) : Prop where
  port : ∃ l, v.port n k = { w.port n k with q := l }
  aset : ∀ x, v.aset x = w.aset x
  sram : v.sram = w.sram
  hwm : (v.cell n).hwm = (w.cell n).hwm
  reaches : v.reaches = w.reaches

theorem State.updCell_aset_of_keeps (s : State) (n : Nat) {f : Cell → Cell} (hf : ∀ c, (f c).a = c.a) (k : Nat) :
    (s.updCell n f).aset k = s.aset k := by
  by_cases hk : k = n
  · subst hk; rw [State.aset, State.updCell_self, hf]; rfl
  · rw [State.aset, State.updCell_of_ne s f hk]; rfl

section
variable {w u v : State} {n k i : Nat} {p : Placed} {q : Req} (hpick : w.portPick n k = some (i, p, u))
include hpick

theorem State.portTake_took (hk : k < 4) : TookRequest w (u.portTake n k i) n k := by
  obtain ⟨arb, rfl⟩ := State.portPick_state hpick
  have hm := State.updCell_mset_of_keeps w n (f := Cell.picked k (w.islandCycle n) arb) (fun _ => rfl)
  have ha := State.updCell_aset_of_keeps w n (f := Cell.picked k (w.islandCycle n) arb) (fun _ => rfl)
  refine ⟨⟨_, (State.updPort_self _ _ _ hk).trans (by rw [State.port_of_mset (hm n)])⟩, fun x => ?_, rfl, ?_, rfl⟩
  · rw [State.portTake, State.updPort_asetAt, ha]
  · rw [State.portTake, State.updPort_hwm, State.updCell_self]; rfl

variable (hreq : w.reqOf p = some q)
include hreq

/-- A port serves a request that is no atomic and no LDSY: a write goes to the port's role, and so does a read, unless its unit is
uncorrectable at a port that reads units (14 R279). -/
theorem State.portServe_plain (hl : q.kind ∉ [.ldsy false, .ldsy true]) (ha : ∀ op sc out et, q.kind ≠ .atom op sc out et) :
    w.portServe n k = if p.write then (u.portTake n k i).portWrite n k p q
      else if w.sramBad n p.addr && (w.port n k).role != 0x0C then u.portBad n k q p.cell
      else (u.portTake n k i).portRead n k p q := by
  rw [State.portServe, hpick]
  dsimp only
  rw [hreq]
  dsimp only
  split
  · next op sc out et h => exact absurd h (ha op sc out et)
  · next clear h => rw [h] at hl; cases clear <;> simp at hl
  · rfl

theorem State.portServe_ldsy {clear : Bool} (hl : q.kind = .ldsy clear) :
    w.portServe n k = match (w.port n k).feUnit p.addr with
      | none => if w.sramBad n p.addr && (w.port n k).role != 0x0C then u.portBad n k q p.cell else (u.portTake n k i).portRead n k p q
      | some x =>
        if !(w.port n k).feFull x || (w.port n k).ldsy.any (fun l => l.addr / 64 == p.addr / 64) then
          (u.portTake n k i).updPort n k (fun m => { m with ldsy := m.ldsy ++ [p] })
        else if w.sramBad n p.addr then u.portBad n k q p.cell
        else if clear then ((u.portTake n k i).portRead n k p q).updPort n k (fun m => { m with feBits := m.feBits.set x false })
        else (u.portTake n k i).portRead n k p q := by
  rw [State.portServe, hpick]
  dsimp only
  rw [hreq]
  dsimp only
  rw [hl] <;> rfl

end

/-! ### Reads and writes by role -/

section
variable {v : State} {n k : Nat} {p : Placed} {q : Req}

theorem State.portRead_unit (hr : (v.port n k).role ≠ 0 ∧ (v.port n k).role ≠ 2 ∧ (v.port n k).role ≠ 12) :
    v.portRead n k p q = v.answer p.cell q ((v.aset p.cell).readTok q (v.sramUnit n p.addr)) := by
  obtain ⟨h0, h2, h12⟩ := hr
  unfold State.portRead
  dsimp only
  split
  · next h => exact absurd h h12
  · next h => exact absurd h h0
  · next h => exact absurd h h2
  · rfl

theorem State.portRead_null (hr : (v.port n k).role = 0 ∨ (v.port n k).role = 2 ∨ (v.port n k).role = 12) :
    v.portRead n k p q = v.answer p.cell q ((v.aset p.cell).readNull q) := by
  unfold State.portRead
  dsimp only
  obtain h | h | h := hr <;> (rw [h]; rfl)

/-- The unit that a write stores. -/
def Req.writeUnit (q : Req) : Unit64 := if q.writeHalf then (q.ans.getD Token.zero).payload else q.tok.payload

theorem State.portWrite_window (hr : (v.port n k).role = 1) :
    v.portWrite n k p q = v.plainWrite n k p ((v.aset p.cell).tmpl q.tmplNow).vchan p.addr q.writeUnit := by
  unfold State.portWrite
  dsimp only
  rw [hr]
  rfl

theorem State.portWrite_barrier (hr : (v.port n k).role = 8) : v.portWrite n k p q =
    (v.writeObj n p.addr q.writeUnit q.name (tileUnit p.cell kindA)).applied p.cell q (destPort n k) true := by
  unfold State.portWrite
  dsimp only
  rw [hr]
  rfl

theorem State.portWrite_store {seq : BitVec 32} (hr : (v.port n k).role = 6) (hs : q.seq = some seq) :
    v.portWrite n k p q = v.reduceStore n k p q seq := by
  unfold State.portWrite
  dsimp only
  rw [hr, hs]
  rfl

theorem State.portWrite_discards (hr : (v.port n k).role ∈ [0, 2, 3, 12] ∨ (v.port n k).role = 6 ∧ q.seq = none) :
    v.portWrite n k p q = v.applied p.cell q (destPort n k) true := by
  unfold State.portWrite
  dsimp only
  obtain h | ⟨h, hs⟩ := hr
  · simp only [List.mem_cons, List.not_mem_nil, or_false] at h
    obtain h | h | h | h := h <;> (rw [h]; rfl)
  · rw [h, hs]; rfl

theorem State.aset_of_cells {s t : State} (h : t.cells = s.cells) (j : Nat) : t.aset j = s.aset j := by
  unfold State.aset State.cell
  rw [h]

theorem State.sramPut_aset (s : State) (d off : Nat) (x : Unit64) (j : Nat) : (s.sramPut d off x).aset j = s.aset j := by
  unfold State.sramPut
  dsimp only
  rw [State.updM_asetAt, State.mend_aset]
  refine State.aset_of_cells ?_ j
  rfl

/-- A unit of a request is applied: it is stored, counted, and its request ends. -/
theorem State.portApply_eq (hreq : v.reqOf p = some q) (tag : BitVec 5) (off : Nat) (x : Unit64) :
    v.portApply n k p tag off x = ((v.sramPut n off x).updPort n k (fun m => m.count tag)).applied p.cell q (destPort n k) true := by
  have h : ((v.sramPut n off x).updPort n k (fun m => m.count tag)).reqOf p = some q := by
    unfold State.reqOf at hreq ⊢
    rw [State.updPort_asetAt, State.sramPut_aset, hreq]
  unfold State.portApply
  dsimp only
  rw [h]

/-- What a unit of a write that is applied leaves: it is stored and counted, and its request ends. -/
def State.plainly (v : State) (n k : Nat) (p : Placed) (q : Req) (tag : BitVec 5) (x : Unit64) : State :=
  ((v.sramPut n p.addr x).updPort n k (fun m => m.count tag)).applied p.cell q (4 * n + k) true

/-- A write lies in the channel of its port's write pointer (11 R242). -/
def MPort.inCopy (m : MPort) (tag : BitVec 5) (addr : Nat) : Prop :=
  m.wpx = true ∧ tag = m.wtag ∧ m.wpOff * 64 ≤ addr ∧ addr < (m.wpOff + m.wpLen) * 64

theorem MPort.inCopy_iff (m : MPort) (tag : BitVec 5) (addr : Nat) :
    (m.wpx && tag == m.wtag && decide (m.wpOff * 64 ≤ addr) && decide (addr < (m.wpOff + m.wpLen) * 64)) = true ↔ m.inCopy tag addr := by
  simp only [Bool.and_eq_true, beq_iff_eq, decide_eq_true_eq, MPort.inCopy, and_assoc]

section
variable (hreq : v.reqOf p = some q) (tag : BitVec 5) (x : Unit64)
include hreq

theorem State.plainWrite_outside (hc : ¬ (v.port n k).inCopy tag p.addr) : v.plainWrite n k p tag p.addr x = v.plainly n k p q tag x := by
  unfold State.plainWrite
  dsimp only
  rw [if_neg (fun h => hc ((MPort.inCopy_iff ..).mp h)), State.portApply_eq hreq]
  rfl

theorem State.plainWrite_copy (hc : (v.port n k).inCopy tag p.addr) : v.plainWrite n k p tag p.addr x =
    if p.addr - (v.port n k).wpOff * 64 < (v.port n k).wp then (v.plainly n k p q tag x).acknowledge p.cell n k
    else if p.addr - (v.port n k).wpOff * 64 = (v.port n k).wp then
      ((((v.plainly n k p q tag x).updPort n k (fun m => { m with wp := m.wp + 64 })).advanceWp n k 17).acknowledge p.cell n k).updPort n k
        (fun m => if m.push then { m with pushq := some m.wp } else m)
    else v.updPort n k (fun m => { m with reorder := m.reorder ++ [(p.addr - (v.port n k).wpOff * 64, x, p)] }) := by
  unfold State.plainWrite
  dsimp only
  rw [if_pos ((MPort.inCopy_iff ..).mpr hc), State.portApply_eq hreq]
  rfl

end

end

/-! ### Reduce-stores (11 R246, R247) -/

/-- The mark of a reduce-store's source at its port, with its number. -/
def Cell.markStore (h : Hwm) (c : Cell) : Cell :=
  { c with hwm := c.hwm.filter (fun x => !(x.port == h.port && x.reach == h.reach && x.src == h.src)) ++ [h] }

/-- A reduce-store joins the window of its port: in the entry of its unit, or as an entry of its own (11 R247). -/
def MPort.joinWindow (p : Placed) (tok : Token) (m : MPort) : MPort :=
  if !m.ord && m.spu.any (fun e => e.off == p.addr) then
    { m with spu := m.spu.map (fun e => if e.off = p.addr then { e with toks := e.toks ++ [tok], reqs := e.reqs ++ [p] } else e) }
  else { m with spu := m.spu ++ [⟨p.addr, [tok], [p]⟩] }

theorem MPort.joinWindow_spu (p : Placed) (tok : Token) (m : MPort) : (m.joinWindow p tok).spu =
    if m.ord = false ∧ ∃ e ∈ m.spu, e.off = p.addr then
      m.spu.map (fun e => if e.off = p.addr then { e with toks := e.toks ++ [tok], reqs := e.reqs ++ [p] } else e)
    else m.spu ++ [⟨p.addr, [tok], [p]⟩] := by
  have hc : (!m.ord && m.spu.any (fun e => e.off == p.addr)) = true ↔ m.ord = false ∧ ∃ e ∈ m.spu, e.off = p.addr := by
    simp
  unfold MPort.joinWindow
  split
  · next h => rw [if_pos (hc.mp h)]
  · next h => rw [if_neg (fun h' => h (hc.mpr h'))]

section
variable (v : State) (n k : Nat) (p : Placed) (q : Req) (seq : BitVec 32)

/-- A mark of the source of a reduce-store covers its number (11 R247). -/
def State.seenStore : Bool :=
  (v.cell n).hwm.any (fun h => h.port == k && h.reach == v.reachNumber (v.aset p.cell).iss.reach && h.src == p.cell && seq ≤ h.mark)

theorem State.reduceStore_eq : v.reduceStore n k p q seq =
    let num := v.reachNumber (v.aset p.cell).iss.reach
    if v.seenStore n k p seq then (v.updPort n k (fun m => { m with dup := m.dup + 1 })).applied p.cell q (4 * n + k) true
    else if v.hwmFull n k num p.cell then (v.updPort n k (fun m => { m with refused := m.refused + 1 })).applied p.cell q (4 * n + k) true
    else if q.tok.lanes.length ≠ lanesOf (v.port n k).fmt.toNat then
      ((v.updCell n (Cell.markStore ⟨k, num, p.cell, seq⟩)).updPort n k (fun m => { m with refused := m.refused + 1 })).applied p.cell q
        (4 * n + k) true
    else (v.updCell n (Cell.markStore ⟨k, num, p.cell, seq⟩)).updPort n k (MPort.joinWindow p q.tok) := rfl

end

/-! ### The window of a sparse-update port (11 R247) -/

theorem pspuOp_cases (op : BitVec 4) :
    pspuOp op = if op.toNat = 3 then .or else if 4 ≤ op.toNat then .replace else if op.toNat = 0 then .add else if op.toNat = 1 then .min
      else .max := by
  revert op; decide

/-- A resident unit with the stores of an entry, oldest first (11 R246). -/
theorem LaneOp.merge_stores (op : BitVec 4) (exact : Bool) (f : Nat) (resident : Unit64) (first : Token) (rest : List Token) :
    let lane := (pspuOp op).lane exact
    (pspuOp op).merge exact f resident (first :: rest) =
      if op.toNat = 3 then (first :: rest).foldl (fun u t => u ||| packRne f t.lanes) resident
      else if 4 ≤ op.toNat then packRne f (rest.getLastD first).lanes
      else packRne f (List.zipWith lane (decodeLanes f resident (fun _ => none))
        (rest.foldl (fun u t => List.zipWith lane u t.lanes) first.lanes)) := by
  dsimp only
  rw [pspuOp_cases]
  by_cases h3 : op.toNat = 3
  · rw [if_pos h3, if_pos h3]; rfl
  · rw [if_neg h3, if_neg h3]
    by_cases h4 : 4 ≤ op.toNat
    · rw [if_pos h4, if_pos h4]
      unfold LaneOp.merge
      dsimp only
      rw [List.getLast?_cons, List.getLastD_eq_getLast?]
    · rw [if_neg h4, if_neg h4]
      split
      · rfl
      · split <;> rfl

/-- The end of one store of an applied entry. -/
def State.storeDone (n k : Nat) (t : State) (r : Placed) : State :=
  match t.reqOf r with
  | some q => t.applied r.cell q (4 * n + k) true
  | none => t

/-- Entry i of a window is applied: its unit is merged, it leaves the window, and its stores end. -/
theorem State.spuApply_eq {s : State} {n k i : Nat} {e : SpuEnt} (he : (s.port n k).spu[i]? = some e) (hs : s.portStands n k = false)
    (hp : (s.port n k).stopped = false) (hb : s.sramBad n e.off = false) : s.spuApply n k i =
      e.reqs.foldl (State.storeDone n k) ((s.sramPut n e.off ((pspuOp (s.port n k).op).merge (isIntFmt (s.port n k).fmt.toNat)
        (s.port n k).fmt.toNat (s.sramUnit n e.off) e.toks)).updPort n k (fun m => { m with spu := m.spu.eraseIdx i })) := by
  unfold State.spuApply
  dsimp only
  rw [he]
  dsimp only
  rw [hs, hp, hb, if_neg (by decide), Bool.false_and, if_neg Bool.false_ne_true]
  rfl

/-! ### The reorder stage of a copy channel (11 R242) -/

theorem State.updPort_congr {s : State} {n k : Nat} {f g : MPort → MPort} (h : f (s.port n k) = g (s.port n k)) :
    s.updPort n k f = s.updPort n k g := by
  have hset : (s.mset n).setPort k f = (s.mset n).setPort k g := congrArg (fun x => { s.mset n with ports := vset (s.mset n).ports k x }) h
  unfold State.updPort State.updM
  refine State.updCell_congr ?_
  dsimp only
  rw [show (s.cell n).m.act.setPort k f = (s.cell n).m.act.setPort k g from hset]

/-- The write pointer has reached a unit of the reorder stage. -/
def MPort.passed (m : MPort) (e : Nat × Unit64 × Placed) : Bool := e.1 ≤ m.wp

section
variable {α : Type} {P : α → Bool} {before after : List α} {e : α} (h : ∀ b ∈ before, ¬ P b = true) (he : P e = true)
include h he

theorem find?_append_cons_of_pos : (before ++ e :: after).find? P = some e := by
  rw [List.find?_append, List.find?_eq_none.mpr h, Option.none_or, List.find?_cons_of_pos he]

theorem eraseP_append_cons_of_pos : (before ++ e :: after).eraseP P = before ++ after := by
  rw [List.eraseP_append_right _ h, List.eraseP_cons_of_pos he]

end

theorem State.advanceWp_stops {s : State} {n k : Nat} (f : Nat) (h : ∀ e ∈ (s.port n k).reorder, (s.port n k).wp < e.1) :
    s.advanceWp n k f = s := by
  cases f with
  | zero => rfl
  | succ f =>
    unfold State.advanceWp
    dsimp only
    rw [List.find?_eq_none.mpr (fun e he => by simpa using h e he)]

theorem State.advanceWp_next {s : State} {n k : Nat} (f : Nat) {before after : List (Nat × Unit64 × Placed)} {e : Nat × Unit64 × Placed}
    (hr : (s.port n k).reorder = before ++ e :: after) (hb : ∀ b ∈ before, (s.port n k).wp < b.1) (he : e.1 = (s.port n k).wp) :
    s.advanceWp n k (f + 1) = State.advanceWp
      (((s.updPort n k (fun m => { m with reorder := before ++ after, wp := m.wp + 64 })).portApply n k e.2.2 (s.port n k).wtag
        ((s.port n k).wpOff * 64 + e.1) e.2.1).acknowledge e.2.2.cell n k) n k f := by
  obtain ⟨a, x, p⟩ := e
  have hlow : ∀ b ∈ before, ¬ (s.port n k).passed b = true := fun b hm => by simpa [MPort.passed] using hb b hm
  have hat : (s.port n k).passed (a, x, p) = true := decide_eq_true (Nat.le_of_eq he)
  have hfind : (s.port n k).reorder.find? (fun y => y.1 ≤ (s.port n k).wp) = some (a, x, p) :=
    hr ▸ find?_append_cons_of_pos hlow hat
  have hport : s.updPort n k (fun m => { m with
      reorder := m.reorder.eraseP (fun y => y.1 ≤ m.wp), wp := if a = m.wp then m.wp + 64 else m.wp }) =
      s.updPort n k (fun m => { m with reorder := before ++ after, wp := m.wp + 64 }) := by
    have herase : (s.port n k).reorder.eraseP (fun y => y.1 ≤ (s.port n k).wp) = before ++ after :=
      hr ▸ eraseP_append_cons_of_pos hlow hat
    refine State.updPort_congr ?_
    rw [herase, if_pos he]
  rw [State.advanceWp]
  dsimp only
  rw [hfind]
  dsimp only
  rw [hport]

/-- An acknowledgement raises the mirrors of the source's templates whose home is this port (11 R237, R242). -/
theorem State.acknowledge_tmpl {s : State} {src n k : Nat} {r : Reach} (hr : s.reach? (s.aset src).iss.reach = some r) {g : Nat} (hg : g < 4) :
    let t := (s.aset src).tmpl g
    ((s.acknowledge src n k).aset src).tmpl g =
      if t.homePort = k ∧ r.absCell t.homeCell = some n ∧ t.mirror < BitVec.ofNat 32 (s.port n k).wp then
        { t with mirror := BitVec.ofNat 32 (s.port n k).wp } else t := by
  intro t
  rw [State.acknowledge, hr]
  dsimp only
  rw [State.updA_aset]
  refine (vget_map Template.reset _ _ g).trans ((if_pos hg).trans ?_)
  refine if_congr ?_ rfl rfl
  simp only [Bool.and_eq_true, decide_eq_true_eq, beq_iff_eq, and_assoc]
  rfl

/-- An LDSY waits where its unit is empty or an earlier one waits on it (11 R241). -/
theorem MPort.ldsyWaits_iff (m : MPort) (x addr : Nat) : (!m.feFull x || m.ldsy.any (fun l => l.addr / 64 == addr / 64)) = true ↔
    m.feFull x = false ∨ ∃ l ∈ m.ldsy, l.addr / 64 = addr / 64 := by
  simp

/-! ### The clauses about one request -/

section
variable {w v : State} {n k : Nat} (h : TookRequest w v n k)
include h

theorem TookRequest.role : (v.port n k).role = (w.port n k).role := by
  obtain ⟨l, hl⟩ := h.port; rw [hl]

theorem TookRequest.reqOf (p : Placed) : v.reqOf p = w.reqOf p := by
  unfold State.reqOf; rw [h.aset]

theorem TookRequest.reachNumber (src : Nat) : v.reachNumber (v.aset src).iss.reach = w.reachNumber (w.aset src).iss.reach := by
  unfold State.reachNumber State.reach?; rw [h.aset, h.reaches]

theorem TookRequest.inCopy (tag : BitVec 5) (addr : Nat) : (v.port n k).inCopy tag addr ↔ (w.port n k).inCopy tag addr := by
  obtain ⟨l, hl⟩ := h.port; rw [hl]; rfl

theorem TookRequest.readTok (q : Req) (src addr : Nat) : (v.aset src).readTok q (v.sramUnit n addr) =
    ⟨.data, ((v.aset src).tmpl q.g).fmt, ((v.aset src).tmpl q.g).vchan, q.tag, memUnit w.sram (n * 2 ^ 22 + addr / 64 * 64)⟩ := by
  unfold State.sramUnit; rw [h.sram]; rfl

section
variable {p : Placed} {q : Req} (hreq : w.reqOf p = some q) (hr : (w.port n k).role = 1)
include hreq hr

/-- A write at a plain window beside the channel of its write pointer. -/
theorem TookRequest.writeOutside {tag : BitVec 5} (ht : tag = ((v.aset p.cell).tmpl q.tmplNow).vchan)
    (hc : ¬ (w.port n k).inCopy tag p.addr) : v.portWrite n k p q = v.plainly n k p q tag q.writeUnit := by
  rw [State.portWrite_window (h.role.trans hr), ← ht,
    State.plainWrite_outside ((h.reqOf p).trans hreq) tag _ (fun h' => hc ((h.inCopy tag p.addr).mp h'))]

/-- A write in the channel of its port's write pointer: below, at and above the pointer (11 R242). -/
theorem TookRequest.writeCopy {tag : BitVec 5} (ht : tag = ((v.aset p.cell).tmpl q.tmplNow).vchan) {off wp : Nat}
    (hoff : off = p.addr - (w.port n k).wpOff * 64) (hwp : wp = (w.port n k).wp) (hc : (w.port n k).inCopy tag p.addr) :
    (off < wp → v.portWrite n k p q = (v.plainly n k p q tag q.writeUnit).acknowledge p.cell n k) ∧
    (off = wp → v.portWrite n k p q =
      ((((v.plainly n k p q tag q.writeUnit).updPort n k (fun m => { m with wp := m.wp + 64 })).advanceWp n k 17).acknowledge p.cell n
        k).updPort n k (fun m => if m.push then { m with pushq := some m.wp } else m)) ∧
    (wp < off → v.portWrite n k p q = v.updPort n k (fun m => { m with reorder := m.reorder ++ [(off, q.writeUnit, p)] })) := by
  have hport : (v.port n k).wpOff = (w.port n k).wpOff ∧ (v.port n k).wp = (w.port n k).wp := by
    obtain ⟨l, hl⟩ := h.port; rw [hl]; exact ⟨rfl, rfl⟩
  have hw := State.plainWrite_copy ((h.reqOf p).trans hreq) tag q.writeUnit ((h.inCopy tag p.addr).mpr hc)
  rw [hport.1, hport.2, ← hoff, ← hwp] at hw
  rw [State.portWrite_window (h.role.trans hr), ← ht, hw]
  refine ⟨fun hlt => if_pos hlt, fun heq => ?_, fun hlt => ?_⟩
  · rw [if_neg (Nat.not_lt_of_le (Nat.le_of_eq heq.symm)), if_pos heq]
  · rw [if_neg (Nat.lt_asymm hlt), if_neg (Nat.ne_of_gt hlt)]

end

theorem TookRequest.seenStore (p : Placed) (seq : BitVec 32) : v.seenStore n k p seq = (w.cell n).hwm.any (fun x =>
    x.port == k && x.reach == w.reachNumber (w.aset p.cell).iss.reach && x.src == p.cell && seq ≤ x.mark) := by
  unfold State.seenStore; rw [h.hwm, h.reachNumber]

theorem TookRequest.hwmFull (num src : Nat) : v.hwmFull n k num src = w.hwmFull n k num src := by
  unfold State.hwmFull; rw [h.hwm]

/-- A reduce-store that its port does not take: a duplicate counts as applied, and one without room is refused (11 R246, R247). -/
theorem TookRequest.storeLeft (p : Placed) (q : Req) (seq : BitVec 32) :
    (v.seenStore n k p seq = true →
      v.reduceStore n k p q seq = (v.updPort n k (fun m => { m with dup := m.dup + 1 })).applied p.cell q (4 * n + k) true) ∧
    (v.seenStore n k p seq = false → w.hwmFull n k (w.reachNumber (w.aset p.cell).iss.reach) p.cell = true →
      v.reduceStore n k p q seq = (v.updPort n k (fun m => { m with refused := m.refused + 1 })).applied p.cell q (4 * n + k) true) := by
  have ht := v.reduceStore_eq n k p q seq
  dsimp only at ht
  rw [h.reachNumber, h.hwmFull] at ht
  rw [ht]
  refine ⟨fun hseen => if_pos hseen, fun hseen hfull => ?_⟩
  rw [hseen, if_neg Bool.false_ne_true, if_pos hfull]

/-- A reduce-store that its port takes: its source's mark holds its number, and it joins the window or is discarded (11 R246, R247). -/
theorem TookRequest.storeTaken (hk : k < 4) (p : Placed) (q : Req) (seq : BitVec 32) :
    let num := w.reachNumber (w.aset p.cell).iss.reach
    let m := w.port n k
    let t := v.reduceStore n k p q seq
    v.seenStore n k p seq = false → w.hwmFull n k num p.cell = false →
      ⟨k, num, p.cell, seq⟩ ∈ (t.cell n).hwm ∧
      (q.tok.lanes.length = lanesOf m.fmt.toNat → (t.port n k).spu = (m.joinWindow p q.tok).spu) ∧
      (q.tok.lanes.length ≠ lanesOf m.fmt.toNat → (t.port n k).spu = m.spu ∧ (t.port n k).refused = m.refused + 1) := by
  intro num m t hseen hfull
  obtain ⟨l, hl⟩ := h.port
  have hnum : v.reachNumber (v.aset p.cell).iss.reach = num := h.reachNumber p.cell
  have hroom : v.hwmFull n k num p.cell = false := (h.hwmFull ..).trans hfull
  have hfmt : (v.port n k).fmt = m.fmt := by rw [hl]
  have hport : (v.updCell n (Cell.markStore ⟨k, num, p.cell, seq⟩)).port n k = { m with q := l } :=
    (State.port_of_mset (State.updCell_mset_of_keeps v n (f := Cell.markStore ⟨k, num, p.cell, seq⟩) (fun _ => rfl) n) k).trans hl
  have hmark (f : MPort → MPort) :
      ⟨k, num, p.cell, seq⟩ ∈ (((v.updCell n (Cell.markStore ⟨k, num, p.cell, seq⟩)).updPort n k f).cell n).hwm := by
    rw [State.updPort_hwm, State.updCell_self]
    exact List.mem_append_right _ (List.mem_singleton_self _)
  have ht : t = _ := v.reduceStore_eq n k p q seq
  dsimp only at ht
  rw [hseen, hnum, hroom, hfmt, if_neg Bool.false_ne_true, if_neg Bool.false_ne_true] at ht
  by_cases hlanes : q.tok.lanes.length = lanesOf m.fmt.toNat
  · rw [if_neg (not_not_intro hlanes)] at ht
    rw [ht, State.updPort_self _ _ _ hk, hport]
    refine ⟨hmark _, fun _ => ?_, fun hne => absurd hlanes hne⟩
    rw [MPort.joinWindow_spu, MPort.joinWindow_spu]
  · rw [if_pos hlanes] at ht
    obtain ⟨hm, hh⟩ := ((v.updCell n (Cell.markStore ⟨k, num, p.cell, seq⟩)).updPort n k
      (fun m => { m with refused := m.refused + 1 })).applied_sameMarks p.cell q (4 * n + k) true
    rw [ht, State.port_of_mset (hm n), State.updPort_self _ _ _ hk, hport, hh]
    exact ⟨hmark _, fun he => absurd he hlanes, fun _ => ⟨rfl, rfl⟩⟩

end

end Sys2Proof.Machine

open Sys2Proof Sys2Proof.Machine in
/-- Settles O52: the request that a port serves goes to a read, a write or the wait of an LDSY by the port's role, and the window and the
reorder stage are taken entry by entry. -/
theorem portsServeRequests : Obligations.PortsServeRequests := by
  unfold Obligations.PortsServeRequests
  refine ⟨?_, ?_, ?_⟩
  · intro s n k i w p u q m v a done hk hs hpick hreq
    have took := State.portTake_took hpick hk
    have hexec := hs.exec hk
    have hplain := State.portServe_plain hpick hreq
    have hreq' : v.reqOf p = some q := (took.reqOf p).trans hreq
    refine ⟨?_, ?_, ?_, ?_⟩
    · intro hl ha hw hb
      rw [hexec, hplain hl ha, hw, hb]
      refine ⟨fun hr => ?_, fun hr => ?_⟩
      · rw [← took.readTok]
        refine congrArg Host.Outcome.next (State.portRead_unit ?_)
        rw [took.role]
        change m.role ≠ 0 ∧ m.role ≠ 2 ∧ m.role ≠ 12
        omega
      · exact congrArg Host.Outcome.next (State.portRead_null (by rw [took.role]; exact hr))
    · intro hl ha hw hb
      rw [hexec, hplain hl ha, hw, hb, if_neg Bool.false_ne_true]
      refine congrArg Host.Outcome.next ?_
      by_cases hr : m.role = 12
      · rw [if_pos hr, if_neg (by simp [m, hr])]
        exact State.portRead_null (Or.inr (Or.inr (took.role.trans hr)))
      · rw [if_neg hr, if_pos (by simpa using hr)]
    · intro hl ha hw data tag plain base off copy
      have hwrite : exec (.portRequest n k) s = .next (v.portWrite n k p q) := by rw [hexec, hplain hl ha, hw]; rfl
      have hpl : plain v = v.plainly n k p q tag q.writeUnit := rfl
      have hcopied := fun hr hc => took.writeCopy hreq hr (tag := tag) rfl (off := off) (wp := m.wp) rfl rfl hc
      rw [hwrite, hpl]
      refine ⟨fun hr hc => ?_, fun hr hc hlt => ?_, fun hr hc hat => ?_, fun hr hc hlt => ?_, fun hr => ?_, fun hr hq => ?_,
        fun hr => ?_, ?_⟩
      · exact congrArg Host.Outcome.next (took.writeOutside hreq hr rfl hc)
      · exact congrArg Host.Outcome.next ((hcopied hr hc).1 hlt)
      · exact congrArg Host.Outcome.next ((hcopied hr hc).2.1 hat)
      · exact congrArg Host.Outcome.next ((hcopied hr hc).2.2 hlt)
      · exact congrArg Host.Outcome.next (State.portWrite_discards (Or.inl (by rw [took.role]; exact hr)))
      · exact congrArg Host.Outcome.next (State.portWrite_discards (Or.inr ⟨took.role.trans hr, hq⟩))
      · rw [State.portWrite_barrier (took.role.trans hr)]; rfl
      · intro seq hr hq num dup
        have hseen : v.seenStore n k p seq = dup := took.seenStore p seq
        obtain ⟨hdup, hfull⟩ := took.storeLeft p q seq
        rw [State.portWrite_store (took.role.trans hr) hq]
        refine ⟨fun hd => ?_, fun hd hf => ?_, fun hd hf => ⟨_, rfl, ?_⟩⟩
        · exact congrArg Host.Outcome.next (hdup (hseen.trans hd))
        · exact congrArg Host.Outcome.next (hfull (hseen.trans hd) hf)
        · obtain ⟨hmark, hjoin, hlanes⟩ := took.storeTaken hk p q seq (hseen.trans hd) hf
          exact ⟨hmark, fun he => (hjoin he).trans (MPort.joinWindow_spu ..), hlanes⟩
    · intro clear hl read
      rw [hexec, State.portServe_ldsy hpick hreq hl]
      have hread : m.role = 1 → v.portRead n k p q = read v := fun hr => by
        rw [State.portRead_unit (by rw [took.role, show (w.port n k).role = 1 from hr]; decide), took.readTok]
      refine ⟨fun hu hb hr => ?_, fun x hu => ?_⟩
      · rw [show (w.port n k).feUnit p.addr = none from hu, hb, ← hread hr]
        rfl
      · rw [show (w.port n k).feUnit p.addr = some x from hu]
        have hserved : m.feFull x = true → (∀ l ∈ m.ldsy, l.addr / 64 ≠ p.addr / 64) → ¬ _ := fun hfull hnone hwait =>
          ((MPort.ldsyWaits_iff m x p.addr).mp hwait).elim (fun h => absurd (hfull.symm.trans h) (by decide))
            (fun ⟨l, hl, hunit⟩ => hnone l hl hunit)
        refine ⟨fun hwait => ?_, fun hfull hnone => ⟨fun hb => ?_, fun hb hr => ?_⟩⟩
        · exact congrArg Host.Outcome.next (if_pos ((MPort.ldsyWaits_iff m x p.addr).mpr hwait))
        · exact congrArg Host.Outcome.next ((if_neg (hserved hfull hnone)).trans (if_pos hb))
        · refine congrArg Host.Outcome.next ((if_neg (hserved hfull hnone)).trans ((if_neg (by rw [hb]; decide)).trans ?_))
          rw [← hread hr]
  · intro s n k i m hk hspu
    obtain ⟨hfirst, hnext⟩ := exec_portRequest_window (i := i) hk hspu
    refine ⟨hfirst, hnext, ?_⟩
    intro e first rest he htoks hst hp hb f lane resident stored
    refine (State.spuApply_eq he hst hp hb).trans ?_
    rw [htoks, LaneOp.merge_stores]
    rfl
  · intro s n k f m
    refine ⟨State.advanceWp_stops f, ?_, ?_⟩
    · intro before e after hr hb he x
      exact State.advanceWp_next f hr hb he
    · intro src r g hr hg T
      exact State.acknowledge_tmpl hr hg
end

/-!
PROOF. Tokens at a memory tile (11 R239, R240, R244, R248): the token that port M serves is taken by its port's role or runs a word of
the port table, and a port sends what it holds in the order of its queues.
-/

section
namespace Sys2Proof.Machine

/-! ### Taking a token from the switch -/

section
variable {s u : State} {n port link : Nat} {ok : Packet → Bool} {sp : Spot} {p : Packet}

/-- The choice of a packet and its leaving the switch change no memory tile. -/
theorem State.takeSpot_outPick_port (h : s.outPick n port link ok = some (sp, p, u)) (k : Nat) :
    (u.takeSpot n sp).port n k = s.port n k := by
  obtain ⟨arb, rfl⟩ := State.outPick_state h
  refine State.port_of_mset ?_ k
  refine (State.updCell_mset_of_keeps _ n ?_ n).trans (State.updCell_mset_of_keeps s n ?_ n)
  · intro c; cases sp <;> rfl
  · exact fun _ => rfl

end

/-- A token leaves the switch for its port, and the marked transfer that it ends is complete (12 R260). -/
def State.tokenTaken (u : State) (n : Nat) (sp : Spot) (p : Packet) : State :=
  match p.xfer with
  | some r => (u.takeSpot n sp).completeXfer r.cell r.g (BitVec.ofNat 32 r.reqno)
  | none => u.takeSpot n sp

/-- The role of the port a table word acts on takes the word (11 R238). -/
def roleTaken (needs : Option Nat) (role : Nat) : Bool :=
  match needs with
  | some r => r == role
  | none => true

theorem roleTaken_iff (needs : Option Nat) (role : Nat) : roleTaken needs role = true ↔ ∀ r, needs = some r → r = role := by
  cases needs with
  | none => exact iff_of_true rfl (fun r h => nomatch h)
  | some a => simp [roleTaken]

theorem bitsN_high_eq_zero (x : Word) : bitsN x 3 61 = 0 ↔ x.toNat < 8 := by
  have hx := x.isLt
  simp only [bitsN, BitVec.extractLsb'_toNat, Nat.shiftRight_eq_div_pow]
  omega

/-- A port-control token names a word of the table that may run (11 R240, R248). -/
theorem tableWord_refused_iff (valid : Bool) (x : Word) (needs : Option Nat) (role : Nat) :
    (!valid || bitsN x 3 61 != 0 || !roleTaken needs role) = true ↔
      ¬ (valid = true ∧ x.toNat < 8 ∧ ∀ r, needs = some r → r = role) := by
  rw [← bitsN_high_eq_zero, ← roleTaken_iff]
  cases valid <;> cases roleTaken needs role <;> simp

/-! ### The token that a port takes (11 R239, R240) -/

section
variable {s u : State} {n : Nat} {sp : Spot} {p : Packet} (hpick : s.outPick n 5 0 (s.admitsM n) = some (sp, p, u))
include hpick

theorem exec_routeTokenAtPort_off (ho : (s.mset n).run = .off) : exec (.routeTokenAtPort n) s = .next (u.takeSpot n sp) := by
  show execRouteTokenAtPort n s = _
  rw [execRouteTokenAtPort, show s.outPick n portM 0 (s.admitsM n) = _ from hpick]
  dsimp only
  rw [if_pos ho]

variable (ho : (s.mset n).run ≠ .off) (hm : p.tok.isMarker = false)
include ho hm

theorem exec_routeTokenAtPort_stands (hc : p.tok.vchan ≠ 31) (hn : p.tok.nullish = false) (hb : s.mergeBad n (bitsN p.dstk 2 3) = true) :
    exec (.routeTokenAtPort n) s = .next (s.mergeStop n (bitsN p.dstk 2 3) p) := by
  show execRouteTokenAtPort n s = _
  rw [execRouteTokenAtPort, show s.outPick n portM 0 (s.admitsM n) = _ from hpick]
  dsimp only
  rw [if_neg ho, hm, if_neg (by simpa using hc), hn, hb]
  rfl

theorem exec_routeTokenAtPort_taken (hc : p.tok.vchan ≠ 31) (hb : p.tok.nullish = true ∨ s.mergeBad n (bitsN p.dstk 2 3) = false) :
    let k := bitsN p.dstk 2 3
    let t := u.tokenTaken n sp p
    ((s.port n k).role = 2 → exec (.routeTokenAtPort n) s =
      .next (t.updPort n k (fun q => { q with fifo := q.fifo ++ [p], accept := q.accept + 1 }))) ∧
    ((s.port n k).role = 3 → exec (.routeTokenAtPort n) s = .next ((t.updPort n k (fun q => { q with stopped := false })).reduceTok n k p)) ∧
    ((s.port n k).role = 12 → exec (.routeTokenAtPort n) s = .next t) ∧
    ((s.port n k).role ∉ [2, 3, 12] → exec (.routeTokenAtPort n) s = .next (t.discardTok n k p)) := by
  have hgoes : ¬ (!p.tok.nullish && s.mergeBad n (bitsN p.dstk 2 3)) = true := by
    obtain h | h := hb <;> simp [h]
  have hexec : exec (.routeTokenAtPort n) s = execRouteTokenAtPort n s := rfl
  rw [execRouteTokenAtPort, show s.outPick n portM 0 (s.admitsM n) = _ from hpick] at hexec
  dsimp only at hexec
  rw [if_neg ho, hm, if_neg (by simpa using hc), if_neg hgoes] at hexec
  dsimp only
  rw [hexec]
  refine ⟨fun hr => ?_, fun hr => ?_, fun hr => ?_, fun hr => ?_⟩
  · rw [hr]; rfl
  · rw [hr]; rfl
  · rw [hr]; rfl
  · simp only [List.mem_cons, List.not_mem_nil, or_false, not_or] at hr
    obtain ⟨h2, h3, h12⟩ := hr
    split
    · next h => exact absurd h h2
    · next h => exact absurd h h3
    · next h => exact absurd h h12
    · rfl

theorem exec_portControlToken (hc : p.tok.vchan = 31) {entry : Word} (he : entry = (s.mset n).entry p) :
    exec (.portControlToken n) s = .next (
      if !bitB (s.mset n).valid (bitsN p.tok.word 0 3) || bitsN p.tok.word 3 61 != 0 ||
          !roleTaken (attrRole (bitsN entry 58 6)) (s.port n (bitsN entry 56 2)).role then
        ((u.takeSpot n sp).updPort n (bitsN p.dstk 2 3) (fun q => { q with refused := q.refused + 1 })).tokenEvent n (bitsN p.dstk 2 3) 0x01 p
      else ((u.takeSpot n sp).updPort n (bitsN p.dstk 2 3) (fun q => { q with accept := q.accept + 1 })).portWord n entry
        (some (tileUnit p.src.toNat (bitsN p.srck 0 2)))) := by
  subst he
  show execPortControlToken n s = _
  rw [execPortControlToken, show s.outPick n portM 0 (s.admitsM n) = _ from hpick]
  dsimp only
  rw [hm, hc, State.takeSpot_outPick_port hpick, if_neg (by simpa using ho)]
  exact (apply_ite Host.Outcome.next _ _ _).symm

end

theorem State.sramPut_sram (s : State) (d off : Nat) (x : Unit64) :
    (s.sramPut d off x).sram = memWrite s.sram (sramKey d (off / 64 * 64)) 64 x.toNat := by
  unfold State.sramPut
  dsimp only
  rw [State.updM_sram, State.mend_sram]

theorem LaneOp.merge_token (op : BitVec 4) (f : Nat) (resident : Unit64) (t : Token) : (prdxOp op).merge false f resident [t] =
    packRne f (List.zipWith ((prdxOp op).lane false) (decodeLanes f resident (fun _ => none)) t.lanes) := by
  unfold prdxOp
  split <;> rfl

/-- A token of a reduction that its port takes is merged with its unit of the window (11 R244). -/
theorem State.reduceTok_sram {s : State} {d k : Nat} {p : Packet} (hk : p.tok.kind = .data)
    (hl : p.tok.lanes.length = lanesOf (s.port d k).fmt.toNat) (he : (s.port d k).emit = false) :
    let q := s.port d k; let off := (q.off + q.cnt.toNat % q.len) * 64
    (s.reduceTok d k p).sram = memWrite s.sram (sramKey d (off / 64 * 64)) 64
      (packRne q.fmt.toNat (List.zipWith ((prdxOp q.op).lane false) (decodeLanes q.fmt.toNat (s.sramUnit d off) (fun _ => none))
        p.tok.lanes)).toNat := by
  have hn : p.tok.nullish = false := by rw [Token.nullish, hk]; rfl
  unfold State.reduceTok
  dsimp only
  rw [hn, if_neg Bool.false_ne_true, if_neg (not_not_intro hl), he, if_neg Bool.false_ne_true, State.updPort_sram, State.sramPut_sram,
    LaneOp.merge_token]

/-- A port whose route has room sends the first of its queues: what it owes, a push, or an entry of its FIFO (11 R239). -/
theorem exec_fifoSend {s : State} {n k : Nat} {r : Route} (hq : (s.port n k).reached = false) (hf : (s.mset n).frozen = false)
    (hr : vget none (s.mset n).routes k = some r) (hroom : (s.cell n).routeFree 5 (some r) = true) :
    (∀ t rest, (s.port n k).outq = t :: rest →
      exec (.fifoSend n k) s = .next ((s.updPort n k (fun q => { q with outq := rest })).emitM n k t)) ∧
    (∀ w, (s.port n k).outq = [] → (s.port n k).pushq = some w → exec (.fifoSend n k) s =
      .next ((s.updPort n k (fun q => { q with pushq := none })).emitM n k (scalarTok (BitVec.ofNat 64 w) 0))) ∧
    (∀ t rest, (s.port n k).outq = [] → (s.port n k).pushq = none → (s.port n k).fifo = t :: rest →
      exec (.fifoSend n k) s = .next ((s.updPort n k (fun q => { q with fifo := rest })).emitM n k t.tok)) := by
  have hexec : exec (.fifoSend n k) s = execFifoSend n k s := rfl
  unfold execFifoSend at hexec
  dsimp only at hexec
  rw [hq, hf, hr, show (s.cell n).routeFree portM (some r) = true from hroom, if_neg (by decide)] at hexec
  rw [hexec]
  refine ⟨fun t rest h => ?_, fun w h hp => ?_, fun t rest h hp hx => ?_⟩
  · rw [h]
  · rw [h, hp]
  · rw [h, hp, hx]

/-! ### A waiting LDSY (11 R241) -/

/-- A waiting LDSY reads its unit at a plain window. -/
theorem State.ldsyRead {s : State} {n k : Nat} (i : Nat) (p : Placed) (hr : (s.port n k).role = 1) (q : Req) :
    let v := s.updPort n k (fun m => { m with ldsy := m.ldsy.eraseIdx i })
    v.portRead n k p q = v.answer p.cell q ⟨.data, ((s.aset p.cell).tmpl q.g).fmt, ((s.aset p.cell).tmpl q.g).vchan, q.tag,
      memUnit s.sram (n * 2 ^ 22 + p.addr / 64 * 64)⟩ := by
  intro v
  have hk : k < 4 := by
    by_contra hk
    have hreset : s.port n k = MPort.reset := vget_of_ge _ _ k (Nat.le_of_not_lt hk)
    rw [hreset] at hr
    exact absurd hr (by decide)
  have hrole : (v.port n k).role = 1 := by rw [State.updPort_self _ _ _ hk]; exact hr
  rw [State.portRead_unit (by rw [hrole]; decide), State.updPort_asetAt]
  unfold State.sramUnit
  rw [State.updPort_sram]
  rfl

section
variable {s : State} {n k i : Nat} {p : Placed} {q : Req} (hp : (s.port n k).ldsy[i]? = some p) (hd : (s.port n k).ldsyDue i = true)
  (hs : (s.port n k).stopped = false) (hf : (s.mset n).frozen = false) (hreq : s.reqOf p = some q)
include hp hd hs hf hreq

theorem exec_ldsyRelease_bad (hb : s.sramBad n p.addr = true) (hr : (s.port n k).role ≠ 12) :
    exec (.ldsyRelease n k i) s = .next (s.portBad n k q p.cell) := by
  show execLdsyRelease n k i s = _
  unfold execLdsyRelease
  dsimp only
  rw [hp]
  dsimp only
  rw [hd, hs, hf, hreq]
  dsimp only
  rw [hb, if_neg (by decide)]
  exact if_pos (by simpa using hr)

theorem exec_ldsyRelease_served (hb : s.sramBad n p.addr = false) : exec (.ldsyRelease n k i) s = .next (
    let z := (s.updPort n k (fun m => { m with ldsy := m.ldsy.eraseIdx i })).portRead n k p q
    match q.kind, (s.port n k).feUnit p.addr with
    | .ldsy true, some x => z.updPort n k (fun m => { m with feBits := m.feBits.set x false })
    | _, _ => z) := by
  show execLdsyRelease n k i s = _
  unfold execLdsyRelease
  dsimp only
  rw [hp]
  dsimp only
  rw [hd, hs, hf, hreq]
  dsimp only
  rw [hb, if_neg (by decide), Bool.false_and, if_neg Bool.false_ne_true]
  generalize q.kind = kind
  generalize (s.port n k).feUnit p.addr = unit
  cases kind with
  | ldsy clear => cases clear <;> cases unit <;> rfl
  | _ => rfl

end

end Sys2Proof.Machine

open Sys2Proof Sys2Proof.Machine in
/-- Settles O53: each token that port M serves is taken by its port's role or by the table word that it names, and a port sends the first
of its queues. -/
theorem portTokens : Obligations.PortTokens := by
  unfold Obligations.PortTokens
  intro s n m
  refine ⟨?_, ?_, ?_, ?_, ?_⟩
  · intro sp p u hpick k taken
    refine ⟨fun ho => ⟨_, exec_routeTokenAtPort_off hpick ho, rfl⟩, fun ho hm hc => ⟨fun hn hb => ?_, fun hb => ?_⟩⟩
    · exact ⟨_, exec_routeTokenAtPort_stands hpick ho hm hc hn hb, rfl⟩
    · obtain ⟨hfifo, hreduce, hnull, hother⟩ := exec_routeTokenAtPort_taken hpick ho hm hc hb
      exact ⟨fun hr => ⟨_, hfifo hr, rfl⟩, fun hr => ⟨_, hreduce hr, rfl⟩, fun hr => ⟨_, hnull hr, rfl⟩,
        fun hr => ⟨_, hother hr, rfl⟩⟩
  · intro d k p q off hk hl he
    exact State.reduceTok_sram hk hl he
  · intro sp p u entry legal hpick ho hm hc
    have hexec := exec_portControlToken hpick ho hm hc (entry := entry) rfl
    have hiff := tableWord_refused_iff (bitB m.valid (bitsN p.tok.word 0 3)) p.tok.word (attrRole (bitsN entry 58 6))
      (s.port n (bitsN entry 56 2)).role
    refine ⟨fun hl => ⟨_, hexec.trans (congrArg Host.Outcome.next (if_neg (fun h => hiff.mp h hl))), rfl⟩, fun hl => ?_⟩
    exact ⟨_, hexec.trans (congrArg Host.Outcome.next (if_pos (hiff.mpr hl))), rfl⟩
  · intro k r q hq hf hr hroom
    obtain ⟨hout, hpush, hfifo⟩ := exec_fifoSend hq hf hr hroom
    exact ⟨fun x rest h => ⟨_, hout x rest h, rfl⟩, fun w h hp => ⟨_, hpush w h hp, rfl⟩,
      fun x rest h hp hx => ⟨_, hfifo x rest h hp hx, rfl⟩⟩
  · intro k i p q m v hp hd hs hf hreq
    refine ⟨fun hb hr => exec_ldsyRelease_bad hp hd hs hf hreq hb hr, fun hb hr => ?_⟩
    exact ⟨_, exec_ldsyRelease_served hp hd hs hf hreq hb, by dsimp only; rw [State.ldsyRead i p hr q] <;> rfl⟩
end

/-!
PROOF. The state right after a cold reset (24 R374): what an access to a context or a stack finds there.
-/

section
namespace Sys2Proof.Machine

open Sys2Proof

/-- Every element of an array of one value. -/
theorem vget_replicate {α : Type} (k : Nat) (d : α) (n : Nat) : vget d (Vector.replicate k d) n = d := by
  unfold vget Vector.getD
  by_cases h : n < k <;> simp [h]

@[simp] theorem State.reset_ctx (c : Nat) : State.reset.ctx c = Context.reset := vget_replicate 64 _ c
@[simp] theorem State.reset_stk (k : Nat) : State.reset.stk k = Stack.reset := vget_replicate 12 _ k

/-- A context after reset reads 0 in every register. -/
theorem Context.reset_reg (r : Reg) : Context.reset.reg r = 0 := by
  unfold Context.reg
  split
  · rfl
  · exact vget_replicate 32 _ _

end Sys2Proof.Machine

open Sys2Proof Sys2Proof.Machine in
/-- Settles O1: the tables of cells and jobs are empty after reset, so each cell and job holds its reset value, and each context and stack
does because its array is filled with it. -/
theorem resetValues : Obligations.ResetValues := by
  have ctxs (c : Nat) (_ : c < 64) : (State.reset.ctx c).st = .free ∧ (State.reset.ctx c).tvec = 0 ∧ (State.reset.ctx c).intr = false ∧
      ∀ r, (State.reset.ctx c).reg r = 0 := by
    rw [State.reset_ctx]
    exact ⟨rfl, rfl, rfl, Context.reset_reg⟩
  have stks (k : Nat) (_ : k < 12) : (State.reset.stk k).hmask = 0x7FFFFC0 ∧ (State.reset.stk k).quiesce = false ∧
      (State.reset.stk k).cecnt = 0 := by
    rw [State.reset_stk]
    exact ⟨rfl, rfl, rfl⟩
  exact ⟨⟨rfl, rfl, rfl⟩, rfl, rfl, rfl, rfl, ctxs, stks, fun _ => ⟨rfl, rfl, rfl, rfl, rfl⟩, fun _ => ⟨rfl, rfl, rfl, rfl, rfl⟩⟩
end

/-!
PROOF. Resets (21 R356 to R358, 24 R374, R375): what the writes on their way and the headers of abandoned images keep of reaches, contexts
and jobs, and what a function-level reset leaves.
-/

section
namespace Sys2Proof.Machine

open Sys2Proof

/-! ### What an access of the device keeps: which reaches there are, whose the contexts are, and the tables of the jobs -/

/-- t has the reaches of s by number, the owners and the states of its contexts, and what the physical function gave its jobs. -/
structure KeepsOwners (s t : State) : Prop where
  ids : t.reaches.map (·.id) = s.reaches.map (·.id)
  ctx : ∀ c, (t.ctx c).job = (s.ctx c).job ∧ (t.ctx c).st = (s.ctx c).st
  job : ∀ j, (t.job j).valid = (s.job j).valid ∧ (t.job j).roota = (s.job j).roota

theorem KeepsOwners.refl (s : State) : KeepsOwners s s := ⟨rfl, fun _ => ⟨rfl, rfl⟩, fun _ => ⟨rfl, rfl⟩⟩

theorem KeepsOwners.trans {s t u : State} (h : KeepsOwners s t) (g : KeepsOwners t u) : KeepsOwners s u :=
  ⟨g.ids.trans h.ids, fun c => ⟨(g.ctx c).1.trans (h.ctx c).1, (g.ctx c).2.trans (h.ctx c).2⟩,
    fun j => ⟨(g.job j).1.trans (h.job j).1, (g.job j).2.trans (h.job j).2⟩⟩

theorem KeepsOwners.foldl {α : Type} {f : State → α → State} (hf : ∀ s a, KeepsOwners s (f s a)) (l : List α) :
    ∀ s, KeepsOwners s (l.foldl f s) := by
  induction l with
  | nil => exact .refl
  | cons a l ih => exact fun s => (hf s a).trans (ih _)

/-- An update of none of the three. -/
theorem KeepsOwners.of_eq {s t : State} (hr : t.reaches = s.reaches) (hc : t.ctxs = s.ctxs) (hj : t.jobs = s.jobs) : KeepsOwners s t := by
  refine ⟨by rw [hr], fun c => ?_, fun j => ?_⟩
  · unfold State.ctx; rw [hc]; exact ⟨rfl, rfl⟩
  · unfold State.job; rw [hj]; exact ⟨rfl, rfl⟩

theorem KeepsOwners.updJob {s t : State} (h : KeepsOwners s t) (j : Nat) {f : Job → Job}
    (hf : ∀ b, (f b).valid = b.valid ∧ (f b).roota = b.roota) : KeepsOwners s (t.updJob j f) := by
  refine h.trans ⟨rfl, fun _ => ⟨rfl, rfl⟩, fun k => ?_⟩
  by_cases hk : k = j
  · subst hk; rw [State.job_updJob_self]; exact hf _
  · rw [State.job_updJob_ne _ _ hk]; exact ⟨rfl, rfl⟩

theorem KeepsOwners.of_changes {K : List Nat} {s t : State} {j va : Nat} (h : WalkChanges K s t j va) : KeepsOwners s t := by
  obtain ⟨hs, -, hjobs, -⟩ := h
  refine ⟨by rw [hs], fun c => ?_, fun q => ?_⟩
  · unfold State.ctx; rw [hs]; exact ⟨rfl, rfl⟩
  · rw [(hjobs q).1]; exact ⟨rfl, rfl⟩

theorem Context.hold_owner (x : Context) (t : Trap) : (x.hold t).job = x.job ∧ (x.hold t).st = x.st := by
  unfold Context.hold; split <;> exact ⟨rfl, rfl⟩

theorem State.queueWalk_owners (s : State) (die j va : Nat) (k : Kind) : KeepsOwners s (s.queueWalk die j va k) := by
  unfold State.queueWalk
  split
  · exact .of_eq rfl rfl rfl
  · split <;> exact .of_eq rfl rfl rfl

theorem State.dieAccess_owners (s : State) (die j va : Nat) (k : Kind) : KeepsOwners s (s.dieAccess die j va k).1 := by
  by_cases hw : (s.dieAccess die j va k).2.2 = .wait
  · unfold State.dieAccess at hw ⊢
    split
    · exact .of_changes (s.dieTranslate_changes _ _ _ _).1
    next hc =>
      rw [if_neg hc] at hw
      split
      · exact s.queueWalk_owners _ _ _ _
      next hf =>
        rw [if_neg hf] at hw
        dsimp only at hw ⊢
        split at hw
        next => exact s.queueWalk_owners _ _ _ _
        next hr => exact absurd hw hr
  · exact .of_changes (State.dieAccess_changes hw).1

section
variable {s t : State} (h : KeepsOwners s t)
include h

theorem KeepsOwners.noteLine (j va : Nat) : KeepsOwners s (t.noteLine j va) := by
  refine h.trans ⟨?_, fun c => ?_, fun _ => ⟨rfl, rfl⟩⟩
  · unfold State.noteLine
    rw [List.map_map]
    refine List.map_congr_left fun r _ => ?_
    dsimp only [Function.comp_apply]
    split <;> rfl
  · rw [t.noteLine_notes j va c]; exact ⟨rfl, rfl⟩

theorem KeepsOwners.writeAt (j va st sa n v : Nat) : KeepsOwners s (t.writeAt j va st sa n v) := by
  unfold State.writeAt
  dsimp only
  refine .noteLine (h.trans ?_) j va
  split <;> exact .of_eq rfl rfl rfl

theorem KeepsOwners.irq (j : Nat) (b : Bool) : KeepsOwners s (t.irq j b) := by
  unfold State.irq
  split
  · exact h
  split
  · exact h.updJob j fun _ => ⟨rfl, rfl⟩
  · exact (h.updJob j (f := fun b => { b with irqpend := true, irqMore := false }) fun _ => ⟨rfl, rfl⟩).trans (.of_eq rfl rfl rfl)

theorem KeepsOwners.recTrap (r : EvRec) : KeepsOwners s (t.recTrap r) := by
  refine h.trans ⟨by unfold State.recTrap; split <;> rfl, fun k => ?_, fun _ => by unfold State.recTrap; split <;> exact ⟨rfl, rfl⟩⟩
  unfold State.recTrap
  split
  · exact ⟨rfl, rfl⟩
  next c _ =>
    by_cases hk : k = c
    · subst hk
      by_cases h64 : k < 64
      · rw [State.updCtx_self _ _ h64]; exact Context.hold_owner _ _
      · unfold State.ctx State.updCtx; rw [vset_of_ge _ _ _ (Nat.le_of_not_lt h64)]; exact ⟨rfl, rfl⟩
    · rw [State.updCtx_of_ne _ _ hk]; exact ⟨rfl, rfl⟩

theorem KeepsOwners.tierMiss (j va who reach : Nat) : KeepsOwners s (t.tierMiss j va who reach) := by
  unfold State.tierMiss
  split
  · exact h
  · exact h.trans (.of_eq rfl rfl rfl)

theorem KeepsOwners.memErrDone (j key who : Nat) : KeepsOwners s (t.memErrDone j key who) := by
  unfold State.memErrDone
  split
  · exact h.trans (.of_eq rfl rfl rfl)
  · exact h

theorem KeepsOwners.noteError (j key src stack who : Nat) : KeepsOwners s (t.noteError j key src stack who) := by
  unfold State.noteError
  dsimp only
  split <;> exact h.trans (.of_eq rfl rfl rfl)

/-- A record that is dropped. -/
theorem KeepsOwners.dropRecord (j : Nat) (r : EvRec) :
    KeepsOwners s (((t.updJob j (fun b => { b with lost := satInc b.lost })).irq j r.irq).recTrap r) := by
  refine .recTrap (.irq (h.updJob j ?_) _ _) _
  exact fun _ => ⟨rfl, rfl⟩

/-- A record that is written. -/
theorem KeepsOwners.putRecord (j k sa n v va : Nat) (r : EvRec) :
    KeepsOwners s (((((((t.memErrDone j va whoSeq).countAccess k sa).hbmPut k sa n v).updJob j (fun b => { b with wridx := b.wridx + 1 })).noteLine
      j va).irq j r.irq).recTrap r) := by
  have written : KeepsOwners s (((t.memErrDone j va whoSeq).countAccess k sa).hbmPut k sa n v) :=
    (h.memErrDone j va whoSeq).trans (.of_eq rfl rfl rfl)
  refine .recTrap (.irq (.noteLine (written.updJob j ?_) _ _) _ _) _
  exact fun _ => ⟨rfl, rfl⟩

end

/-- The same of the state that a record leaves, written, dropped or made to wait. -/
def LogKeepsOwners (s : State) : Except (State × List EvRec) State → Prop
  | .ok t => KeepsOwners s t
  | .error p => KeepsOwners s p.1

theorem State.logOne_owners (s : State) (j : Nat) (r : EvRec) : LogKeepsOwners s (s.logOne j r) := by
  unfold State.logOne
  dsimp only
  split
  · exact .dropRecord (.refl s) j r
  have ha := s.dieAccess_owners 0 j ((s.job j).elbase.toNat * 4096 + 32 * ((s.job j).wridx.toNat % (s.job j).ring)) .write
  split
  · split
    · exact .refl s
    · exact ha.putRecord j _ _ _ _ _ r
  · show KeepsOwners s (if s.missing j _ then s else _)
    split
    · exact .refl s
    · exact ha.tierMiss _ _ _ _
  · exact ha
  · split
    · exact .refl s
    · exact ha.noteError _ _ _ _ _
  · refine .dropRecord (ha.updJob j ?_) j r
    exact fun _ => ⟨rfl, rfl⟩

theorem State.flushLog_owners (j : Nat) (l : List EvRec) : ∀ s : State, KeepsOwners s (s.flushLog j l) := by
  induction l with
  | nil => exact fun s => .updJob (.refl s) j fun _ => ⟨rfl, rfl⟩
  | cons r l ih =>
    intro s
    have h := s.logOne_owners j r
    rw [State.flushLog]
    split
    next e => rw [e] at h; exact h.trans (ih _)
    next e => rw [e] at h; exact .updJob h j fun _ => ⟨rfl, rfl⟩

theorem KeepsOwners.memError {s t : State} (h : KeepsOwners s t) (j key addr src stack who : Nat) :
    KeepsOwners s (s.memError t j key addr src stack who) := by
  unfold State.memError
  split
  · exact .refl s
  · exact (h.noteError _ _ _ _ _).trans (State.flushLog_owners _ _ _)

theorem KeepsOwners.settleAccess {s t : State} (h : KeepsOwners s t) (r : Trans) (j va : Nat) (k : Kind) (who : Nat) (again : Bool) :
    KeepsOwners s (s.settleAccess t r j va k who again).1 := by
  unfold State.settleAccess
  cases r with
  | ok st sa =>
    dsimp only
    split
    · exact h
    split
    · have counted : KeepsOwners s (t.countAccess st sa) := h.trans (.of_eq rfl rfl rfl)
      exact counted.memError _ _ _ _ _ _
    · exact h.memErrDone _ _ _
  | fault cause code => exact h
  | tier =>
    dsimp only
    split
    · exact .refl s
    · exact h.tierMiss _ _ _ _
  | bad st sa => exact h.memError _ _ _ _ _ _
  | wait => exact h

theorem State.sysReach_owners (s : State) (j va : Nat) (k : Kind) (who : Nat) : KeepsOwners s (s.sysReach j va k who).1 :=
  (s.dieAccess_owners 0 j va k).settleAccess _ j va k who true

/-! ### Writes on their way and abandoned images at a reset -/

theorem State.flushWrites_owners (s : State) (j : Nat) (cells : List Nat) : KeepsOwners s (s.flushWrites j cells) := by
  have write (s : State) (go : Bool) (j va st sa n v : Nat) :
      KeepsOwners s (if go = true then s.drawn.writeAt j va st sa n v else s.drawn) := by
    have drawn : KeepsOwners s s.drawn := .of_eq rfl rfl rfl
    split
    · exact drawn.writeAt _ _ _ _ _ _
    · exact drawn
  unfold State.flushWrites
  dsimp only
  refine KeepsOwners.trans (KeepsOwners.foldl (fun s k => KeepsOwners.foldl (fun s p => ?_) _ s) _ s) (KeepsOwners.foldl (fun s c => ?_) _ _)
  · split
    · exact .refl s
    · exact write ..
  · split
    · exact .refl s
    · exact KeepsOwners.foldl (fun s p => write ..) _ s

theorem State.headerAt_owners (s : State) (j va words state : Nat) : KeepsOwners s (s.headerAt j va words state).1 := by
  have h := s.sysReach_owners j va .write whoSeq
  unfold State.headerAt
  dsimp only
  split
  · exact h
  · exact h
  · exact h.writeAt _ _ _ _ _ _

/-- A state that has left off an abandoned header, or still holds it. -/
theorem KeepsOwners.headerLeft {s : State} {p : State × Bool} (h : KeepsOwners s p.1) (a : Abandoned) :
    KeepsOwners s (if p.2 = true then { p.1 with abandoned := p.1.abandoned.erase a } else p.1) := by
  split
  · exact h.trans (.of_eq rfl rfl rfl)
  · exact h

theorem KeepsOwners.abandonHeader {s t : State} (h : KeepsOwners s t) (reach : Nat) : KeepsOwners s (t.abandonHeader reach) := by
  refine h.trans ?_
  unfold State.abandonHeader
  split
  · exact .refl t
  · refine KeepsOwners.headerLeft ?_ _
    split
    · exact .refl t
    · exact t.headerAt_owners _ _ _ _

theorem State.abandonSaves_owners (s : State) (j : Nat) : KeepsOwners s (s.abandonSaves j) := by
  refine KeepsOwners.foldl (fun s m => ?_) _ s
  split
  · split
    · refine .abandonHeader ?_ _
      exact .of_eq rfl rfl rfl
    · exact .refl s
  · exact .refl s

/-! ### A function-level reset -/

/-- The state in which a function-level reset finds the machine, once the writes on their way and the abandoned headers are done. -/
def State.drainedFor (s : State) (j : Nat) : State := (s.flushWrites j (s.job j).cells).abandonSaves j

theorem State.drainedFor_owners (s : State) (j : Nat) : KeepsOwners s (s.drainedFor j) :=
  (s.flushWrites_owners j _).trans (State.abandonSaves_owners _ j)

/-- Clearing cells and resetting their need-by blocks changes cells, scratchpads and the list of uncorrectable units alone. -/
theorem State.clearCells_frame (l : List Nat) : ∀ s : State, ∃ c m b,
    l.foldl (fun (s : State) n => s.clearCell n) s = { s with cells := c, sram := m, bad := b } := by
  induction l with
  | nil => exact fun s => ⟨s.cells, s.sram, s.bad, rfl⟩
  | cons n l ih =>
    intro s
    obtain ⟨c, m, b, h⟩ := ih (s.clearCell n)
    exact ⟨c, m, b, h⟩

theorem State.clearJob_frame (s : State) (l : List Nat) : ∃ c m b,
    (l.foldl (fun (s : State) n => s.clearCell n) s).resetNeed l = { s with cells := c, sram := m, bad := b } := by
  obtain ⟨c, m, b, h⟩ := State.clearCells_frame l s
  rw [State.resetNeed_frame, h]
  exact ⟨_, m, b, rfl⟩

/-- A context that belongs to a job. -/
def Context.ownedBy (x : Context) (j : Nat) : Bool := x.job == j && x.st != .free

/-- A function-level reset drops the job's entries from the tables that list work, then clears its cells and its registers. -/
theorem State.resetJob_eq (s : State) (j : Nat) : ∃ v : State,
    s.resetJob j = (((s.job j).cells.foldl (fun (s : State) n => s.clearCell n) v).resetNeed (s.job j).cells).updJob j Job.flr ∧
    v.reaches = (s.drainedFor j).reaches.filter (fun r => r.job != j) ∧
    v.images = (s.drainedFor j).images.filter (fun m => m.job != j) ∧
    v.cache = (s.drainedFor j).cache.filter (fun e => e.job != j) ∧
    v.walks = (s.drainedFor j).walks.filter (fun w => w.job != j) ∧
    v.misses = (s.drainedFor j).misses.filter (fun m => m.job != j) ∧
    v.ctxs = (s.drainedFor j).ctxs.map (fun c => if c.ownedBy j then Context.reset else c) ∧ v.jobs = (s.drainedFor j).jobs := by
  unfold State.resetJob
  dsimp only
  rw [← State.drainedFor]
  generalize s.drainedFor j = u
  exact ⟨_, rfl, rfl, rfl, rfl, rfl, rfl, rfl, rfl⟩

/-- What a function-level reset leaves of those tables, and of contexts and jobs. -/
theorem State.resetJob_frame (s : State) (j : Nat) : let u := s.drainedFor j
    (s.resetJob j).reaches = u.reaches.filter (fun r => r.job != j) ∧ (s.resetJob j).images = u.images.filter (fun m => m.job != j) ∧
    (s.resetJob j).cache = u.cache.filter (fun e => e.job != j) ∧ (s.resetJob j).walks = u.walks.filter (fun w => w.job != j) ∧
    (s.resetJob j).misses = u.misses.filter (fun m => m.job != j) ∧
    (s.resetJob j).ctxs = u.ctxs.map (fun c => if c.ownedBy j then Context.reset else c) ∧
    (s.resetJob j).jobs = Tbl.set u.jobs j (u.job j).flr := by
  obtain ⟨v, hv, hreaches, himages, hcache, hwalks, hmisses, hctxs, hjobs⟩ := s.resetJob_eq j
  obtain ⟨c, m, b, hc⟩ := State.clearJob_frame v (s.job j).cells
  rw [hv, hc]
  refine ⟨hreaches, himages, hcache, hwalks, hmisses, hctxs, ?_⟩
  show Tbl.set v.jobs j (Tbl.get Job.reset v.jobs j).flr = _
  rw [hjobs, State.job]

theorem State.resetJob_ctx (s : State) (j : Nat) {c : Nat} (hc : c < 64) :
    (s.resetJob j).ctx c = if ((s.drainedFor j).ctx c).ownedBy j then Context.reset else (s.drainedFor j).ctx c := by
  obtain ⟨-, -, -, -, -, hctxs, -⟩ := s.resetJob_frame j
  unfold State.ctx
  rw [hctxs, vget_map, if_pos hc]

theorem State.resetJob_job (s : State) (j : Nat) : (s.resetJob j).job j = ((s.drainedFor j).job j).flr := by
  obtain ⟨-, -, -, -, -, -, hjobs⟩ := s.resetJob_frame j
  unfold State.job
  rw [hjobs, Tbl.get_set_self]
  rfl

theorem Context.ownedBy_iff (x : Context) (j : Nat) : x.ownedBy j = true ↔ x.job = j ∧ x.st ≠ .free := by simp [Context.ownedBy]

theorem Job.flr_flr (b : Job) : b.flr.flr = b.flr := rfl
theorem Job.flr_queues (b : Job) : b.flr.queues = Vector.replicate 16 Queue.reset := rfl
theorem Job.flr_valid (b : Job) : b.flr.valid = b.valid := rfl
theorem Job.flr_roota (b : Job) : b.flr.roota = b.roota := rfl

/-- After a function-level reset every context of the job is free. -/
theorem State.resetJob_frees (s : State) (j : Nat) {c : Nat} (hc : c < 64) (hj : ((s.resetJob j).ctx c).job = j) :
    ((s.resetJob j).ctx c).st = .free := by
  rw [State.resetJob_ctx s j hc] at hj ⊢
  split at hj
  next ho => rw [if_pos ho]; rfl
  next ho =>
    rw [if_neg ho]
    by_contra hst
    exact ho ((Context.ownedBy_iff _ j).mpr ⟨hj, hst⟩)

/-- A context that the job holds is reset. -/
theorem State.resetJob_resets (s : State) (j : Nat) {c : Nat} (hc : c < 64) (hj : (s.ctx c).job = j) (hst : (s.ctx c).st ≠ .free) :
    (s.resetJob j).ctx c = Context.reset := by
  obtain ⟨hjob, hsame⟩ := (s.drainedFor_owners j).ctx c
  rw [State.resetJob_ctx s j hc, if_pos ((Context.ownedBy_iff _ j).mpr ⟨hjob.trans hj, by rwa [hsame]⟩)]

/-- The reaches left are those of other jobs, each with the number of one there was. -/
theorem State.resetJob_reaches (s : State) (j : Nat) {r : Reach} (hr : r ∈ (s.resetJob j).reaches) :
    r.job ≠ j ∧ ∃ r' ∈ s.reaches, r.id = r'.id := by
  obtain ⟨hreaches, -⟩ := s.resetJob_frame j
  rw [hreaches] at hr
  obtain ⟨hmem, hjob⟩ := List.mem_filter.mp hr
  have hid : r.id ∈ s.reaches.map (·.id) := (s.drainedFor_owners j).ids ▸ List.mem_map_of_mem hmem
  obtain ⟨r', hr', he⟩ := List.mem_map.mp hid
  exact ⟨by simpa using hjob, r', hr', he.symm⟩

/-- The state of whose memories and training results a warm reset leaves: jobs reset, cells cleared, stacks no longer quiesced, the page
move that ran and the headers of abandoned images done. -/
def State.warmSettled (s : State) : State :=
  let u := s.resetJobs
  let w := u.clearing.foldl (fun (s : State) n => s.clearCell n) u
  let x : State := { w with stks := w.stks.map (fun k => { k with quiesce := false }) }
  x.abandoned.foldl (fun (s : State) a => s.abandonHeader a.reach) x.finishMove

theorem exec_warmReset (s : State) : let u := s.warmSettled
    exec .warmReset s = .next { State.reset with
      cycle := u.cycle, focus := u.focus, schedule := u.schedule, turnNo := u.turnNo, inputs := u.inputs, hbm := u.hbm,
      sram := u.sram, host := u.host, bad := u.bad, bootOk := u.bootOk, coldResets := u.coldResets, seamOpen := u.seamOpen,
      stacksIn := u.stacksIn, shoreIn := u.shoreIn, nextId := u.nextId, tide := u.tide, powerMs := u.powerMs,
      shoreOut := u.shoreOut, msix := u.msix, freeCount := u.freeCount } := by
  show execWarmReset s = _
  rw [execWarmReset]
  rfl

theorem exec_flr {s : State} {j : Nat} (h1 : 1 ≤ j) (h63 : j ≤ 63) : exec (.flr j) s = .next (s.resetJob j) := by
  show execFlr j s = _
  exact if_neg (job_in_range h1 h63)

end Sys2Proof.Machine

open Sys2Proof Sys2Proof.Machine in
/-- Settles O60: what is flushed and abandoned first keeps the owners of contexts, the numbers of reaches and the tables of jobs, so what a
function-level reset leaves follows from what it filters; the other resets write their states out. -/
theorem resets : Obligations.Resets := by
  unfold Obligations.Resets
  intro s
  refine ⟨fun j h1 h63 => ?_, fun h => ⟨_, congrArg Host.Outcome.next (if_pos h), rfl⟩,
    fun h => ⟨_, congrArg Host.Outcome.next (if_neg (by simp [h])), rfl⟩,
    ⟨_, exec_warmReset s, ?warm⟩,
    ⟨_, rfl, rfl, rfl, rfl, rfl, rfl, rfl, rfl, rfl, rfl, rfl, rfl, rfl, rfl, rfl⟩⟩
  case warm =>
    intro u w x v
    have hv : v = s.warmSettled := rfl
    rw [hv]
    generalize s.warmSettled = z
    exact ⟨rfl, rfl, rfl, rfl, rfl, rfl, rfl, rfl, rfl, rfl, rfl, rfl, rfl, rfl, rfl, rfl⟩
  have hjob := s.resetJob_job j
  obtain ⟨hvalid, hroota⟩ := (s.drainedFor_owners j).job j
  obtain ⟨-, himages, hcache, hwalks, hmisses, -, -⟩ := s.resetJob_frame j
  refine ⟨_, exec_flr h1 h63, rfl, fun r hr => (s.resetJob_reaches j hr).1, fun r hr => (s.resetJob_reaches j hr).2,
    fun c hc => s.resetJob_frees j hc, fun c hc => s.resetJob_resets j hc, ?_, ?_, ?_, ?_, ?_, ?_, ?_, ?_⟩
  · rw [hjob, Job.flr_flr]
  · rw [hjob, Job.flr_queues]
  · rw [hjob, Job.flr_valid, hvalid]
  · rw [hjob, Job.flr_roota, hroota]
  · rw [himages]; exact fun m hm => by simpa using (List.mem_filter.mp hm).2
  · rw [hcache]; exact fun e he => by simpa using (List.mem_filter.mp he).2
  · rw [hwalks]; exact fun w hw => by simpa using (List.mem_filter.mp hw).2
  · rw [hmisses]; exact fun m hm => by simpa using (List.mem_filter.mp hm).2
end

/-!
PROOF. The progress plane (12 R250 to R253, R261, R263): what a tile broadcasts, how its paces go on, and what a record that arrives
replaces and marks late.
-/

section
namespace Sys2Proof.Machine

open Sys2Proof

/-! ### Broadcasts and paces -/

theorem CSet.broadcasts_iff (cs : CSet) :
    cs.broadcasts = true ↔ cs.iss.run ≠ .off ∧ cs.iss.run ≠ .waiting ∧ cs.iss.run ≠ .saved := by
  simp [CSet.broadcasts, and_assoc]

/-- The record that a set of cell n sends of its counter k (R250). -/
def CSet.progressRecord (cs : CSet) (n k : Nat) : Record :=
  ⟨cs.iss.reach, n, k, (cs.iss.counter k).val, (cs.iss.counter k).pace,
    cs.iss.run == .running && (cs.iss.counter k).starved && !(cs.iss.counter k).changed && !cs.firstRecord⟩

/-- The records of a set's progress counters, each for every cell of its job. -/
def State.progressRecords (s : State) (n : Nat) : List (Nat × Record) :=
  ((List.range 8).filter (fun k => ((s.cset n).iss.counter k).prog)).flatMap (fun k =>
    (s.job (s.reachJob (s.cset n).iss.reach)).cells.map (fun d => (d, (s.cset n).progressRecord n k)))

/-- A set after its broadcast at cycle t. -/
def CSet.broadcast (cs : CSet) (t : Nat) : CSet := { cs with
  firstRecord := false, nextRecord := t + 64
  iss := { cs.iss with ctr := cs.iss.ctr.map (fun k => { k with changed := false, starved := true }) } }

/-- A counter after an update of its pace (R251). -/
def Counter.paced (k : Counter) : Counter :=
  if k.prog then { k with pace := BitVec.ofNat 16 (min (k.pace.toNat - k.pace.toNat / 4 + 4 * k.delta) 65535), delta := 0 } else k

/-- A set after an update of its paces at cycle t. -/
def CSet.paced (cs : CSet) (t : Nat) : CSet :=
  { cs with nextPace := t + 256, iss := { cs.iss with ctr := cs.iss.ctr.map Counter.paced } }

section
variable {s : State} {n : Nat}

theorem exec_progressBroadcast (hp : (s.cset n).broadcasts = true) (hb : (s.cell n).island.busy = false)
    (hr : (s.cset n).nextRecord ≤ s.islandCycle n) (hn : s.islandCycle n < (s.cset n).nextPace) (ho : ∀ p ∈ s.recordsOut, p.2.cell ≠ n) :
    exec (.progressBroadcast n) s = .next (State.updC { s with recordsOut := s.recordsOut ++ s.progressRecords n } n
      (fun c => c.broadcast (s.islandCycle n))) := by
  have due : s.broadcastDue n = true := by simp [State.broadcastDue, hp, hb, hr]
  have pace : s.paceDue n = false := by simp [State.paceDue, hn]
  have out : s.recordsOut.any (fun p => p.2.cell == n) = false := by simpa using ho
  show execProgressBroadcast n s = _
  unfold execProgressBroadcast
  dsimp only
  rw [due, pace, out, List.flatMap_map]
  rfl

theorem exec_paceUpdate (hp : (s.cset n).broadcasts = true) (hn : (s.cset n).nextPace ≤ s.islandCycle n) :
    exec (.paceUpdate n) s = .next (s.updC n (fun c => c.paced (s.islandCycle n))) := by
  have due : s.paceDue n = true := by simp [State.paceDue, hp, hn]
  show execPaceUpdate n s = _
  unfold execPaceUpdate
  rw [due]
  rfl

end

theorem CSet.paced_counter (cs : CSet) (t : Nat) {k : Nat} (hk : k < 8) : (cs.paced t).iss.counter k = (cs.iss.counter k).paced := by
  unfold Issue.counter
  exact (vget_map _ _ _ _).trans (if_pos hk)

/-! ### A record that arrives -/

/-- A transfer that a record of its counter shows to be late (R261). -/
def Xfer.see (r : Record) (t : Nat) (x : Xfer) : Xfer :=
  if x.late = none ∧ x.mcell = r.cell ∧ x.mctr = r.ctr ∧ (r.value - x.mark).toNat < 2 ^ 31 then { x with late := some (r.value, t) } else x

/-- The same of a marked unit of a node, and of the units that a node of the record's reach has requested. -/
def NodeReq.see (r : Record) (t : Nat) (q : NodeReq) : NodeReq := if q.marked then { q with x := q.x.see r t } else q
def CNode.see (r : Record) (t : Nat) (d : CNode) : CNode :=
  if d.reach = r.reach then { d with rd := d.rd.map (NodeReq.see r t), wr := d.wr.map (NodeReq.see r t), flight := d.flight.map (NodeReq.see r t) }
  else d
def ASet.see (r : Record) (t : Nat) (a : ASet) : ASet := if a.iss.reach = r.reach then { a with xfers := a.xfers.map (Xfer.see r t) } else a

theorem Xfer.see_eq (r : Record) (t : Nat) (x : Xfer) :
    (if x.late.isNone && x.mcell == r.cell && x.mctr == r.ctr && (r.value - x.mark).toNat < 2 ^ 31 then { x with late := some (r.value, t) }
      else x) = x.see r t := by
  unfold Xfer.see
  refine if_congr ?_ rfl rfl
  simp [and_assoc]

/-- A cell without nodes has none to mark. -/
theorem Cell.mapNodes_eq (c : Cell) (f : CNode → CNode) :
    (if c.nodes.isEmpty then c else { c with nodes := c.nodes.map f }) = { c with nodes := c.nodes.map f } := by
  split
  next h =>
    have none : c.nodes.map f = c.nodes := by rw [List.isEmpty_iff.mp h]; rfl
    rw [none]
  · rfl

/-- The comparison with a record marks the transfers of the cell's address generator and the units of its nodes. -/
theorem State.findLate_eq (s : State) (n : Nat) (r : Record) : s.findLate n r =
    (s.updA n (ASet.see r (s.islandCycle n))).updCell n (fun c => { c with nodes := c.nodes.map (CNode.see r (s.islandCycle n)) }) := by
  unfold State.findLate
  dsimp only
  simp only [Xfer.see_eq]
  exact State.updCell_congr (Cell.mapNodes_eq ((s.updA n (ASet.see r (s.islandCycle n))).cell n) (CNode.see r (s.islandCycle n)))

/-- What a cell holds of the records of a counter once a new one has replaced the earlier one. -/
def Cell.replaceRecord (r : Record) (c : Cell) : Cell := { c with
  records := c.records.filter (fun q => !(q.reach == r.reach && q.cell == r.cell && q.ctr == r.ctr)) ++ [r] }

theorem exec_progressRecordArrival {s : State} {i n : Nat} {r : Record} (hi : s.recordsOut[i]? = some (n, r))
    (hf : ∀ p ∈ s.recordsOut.take i, ¬ (p.1 = n ∧ p.2.reach = r.reach ∧ p.2.cell = r.cell ∧ p.2.ctr = r.ctr))
    (hd : (s.cell n).decided ≠ s.islandCycle n + 1) : exec (.progressRecordArrival i) s = .next (State.findLate
      (State.updCell { s with recordsOut := s.recordsOut.eraseIdx i } n (Cell.replaceRecord r)) n r) := by
  have first : (s.recordsOut.take i).any (fun p => p.1 == n && p.2.reach == r.reach && p.2.cell == r.cell && p.2.ctr == r.ctr) = false := by
    rw [List.any_eq_false]
    intro p hp h
    exact hf p hp (by simpa [and_assoc] using h)
  have undecided : s.hasDecided n = false := by simpa [State.hasDecided] using hd
  show execProgressRecordArrival i s = _
  unfold execProgressRecordArrival
  rw [hi]
  dsimp only
  rw [first, undecided]
  rfl

/-- The cell of a record after its arrival. -/
theorem State.findLate_cell (s : State) (n : Nat) (r : Record) : ((s.findLate n r).cell n).records = (s.cell n).records ∧
    (s.findLate n r).aset n = (s.aset n).see r (s.islandCycle n) ∧
    ((s.findLate n r).cell n).nodes = (s.cell n).nodes.map (CNode.see r (s.islandCycle n)) := by
  rw [State.findLate_eq]
  refine ⟨?_, ?_, ?_⟩
  · rw [State.updCell_self, State.updA, State.updCell_self]
  · rw [State.aset, State.updCell_self]
    exact State.aset_updA s n _
  · rw [State.updCell_self, State.updA, State.updCell_self]

theorem State.findLate_frame (s : State) (n : Nat) (r : Record) : s.findLate n r = { s with cells := (s.findLate n r).cells } := rfl

end Sys2Proof.Machine

open Sys2Proof Sys2Proof.Machine in
/-- Settles O50: each of the three events writes one cell, and beside it only the records on their way. -/
theorem progressPlane : Obligations.ProgressPlane := by
  unfold Obligations.ProgressPlane
  intro s n cs t takesPart
  refine ⟨fun hp hb hr hn ho => ?_, fun hp hn => ?_, fun i r hi hf hd => ?_⟩
  · exact ⟨_, exec_progressBroadcast ((CSet.broadcasts_iff _).mpr hp) hb hr hn ho, rfl, State.cset_updC _ n _⟩
  · refine ⟨_, exec_paceUpdate ((CSet.broadcasts_iff _).mpr hp) hn, OnlyCell.updCell s n _, ?_, ?_, fun k hk => ?_⟩
    · rw [State.cset_updC]; rfl
    · rw [State.cset_updC]; rfl
    · rw [State.cset_updC, CSet.paced_counter _ _ hk]; rfl
  · intro see node
    refine ⟨_, exec_progressRecordArrival hi hf hd, rfl, ?_⟩
    set w := State.updCell { s with recordsOut := s.recordsOut.eraseIdx i } n (Cell.replaceRecord r)
    have hcell : w.cell n = (s.cell n).replaceRecord r := State.updCell_self _ n _
    have hcycle : w.islandCycle n = t := State.islandCycle_updCell rfl n
    obtain ⟨hrecords, haset, hnodes⟩ := w.findLate_cell n r
    rw [hcycle] at haset hnodes
    refine ⟨?_, ?_, ?_⟩
    · rw [hrecords, hcell]; rfl
    · rw [haset, State.aset, hcell, ASet.see, apply_ite ASet.xfers]; rfl
    · rw [hnodes, hcell]; rfl
end

/-!
PROOF. Barrier messages (16 R282 to R290): what an arrival does at its object, the end of a generation, what the messages to a compute tile
change there, and an applied signal.
-/

section
namespace Sys2Proof.Machine

open Sys2Proof

/-! ### An arrival and its port -/

/-- Message n has left for the port that serves it, which goes on. -/
def State.arrivalTaken (s : State) (n mem q : Nat) : State :=
  State.updPort { s with ctl := s.ctl.eraseIdx n } mem q (fun q => { q with stopped := false })

theorem State.barPort_arrivalTaken (s : State) (n mem q off : Nat) : (s.arrivalTaken n mem q).barPort mem off = s.barPort mem off := by
  unfold State.barPort
  refine List.find?_congr fun k hk => ?_
  unfold State.arrivalTaken
  by_cases h : k = q
  · subst h
    rw [State.updPort_self _ mem _ (List.mem_range.mp hk)]
    rfl
  · rw [State.updPort_of_ne _ mem _ h]
    rfl

section
variable {s : State} {n tile id mem : Nat} {addr : Word} {g : Option (BitVec 32)} {p : Nat} {wait : Bool} {w : BitVec 3} {q : Nat}

theorem State.arrivalBad_eq (hq : s.barPort mem (bitsN addr 0 22) = some q) : s.arrivalBad mem q (.arrive tile id mem addr g p wait w) =
    s.bad.contains (0, sramKey mem (bitsN addr 0 22) / 64) := by
  simp [State.arrivalBad, hq]

theorem State.arrivalStop_stands (m : Ctl) (hs : s.portStands mem q = true) : s.arrivalStop mem q m addr tile = some s := if_pos hs

theorem State.arrivalStop_good (hq : s.barPort mem (bitsN addr 0 22) = some q) (hs : s.portStands mem q = false)
    (ht : (s.port mem q).stopped = false) (hb : s.bad.contains (0, sramKey mem (bitsN addr 0 22) / 64) = false) :
    s.arrivalStop mem q (.arrive tile id mem addr g p wait w) addr tile = none := by
  unfold State.arrivalStop
  rw [hs, State.arrivalBad_eq hq, hb, ht]
  rfl

theorem State.arrivalStop_bad (hq : s.barPort mem (bitsN addr 0 22) = some q) (hs : s.portStands mem q = false)
    (ht : (s.port mem q).stopped = false) (hb : s.bad.contains (0, sramKey mem (bitsN addr 0 22) / 64) = true) :
    s.arrivalStop mem q (.arrive tile id mem addr g p wait w) addr tile =
      some ((s.updPort mem q (fun q => { q with stopped := true })).event (s.reachJob (s.mset mem).reach) 0x0F 0 (tileUnit mem 2) addr 0
        (BitVec.ofNat 64 (tileUnit tile 0)) (some (s.mset mem).reach)) := by
  unfold State.arrivalStop
  rw [hs, State.arrivalBad_eq hq, hb, ht]
  rfl

variable (hm : s.ctl[n]? = some (.arrive tile id mem addr g p wait w))
include hm

/-- An arrival that its port makes wait, or that stops it. -/
theorem exec_barrierArrival_stops {t : State} (hq : s.barPort mem (bitsN addr 0 22) = some q)
    (h : s.arrivalStop mem q (.arrive tile id mem addr g p wait w) addr tile = some t) : exec (.barrierArrival n) s = .next t := by
  show execBarrierArrival n s = _
  unfold execBarrierArrival
  rw [hm]
  dsimp only
  rw [hq, Option.bind_some, h]

/-- An arrival without a wait at an object that no barrier area covers. -/
theorem exec_barrierArrival_uncovered (hw : wait = false) (hq : s.barPort mem (bitsN addr 0 22) = none) : exec (.barrierArrival n) s =
    .next ((State.send { s with ctl := s.ctl.eraseIdx n } (.refusedReply tile id addr)).refuseArrival mem (sramKey mem (bitsN addr 0 22)) addr
      0 tile) := by
  have hq' : State.barPort { s with ctl := s.ctl.eraseIdx n } mem (bitsN addr 0 22) = none := hq
  show execBarrierArrival n s = _
  unfold execBarrierArrival
  rw [hm]
  dsimp only
  rw [hq, hq', hw]
  dsimp only [Option.bind_none]
  rw [hq']
  rfl

variable (hq : s.barPort mem (bitsN addr 0 22) = some q) (hs : s.portStands mem q = false) (ht : (s.port mem q).stopped = false)
  (hb : s.bad.contains (0, sramKey mem (bitsN addr 0 22) / 64) = false)
include hq hs ht hb

/-- An arrival without a wait at an object that is not valid or is broken. -/
theorem exec_barrierArrival_refused (hw : wait = false)
    (ho : s.objValid (sramKey mem (bitsN addr 0 22)) = false ∨ s.objBroken (sramKey mem (bitsN addr 0 22)) = true) :
    exec (.barrierArrival n) s = .next (((s.arrivalTaken n mem q).send (.refusedReply tile id addr)).refuseArrival mem
      (sramKey mem (bitsN addr 0 22)) addr 0 tile) := by
  have hq' : State.barPort { s with ctl := s.ctl.eraseIdx n } mem (bitsN addr 0 22) = some q := hq
  have closed : (((s.arrivalTaken n mem q).barPort mem (bitsN addr 0 22)).isNone ||
      !(s.arrivalTaken n mem q).objValid (sramKey mem (bitsN addr 0 22)) ||
      (s.arrivalTaken n mem q).objBroken (sramKey mem (bitsN addr 0 22))) = true := by
    have ho' : (!s.objValid (sramKey mem (bitsN addr 0 22)) || s.objBroken (sramKey mem (bitsN addr 0 22))) = true := by simpa using ho
    rw [State.barPort_arrivalTaken, hq]
    exact ho'
  show execBarrierArrival n s = _
  unfold execBarrierArrival
  rw [hm]
  dsimp only
  rw [hq, Option.bind_some, State.arrivalStop_good hq hs ht hb, hq', hw]
  dsimp only
  exact if_pos closed

end

/-- What a counted arrival of generation g writes at its object: its slot, and the entry of its set where it comes early or waits (R287). -/
def State.arrivalCounted (u : State) (mem key p tile id : Nat) (g : BitVec 32) (wait : Bool) (w : BitVec 3) : State :=
  let gen := u.objGen key
  let s := u.setObjWord key (1 + p) (objSlot (u.objExpect key p) (u.objArrived key p + 1))
  let s := if g ≠ gen then s.updEntry mem key tile id g (fun e => { e with gw := genMax e.gw g }) else s
  if wait then s.updEntry mem key tile id g (fun e => { e with wait := some (g, w) }) else s

/-- The reply to an arrival, once the generations that are full have ended. -/
def State.arrivalReplied (v : State) (mem key tile id : Nat) (addr : Word) (g : BitVec 32) : State :=
  (v.completeObj mem key 5).send (.reply tile id addr g ((v.completeObj mem key 5).objGen key))

/-- An arrival that names its generation, at an object that takes it. -/
theorem exec_barrierArrival_counts {s : State} {n tile id mem : Nat} {addr : Word} {g : BitVec 32} {p : Nat} {wait : Bool} {w : BitVec 3}
    {q key : Nat} (hk : key = sramKey mem (bitsN addr 0 22))
    (hm : s.ctl[n]? = some (.arrive tile id mem addr (some g) p wait w)) (hq : s.barPort mem (bitsN addr 0 22) = some q)
    (hs : s.portStands mem q = false) (ht : (s.port mem q).stopped = false) (hb : s.bad.contains (0, key / 64) = false)
    (hv : s.objValid key = true) (hbr : s.objBroken key = false) (hg : (g - s.objGen key).toNat < 4)
    (hf : s.objArrived key p ≠ s.objExpect key p) : exec (.barrierArrival n) s = .next
      ((((s.arrivalTaken n mem q).arrivalCounted mem key p tile id g wait w).putEnt mem key).arrivalReplied mem key tile id addr g) := by
  subst hk
  have hq' : State.barPort { s with ctl := s.ctl.eraseIdx n } mem (bitsN addr 0 22) = some q := hq
  have opened : ¬ (((s.arrivalTaken n mem q).barPort mem (bitsN addr 0 22)).isNone ||
      !(s.arrivalTaken n mem q).objValid (sramKey mem (bitsN addr 0 22)) ||
      (s.arrivalTaken n mem q).objBroken (sramKey mem (bitsN addr 0 22))) = true := by
    have ho : (!s.objValid (sramKey mem (bitsN addr 0 22)) || s.objBroken (sramKey mem (bitsN addr 0 22))) = false := by simp [hv, hbr]
    rw [State.barPort_arrivalTaken, hq, Bool.not_eq_true]
    exact ho
  show execBarrierArrival n s = _
  unfold execBarrierArrival
  rw [hm]
  dsimp only
  rw [hq, Option.bind_some, State.arrivalStop_good hq hs ht hb, hq']
  dsimp only
  have named : (if (g - (s.arrivalTaken n mem q).objGen (sramKey mem (bitsN addr 0 22))).toNat < 4 then g
      else genAt ((s.arrivalTaken n mem q).objGen (sramKey mem (bitsN addr 0 22))) p) = g := if_pos hg
  exact (if_neg opened).trans ((if_neg hf).trans (congrArg (fun g => Host.Outcome.next
    ((((s.arrivalTaken n mem q).arrivalCounted mem (sramKey mem (bitsN addr 0 22)) p tile id g wait w).putEnt mem
      (sramKey mem (bitsN addr 0 22))).arrivalReplied mem (sramKey mem (bitsN addr 0 22)) tile id addr g)) named))

/-! ### Entries and words after an arrival -/

/-- An entry that an update leaves at an object is the tile's set's own. -/
theorem State.updEntry_mem (s : State) (d key tile reach : Nat) (g : BitVec 32) {f : BarEnt → BarEnt}
    (hf : ∀ e, (f e).tile = e.tile ∧ (f e).reach = e.reach ∧ (f e).obj = e.obj) :
    ∃ e, f e ∈ ((s.updEntry d key tile reach g f).cell d).bars ∧ (f e).tile = tile ∧ (f e).reach = reach ∧ (f e).obj = key := by
  unfold State.updEntry
  rw [State.updCell_self]
  refine ⟨_, List.mem_append_right _ List.mem_cons_self, ?_⟩
  obtain ⟨htile, hreach, hobj⟩ := hf (((s.cell d).bars.find? (fun b => b.obj == key && b.tile == tile && b.reach == reach)).getD
    ⟨tile, reach, key, g, none⟩)
  rw [htile, hreach, hobj]
  cases h : (s.cell d).bars.find? (fun b => b.obj == key && b.tile == tile && b.reach == reach) with
  | none => exact ⟨rfl, rfl, rfl⟩
  | some b =>
    have := List.find?_some h
    simp only [Bool.and_eq_true, beq_iff_eq] at this
    exact ⟨this.1.2, this.2, this.1.1⟩

theorem State.putEnt_cell (s : State) (d key k : Nat) : (s.putEnt d key).cell k = s.cell k := State.setObjWord_cell ..

theorem State.objWord_putEnt (s : State) (h : Memory.wf s.sram = true) (d key : Nat) {i : Nat} (hi : i ≠ 5) :
    (s.putEnt d key).objWord key i = s.objWord key i := (State.objWord_setObjWord s h key 5 i _).trans (if_neg hi)

section
variable (u : State) (mem key : Nat) {p : Nat} (tile id : Nat) (g : BitVec 32) (wait : Bool) (w : BitVec 3)

theorem State.arrivalCounted_sram : (u.arrivalCounted mem key p tile id g wait w).sram =
    (u.setObjWord key (1 + p) (objSlot (u.objExpect key p) (u.objArrived key p + 1))).sram := by
  unfold State.arrivalCounted
  dsimp only
  split <;> split <;> rfl

/-- An arrival that comes early or waits is known at its object. -/
theorem State.arrivalCounted_entry (h : g ≠ u.objGen key ∨ wait = true) :
    ∃ e ∈ ((u.arrivalCounted mem key p tile id g wait w).cell mem).bars, e.tile = tile ∧ e.reach = id ∧ e.obj = key ∧
      (wait = true → e.wait = some (g, w)) := by
  unfold State.arrivalCounted
  dsimp only
  cases wait with
  | true =>
    rw [if_pos rfl]
    obtain ⟨e, hmem, htile, hreach, hobj⟩ := State.updEntry_mem _ mem key tile id g (f := fun e => { e with wait := some (g, w) })
      (fun _ => ⟨rfl, rfl, rfl⟩)
    exact ⟨_, hmem, htile, hreach, hobj, fun _ => rfl⟩
  | false =>
    rw [if_neg Bool.false_ne_true, if_pos (h.resolve_right Bool.false_ne_true)]
    obtain ⟨e, hmem, htile, hreach, hobj⟩ := State.updEntry_mem _ mem key tile id g (f := fun e => { e with gw := genMax e.gw g })
      (fun _ => ⟨rfl, rfl, rfl⟩)
    exact ⟨_, hmem, htile, hreach, hobj, fun h => absurd h Bool.false_ne_true⟩

/-- An arrival counts into its slot and leaves the generation. -/
theorem State.arrivalCounted_words (hwf : Memory.wf u.sram = true) (hp : p < 4) :
    let v := (u.arrivalCounted mem key p tile id g wait w).putEnt mem key
    v.objArrived key p = (u.objArrived key p + 1) % 2 ^ 16 ∧ v.objGen key = u.objGen key := by
  have hword (i : Nat) := State.objWord_of_sram (u.arrivalCounted_sram mem key tile id g wait w (p := p)) key i
  have hwf' : Memory.wf (u.arrivalCounted mem key p tile id g wait w).sram = true := by
    rw [State.arrivalCounted_sram]; exact State.setObjWord_wf u key _ _ hwf
  refine ⟨?_, ?_⟩
  · rw [State.objArrived, State.objWord_putEnt _ hwf' _ _ (by omega), hword, State.objWord_setObjWord u hwf, if_pos rfl]
    exact (objSlot_fields _ _).2
  · rw [State.objGen, State.objWord_putEnt _ hwf' _ _ (by omega), hword, State.objWord_setObjWord u hwf, if_neg (by omega)]
    rfl

end

/-! ### The end of a generation -/

/-- What the end of generation gen sends to the tile of one entry of the object, and leaves of the entry. -/
def State.endSend (d key : Nat) (gen : BitVec 32) (s : State) (e : BarEnt) : State :=
  match e.wait with
  | some (g, w) =>
    if g = gen then
      (s.send (.release e.tile e.reach (s.objName e) w (gen + 1) false)).updEntry d key e.tile e.reach e.gw (fun e => { e with wait := none })
    else if genGe e.gw (gen + 1) then s.send (.advance e.tile e.reach (s.objName e) (gen + 1)) else s
  | none => if genGe e.gw (gen + 1) then s.send (.advance e.tile e.reach (s.objName e) (gen + 1)) else s

theorem State.endSend_sram (d key : Nat) (gen : BitVec 32) (s : State) (e : BarEnt) : (s.endSend d key gen e).sram = s.sram := by
  unfold State.endSend
  split
  · split
    · rfl
    · split <;> rfl
  · split <;> rfl

theorem State.foldl_endSend_sram (d key : Nat) (gen : BitVec 32) (es : List BarEnt) :
    ∀ s : State, (es.foldl (State.endSend d key gen) s).sram = s.sram := by
  induction es with
  | nil => exact fun _ => rfl
  | cons e es ih => exact fun s => (ih _).trans (s.endSend_sram d key gen e)

/-- The words that the end of a generation writes: its slot, then the head. -/
def State.generationEnded (s : State) (key : Nat) : State :=
  let u := s.setObjWord key (1 + (s.objGen key).toNat % 4) (objSlot (s.objExpect key ((s.objGen key).toNat % 4)) 0)
  u.setObjWord key 0 (objHead (s.objGen key + 1) (u.objValid key) (u.objBroken key))

/-- Apart from the count of its entries, the object's words are those that the end of a generation writes. -/
theorem State.endGeneration_objWord (s : State) (h : Memory.wf s.sram = true) (d key : Nat) {i : Nat} (hi : i ≠ 5) :
    (s.endGeneration d key).objWord key i = (s.generationEnded key).objWord key i := by
  have hwf : Memory.wf (s.generationEnded key).sram = true := State.setObjWord_wf _ _ _ _ (State.setObjWord_wf _ _ _ _ h)
  have hfold := State.foldl_endSend_sram d key (s.objGen key) (((s.generationEnded key).cell d).entriesOf key) (s.generationEnded key)
  have hend : s.endGeneration d key = State.putEnt (State.updCell ((((s.generationEnded key).cell d).entriesOf key).foldl
      (State.endSend d key (s.objGen key)) (s.generationEnded key)) d (fun c => { c with
        bars := c.bars.filter (fun b => b.obj != key || genGe b.gw (s.objGen key + 1) || b.wait.isSome) })) d key := rfl
  rw [hend, State.objWord_putEnt _ (by rw [State.updCell_sram, hfold]; exact hwf) d key hi, State.objWord_updCell]
  exact State.objWord_of_sram hfold key i

theorem State.endGeneration_counts (s : State) (h : Memory.wf s.sram = true) (d key : Nat) :
    (s.endGeneration d key).objGen key = s.objGen key + 1 ∧ (s.endGeneration d key).objArrived key ((s.objGen key).toNat % 4) = 0 := by
  have hslot := State.setObjWord_wf s key (1 + (s.objGen key).toNat % 4) (objSlot (s.objExpect key ((s.objGen key).toNat % 4)) 0) h
  refine ⟨?_, ?_⟩
  · rw [State.objGen, State.endGeneration_objWord s h d key (by omega), State.generationEnded, State.objWord_setObjWord _ hslot, if_pos rfl]
    exact (objHead_fields _ _ _).1
  · rw [State.objArrived, State.endGeneration_objWord s h d key (by omega), State.generationEnded, State.objWord_setObjWord _ hslot,
      if_neg (by omega), State.objWord_setObjWord s h, if_pos rfl]
    exact (objSlot_fields _ _).2

/-! ### Messages to a compute tile -/

section
variable {s : State} {n tl id : Nat} {o : Word} (hf : s.ctlFirst n = true)
include hf

theorem exec_barrierReply {g gen : BitVec 32} (hm : s.ctl[n]? = some (.reply tl id o g gen)) : exec (.barrierReply n) s =
    .next (State.updCSet { s with ctl := s.ctl.eraseIdx n } tl id (fun c => c.updWin o (fun e => e.replied g gen))) := by
  show execBarrierReply n s = _
  rw [execBarrierReply, hf, hm]
  rfl

theorem exec_barrierReply_refused (hm : s.ctl[n]? = some (.refusedReply tl id o)) : exec (.barrierReply n) s =
    .next ((State.updCSet { s with ctl := s.ctl.eraseIdx n } tl id (fun c => c.updWin o Window.turnedAway)).breakTile tl) := by
  show execBarrierReply n s = _
  rw [execBarrierReply, hf, hm]
  rfl

theorem exec_barrierAdvance {gen : BitVec 32} (hm : s.ctl[n]? = some (.advance tl id o gen)) : exec (.barrierAdvance n) s =
    .next (State.updCSet { s with ctl := s.ctl.eraseIdx n } tl id (fun c => c.updWin o (fun e => e.advanced gen))) := by
  show execBarrierAdvance n s = _
  rw [execBarrierAdvance, hf, hm]
  rfl

theorem exec_barrierReset (hm : s.ctl[n]? = some (.reset tl id o)) : exec (.barrierReset n) s =
    .next (State.updCSet { s with ctl := s.ctl.eraseIdx n } tl id (fun c => c.dropWin o)) := by
  show execBarrierReset n s = _
  rw [execBarrierReset, hf, hm]
  rfl

variable {w : BitVec 3} {gen : BitVec 32} {broken : Bool} (hm : s.ctl[n]? = some (.release tl id o w gen broken))
include hm

theorem exec_barrierRelease (hroom : ∀ x, s.issueOf tl 0 id = some x → x.run = .halted ∨ s.writesHeld tl 0 id x < 8) :
    exec (.barrierRelease n) s = .next (
      let z := State.updCSet { s with ctl := s.ctl.eraseIdx n } tl id (fun cs => cs.released o w gen broken)
      if broken then z.breakTile tl else z) := by
  show execBarrierRelease n s = _
  rw [execBarrierRelease, hf, hm]
  dsimp only
  cases h : s.issueOf tl kindC id with
  | none => rfl
  | some x =>
    refine (if_neg (by decide)).trans (if_neg ?_)
    rcases hroom x h with hx | hx
    · simp [hx]
    · simp [kindC, Nat.not_le.mpr hx]

theorem exec_barrierRelease_waits {x : Issue} (hx : s.issueOf tl 0 id = some x) (hrun : x.run ≠ .halted)
    (hfull : 8 ≤ s.writesHeld tl 0 id x) : exec (.barrierRelease n) s = .next s := by
  have hx' : s.issueOf tl kindC id = some x := hx
  show execBarrierRelease n s = _
  rw [execBarrierRelease, hf, hm]
  dsimp only
  rw [hx']
  exact (if_neg (by decide)).trans (if_pos (by simp [kindC, hrun, hfull]))

end

/-- What a release does to a set: a halted one absorbs the predicate write. -/
theorem CSet.released_eq (c : CSet) (o : Word) (w : BitVec 3) (gen : BitVec 32) (broken : Bool) : c.released o w gen broken =
    let c : CSet := if c.iss.run = .halted then c
      else { c with iss := { c.iss with inb := c.iss.inb ++ [⟨512 + bitsN o 22 9, w, true⟩] } }
    if broken then c.updWin o (fun _ => Window.reset)
    else c.updWin o (fun e => if e.refused then Window.reset else { e with
      genk := if e.cur.isNone then gen else genMax e.genk gen, waitp := false }) := by
  unfold CSet.released Issue.takeWrite
  split <;> rfl

/-! ### An applied signal -/

theorem State.updIssue_congr {s : State} {n kind : Nat} {f g : Issue → Issue} (h : f (s.issue n kind) = g (s.issue n kind)) :
    s.updIssue n kind f = s.updIssue n kind g := by
  unfold State.issue at h
  unfold State.updIssue
  split
  next hk =>
    rw [if_pos hk] at h
    exact State.updC_congr s n _ _ (congrArg (fun x => { s.cset n with iss := x }) h)
  next hk =>
    rw [if_neg hk] at h
    refine State.updCell_congr ?_
    exact congrArg (fun x => { s.cell n with a := { (s.cell n).a with act := { s.aset n with iss := x } } }) h

theorem Issue.applyWrite_eq {x : Issue} {n : Nat} {q : Inbound} (h : x.inb[n]? = some q) : x.applyWrite n = { x with
    inb := x.inb.eraseIdx n
    preds := if x.run = .halted ∨ (x.run = .stopped ∧ x.before = .halted) then x.preds else putBit x.preds q.pred.toNat q.val } := by
  have hc : ((x.run == .halted || (x.run == .stopped && x.before == .halted)) = true) =
      (x.run = .halted ∨ (x.run = .stopped ∧ x.before = .halted)) := by simp
  unfold Issue.applyWrite
  rw [h]
  simp only [hc]

theorem exec_psigApply {s : State} {c kind n : Nat} {q : Inbound} (h : (s.issue c kind).inb[n]? = some q) (hsel : (s.issue c kind).sel = [])
    (hfirst : ((s.issue c kind).inb.take n).all (fun v => v.sender != q.sender) = true) :
    exec (.psigApply c kind n) s = .next (s.updIssue c kind (fun x => x.applyWrite n)) := by
  have first : ((s.issue c kind).inb.take n).any (fun v => v.sender == q.sender) = false := by
    simpa [List.all_eq_true, List.any_eq_false] using hfirst
  show execPsigApply c kind n s = _
  unfold execPsigApply
  dsimp only
  rw [h]
  exact if_neg (by simp [hsel, first])

end Sys2Proof.Machine

open Sys2Proof Sys2Proof.Machine in
/-- Settles O39: each message is one case of its event, and the words of an object are read back through what the event writes. -/
theorem barrierMessages : Obligations.BarrierMessages := by
  unfold Obligations.BarrierMessages
  refine ⟨?arrival, ?refusal, fun s d key hwf => s.endGeneration_counts hwf d key, ?messages, ?signal⟩
  case arrival =>
    intro s n tile id mem addr g wait w off key p hwf hm q hq hs ht hb u hv hbr hg hf
    have hexec := exec_barrierArrival_counts (key := key) rfl hm hq hs ht hb hv hbr hg hf
    refine ⟨fun hgen hw => ?_, fun hknown => ?_⟩
    · refine ⟨_, hexec, ?_⟩
      subst hw
      have plain : u.arrivalCounted mem key p tile id g false w =
          u.setObjWord key (1 + p) (objSlot (s.objExpect key p) (s.objArrived key p + 1)) := by
        unfold State.arrivalCounted
        exact (if_neg Bool.false_ne_true).trans (if_neg (not_not_intro hgen.symm))
      rw [show s.arrivalTaken n mem q = u from rfl, plain]
      rfl
    · obtain ⟨harr, hgen⟩ := u.arrivalCounted_words mem key tile id g wait w hwf (Nat.mod_lt g.toNat (by decide))
      refine ⟨_, (u.arrivalCounted mem key p tile id g wait w).putEnt mem key, hexec, rfl, ?_, harr, hgen⟩
      rw [State.putEnt_cell]
      exact u.arrivalCounted_entry mem key tile id g wait w (hknown.imp_left Ne.symm)
  case refusal =>
    intro s n tile id mem addr g p w off key u hm
    refine ⟨fun hq => ⟨_, exec_barrierArrival_uncovered hm rfl hq, rfl⟩, fun q hq => ⟨fun hs => ?_, fun hs ht hb => ?_, fun hs ht hb ho => ?_⟩⟩
    · exact exec_barrierArrival_stops hm hq (State.arrivalStop_stands _ hs)
    · refine ⟨_, exec_barrierArrival_stops hm hq (State.arrivalStop_bad hq hs ht hb), ?_⟩
      simp [tileUnit]
    · exact ⟨_, exec_barrierArrival_refused hm hq hs ht hb rfl ho, rfl⟩
  case messages =>
    intro s n tl id o u entry known hf
    refine ⟨fun g gen hm => ⟨_, exec_barrierReply hf hm, rfl⟩, fun hm => ⟨_, exec_barrierReply_refused hf hm, rfl⟩,
      fun gen hm => ⟨_, exec_barrierAdvance hf hm, rfl⟩, fun w gen broken hm hroom => ?_,
      fun w gen broken x hm hx hrun hfull => exec_barrierRelease_waits hf hm hx hrun hfull, fun hm => ⟨_, exec_barrierReset hf hm, rfl⟩⟩
    refine ⟨_, _, exec_barrierRelease hf hm hroom, ?_, rfl⟩
    exact congrArg (State.updCSet u tl id) (funext fun c => c.released_eq o w gen broken)
  case signal =>
    intro s c kind n q x h hsel hfirst
    exact ⟨_, exec_psigApply h hsel hfirst, State.updIssue_congr (Issue.applyWrite_eq h)⟩
end

/-!
PROOF. A page move that finds a bad table entry (14 R274, R279): the engine reports it under its own requester number, UNIT 0x001 with
UKIND 2, and not under UNIT alone.
-/

section
namespace Sys2Proof.Machine

open Sys2Proof

/-- A move up of page 0 of job 1. -/
def moveUpOfPage0 : Move := { job := 1, page := 0, up := true, frame := 0, wait := ⟨[], [], []⟩ }

/-- That move in progress, where the job's root table begins with an uncorrectable unit. -/
def movingBad : State := { State.reset with bad := [(1, 0)], moves := [moveUpOfPage0] }

theorem movingBad_stackOpen (k : Nat) : movingBad.stackOpen k = true := by
  have h : movingBad.stk k = Stack.reset := State.reset_stk k
  rw [State.stackOpen, h]
  rfl

theorem movingBad_pageOpen (j frame stk : Nat) : movingBad.pageOpen j frame stk = true := by
  unfold State.pageOpen
  rw [List.all_eq_true]
  intro i _
  split
  · exact movingBad_stackOpen _
  · rfl

theorem movingBad_leaf : movingBad.engineLeaf 1 0 = (movingBad.countAccess 0 0, .bad 0 0) := by decide +kernel

theorem movingBad_moveWaits {m : Move} (hup : m.up = true) : movingBad.moveWaits m = false := by
  simp [State.moveWaits, hup, movingBad_pageOpen, movingBad_stackOpen]

/-- A move that finds a bad entry reports it under UKIND 2 and UNIT 0x001 (14 R274). -/
theorem execPageMoveDone_bad {s t : State} {m : Move} {l : List Move} {k sa : Nat} (hm : s.moves = m :: l) (hw : s.moveWaits m = false)
    (he : s.engineLeaf m.job (m.page * 2 ^ 21) = (t, .bad k sa)) :
    exec .pageMoveDone s = .next (s.memError t m.job (m.page * 2 ^ 21) sa 2 k whoUndertow) := by
  show execPageMoveDone s = _
  simp only [execPageMoveDone, hm, hw, he, Bool.false_eq_true, if_false]

theorem movingBad_noted_undertow :
    (movingBad.memError (movingBad.countAccess 0 0) 1 0 0 2 0 whoUndertow).memErrs = [(1, 0, 0x2001)] := by decide +kernel

theorem movingBad_noted_unitAlone :
    (movingBad.memError (movingBad.countAccess 0 0) 1 0 0 2 0 0x001).memErrs = [(1, 0, 1)] := by decide +kernel

end Sys2Proof.Machine

open Sys2Proof Sys2Proof.Machine in
/-- Refutes O57, by its clause on a page move that finds a bad table entry: it says that the error is noted for requester 0x001, the
engine's UNIT alone, while the model notes it for UKIND 2 and UNIT 0x001 together (whoUndertow = 0x2001), as it does in each of the
engine's other accesses. The move of page 0 of job 1 over a root table that reads bad shows the difference. -/
theorem not_faultsTiersAndInvalidations : ¬ Obligations.FaultsTiersAndInvalidations := by
  intro h
  obtain ⟨-, -, -, -, -, -, hmove, -⟩ := h movingBad
  obtain ⟨-, -, hbad, -⟩ := hmove moveUpOfPage0 (movingBad.countAccess 0 0) rfl
  have hopen : ¬ (movingBad.pageOpen 1 (bitsN (0 : Word) 12 28 * 4096) (bitsN (0 : Word) 40 4) = false ∨
      (true = false ∧ movingBad.stillOut ⟨[], [], []⟩ = true) ∨ movingBad.stackOpen movingBad.poolStk.toNat = false) := by
    simp [movingBad_pageOpen, movingBad_stackOpen]
  have hclaim : exec .pageMoveDone movingBad = .next (movingBad.memError (movingBad.countAccess 0 0) 1 0 0 2 0 0x001) :=
    hbad 0 0 hopen movingBad_leaf
  have hmodel : exec .pageMoveDone movingBad = .next (movingBad.memError (movingBad.countAccess 0 0) 1 0 0 2 0 whoUndertow) :=
    execPageMoveDone_bad (m := moveUpOfPage0) (l := []) rfl (movingBad_moveWaits rfl) movingBad_leaf
  have hnoted := congrArg State.memErrs (Host.Outcome.next.inj (hmodel.symm.trans hclaim))
  rw [movingBad_noted_undertow, movingBad_noted_unitAlone] at hnoted
  exact absurd hnoted (by decide)

end

/-!
PROOF. The ebb wave (21 R349 to R352), what follows it, SAVE and RESTORE (21 R353 to R355), and the teardown of reaches and queues
(24 R363 to R367).
-/

section
namespace Sys2Proof.Machine

open Sys2Proof

/-! ### Markers (21 R350) -/

section
variable {s u : State} {n kind ch : Nat} {sp : Spot} {p : Packet}

theorem State.updCell_cset_of_keeps (s : State) (n : Nat) {f : Cell → Cell} (hf : ∀ c, (f c).c = c.c) (k : Nat) :
    (s.updCell n f).cset k = s.cset k := by
  by_cases hk : k = n
  · subst hk; rw [State.cset, State.updCell_self, hf]; rfl
  · rw [State.cset, State.updCell_of_ne s f hk]; rfl

theorem State.updCell_issue_of_keeps (s : State) (n : Nat) {f : Cell → Cell} (hc : ∀ c, (f c).c = c.c) (ha : ∀ c, (f c).a = c.a)
    (k kind : Nat) : (s.updCell n f).issue k kind = s.issue k kind := by
  rw [State.issue, State.updCell_cset_of_keeps s n hc, State.updCell_aset_of_keeps s n ha, State.issue]

/-- The choice of a packet and its leaving the switch change no tile. -/
theorem State.takeSpot_outPick_issue {port link : Nat} {ok : Packet → Bool} (h : s.outPick n port link ok = some (sp, p, u)) :
    (u.takeSpot n sp).issue n kind = s.issue n kind := by
  obtain ⟨arb, rfl⟩ := State.outPick_state h
  refine (State.updCell_issue_of_keeps _ n ?_ ?_ n kind).trans (State.updCell_issue_of_keeps s n ?_ ?_ n kind)
  · intro c; cases sp <;> rfl
  · intro c; cases sp <;> rfl
  · exact fun _ => rfl
  · exact fun _ => rfl

/-- The marker that a tile's port serves enters its channel. -/
theorem exec_ebbMarker_tile (hk : kind < 2) (ho : s.outPick n (tilePort kind) 0 (s.tileAdmits n kind) = some (sp, p, u))
    (hm : p.tok.isMarker = true) (hc : bitsN p.dstk 2 3 = ch) (hb : (s.cell n).island.busy = false) :
    exec (.ebbMarker n kind ch) s = .next ((u.takeSpot n sp).markerIn n kind p) := by
  have hok : (fun p => if kind < 2 then s.tileAdmits n kind p else s.admitsM n p) = s.tileAdmits n kind := funext fun _ => if_pos hk
  show execEbbMarker n kind ch s = _
  unfold execEbbMarker
  dsimp only
  rw [hok, ho]
  simp [hm, hc, hb, hk]

/-- The marker that a port of a memory tile of the marker's reach serves stops the port. -/
theorem exec_ebbMarker_port (ho : s.outPick n (tilePort 2) 0 (s.admitsM n) = some (sp, p, u))
    (hm : p.tok.isMarker = true) (hc : bitsN p.dstk 2 3 = ch) (hb : (s.cell n).island.busy = false) (hr : (s.mset n).reach = p.reach) :
    exec (.ebbMarker n 2 ch) s = .next ((u.takeSpot n sp).stopPort n ch) := by
  have hok : (fun p => if 2 < 2 then s.tileAdmits n 2 p else s.admitsM n p) = s.admitsM n := rfl
  show execEbbMarker n 2 ch s = _
  unfold execEbbMarker
  dsimp only
  rw [hok, ho]
  simp [hm, hc, hb, hr]

/-- The input of a marker's channel has been reached. -/
def State.markReached (s : State) (n kind ch : Nat) : State :=
  s.updIssue n kind (fun x => { x with reached := putBit x.reached ch true })

/-- A tile that holds no set of the marker's reach discards it. -/
theorem State.markerIn_foreign (h : (s.issue n kind).reach ≠ p.reach ∨ (s.issue n kind).run = .off ∨ (s.issue n kind).run = .saved) :
    s.markerIn n kind p = s := by
  unfold State.markerIn
  dsimp only
  rw [if_pos]
  simpa [or_assoc] using h

/-- A running tile with tokens before the marker keeps it behind them. -/
theorem State.markerIn_behind (hr : (s.issue n kind).reach = p.reach) (hx : (s.issue n kind).run = .running)
    (hf : (s.issue n kind).frozen = false) (hq : vget [] (s.issue n kind).chans (bitsN p.dstk 2 3) ≠ []) :
    s.markerIn n kind p = (s.markReached n kind (bitsN p.dstk 2 3)).updIssue n kind (fun x => { x with
      chans := vset x.chans (bitsN p.dstk 2 3) (vget [] x.chans (bitsN p.dstk 2 3) ++ [p]) }) := by
  unfold State.markerIn
  simp [hr, hx, hf, hq, State.markReached]

/-- A halted tile, and a running one that is frozen or has nothing before the marker, stops. -/
theorem State.markerIn_atHead (hr : (s.issue n kind).reach = p.reach) (hx : (s.issue n kind).run = .halted ∨ ((s.issue n kind).run = .running ∧
      (vget [] (s.issue n kind).chans (bitsN p.dstk 2 3) = [] ∨ (s.issue n kind).frozen = true))) :
    s.markerIn n kind p = (s.markReached n kind (bitsN p.dstk 2 3)).stopTile n kind := by
  unfold State.markerIn
  rcases hx with hx | ⟨hx, hq | hf⟩
  · simp [hr, hx, State.markReached]
  · simp [hr, hx, hq, State.markReached]
  · simp [hr, hx, hf, State.markReached]

end

/-! ### A set stops, saves and goes on (21 R350 to R352) -/

theorem Issue.stopNow_of_runs {x : Issue} (h : x.run = .running ∨ x.run = .halted) : x.stopNow = { x with
    run := .stopped, before := x.run, chans := x.chans.map (fun q => q.filter (fun p => !p.tok.isMarker)) } := by
  unfold Issue.stopNow
  rw [if_pos (by simpa using h)]

theorem Issue.saveIf_of_passed {x : Issue} (hr : x.run = .stopped) (he : x.emitted = true) (hp : x.fed &&& ~~~x.reached = 0) :
    x.saveIf = { x with run := .saved } := by
  simp [Issue.saveIf, Issue.passed, hr, he, hp]

theorem Issue.applyWrite_run (x : Issue) (n : Nat) : (x.applyWrite n).run = x.run := by
  unfold Issue.applyWrite
  split <;> rfl

theorem Issue.applyAll_run (k : Nat) : ∀ x : Issue, (x.applyAll k).run = x.run := by
  induction k with
  | zero => exact fun _ => rfl
  | succ k ih => exact fun x => (ih _).trans (x.applyWrite_run 0)

theorem Issue.resume_run (x : Issue) (t : Nat) : (x.resume t).run = x.before := by
  simp only [Issue.resume, Issue.applyAll_run]

/-- Each channel holds its saved contents ahead of the tokens that came meanwhile. -/
theorem Issue.resume_chans (x : Issue) (t : Nat) {k : Nat} (hk : k < 8) :
    vget [] (x.resume t).chans k = vget [] x.chans k ++ vget [] x.wave k := by
  simp [Issue.resume, vget, Vector.getD, hk]

theorem Issue.resume_wave (x : Issue) (t k : Nat) : vget [] (x.resume t).wave k = [] := vget_replicate 8 [] k

/-! ### Ingress stops (21 R349; log entry 62) -/

section
variable {s : State} {r : Reach} {n : Nat}

section
variable (hr : s.reach? r.id = some r) (he : r.st = .ebbing)
include hr he

theorem exec_ingressStop_over (hw : s.waveOver r = true) : exec (.ingressStop r.id 0 3) s = .next (s.endWave r) := by
  show execIngressStop r.id 0 3 s = _
  simp [execIngressStop, hr, he, hw]

theorem exec_ingressStop_compute (hb : (s.cell n).island.busy = false) (hi : (s.cset n).iss.reach = r.id) :
    exec (.ingressStop r.id n 0) s = .next (s.ingressC r n) := by
  show execIngressStop r.id n 0 s = _
  simp [execIngressStop, hr, he, hb, hi]

theorem exec_ingressStop_generator (hb : (s.cell n).island.busy = false) (hi : (s.aset n).iss.reach = r.id) :
    exec (.ingressStop r.id n 1) s = .next (s.ingressA r n) := by
  show execIngressStop r.id n 1 s = _
  simp [execIngressStop, hr, he, hb, hi]

theorem exec_ingressStop_memory (hb : (s.cell n).island.busy = false) (hi : (s.mset n).reach = r.id) (hx : (s.mset n).run ≠ .saved) :
    exec (.ingressStop r.id n 2) s = .next (State.stopM (if r.torn then s.clearPorts r else s) r n) := by
  show execIngressStop r.id n 2 s = _
  simp [execIngressStop, hr, he, hb, hi, hx]

end

theorem State.ingressC_waiting (hx : (s.cset n).iss.run = .waiting) :
    s.ingressC r n = s.updIssue n 0 (fun x => { x with run := .saved }) := if_pos hx

/-- A compute tile between two rounds that no marker comes to, or whose tokens are stuck, stops. -/
theorem State.ingressC_stops (hx : (s.cset n).iss.run ≠ .waiting) (hs : (s.cset n).iss.sel = [])
    (h : (s.cset n).iss.fed = 0 ∨ s.waveComes r n = false ∨ ((s.cset n).iss.holdsTokens = true ∧ s.still r = true)) :
    s.ingressC r n = (s.stopC n).settleC n := by
  unfold State.ingressC
  dsimp only
  rw [if_neg hx, if_pos]
  rcases h with h | h | ⟨h, h'⟩ <;> simp [*]

/-- One that a marker comes to, and whose tokens are not stuck, waits for it. -/
theorem State.ingressC_waits (hx : (s.cset n).iss.run ≠ .waiting) (hf : (s.cset n).iss.fed ≠ 0) (hw : s.waveComes r n = true)
    (h : (s.cset n).iss.holdsTokens = false ∨ s.still r = false) : s.ingressC r n = s := by
  unfold State.ingressC
  dsimp only
  rw [if_neg hx, if_neg]
  rcases h with h | h <;> simp [hw, h] <;> exact fun _ => hf

theorem State.ingressA_running (hx : (s.aset n).iss.run = .running) (hs : (s.aset n).iss.sel = []) :
    s.ingressA r n = s.updIssue n 1 Issue.stopNow := by
  simp [State.ingressA, hx, hs, kindA]

end

/-! ### What a wave that is over leads to (05 R126, 24 R363) -/

section
variable {s : State} {r : Reach}

theorem State.endWave_swap {o : Nat} (h : r.ebb = .swap o) : s.endWave r =
    match ((s.swapIn r o).updReach r.id (fun r => { r with st := .saved, ebb := .none })).reach? o with
      | some x => ((s.swapIn r o).updReach r.id (fun r => { r with st := .saved, ebb := .none })).afterSwap x
      | none => (s.swapIn r o).updReach r.id (fun r => { r with st := .saved, ebb := .none }) := by
  rw [State.endWave, h] <;> rfl

/-- A teardown without a signal ends at once, and its reach goes. -/
theorem State.endWave_teardown {reason : Nat} (h : r.ebb = .teardown reason) (hs : r.signal = 0) : s.endWave r =
    ((((((s.lateLeft r).closeDrops r.id).clearSets r).dropReach r).updJob r.job
      (fun b => if b.reachTd = some r.id then { b with reachTd := none } else b)).saveSettle r.job).roomSettle r.job := by
  have hsig : s.signal r.job r.signal false (sigCancelled reason) = (s, true) := if_pos hs
  rw [State.endWave, h]
  show s.tornDown r reason = _
  unfold State.tornDown
  rw [hsig]
  rfl

end

/-! ### The contexts that wait in a CFGSW (05 R126) -/

@[simp] theorem State.updIssueOf_ctx (s : State) (n kind reach : Nat) (f : Issue → Issue) (c : Nat) :
    (s.updIssueOf n kind reach f).ctx c = s.ctx c := by
  unfold State.updIssueOf
  split <;> rfl

/-- A PROGWR that lands lets its own context go on, and no other. -/
theorem State.landWrite_ctx_ne (s : State) {c d : Nat} (h : c ≠ d) (id n k : Nat) (add : Bool) (v : Word) (x : Issue) :
    (s.landWrite d id n k add v x).ctx c = s.ctx c :=
  (State.updCtx_of_ne _ _ h).trans (State.updIssueOf_ctx ..)

theorem State.returnBars_ctx (s : State) (id n c : Nat) : (s.returnBars id n).ctx c = s.ctx c := by
  unfold State.returnBars
  dsimp only
  split <;> rfl

section
variable {c : Nat} {x : Context} {o b : Nat} (hx : x.wait = .cfgsw o b)
include hx

/-- The PROGWR that land with a set leave a context that waits in a CFGSW. -/
theorem State.landWrites_ctx {s : State} (h : s.ctx c = x) (id n : Nat) : (s.landWrites id n).ctx c = x := by
  refine List.foldlRecOn (motive := fun s : State => s.ctx c = x) (List.range 64) _ h (fun s h d _ => ?_)
  split
  next _ _ hw _ =>
    have hcd : c ≠ d := fun e => by rw [← e, h, hx] at hw; cases hw
    split
    · exact (s.landWrite_ctx_ne hcd ..).trans h
    · exact h
  next => exact h

theorem State.resumeCell_ctx {s : State} (h : s.ctx c = x) (id n : Nat) : (s.resumeCell id n).ctx c = x := by
  unfold State.resumeCell
  dsimp only
  apply State.landWrites_ctx hx
  exact (State.returnBars_ctx s id n c).trans h

/-- The end of the wave lets a context blocked in the CFGSW of the reach that leaves go on. -/
theorem State.swapIn_ctx {s : State} {r : Reach} (hc : c < 64) (h : (s.leaveReach r).ctx c = x) (hs : x.st = .blocked) (hb : b = r.id)
    (p : Nat) : (s.swapIn r p).ctx c = x.advance := by
  have hcells : (r.cells.foldl (fun (s : State) n => (s.updCell n Cell.swap).resumeCell p n) (s.leaveReach r)).ctx c = x := by
    refine List.foldlRecOn (motive := fun s : State => s.ctx c = x) r.cells _ h (fun s h n _ => ?_)
    exact State.resumeCell_ctx hx ((State.updCell_ctx s n Cell.swap c).trans h) p n
  unfold State.swapIn
  generalize r.cells.foldl (fun (s : State) n => (s.updCell n Cell.swap).resumeCell p n) (s.leaveReach r) = w at hcells
  refine (vget_map Context.reset _ w.ctxs c).trans ((if_pos hc).trans ?_)
  rw [show vget Context.reset w.ctxs c = x from hcells]
  rw [hx]
  simp [hs, hb]

end

/-! ### SAVE, RESTORE and save images (21 R353 to R355) -/

section
variable {s : State} {job : Nat} {r : Reach}

section
variable (h1 : 1 ≤ job) (h63 : job ≤ 63)
include h1 h63

/-- SAVE pre-empts every running reach of the job outside a gang. -/
theorem exec_save (hr : (s.job job).restoring = false) : exec (.save job) s = .next ((s.reaches.foldl (fun (s : State) r =>
      if r.job = job ∧ r.st = .running ∧ r.gang = none then s.startEbb r .save else s)
      (s.updJob job (fun b => { b with saving := true, everSaved := true }))).saveSettle job) := by
  have hsaves : (fun (s : State) (r : Reach) => if r.toSave job then s.startEbb r .save else s) =
      fun s r => if r.job = job ∧ r.st = .running ∧ r.gang = none then s.startEbb r .save else s := by
    funext s r
    simp [Reach.toSave, and_assoc]
  show execSave job s = _
  unfold execSave
  rw [if_neg (by simp [hr]; omega), hsaves]
  rfl

/-- RESTORE of a job without saved reaches is over. -/
theorem exec_restore_none (hs : (s.job job).saving = false) (h : s.savedReaches job = []) :
    exec (.restore job) s = .next (s.updJob job (fun b => { b with restoring := false })) := by
  show execRestore job s = _
  unfold execRestore
  rw [if_neg (by simp [hs]; omega), h]

/-- RESTORE takes the first saved reach: it waits for the cells of the reach and for the reads of its image. -/
theorem exec_restore_first {m : Image} {rest : List (Image × Reach)} (hs : (s.job job).saving = false) (h : s.savedReaches job = (m, r) :: rest) :
    let u := s.updJob job (fun b => { b with restoring := true })
    exec (.restore job) s = .next (if u.canRestore r = false then u
      else if (u.imageRead m r).2 = true then ((u.imageRead m r).1.restoreReach m r).updJob job (fun b => { b with restoring := !rest.isEmpty })
      else (u.imageRead m r).1) := by
  intro u
  show execRestore job s = _
  unfold execRestore
  rw [if_neg (by simp [hs]; omega), h]
  show (if !u.canRestore r then _ else _) = _
  cases u.canRestore r
  · rfl
  · cases hd : (u.imageRead m r).2 <;> simp [u, hd]

end

section
variable (hr : s.reach? r.id = some r) (hs : s.streams r = true)
include hr hs

theorem exec_saveImageValid_full (hi : s.images.find? (fun m => m.reach == r.id) = none) (ho : s.imageRoom r.job r.imageSize = none) :
    exec (.saveImageValid r.id) s = .next (s.updJob r.job (fun b => { b with savefull := true })) := by
  show execSaveImageValid r.id s = _
  simp [execSaveImageValid, hr, hs, hi, ho]

theorem exec_saveImageValid_room {o : Nat} {u : State} (hi : s.images.find? (fun m => m.reach == r.id) = none)
    (ho : s.imageRoom r.job r.imageSize = some o) (hh : s.imageHeader r o 0 = (u, true)) : exec (.saveImageValid r.id) s =
      .next (State.roomSettle { u with images := u.images ++ [⟨r.id, r.job, o, r.imageSize, [], false⟩] } r.job) := by
  show execSaveImageValid r.id s = _
  simp [execSaveImageValid, hr, hs, hi, ho, hh]

theorem exec_saveImageValid_done {m : Image} {u : State} (hi : s.images.find? (fun m => m.reach == r.id) = some m)
    (hh : s.imageHeader r m.off 1 = (u, true)) : exec (.saveImageValid r.id) s = .next (u.imageDone r) := by
  show execSaveImageValid r.id s = _
  simp [execSaveImageValid, hr, hs, hi, hh]

end
end

/-! ### Teardowns (24 R363 to R367) -/

/-- Two updates of a job are one. -/
theorem State.updJob_updJob (s : State) (j : Nat) {f g k : Job → Job} (h : ∀ b, g (f b) = k b) :
    (s.updJob j f).updJob j g = s.updJob j k := by
  rw [State.updJob, State.job_updJob_self, h]
  simp only [State.updJob, Tbl.set_set]

/-- A write of REACHTD with bit 24 set clears NOREACH first (24 R363). -/
def State.noreachCleared (s : State) (job : Nat) (v : Word) : State :=
  if bitB v 24 then s.updJob job (fun b => { b with noreach := false }) else s

section
variable {s : State} {job : Nat} {v : Word} {r : Reach}

/-- Clearing NOREACH changes neither contexts nor reaches, and a later write of NOREACH covers it. -/
theorem State.noreachCleared_eq (s : State) (job : Nat) (v : Word) :
    (s.noreachCleared job v).ctx = s.ctx ∧ (s.noreachCleared job v).reaches = s.reaches ∧
      ∀ a, (s.noreachCleared job v).updJob job (fun b => { b with noreach := a }) = s.updJob job (fun b => { b with noreach := a }) := by
  unfold State.noreachCleared
  split
  · exact ⟨rfl, rfl, fun a => s.updJob_updJob job (fun _ => rfl)⟩
  · exact ⟨rfl, rfl, fun a => rfl⟩

section
variable (h1 : 1 ≤ job) (h63 : job ≤ 63) (ht : (s.job job).tdBusy = false)
include h1 h63 ht

section
variable (hgo : bitB v 22 = true)
include hgo

/-- REACHTD of a live reach, which no CFGSW holds, tears it down. -/
theorem exec_reachTeardown_live (hst : (s.ctx (bitsN v 16 6)).st ≠ .free) (hj : (s.ctx (bitsN v 16 6)).job = job)
    (hr : ((s.ctx (bitsN v 16 6)).handleReach (BitVec.ofNat 64 (bitsN v 0 16))).bind s.reach? = some r) (hl : r.live = true)
    (hw : s.swapHeld r.id = false) : exec (.reachTeardown job v) s =
      .next ((s.updJob job (fun b => { b with noreach := false, reachTd := some r.id })).tearDown r 4) := by
  obtain ⟨hctx, hreaches, hcovers⟩ := s.noreachCleared_eq job v
  have hfind : (s.noreachCleared job v).reach? = s.reach? := by funext k; rw [State.reach?, hreaches]; rfl
  have hheld : ((s.noreachCleared job v).updJob job (fun b => { b with noreach := false })).swapHeld r.id = false := by
    rw [hcovers]; exact hw
  show execReachTeardown job v s = _
  unfold execReachTeardown
  rw [if_neg (by simp [ht]; omega)]
  dsimp only
  simp only [← State.noreachCleared.eq_1]
  rw [hctx, hfind, hgo, if_neg (by simp), if_neg (by simp [hst, hj]), hr]
  dsimp only
  rw [hl, hheld, if_neg (by simp), if_neg (by simp), hcovers]
  exact congrArg (fun u : State => Host.Outcome.next (u.tearDown r 4)) (s.updJob_updJob job (fun _ => rfl))

/-- REACHTD that names a context of another job finds no reach. -/
theorem exec_reachTeardown_foreign (hj : (s.ctx (bitsN v 16 6)).job ≠ job) :
    exec (.reachTeardown job v) s = .next (s.updJob job (fun b => { b with noreach := true })) := by
  obtain ⟨hctx, -, hcovers⟩ := s.noreachCleared_eq job v
  show execReachTeardown job v s = _
  unfold execReachTeardown
  rw [if_neg (by simp [ht]; omega)]
  dsimp only
  simp only [← State.noreachCleared.eq_1]
  rw [hctx, hgo, if_neg (by simp), if_pos (by simp [hj]), hcovers]

end

/-- QTD stops its queue, discards its seeds and takes its first step. -/
theorem exec_queueTeardown_starts (hgo : bitB v 4 = true) : exec (.queueTeardown job v) s =
    .next (((s.updQueue job (bitsN v 0 4) (fun k => { k with enable := false, seeds := [] })).updJob job (fun b => { b with
      ingress := b.ingress.map (fun g => if g.iqueue = bitsN v 0 4 then { g with heldToks := [] } else g)
      qtd := some (bitsN v 0 4, bitB v 5) })).queueTd job) := by
  have hq : (s.job job).qtd.isSome = false := by
    simp only [Job.tdBusy, Bool.or_eq_false_iff] at ht
    exact ht.2
  show execQueueTeardown job v s = _
  unfold execQueueTeardown
  rw [if_neg (by simp; omega), if_neg (by simp [hq]), if_neg (by simp [ht, hgo])]

end

/-- A queue's teardown ends when no token of the queue is left. -/
theorem State.queueTd_ends {q : Nat} {reset : Bool} (hq : (s.job job).qtd = some (q, reset)) (ht : s.queueTokens job q = []) :
    s.queueTd job = (if reset then s.updQueue job q (fun _ => Queue.reset) else s).updJob job (fun b => { b with qtd := none }) := by
  simp only [State.queueTd, hq, ht, List.find?_nil]

/-- It tears down the live reach of the queue first. -/
theorem State.queueTd_live {q : Nat} {reset : Bool} (hq : (s.job job).qtd = some (q, reset))
    (hf : (s.queueTokens job q).find? Reach.live = some r) (hw : s.swapHeld r.id = false) : s.queueTd job = s.tearDown r 1 := by
  simp [State.queueTd, hq, hf, hw]

theorem exec_queueTeardown_continues (h1 : 1 ≤ job) (h63 : job ≤ 63) (hq : (s.job job).qtd.isSome = true) :
    exec (.queueTeardown job v) s = .next (s.queueTd job) := by
  show execQueueTeardown job v s = _
  unfold execQueueTeardown
  rw [if_neg (by simp; omega), if_pos hq]

/-- A running reach loses its requests, ports and collectives, and an ebb wave starts. -/
theorem State.tearDown_running {reason : Nat} (h : r.st = .running) : s.tearDown r reason =
    (((r.cells.foldl (fun (s : State) n => s.discardReqs n r.id)
      (r.cells.foldl (fun (s : State) n => s.dropSpill n r.id) s)).clearPorts r).abortReach r 2).startEbb r (.teardown reason) := by
  simp only [State.tearDown, h]

/-- A saved or shadowed reach needs no wave. -/
theorem State.tearDown_standing {reason : Nat} (h : r.st = .saved ∨ r.st = .shadowed) : s.tearDown r reason =
    ((r.cells.foldl (fun (s : State) n => s.dropSpill n r.id) s).abortReach r 2).updReach r.id
      (fun r => { r with st := .ebbing, ebb := .teardown reason }) := by
  rcases h with h | h <;> simp only [State.tearDown, h]

end

end Sys2Proof.Machine

open Sys2Proof Sys2Proof.Machine in
/-- Settles O59: the marker, the ingress stops, the end of a wave, SAVE, RESTORE, the save images and the teardowns each by their own
rule. -/
theorem ebbWavesSavesAndTeardowns : Obligations.EbbWavesSavesAndTeardowns := by
  intro s
  refine ⟨?_, ?_, ?_, ?_, ?_, ?_, ?_, ?_, ?_, ?_, ?_, ?_, ?_, ?_, ?_, ?_, ?_, ?_, ?_⟩
  case refine_1 =>
    intro n kind ch sp p u hk ho hm hc hb x w z
    subst hc
    have hi : w.issue n kind = x := State.takeSpot_outPick_issue ho
    have hx := exec_ebbMarker_tile hk ho hm rfl hb
    refine ⟨fun h => ⟨_, hx, State.markerIn_foreign (hi ▸ h)⟩, fun h1 h2 h3 h4 => ⟨_, hx, ?_⟩, fun h1 h2 => ⟨_, hx, ?_⟩⟩
    · exact State.markerIn_behind (by rw [hi]; exact h1) (by rw [hi]; exact h2) (by rw [hi]; exact h3) (by rw [hi]; exact h4)
    · exact State.markerIn_atHead (by rw [hi]; exact h1) (by rw [hi]; exact h2)
  case refine_2 =>
    exact fun n ch sp p u ho hm hc hb hr => ⟨_, exec_ebbMarker_port ho hm hc hb hr, rfl⟩
  case refine_3 => exact fun x => Issue.stopNow_of_runs
  case refine_4 => exact fun x => Issue.saveIf_of_passed
  case refine_5 => exact fun x t k hk => ⟨x.resume_chans t hk, x.resume_wave t k, x.resume_run t⟩
  case refine_6 =>
    intro r n hr he
    refine ⟨fun hw => ⟨_, exec_ingressStop_over hr he hw, rfl⟩, fun hb hi hx => ⟨_, exec_ingressStop_compute hr he hb hi, ?_⟩,
      fun hb hi hx hs h => ⟨_, exec_ingressStop_compute hr he hb hi, ?_⟩,
      fun hb hi hx hf hw h => ⟨_, exec_ingressStop_compute hr he hb hi, ?_⟩,
      fun hb hi hx hs => ⟨_, exec_ingressStop_generator hr he hb hi, ?_⟩,
      fun hb hi hx => ⟨_, exec_ingressStop_memory hr he hb hi hx, rfl⟩⟩
    · exact State.ingressC_waiting hx
    · exact State.ingressC_stops hx hs h
    · exact State.ingressC_waits hx hf hw h
    · exact State.ingressA_running hx hs
  case refine_7 => exact fun r o => State.endWave_swap
  case refine_8 => exact fun r reason => State.endWave_teardown
  case refine_9 =>
    intro r c x b w hc hs hw hb o
    exact State.swapIn_ctx hw hc rfl hs hb o
  case refine_10 => exact fun job h1 h63 _ hr => ⟨_, exec_save h1 h63 hr, rfl⟩
  case refine_11 =>
    intro job h1 h63 hs
    refine ⟨fun h => ⟨_, exec_restore_none h1 h63 hs h, rfl⟩, ?_⟩
    intro m r rest h u
    refine ⟨fun hc => ?_, fun w done hc hw => ?_⟩
    · exact (exec_restore_first h1 h63 hs h).trans (congrArg _ (if_pos hc))
    · refine (exec_restore_first h1 h63 hs h).trans (congrArg _ ((if_neg ?_).trans ?_))
      · simp [u, hc]
      · rw [hw]
  case refine_12 =>
    exact fun r hr hs => ⟨fun hi ho => ⟨_, exec_saveImageValid_full hr hs hi ho, rfl⟩,
      fun o u hi ho hh => ⟨_, exec_saveImageValid_room hr hs hi ho hh, rfl⟩, fun m u hi hh => ⟨_, exec_saveImageValid_done hr hs hi hh, rfl⟩⟩
  case refine_13 =>
    intro job v r h1 h63 ht hgo x hst hj hr hl hw
    have hv : v.toNat % 65536 = bitsN v 0 16 := by simp [bitsN]
    rw [hv] at hr
    exact ⟨_, exec_reachTeardown_live h1 h63 ht hgo hst hj hr hl hw, rfl⟩
  case refine_14 => exact fun job v h1 h63 ht hgo hj => ⟨_, exec_reachTeardown_foreign h1 h63 ht hgo hj, rfl⟩
  case refine_15 => exact fun r reason => State.tearDown_running
  case refine_16 => exact fun r reason h => State.tearDown_standing h
  case refine_17 => exact fun job v h1 h63 ht hgo => ⟨_, exec_queueTeardown_starts h1 h63 ht hgo, rfl⟩
  case refine_18 =>
    exact fun job q reset h1 h63 hq ht => ⟨_, exec_queueTeardown_continues h1 h63 (by rw [hq]; rfl), State.queueTd_ends hq ht⟩
  case refine_19 => exact fun job q reset r => State.queueTd_live

end
